-- ==== Sys2Proof/Word.lean ====
section
/-! DEFINITION. The word types of the JZR-8400 (R3, Table 2.6) and the one shape every sparse table of the model has:
a list of (key, value) pairs with rising keys. -/

namespace Sys2Proof

/-- One byte (R3). -/
abbrev Byte := BitVec 8
/-- A 32-bit thread register or register field (Table 2.6). -/
abbrev W32 := BitVec 32
/-- A 64-bit value: an address, a program counter, a counter. -/
abbrev W64 := BitVec 64
/-- A format tag: an index into the 64-entry format table (R38). -/
abbrev Tag := BitVec 6
/-- A 10-bit operand field of an instruction word (Table 2.3). -/
abbrev Fld := BitVec 10

/-- A sparse table: keys strictly rising, an absent key holds the table's default value. -/
abbrev Tab (α : Type) := List (Nat × α)

end Sys2Proof
end

