-- ==== Sys2Proof/Config.lean ====
section
/-! DEFINITION. What the JZR-8400 fixes as numbers, and the values the spec leaves open. A value the spec leaves open is an
`opaque` constant: nothing in Lean can evaluate it, so a statement proved of the model holds whatever it is. -/

namespace Sys2Proof.Config

/-- Logical cores (R7). -/
def numCores : Nat := 400
/-- Clusters (R10). -/
def numClusters : Nat := 100
/-- Functions: the physical function 0 and virtual functions 1 to 32 (R325). -/
def numFns : Nat := 33
/-- `sys.arch` of the first stepping (Table 0.2): LEVEL 0x01, IMPL 0x840, STEP 0. DESIGN CHOICE (assumption 108). -/
def sysArch : W32 := 0x01840000#32
/-- Pool bytes of a core (R12). -/
def poolBytes : Nat := 2048 * 1024
/-- Pool bytes of one tenant's half (R12, R327). -/
def halfBytes : Nat := 1024 * 1024
/-- Plane save area inside a half (R327). -/
def planeSaveBytes : Nat := 80 * 1024
/-- Scratchpad limit of a core (Table 1.3). -/
def maxScratch : Nat := 1024 * 1024
/-- Accumulator rows of a core (Table 1.3). -/
def maxRows : Nat := 1024
/-- Threads of a core (Table 1.8). -/
def maxThreads : Nat := 8192
/-- Full-service core clock in MHz (Table 1.5). -/
def fullClock : Nat := 2250
/-- Reduced-service core clock in MHz (Table 15.5). -/
def reducedClock : Nat := 1000
/-- Places of the pending-launch pool (R292). -/
def pendingPool : Nat := 4096
/-- Outstanding copies of a core's copy engine (R184). -/
def copyQueue : Nat := 256
/-- Outstanding messages of a core (R364). -/
def msgQueue : Nat := 64
/-- Entries of an array operation queue (R104). -/
def arrayQueue : Nat := 8
/-- Entries of a Bobbin event queue (R352). -/
def eventQueue : Nat := 32
/-- Records of a controller's emission buffer (R216). -/
def emissionBuffer : Nat := 256
/-- Records of a controller's park pool (Table 8.6). -/
def parkPool : Nat := 512
/-- Pending-range registers of a controller (R221). -/
def rangeRegs : Nat := 8
/-- Lines of a group's store buffer (R333). -/
def storeLines : Nat := 64
/-- Tokens the package supplies in a bandwidth period (R340). -/
def periodTokens : Nat := 786432

/-- The free value number `n`: a 64-bit value the spec does not fix. A step that needs one takes the number from the
counter `State.fresh`, which it advances. DESIGN CHOICE (assumption 9). -/
opaque freeWord (n : Nat) : W64
/-- The byte that the read of a record at place `a` of the pod window brings back at draw `n` of the free values: nothing constrains it.
DESIGN CHOICE (assumption 28). -/
opaque podByte (n a : Nat) : Byte
/-- The fixed home hash of a physical line (R139): which slice is its home. DESIGN CHOICE (assumption 107). -/
opaque homeHash (line : Nat) : Nat
/-- The fixed hash of a shading key (R210): it selects the controller and the set. -/
opaque shadeHash (key : W64) : Nat
/-- How far the core cycle counter of a core stands from the package's cycle count (R18: not synchronised). -/
opaque clkSkew (core : Nat) : W64
/-- Where the trap prologue begins: the firmware region lies outside every function's tables (R366). -/
opaque prologuePc : W64
/-- Bytes of the second tier that boot reports as populated (R303). -/
opaque tier2Bytes : Nat
/-- Energy in µJ that firmware charges for the activity of one 10 µs interval: group instructions issued, array cycles, memory accesses,
bytes copied (R299: the coefficients are not architectural). -/
opaque energyCharge (issued array accesses copied : Nat) : Nat
/-- Pseudo-channel of its stack, bank of the channel, and row of the bank in which a line of HBM lies (R340: the spec gives no mapping). -/
opaque dramChannel (line : Nat) : Nat
opaque dramBank (line : Nat) : Nat
opaque dramRow (line : Nat) : Nat
/-- Where an image of Table 15.4 is placed within the firmware region of HBM (R400). -/
opaque firmwareAt (row : Nat) : Nat
/-- SHAKE256 digest of the firmware key, fused at manufacture (R400). -/
opaque fusedKeyDigest : List Byte
/-- Least security version the device accepts (R400). -/
opaque fusedMinVersion : Nat
/-- The 57-byte Ed448 secret of the device identity key (R401). -/
opaque identitySecret : List Byte
/-- Whether a home still has watch capacity for a poll (R266). -/
opaque watchRoom (n : Nat) : Bool
/-- The cluster at whose mesh stop a Bride port attaches (R308: fixed for the package). -/
opaque portCluster (port : Nat) : Nat
/-- The stack that a 1 KiB unit of HBM lies in (R14: a fixed hash). -/
opaque stackOf (unit : Nat) : Nat
/-- Which victim a full directory or filter set evicts (R312), or a device choice among `n` equals. -/
opaque choice (n : Nat) : Nat

end Sys2Proof.Config
end

