-- ==== Sys2Proof/Machine/Maps.lean ====
section
/-! DEFINITION. Sparse tables (`Tab`): look-up, insertion in key order, removal. -/

namespace Sys2Proof

variable {α : Type}

/-- The value at key `k`, if the table lists one. -/
def tget? : Tab α → Nat → Option α
  | [], _ => none
  | (j, v) :: m, k => if j = k then some v else tget? m k

/-- The value at key `k`, or the default `z`. -/
def tgetD (m : Tab α) (k : Nat) (z : α) : α := (tget? m k).getD z

/-- Writes the value at key `k`, keeping the keys strictly rising. -/
def tset : Tab α → Nat → α → Tab α
  | [], k, v => [(k, v)]
  | (j, x) :: m, k, v =>
    if k < j then (k, v) :: (j, x) :: m
    else if k = j then (k, v) :: m
    else (j, x) :: tset m k v

/-- Removes key `k`. -/
def terase : Tab α → Nat → Tab α
  | [], _ => []
  | (j, x) :: m, k => if j = k then m else (j, x) :: terase m k

/-- Applies `f` at key `k` if the table lists it. -/
def tmod (m : Tab α) (k : Nat) (f : α → α) : Tab α :=
  match tget? m k with
  | some v => tset m k (f v)
  | none => m

/-- The values, in key order. -/
def tvals (m : Tab α) : List α := m.map Prod.snd

/-- The keys, in rising order. -/
def tkeys (m : Tab α) : List Nat := m.map Prod.fst

/-- The least key not listed, counting up from `k`. -/
def tfreshFrom : Tab α → Nat → Nat
  | [], k => k
  | (j, _) :: m, k => if j = k then tfreshFrom m (k + 1) else if j < k then tfreshFrom m k else k

/-- Keys strictly rising from above `lo`: the canonical form of a table. -/
def tsortedFrom : Nat → Tab α → Bool
  | _, [] => true
  | lo, (k, _) :: m => decide (lo ≤ k) && tsortedFrom (k + 1) m

/-- The canonical form of a table: keys strictly rising. -/
def tsorted (m : Tab α) : Bool := tsortedFrom 0 m

/-- The `n` natural numbers from `s` upwards. -/
def spanN (s : Nat) : Nat → List Nat
  | 0 => []
  | n + 1 => s :: spanN (s + 1) n

/-- The natural numbers `0 … n−1`. -/
def upTo (n : Nat) : List Nat := spanN 0 n

/-- Runs `f` over the list from the left, stopping at the first error. -/
def foldE {σ ε : Type} (f : σ → α → Except ε σ) : σ → List α → Except ε σ
  | s, [] => .ok s
  | s, x :: xs => match f s x with
    | .ok t => foldE f t xs
    | .error e => .error e

/-- Maps `f` over the list, stopping at the first error. -/
def mapE {β ε : Type} (f : α → Except ε β) : List α → Except ε (List β)
  | [] => .ok []
  | x :: xs => match f x with
    | .ok y => match mapE f xs with
      | .ok ys => .ok (y :: ys)
      | .error e => .error e
    | .error e => .error e

/-- The list without repeats, the first occurrence of each kept. -/
def dedup' [DecidableEq α] : List α → List α
  | [] => []
  | x :: xs => x :: (dedup' xs).filter (fun y => decide (y ≠ x))

end Sys2Proof
end

