-- ==== Sys2Proof/Syntax.lean ====
section
/-! DEFINITION. The syntax of every operation of spec/opcode_table.json: `Instr` has one constructor per row. A Thrum instruction
(R31) carries the fields of its word; a Bobbin instruction (Table 13.5, R345) carries its decoded fields; an event of the
device carries the numbers that say which queue, launch, core, line or pending operation it concerns. -/

namespace Sys2Proof

/-- The fields of a 96-bit instruction word below OP (Table 2.3). EXT is the literal or the extension word (R34). -/
structure TWord where
  d   : Fld
  a   : Fld
  b   : Fld
  c   : Fld
  pn  : Bool
  pi  : BitVec 3
  fe  : Bool
  fs  : Bool
  md  : Byte
  ext : W32
deriving DecidableEq, Repr

/-- Register-register and register-immediate operations of RV32I, and the M extension (R345). -/
inductive RvAlu where
  | add | sub | sll | slt | sltu | xor | srl | sra | or | and
  | mul | mulh | mulhsu | mulhu | div | divu | rem | remu
deriving DecidableEq, Repr

/-- Branch conditions of RV32I. -/
inductive RvCond where
  | eq | ne | lt | ge | ltu | geu
deriving DecidableEq, Repr

/-- Load widths of RV32I. -/
inductive RvLoad where
  | lb | lh | lw | lbu | lhu
deriving DecidableEq, Repr

/-- Store widths of RV32I. -/
inductive RvStore where
  | sb | sh | sw
deriving DecidableEq, Repr

/-- CSR operations of Zicsr. -/
inductive RvCsr where
  | rw | rs | rc
deriving DecidableEq, Repr

/-- The compressed instructions of RV32C, their immediates unscrambled into the value the field holds (bit 0 is the least
significant stored bit of the immediate). A three-bit register field names x8 to x15. -/
inductive RvC where
  | addi4spn (rd : BitVec 3) (imm : BitVec 8)
  | lw (rd rs1 : BitVec 3) (imm : BitVec 5)
  | sw (rs2 rs1 : BitVec 3) (imm : BitVec 5)
  | addi (rd : BitVec 5) (imm : BitVec 6)
  | jal (imm : BitVec 11)
  | li (rd : BitVec 5) (imm : BitVec 6)
  | addi16sp (imm : BitVec 6)
  | lui (rd : BitVec 5) (imm : BitVec 6)
  | srli (rd : BitVec 3) (sh : BitVec 5)
  | srai (rd : BitVec 3) (sh : BitVec 5)
  | andi (rd : BitVec 3) (imm : BitVec 6)
  | alu (op : BitVec 2) (rd rs2 : BitVec 3)
  | j (imm : BitVec 11)
  | beqz (rs1 : BitVec 3) (imm : BitVec 8)
  | bnez (rs1 : BitVec 3) (imm : BitVec 8)
  | slli (rd : BitVec 5) (sh : BitVec 5)
  | lwsp (rd : BitVec 5) (imm : BitVec 6)
  | jr (rs1 : BitVec 5)
  | mv (rd rs2 : BitVec 5)
  | ebreak
  | jalr (rs1 : BitVec 5)
  | add (rd rs2 : BitVec 5)
  | swsp (rs2 : BitVec 5) (imm : BitVec 6)
deriving DecidableEq, Repr

/-- An instruction of RV32IMC with Zicsr as a Bobbin core reads it (R345). An encoding that is illegal in user mode is an
instruction too: it aborts the invocation (Table 13.9). -/
inductive RvInstr where
  | lui (rd : BitVec 5) (imm : BitVec 20)
  | auipc (rd : BitVec 5) (imm : BitVec 20)
  | jal (rd : BitVec 5) (imm : BitVec 20)
  | jalr (rd rs1 : BitVec 5) (imm : BitVec 12)
  | branch (c : RvCond) (rs1 rs2 : BitVec 5) (imm : BitVec 12)
  | load (w : RvLoad) (rd rs1 : BitVec 5) (imm : BitVec 12)
  | store (w : RvStore) (rs2 rs1 : BitVec 5) (imm : BitVec 12)
  | opImm (op : RvAlu) (rd rs1 : BitVec 5) (imm : BitVec 12)
  | op (op : RvAlu) (rd rs1 rs2 : BitVec 5)
  | fence (fm pred succ : BitVec 4) (rs1 rd : BitVec 5)
  | ecall
  | ebreak
  | csr (op : RvCsr) (imm : Bool) (rd src : BitVec 5) (num : BitVec 12)
  | compressed (c : RvC)
  | illegal (w : W32)
  | illegalC (h : BitVec 16)
deriving DecidableEq, Repr

/-- A firmware image as the host loads it (R400, Table 15.4): row 0 to 4 of the table, key, signature, body and version. -/
structure FwImage where
  row     : Nat
  key     : List Byte
  sig     : List Byte
  body    : List Byte
  version : Nat
deriving DecidableEq, Repr

/-- What a request that arrives at a Bride port asks for (R322): a read, a write of bytes, a read-modify-write of Table 7.4, a
compare and swap, or the decrement of a signal. -/
inductive RemoteOp where
  | read (n : Nat)
  | write (bytes : List Byte) (bad : Bool)
  | red (max : Bool) (tag : Nat) (bytes : List Byte) (bad : Bool)
  | rmw (opc : Nat) (operand : W64) (noReturn : Bool)
  | cas (wide : Bool) (compare new : W64)
  | sigdec (amount : W32)
deriving DecidableEq, Repr

/-- A request of another device of the pod: the window offset and what it asks for. -/
structure RemoteReq where
  off : Nat
  op  : RemoteOp
deriving DecidableEq, Repr

/-- A unit that the in-field self-test covers (Table 15.1 place 10). -/
inductive UnitName where
  | core (c : Nat)
  | clusterUnit (k : Nat)
  | controller (i : Nat)
deriving DecidableEq, Repr

/-- The operations of the device: one constructor per row of spec/opcode_table.json. -/
inductive Instr where
  /-- `add` (R80): Adds A and B as integers, wrapping or saturating, signed or unsigned. -/
  | add (w : TWord)
  /-- `sub` (R80): Subtracts B from A as integers, wrapping or saturating. -/
  | sub (w : TWord)
  /-- `mul` (R80): Multiplies A by B and keeps the low 32 bits, or saturates the product. -/
  | mul (w : TWord)
  /-- `mulhi` (R80): Writes bits 63:32 of the 64-bit product of A and B. -/
  | mulhi (w : TWord)
  /-- `mad` (R80): Computes A times B plus C at 32 bits. -/
  | mad (w : TWord)
  /-- `mulw` (R80): Writes the exact 64-bit product of A and B to a register pair. -/
  | mulw (w : TWord)
  /-- `madw` (R80): Computes A times B plus the pair C at 64 bits into a pair. -/
  | madw (w : TWord)
  /-- `addc` (R81): Adds with carry-in and writes the carry-out predicate. -/
  | addc (w : TWord)
  /-- `subc` (R81): Subtracts with borrow through the carry predicates. -/
  | subc (w : TWord)
  /-- `min` (R80): Writes the lesser of A and B, signed or unsigned. -/
  | min (w : TWord)
  /-- `max` (R80): Writes the greater of A and B, signed or unsigned. -/
  | max (w : TWord)
  /-- `abs` (R80): Writes the absolute value of A, optionally saturated. -/
  | abs (w : TWord)
  /-- `neg` (R80): Writes 0 minus A, optionally saturated. -/
  | neg (w : TWord)
  /-- `cmp` (R82): Compares A and B under a condition and writes a predicate. -/
  | cmp (w : TWord)
  /-- `sel` (R82): Selects A or B by a predicate without checking tags. -/
  | sel (w : TWord)
  /-- `and` (R83): Bitwise AND of A and B. -/
  | and (w : TWord)
  /-- `or` (R83): Bitwise OR of A and B. -/
  | or (w : TWord)
  /-- `xor` (R83): Bitwise XOR of A and B. -/
  | xor (w : TWord)
  /-- `not` (R83): Bitwise complement of A. -/
  | not (w : TWord)
  /-- `lop3` (R84): Applies an 8-bit truth table to three registers bit by bit. -/
  | lop3 (w : TWord)
  /-- `shl` (R85): Shifts A left by B, with optional wrap of the amount. -/
  | shl (w : TWord)
  /-- `shr` (R85): Shifts A right logically or arithmetically by B. -/
  | shr (w : TWord)
  /-- `fsh` (R85): Funnel shift of the 64-bit value B:A by C. -/
  | fsh (w : TWord)
  /-- `bfe` (R86): Extracts a bit field of A, zero- or sign-extended. -/
  | bfe (w : TWord)
  /-- `bfi` (R86): Inserts the low bits of A into a field of B. -/
  | bfi (w : TWord)
  /-- `popc` (R83): Counts the ones in A. -/
  | popc (w : TWord)
  /-- `clz` (R83): Counts leading zeros of A. -/
  | clz (w : TWord)
  /-- `ctz` (R83): Counts trailing zeros of A. -/
  | ctz (w : TWord)
  /-- `brev` (R83): Reverses the bit order of A. -/
  | brev (w : TWord)
  /-- `mov` (R87): Copies A to D with its own tag or a named tag. -/
  | mov (w : TWord)
  /-- `plop` (R84): Applies a truth table to three predicates and writes a predicate. -/
  | plop (w : TWord)
  /-- `p2r` (R88): Packs predicates p0-p7 into a register. -/
  | p2r (w : TWord)
  /-- `r2p` (R88): Writes masked bits of A into predicates p0-p6. -/
  | r2p (w : TWord)
  /-- `fadd` (R89): FP32 addition with rounding, NaN handling and optional saturation. -/
  | fadd (w : TWord)
  /-- `fsub` (R89): FP32 subtraction. -/
  | fsub (w : TWord)
  /-- `fmul` (R89): FP32 multiplication. -/
  | fmul (w : TWord)
  /-- `ffma` (R89): FP32 fused multiply-add with one rounding. -/
  | ffma (w : TWord)
  /-- `fmin` (R90): FP32 IEEE minimum or minimumNumber. -/
  | fmin (w : TWord)
  /-- `fmax` (R90): FP32 IEEE maximum or maximumNumber. -/
  | fmax (w : TWord)
  /-- `fcmp` (R91): Quiet FP32 comparison writing a predicate. -/
  | fcmp (w : TWord)
  /-- `cvt` (R92): Converts one value between integer, FP32, FP16 and BF16 kinds. -/
  | cvt (w : TWord)
  /-- `cvtn.pack` (R93): Rounds four or eight FP32 values into a narrow-format register. -/
  | cvtnPack (w : TWord)
  /-- `cvtn.unpack` (R93): Expands four narrow elements into a quad of FP32. -/
  | cvtnUnpack (w : TWord)
  /-- `settag` (R94): Copies bits of A to D under a new tag. -/
  | settag (w : TWord)
  /-- `gettag` (R94): Writes the tag of A as a U32 value. -/
  | gettag (w : TWord)
  /-- `frcp` (R95): Correctly rounded FP32 reciprocal. -/
  | frcp (w : TWord)
  /-- `frsqrt` (R95): FP32 reciprocal square root rounded RNE. -/
  | frsqrt (w : TWord)
  /-- `fsqrt` (R95): Correctly rounded FP32 square root. -/
  | fsqrt (w : TWord)
  /-- `fexp2` (R95): FP32 base-2 exponential rounded RNE. -/
  | fexp2 (w : TWord)
  /-- `flog2` (R95): FP32 base-2 logarithm rounded RNE. -/
  | flog2 (w : TWord)
  /-- `fsin` (R95): FP32 sine rounded RNE. -/
  | fsin (w : TWord)
  /-- `fcos` (R95): FP32 cosine rounded RNE. -/
  | fcos (w : TWord)
  /-- `hadd2` (R96): Packed two-element F16 or BF16 addition. -/
  | hadd2 (w : TWord)
  /-- `hsub2` (R96): Packed two-element subtraction. -/
  | hsub2 (w : TWord)
  /-- `hmul2` (R96): Packed two-element multiplication. -/
  | hmul2 (w : TWord)
  /-- `hfma2` (R96): Packed two-element fused multiply-add. -/
  | hfma2 (w : TWord)
  /-- `hmin2` (R96): Packed two-element minimum. -/
  | hmin2 (w : TWord)
  /-- `hmax2` (R96): Packed two-element maximum. -/
  | hmax2 (w : TWord)
  /-- `dp4a` (R97): Four-way 8-bit dot product accumulated into a 32-bit integer. -/
  | dp4a (w : TWord)
  /-- `dp2bf` (R98): Two-way BF16 dot product plus FP32, rounded once. -/
  | dp2bf (w : TWord)
  /-- `dadd` (R99): FP64 addition on register pairs. -/
  | dadd (w : TWord)
  /-- `dsub` (R99): FP64 subtraction. -/
  | dsub (w : TWord)
  /-- `dmul` (R99): FP64 multiplication. -/
  | dmul (w : TWord)
  /-- `dfma` (R99): FP64 fused multiply-add. -/
  | dfma (w : TWord)
  /-- `dmin` (R99): FP64 minimum. -/
  | dmin (w : TWord)
  /-- `dmax` (R99): FP64 maximum. -/
  | dmax (w : TWord)
  /-- `dcmp` (R99): FP64 comparison writing a predicate. -/
  | dcmp (w : TWord)
  /-- `dcvt` (R100): Converts between FP64 and I32, U32 or F32. -/
  | dcvt (w : TWord)
  /-- `shfl` (R254): Pulls a value from another lane of the segment. -/
  | shfl (w : TWord)
  /-- `push` (R255): Sends a value to a target lane of the segment. -/
  | push (w : TWord)
  /-- `vote` (R256): Combines a predicate across participants: all, any, ballot or uniform. -/
  | vote (w : TWord)
  /-- `match` (R257): Writes the mask of participants holding an equal value. -/
  | matchOp (w : TWord)
  /-- `xred` (R258): Reduces A over the segment's participants as a tree. -/
  | xred (w : TWord)
  /-- `xscan` (R258): Inclusive or exclusive scan of A over the participants. -/
  | xscan (w : TWord)
  /-- `nop` (R43): Does nothing. -/
  | nop (w : TWord)
  /-- `bra` (R262): Relative branch taken by threads whose guard is true. -/
  | bra (w : TWord)
  /-- `brx` (R262): Indirect branch to the program counter in each thread's pair. -/
  | brx (w : TWord)
  /-- `call` (R263): Writes the return pair and branches to a relative target. -/
  | call (w : TWord)
  /-- `call.ind` (R263): Writes the return pair and branches to a register target. -/
  | callInd (w : TWord)
  /-- `ret` (R262): Returns to the program counter in each thread's pair. -/
  | ret (w : TWord)
  /-- `reform` (R264): Files threads into a bin keyed by workgroup and next program counter. -/
  | reform (w : TWord)
  /-- `yield` (R265): Moves the group to the pending set with a fresh stamp. -/
  | yield (w : TWord)
  /-- `poll` (R266): Acquire load that sets a watch and parks the group until a write or timeout. -/
  | poll (w : TWord)
  /-- `sleep` (R267): Parks the group until a wake time. -/
  | sleep (w : TWord)
  /-- `region` (R268): Ends the current idempotent region and begins a new one. -/
  | region (w : TWord)
  /-- `exit` (R269): Ends each thread whose guard is true. -/
  | exit (w : TWord)
  /-- `trap` (R270): Raises a software trap with an 8-bit code. -/
  | trap (w : TWord)
  /-- `bkpt` (R270): Raises the breakpoint trap when debug is enabled. -/
  | bkpt (w : TWord)
  /-- `ld` (R175): Issues a global load of 1 to 16 bytes with an ordering. -/
  | ld (w : TWord)
  /-- `st` (R176): Issues a global store of 1 to 16 bytes with an ordering. -/
  | st (w : TWord)
  /-- `lds` (R175): Issues a scratchpad load. -/
  | lds (w : TWord)
  /-- `sts` (R176): Issues a scratchpad store. -/
  | sts (w : TWord)
  /-- `pf` (R177): Prefetch hint to the L1, home slice or memory-side cache. -/
  | pf (w : TWord)
  /-- `evict` (R177): Eviction or low-retention hint for a line. -/
  | evict (w : TWord)
  /-- `atom` (R179): Global read-modify-write returning the old value. -/
  | atom (w : TWord)
  /-- `atomn` (R180): Global read-modify-write without a result. -/
  | atomn (w : TWord)
  /-- `cas` (R181): Global compare and swap. -/
  | cas (w : TWord)
  /-- `atoms` (R179): Scratchpad read-modify-write at its bank. -/
  | atoms (w : TWord)
  /-- `cass` (R181): Scratchpad compare and swap. -/
  | cass (w : TWord)
  /-- `fence` (R182): Acquire, release or seq_cst fence. -/
  | fence (w : TWord)
  /-- `acp` (R190): Issues an asynchronous byte copy to the copy engine. -/
  | acp (w : TWord)
  /-- `tcp` (R196): Issues a tensor box load into scratchpad. -/
  | tcp (w : TWord)
  /-- `tmc` (R197): Issues a tensor box load multicast to peers of a sub-rectangle. -/
  | tmc (w : TWord)
  /-- `tsf` (R198): Issues this core's slice of a sliced tensor fetch to all peers. -/
  | tsf (w : TWord)
  /-- `tst` (R199): Issues a tensor box store from scratchpad. -/
  | tst (w : TWord)
  /-- `trst` (R200): Issues a reducing tensor store of add or max. -/
  | trst (w : TWord)
  /-- `rcp` (R191): Issues a global copy that decrements a signal when done. -/
  | rcp (w : TWord)
  /-- `pinit` (R202): Initialises a picot's phase and counts. -/
  | pinit (w : TWord)
  /-- `parr` (R203): Adds one arrival to a picot as a release. -/
  | parr (w : TWord)
  /-- `parrb` (R203): Adds an arrival and expected bytes to a picot. -/
  | parrb (w : TWord)
  /-- `pwait` (R204): Waits until the picot phase differs from the given one. -/
  | pwait (w : TWord)
  /-- `ptest` (R204): Tests the picot phase into a predicate. -/
  | ptest (w : TWord)
  /-- `cinit` (R123): Arms a convergence register with a member count. -/
  | cinit (w : TWord)
  /-- `mjoin` (R124): Signature of an empty array operation used as a join. -/
  | mjoin (w : TWord)
  /-- `mld` (R125): Signature of a load of the shadow plane from scratchpad. -/
  | mld (w : TWord)
  /-- `mldq` (R126): Signature of a shadow-plane load expanded from 4-bit weights. -/
  | mldq (w : TWord)
  /-- `mswap` (R127): Signature of an exchange of active and shadow planes. -/
  | mswap (w : TWord)
  /-- `mstream` (R128): Signature of a stream of activation rows through the active plane. -/
  | mstream (w : TWord)
  /-- `mdrain` (R132): Signature of an epilogue and conversion of rows into scratchpad. -/
  | mdrain (w : TWord)
  /-- `mzero` (R134): Signature of clearing accumulator rows. -/
  | mzero (w : TWord)
  /-- `mrow.st` (R134): Signature of a raw copy of rows to scratchpad. -/
  | mrowSt (w : TWord)
  /-- `mrow.ld` (R134): Signature of a raw copy of scratchpad into rows. -/
  | mrowLd (w : TWord)
  /-- `rast` (R227): Rasterises a primitive batch over one screen tile into samples and keys. -/
  | rast (w : TWord)
  /-- `trav` (R232): Resumes a tree traversal query until a leaf, accept, limit or done. -/
  | trav (w : TWord)
  /-- `shq` (R213): Resolves a shading key and probes its entry at the controller. -/
  | shq (w : TWord)
  /-- `shpark` (R218): Parks a continuation on an in-flight entry or fails. -/
  | shpark (w : TWord)
  /-- `shfill` (R219): Makes an in-flight entry valid and releases parked waiters. -/
  | shfill (w : TWord)
  /-- `shfill.drop` (R219): Abandons an in-flight entry and releases waiters with MISS. -/
  | shfillDrop (w : TWord)
  /-- `shinv` (R221): Invalidates shading entries of an object range. -/
  | shinv (w : TWord)
  /-- `shtick` (R222): Advances the frame counter at every controller. -/
  | shtick (w : TWord)
  /-- `launch` (R295): Places a child packet in the pending-launch pool. -/
  | launch (w : TWord)
  /-- `tdone` (R296): Marks the current Tatting task complete for the thread. -/
  | tdone (w : TWord)
  /-- `sigdec` (R297): Release decrement of a 64-bit signal. -/
  | sigdec (w : TWord)
  /-- `role` (R298): Writes the thread's role word. -/
  | role (w : TWord)
  /-- `sysr` (R387): Reads a system register. -/
  | sysr (w : TWord)
  /-- `sysw` (R388): Writes a system register. -/
  | sysw (w : TWord)
  /-- `ldfmt` (R101): Loads a format-table entry from a descriptor. -/
  | ldfmt (w : TWord)
  /-- `ldfmt.clr` (R101): Makes a format-table entry empty. -/
  | ldfmtClr (w : TWord)
  /-- `ldovf` (R102): Loads the workgroup's overflow table. -/
  | ldovf (w : TWord)
  /-- `xsync` (R321): Waits for earlier accesses and translates later ones afresh. -/
  | xsync (w : TWord)
  /-- `splinter` (R314): Replaces a large leaf by a table of smaller leaves. -/
  | splinter (w : TWord)
  /-- `migrate` (R315): Moves a 64 KiB page to a new frame under load. -/
  | migrate (w : TWord)
  /-- `ctrr` (R390): Reads a per-core, per-tenant counter. -/
  | ctrr (w : TWord)
  /-- `tret` (R391): Returns threads from the trap prologue. -/
  | tret (w : TWord)
  /-- `bmsg` (R364): Sends a 32-byte message to a cluster's Bobbin core. -/
  | bmsg (w : TWord)
  /-- `lnrd` (R355): Reads a 64-byte line at its home into a line buffer. -/
  | lnrd (b : BitVec 3) (rs2 rs1 rd : BitVec 5)
  /-- `lnwr` (R356): Writes masked bytes of a line buffer to a line at its home. -/
  | lnwr (b : BitVec 3) (rs2 rs1 rd : BitVec 5)
  /-- `lnpf` (R357): Prefetches a line to its home slice or memory-side cache. -/
  | lnpf (lvl : BitVec 1) (rs2 rs1 rd : BitVec 5)
  /-- `lsq` (R358): Returns the lease state of a line at its home. -/
  | lsq (rs2 rs1 rd : BitVec 5)
  /-- `mrep` (R359): Sends a line buffer's first 16 bytes as the message reply. -/
  | mrep (b : BitVec 3) (rd : BitVec 5)
  /-- `hfin` (R359): Ends the handler invocation and runs the default action. -/
  | hfin
  /-- `BOBBIN_BASE_INSTRUCTION` (R345): Executes an RV32IMC or Zicsr instruction in user mode, aborting on illegal ones. -/
  | bobbinBase (i : RvInstr)
  /-- DEVICE_RESET (R18): Resets the device, clearing counters, planes and registers. -/
  | deviceReset
  /-- FIRMWARE_IMAGE_LOAD (R400): Boot ROM checks a loaded firmware image's key, signature and version. -/
  | firmwareImageLoad (img : FwImage)
  /-- FULL_SERVICE_ENTRY (R402): Moves the device from reduced to full service after training and self-test. -/
  | fullServiceEntry
  /-- CLOCK_STEP (R19): Lowers or raises the core clock by 25 MHz to hold power and temperature. -/
  | clockStep (up : Bool)
  /-- THERMAL_SHUTDOWN (R403): Stops every clock and holds reset when a junction reaches 110 °C. -/
  | thermalShutdown
  /-- ATTESTATION_REQUEST (R401): Produces a signed attestation report for the requesting function. -/
  | attestationRequest (fn : Nat) (nonce : List Byte)
  /-- REGISTER_WRITE (R5): Writes a memory-mapped register field that has no behaviour of its own. -/
  | registerWrite (view fn off : Nat) (wide : Bool) (val : W64)
  /-- QNOTIFY_WRITE (R273): Makes ring entries up to the written index available to the front end. -/
  | qnotifyWrite (fn q : Nat) (val : W32)
  /-- QUEUE_ENABLE (R272): Writes EN 1, checking the queue fields and for a pool its record and lease. -/
  | queueEnable (fn q : Nat)
  /-- QUEUE_DESTROY_DRAIN (R301): Destroys a queue, letting committed launches run to their end. -/
  | queueDestroyDrain (fn q : Nat)
  /-- QUEUE_DESTROY_KILL (R301): Destroys a queue, ending committed launches with KILLED. -/
  | queueDestroyKill (fn q : Nat)
  /-- RING_ENTRY_READ (R274): Front end reads the next available ring entry as an acquire. -/
  | ringEntryRead (fn q : Nat)
  /-- WAIT_PACKET_SATISFIED (R275): Completes a WAIT packet when its watched signal meets the threshold. -/
  | waitPacketSatisfied (fn q : Nat)
  /-- RESIDENCY_LEASE_GRANT (R283): Obtains the residency lease for a launch's ranges. -/
  | residencyLeaseGrant (l : Nat)
  /-- RESERVATION (R280): Leaf checks its cores and holds resources for a packet, answering yes or no. -/
  | reservation (l leaf : Nat)
  /-- RESERVATION_ANSWER (R280): Scheduler receives a leaf's answer and commits or cancels when all are in. -/
  | reservationAnswer (l leaf : Nat)
  /-- RESERVATION_TIMEOUT (R280): Cancels a packet whose reservation stands unanswered for 2 µs. -/
  | reservationTimeout (l : Nat)
  /-- COMMIT (R280): Leaf starts the reserved workgroups and QRD advances. -/
  | commit (l leaf : Nat)
  /-- CANCEL (R280): Leaf releases the resources held for a cancelled packet. -/
  | cancel (l leaf : Nat)
  /-- RESOURCES_FREED (R280): Leaf reports freed resources and the scheduler retries waiting packets. -/
  | resourcesFreed (leaf : Nat)
  /-- RESERVATION_STARVATION (R280): After 100 µs of waiting, blocks overlapping lower-priority commits. -/
  | reservationStarvation (l : Nat)
  /-- CONTINUATION_RECORD_FILE (R285): Files a continuation record of a pool into a bin by program counter. -/
  | continuationRecordFile (fn q : Nat)
  /-- POOL_AGED_DRAW (R285): A pool bin whose oldest record has aged past the threshold draws a workgroup. -/
  | poolAgedDraw (fn q bin core : Nat)
  /-- TASK_DISPATCH (R288): Leaf gives a ready task to an idle Tatting workgroup. -/
  | taskDispatch (core wg task : Nat)
  /-- LAUNCH_COMPLETION (R291): Ends the lease, writes CREC, decrements SIG, raises IRQ and moves children. -/
  | launchCompletion (l : Nat)
  /-- DEFERRED_PACKET_MOVE (R293): Writes a deferred child packet into its device queue when an entry frees. -/
  | deferredPacketMove (id : Nat)
  /-- ENERGY_CHARGE (R299): Converts activity counters to energy and charges queues every 10 µs. -/
  | energyCharge
  /-- ENERGY_PERIOD (R300): Refills queue energy budgets each 1 ms and resumes halted work. -/
  | energyPeriod
  /-- HALT (R374): Stops target groups and discards uncommitted regions. -/
  | halt (req : Nat)
  /-- CONTEXT_SAVE (R375): Writes a workgroup's context image once its operations have settled. -/
  | contextSave (core wg : Nat)
  /-- CONTEXT_REENTRY (R383): Checks an image and re-enters its workgroup on a core with room. -/
  | contextReentry (fn idx core : Nat)
  /-- FREEZE (R382): Stops dispatch and saves every resident workgroup of the function. -/
  | freeze (fn : Nat)
  /-- THAW (R382): Re-enters every saved image of the function and resumes dispatch. -/
  | thaw (fn : Nat)
  /-- DEBUG_RESUME (R368): Resumes a debug-halted launch, retrying or skipping the instruction. -/
  | debugResume (fn : Nat)
  /-- DEBUG_END (R368): Ends a debug-halted launch's task. -/
  | debugEnd (fn : Nat)
  /-- TASK_END (R369): Leaf ends the task of a task-ending fault. -/
  | taskEnd (l : Nat)
  /-- WATCHDOG (R372): Ends a launch whose running time reaches WDOG. -/
  | watchdog (l : Nat)
  /-- OWNERSHIP_RETURN_TIMEOUT (R385): Declares dead an L1 that does not return an owned line in 10 µs and scrubs it. -/
  | ownershipReturnTimeout (line : Nat)
  /-- INVALIDATION_ACK_TIMEOUT (R385): Declares dead a translation agent that does not acknowledge in 100 µs. -/
  | invalidationAckTimeout (line agent : Nat)
  /-- BOBBIN_OVERRUN (R385): Declares dead a Bobbin core whose invocation runs 10 µs past its budget. -/
  | bobbinOverrun (k : Nat)
  /-- VECTOR_SLICE_END (R331): Ends a tenant's vector slice and halts its groups for the other tenant. -/
  | vectorSliceEnd (core : Nat)
  /-- SLICE_IDLE_END (R331): Ends a slice early when its holder has had no ready work for 2 µs. -/
  | sliceIdleEnd (core : Nat) (matrix : Bool)
  /-- MATRIX_SLICE_SWITCH (R331): Switches the array between tenants, saving and restoring planes. -/
  | matrixSliceSwitch (core : Nat)
  /-- SPINNER_DISPLACEMENT (R339): Displaces a spinning workgroup after a displaced one has waited 1 ms. -/
  | spinnerDisplacement (core wg : Nat)
  /-- BANDWIDTH_PERIOD (R341): Refills bucket balances and divides the pool at each period boundary. -/
  | bandwidthPeriod
  /-- PORT_THROTTLE_UPDATE (R342): A mesh port learns a tenant's balance crossed zero and holds or releases requests. -/
  | portThrottleUpdate (fn core : Nat)
  /-- FUNCTION_LEVEL_RESET (R344): Resets one function, ending its work and clearing its registers. -/
  | functionLevelReset (fn : Nat)
  /-- PROMOTION (R246): Promotes the longest-ready pending group into a free active place. -/
  | promotion (core quad : Nat)
  /-- ROTATION (R246): Every 256 cycles swaps the longest-active group for the longest-ready pending one. -/
  | rotation (core quad : Nat)
  /-- SCOREBOARD_DEMOTION (R244): Moves a group stalled on the scoreboard for 32 cycles to the pending set. -/
  | scoreboardDemotion (core grp : Nat)
  /-- BIN_AGED_DRAW (R242): Draws a group when a bin's oldest entry reaches the age threshold. -/
  | binAgedDraw (core quad bin : Nat)
  /-- SLEEP_WAKE (R267): Makes a sleeping group ready at its wake time. -/
  | sleepWake (core grp : Nat)
  /-- POLL_TIMEOUT (R266): Makes a polling group ready when its timeout ends. -/
  | pollTimeout (core grp : Nat)
  /-- POLL_SPURIOUS_WAKE (R266): Wakes a polling group spuriously. -/
  | pollSpuriousWake (core grp : Nat)
  /-- LOAD_RETURN (R175): Writes a load's data to its destination and completes it. -/
  | loadReturn (id : Nat)
  /-- READ_LEASE_REQUEST (R141): Home answers a tracked read miss with data and a lease expiry. -/
  | readLeaseRequest (core line : Nat)
  /-- WRITE_PERFORM (R139): A write reaches its home and performs, or waits on an unexpired lease. -/
  | writePerform (id : Nat)
  /-- LEASE_WAIT_END (R143): Home counter reaches the latest expiry and waiting writes perform. -/
  | leaseWaitEnd (line : Nat)
  /-- OWNERSHIP_GRANT (R146): Grants an ownership lease once read leases have expired. -/
  | ownershipGrant (core line : Nat)
  /-- OWNERSHIP_RETURN (R146): Owner returns a line with its value to the home. -/
  | ownershipReturn (line : Nat)
  /-- FAR_ATOMIC_ACK (R147): Memory-side cache acknowledges forwarded atomics and the far state clears. -/
  | farAtomicAck (line : Nat)
  /-- PAGE_WALK (R304): Completes a table walk, registering sharers, and yields a leaf or fault. -/
  | pageWalk (agent fn va : Nat)
  /-- TRANSLATION_INVALIDATION (R166): An agent drops translations through a line, drains and acknowledges. -/
  | translationInvalidation (agent line : Nat)
  /-- INVALIDATION_ACK (R166): Home counts an acknowledgement; the last lets the page-table write perform. -/
  | invalidationAck (agent line : Nat)
  /-- REMOTE_REQUEST (R322): A pod-window request arrives at a Bride port and is checked and walked. -/
  | remoteRequest (dev fn : Nat) (rq : RemoteReq)
  /-- MIGRATION_LINE_BLOCK (R316): A migration block takes hold of a line of the old frame. -/
  | migrationLineBlock (id line : Nat)
  /-- MIGRATION_REPLAY (R316): Replays the old frame's queues at the new frame and unblocks. -/
  | migrationReplay (id : Nat)
  /-- COPY_CHECK (R186): Copy engine translates and checks everything a copy touches before writing. -/
  | copyCheck (id : Nat)
  /-- COPY_WRITE_LAND (R187): A copy write lands, is dropped for a stale generation, or counts a picot. -/
  | copyWriteLand (id k : Nat)
  /-- BATCH_CLOSE (R158): Writes the token status word when every copy of a batch has completed. -/
  | batchClose (id : Nat)
  /-- RCP_SIGNAL_DECREMENT (R191): Decrements an rcp's signal once all its writes have performed. -/
  | rcpSignalDecrement (id : Nat)
  /-- PICOT_STEP (R163): A picot bank applies one cycle's arrivals and bytes and may advance the phase. -/
  | picotStep (core addr : Nat)
  /-- ARRAY_OPERATION_START (R136): An issued array operation starts on its load or stream path. -/
  | arrayOperationStart (core : Nat) (mismatch : List (Nat × Bool))
  /-- ARRAY_OPERATION_COMPLETE (R113): An array operation's writes have performed and signers' flags decrement. -/
  | arrayOperationComplete (core id : Nat)
  /-- SHQ_ALLOCATE (R213): Allocation phase of shq answers HIT, INFLIGHT or MISS and may allocate. -/
  | shqAllocate (id : Nat)
  /-- CONTINUATION_EMIT (R216): A shading continuation leaves the emission buffer into its pool queue. -/
  | continuationEmit (ctl : Nat)
  /-- RELEASED_RECORD_DELIVERY (R217): A released parked record leaves the park pool into its queue. -/
  | releasedRecordDelivery (ctl : Nat)
  /-- SHINV_SCAN_DONE (R221): A controller finishes its invalidation scan and frees the range register. -/
  | shinvScanDone (ctl idx : Nat)
  /-- POOL_CLOCK_EVICTION (R224): A slot pool's clock evicts valid entries while its free list is low. -/
  | poolClockEviction (cls : Nat)
  /-- SHADING_RECORD_APPLY (R207): Applies the device shading record, or refuses it. -/
  | shadingRecordApply (val : W32)
  /-- HANDLER_ENABLE (R348): Writes handler EN 1, checking every field. -/
  | handlerEnable (fn : Nat)
  /-- HANDLER_DISABLE (R348): Writes handler EN 0, discarding queued invocations. -/
  | handlerDisable (fn : Nat)
  /-- MISS_EVENT (R349): A tagged request misses in its home slice and raises MISS. -/
  | missEvent (id : Nat)
  /-- FILL_EVENT (R349): A tagged miss's line arrives from below and raises FILL. -/
  | fillEvent (line : Nat)
  /-- EVICT_EVENT (R349): The slice chooses to evict a tagged line and raises EVICT. -/
  | evictEvent (line : Nat)
  /-- MSG_EVENT (R364): A bmsg arrives at the target Bobbin core's event queue. -/
  | msgEvent (id : Nat)
  /-- INVOCATION_START (R350): Starts the handler for the event at the head of the Bobbin queue. -/
  | invocationStart (k : Nat)
  /-- BUDGET_EXHAUSTED (R360): Aborts an invocation whose cycle budget runs out. -/
  | budgetExhausted (k : Nat)
  /-- BMSG_REPLY (R364): Writes an awaited message reply into the sender's quad. -/
  | bmsgReply (id : Nat)
  /-- PATROL_SCRUB (R399): Reads and corrects or poisons HBM lines periodically. -/
  | patrolScrub (line : Nat) (uncorrectable : Bool)
  /-- SELF_TEST (R394): Runs a self-test slot on a gap unit and retires it on failure. -/
  | selfTest (u : UnitName) (pass : Bool)
  /-- LINK_RETRY (R392): Retries a flit with a CRC error and retrains the link after 16 failures. -/
  | linkRetry (place fails : Nat)
  /-- QUEUE_DISABLE (R285): A write of 0 to a queue's EN stops it accepting notifies and, for a continuation pool, ends the pool's residency lease. -/
  | queueDisable (fn q : Nat)
  /-- REDUCED_SERVICE_ENTRY (R402): Once the firmware images are verified, the device enters reduced service within about 0.4 s and SERVICE reads 1. -/
  | reducedServiceEntry
  /-- RAST_TRAV_RESULT (R232): The cluster's raster or traversal unit finishes an operation and writes its count word or result quad to the issuing thread. -/
  | rastTravResult (id : Nat)
  /-- FLOGBASE_WRITE (R371): A write of FLOGBASE sets the fault-log base and restarts the FLOGWR count of records written. -/
  | flogbaseWrite (fn : Nat) (val : W64)
deriving DecidableEq, Repr

end Sys2Proof
end

