-- ==== Sys2Proof/Machine/Bits.lean ====
section
/-! DEFINITION. Bit fields of words and records, byte order, and the fields of the extension word (R3, Table 2.5, Table 2.7). -/

namespace Sys2Proof

/-- The field of `n` bits of `x` from bit `lo` up, as a number. -/
def fieldN (x lo n : Nat) : Nat := (x >>> lo) % 2 ^ n

/-- Bit `i` of a number. -/
def bitN (x i : Nat) : Bool := fieldN x i 1 == 1

/-- The value of bytes, least significant first (R3). -/
def leVal : List Byte → Nat
  | [] => 0
  | b :: bs => b.toNat + 256 * leVal bs

/-- The `n` low bytes of a number, least significant first (R3). -/
def leBytes : Nat → Nat → List Byte
  | 0, _ => []
  | n + 1, v => BitVec.ofNat 8 v :: leBytes n (v / 256)

/-- `n` zero bytes. -/
def zeroBytes (n : Nat) : List Byte := List.replicate n 0#8

/-- The little-endian value of `n` bytes of a record from byte `o`. -/
def recVal (r : List Byte) (o n : Nat) : Nat := leVal ((r.drop o).take n)

/-- Replaces the bytes of `r` from byte `o` with `bs`. -/
def recPut (r : List Byte) (o : Nat) (bs : List Byte) : List Byte :=
  r.take o ++ bs ++ r.drop (o + bs.length)

/-- `Trunc32` (Table 2.7). -/
def trunc32 (x : Int) : W32 := BitVec.ofInt 32 x
/-- `Trunc64` (Table 2.7). -/
def trunc64 (x : Int) : W64 := BitVec.ofInt 64 x

/-- `SatS` (Table 2.7): clamps to the signed range of `n` bits. -/
def satS (x : Int) (n : Nat) : Int :=
  if x < -(2 ^ (n - 1) : Int) then -(2 ^ (n - 1) : Int)
  else if x > (2 ^ (n - 1) : Int) - 1 then (2 ^ (n - 1) : Int) - 1 else x

/-- `SatU` (Table 2.7): clamps to the unsigned range of `n` bits. -/
def satU (x : Int) (n : Nat) : Int :=
  if x < 0 then 0 else if x > (2 ^ n : Int) - 1 then (2 ^ n : Int) - 1 else x

/-- `SExt` or `ZExt` of a whole word, as `signed` says. -/
def intOf {n : Nat} (signed : Bool) (x : BitVec n) : Int := if signed then x.toInt else (x.toNat : Int)

/-- Field E of the extension word (Table 2.5). -/
def extE (w : TWord) : Fld := w.ext.extractLsb' 22 10
/-- Field RM of the extension word. -/
def extRM (w : TWord) : Nat := (w.ext.extractLsb' 19 3).toNat
/-- Field ZM of the extension word. -/
def extZM (w : TWord) : Bool := w.ext.getLsbD 18
/-- The reserved bits of the extension word. -/
def extRsv (w : TWord) : Nat := (w.ext.extractLsb' 0 18).toNat

/-- The field of `n` bits of MOD from bit `lo` up. -/
def mdF (w : TWord) (lo n : Nat) : Nat := fieldN w.md.toNat lo n
/-- Bit `i` of MOD. -/
def mdB (w : TWord) (i : Nat) : Bool := w.md.getLsbD i

/-- The source value that selects the literal (Table 2.4). -/
def fLit : Fld := 1020#10
/-- The source value that reads the home lane. -/
def fLane : Fld := 1021#10
/-- The source value that reads zero, and the filler of an unused source. -/
def fZero : Fld := 1022#10
/-- The null destination, and the filler of an unused destination. -/
def fNull : Fld := 1023#10

/-- Population count. -/
def popcount {n : Nat} (x : BitVec n) : Nat := ((upTo n).filter (fun i => x.getLsbD i)).length

/-- Leading zeros of an `n`-bit word. -/
def leadZeros {n : Nat} (x : BitVec n) : Nat :=
  ((upTo n).find? (fun i => x.getLsbD (n - 1 - i))).getD n

/-- Trailing zeros of an `n`-bit word. -/
def trailZeros {n : Nat} (x : BitVec n) : Nat := ((upTo n).find? (fun i => x.getLsbD i)).getD n

/-- The word whose bit `i` is `f i`. -/
def ofBits (n : Nat) (f : Nat → Bool) : Nat :=
  (upTo n).foldl (fun acc i => if f i then acc + 2 ^ i else acc) 0

end Sys2Proof
end

