-- ==== Sys2Proof/Machine/Mem.lean ====
section
/-! DEFINITION. Bytes of memory and of scratchpads: lists of (address, byte) pairs in one canonical form, addresses strictly rising and
no entry equal to what an unlisted address reads as, which is 0 (assumption 1). -/

namespace Sys2Proof.Machine

/-- The byte at an address. DESIGN CHOICE (assumption 1). -/
def cget : List Host.Cell → Nat → Byte
  | [], _ => 0#8
  | (a, b) :: m, k => if a = k then b else cget m k

/-- Removes an address. -/
def cdel : List Host.Cell → Nat → List Host.Cell
  | [], _ => []
  | (a, b) :: m, k => if a = k then cdel m k else (a, b) :: cdel m k

/-- Lists a byte at an address, in its place. -/
def cins : List Host.Cell → Nat → Byte → List Host.Cell
  | [], k, v => [(k, v)]
  | (a, b) :: m, k, v =>
    if k < a then (k, v) :: (a, b) :: m
    else if k = a then (k, v) :: m
    else (a, b) :: cins m k v

/-- Writes one byte, keeping the canonical form. -/
def cput (m : List Host.Cell) (k : Nat) (v : Byte) : List Host.Cell := if v = 0#8 then cdel m k else cins m k v

/-- The `n` bytes from an address upwards. -/
def cread (m : List Host.Cell) (a : Nat) : Nat → List Byte
  | 0 => []
  | n + 1 => cget m a :: cread m (a + 1) n

/-- Writes bytes from an address upwards. -/
def cwrite : List Host.Cell → Nat → List Byte → List Host.Cell
  | m, _, [] => m
  | m, a, b :: bs => cwrite (cput m a b) (a + 1) bs

/-- The canonical form from address `lo` up. -/
def cellsFrom : Nat → List Host.Cell → Bool
  | _, [] => true
  | lo, (a, b) :: m => decide (lo ≤ a) && b != 0#8 && cellsFrom (a + 1) m

/-- The canonical form of a memory: addresses strictly rising, no listed byte 0. -/
def Memory.wf (m : List Host.Cell) : Bool := cellsFrom 0 m

/-- The little-endian value of `n` bytes at an address. -/
def cval (m : List Host.Cell) (a n : Nat) : Nat := leVal (cread m a n)

/-- Writes a sorted list of naturals without repeats: insertion. -/
def insertNat : List Nat → Nat → List Nat
  | [], k => [k]
  | a :: m, k => if k < a then k :: a :: m else if k = a then a :: m else a :: insertNat m k

/-- Removes a natural from a list. -/
def eraseNat (m : List Nat) (k : Nat) : List Nat := m.filter (fun a => a != k)

/-- Poison after a write of `n` bytes from `a`, in units of `u` bytes: a unit wholly covered becomes clean (R396), or poisoned when
the bytes written are poisoned; a unit partly covered keeps its poison, and takes that of poisoned bytes. -/
def poisWrite (p : List Nat) (u a n : Nat) (bad : Bool) : List Nat :=
  if n = 0 then p
  else (spanN (a / u) ((a + n - 1) / u + 1 - a / u)).foldl (fun q k =>
    if bad then insertNat q k
    else if a ≤ k * u ∧ k * u + u ≤ a + n then eraseNat q k else q) p

/-- Poison after a line took another's bytes with their poison as it stands, unit by unit (R396). -/
def poisMove (p : List Nat) (l dl : Nat) : List Nat :=
  (upTo 4).foldl (fun q k => if p.contains (4 * l + k) then insertNat q (4 * dl + k) else eraseNat q (4 * dl + k)) p
/-- Poison after the bytes of a line that a mask names were written: units wholly written become clean (R356, R396). -/
def poisMasked (p : List Nat) (l : Nat) (mask : BitVec 64) : List Nat :=
  (upTo 4).foldl (fun q k => if (mask.toNat / 2 ^ (16 * k)) % 65536 = 65535 then eraseNat q (4 * l + k) else q) p

/-- Whether any byte of `n` from `a` is poisoned, in units of `u` bytes. -/
def poisRead (p : List Nat) (u a n : Nat) : Bool :=
  decide (n ≠ 0) && p.any (fun k => decide (a < k * u + u ∧ k * u < a + n))

end Sys2Proof.Machine
end

