-- ==== Sys2Proof/Machine/Parts.lean ====
section
/-! DEFINITION. The parts of the machine's state: threads, groups, workgroups, cores, lines, pending operations, launches, register
blocks, Bobbin cores, shading controllers. Every type is plain data. -/

namespace Sys2Proof.Machine

/-! ### Threads and groups -/

/-- A thread register: 32 bits and a tag (Table 2.6). A register nothing has written holds zero with tag 0 (R39). -/
structure Reg where
  v : W32 := 0#32
  t : Tag := 0#6
deriving DecidableEq, Repr

/-- Where a thread is (R237): in a group, filed in a bin, waiting after `tdone`, or ended. -/
inductive ThSt where
  | live | binned | tdone | ended
deriving DecidableEq, Repr

/-- A thread (R235, R39, R49, R172, R367). -/
structure Thread where
  st     : ThSt := .live
  regs   : Tab Reg := []
  preds  : BitVec 7 := 0#7
  /-- Counts of the completion flags f0 to f11 (R27). -/
  flags  : Tab Nat := []
  /-- Writes still to come to register n, or to predicate i at key 1024 + i (R28). -/
  pend   : Tab Nat := []
  /-- The open token batch of register n (R158). -/
  tokens : Tab Nat := []
  fpctl  : W32 := 1#32
  fpstat : W32 := 0#32
  srseed : W32 := 1#32
  abase  : W64 := 0#64
  tcause : W32 := 0#32
  tpc    : W64 := 0#64
  taddr  : W64 := 0#64
  /-- Registers declared for the thread (R33). -/
  nregs  : Nat := 8
  /-- Role, group within the role, and groups of the role (R298). -/
  role   : Nat := 0
  rgrp   : Nat := 0
  rgrps  : Nat := 1
  /-- Where a thread that waits after `tdone` stands (Table 14.9). -/
  rpc    : W64 := 0#64
deriving DecidableEq, Repr

/-- Why an instruction does not issue: writes still to come and full flags, each with the thread that waits for it (R28, R27), a full
queue (R184, R110, R364), or something else. -/
inductive StallOn where
  | keys (ks : List (Nat × Nat))
  | copyQueue
  | arrayQueue
  | msgQueue
  | other
deriving DecidableEq, Repr

/-- What a group waits for (Table 9.3). `sleep` and `pwait` also hold the threads and flags that complete with the wait (R29). -/
inductive Wait where
  | ready
  | flag (fs : List Nat)
  | score (on : StallOn)
  | sleep (wake : W64) (flags : List (Nat × Nat))
  | poll (loads : Nat) (tmo : Nat) (deadline : Option W64) (watch : List Nat)
  | pwait (picots : List (Nat × Bool)) (flags : List (Nat × Nat))
  | trapped
deriving DecidableEq, Repr

/-- Which set of the quadrant holds a group's record (R239). -/
inductive Place where
  | active | pending | overflow
deriving DecidableEq, Repr

/-- Why a workgroup is halted and resident (Table 14.6). -/
inductive Held where
  | slice | energy | saving (cause : Nat)
deriving DecidableEq, Repr

/-- A store that waits in a group's store buffer (R333): its thread, its virtual address or scratchpad offset, its bytes, and
the program counter of the store. -/
structure BufStore where
  id    : Nat
  tid   : Nat
  scr   : Bool
  addr  : Nat
  bytes : List Byte
  pc    : W64
  relaxed : Bool
deriving DecidableEq, Repr

/-- An issue group (R237 to R240). -/
structure Group where
  core    : Nat
  wg      : Nat
  quad    : Nat
  tids    : List Nat
  pc      : W64
  /-- Start of the group's current idempotent region (R335). -/
  rstart  : W64
  /-- The line word of the line the group has begun, and its address. -/
  line    : W32 := 0x000FF000#32
  begun   : Option W64 := none
  /-- The bytes of that line as the group fetched and checked them (R22, R23). -/
  code    : List Byte := []
  stamp   : W64 := 0#64
  /-- Place among groups that got the same stamp in one start or re-entry: the lower is the older. -/
  sub     : Nat := 0
  place   : Place := .active
  wait    : Wait := .ready
  /-- Core cycle since which the group has waited on the scoreboard, and for what. -/
  stall   : Option Nat := none
  stallOn : StallOn := .other
  /-- Core cycles of readiness, of activation and of the last issue (R245, R246). -/
  readyAt : Nat := 0
  activeAt : Nat := 0
  lastIssue : Nat := 0
  /-- Issue cycles that its tenant had had in the quadrant when the group last issued, or was formed (R245), and the core cycle in
  which it was last found waiting for a fetch, a commit or a fence. -/
  issueAt : Nat := 0
  triedAt : Nat := 0
  buf     : List BufStore := []
  /-- In the trap prologue, at the privileged level (R366). -/
  priv    : Bool := false
  /-- Threads that a waiting signature of the group has counted (R110), or whose ranges a waiting `shinv` has recorded (R221). -/
  signed  : List Nat := []
  /-- It stands in the pending set since a `yield` (R339). -/
  yielded : Bool := false
deriving DecidableEq, Repr

/-! ### Workgroups -/

/-- An accumulator row: 128 elements (absent ones zero), its tag, and whether it is poisoned (R106, R135). -/
structure Row where
  vals : Tab W32 := []
  tag  : Nat := 3
  pois : Bool := false
deriving DecidableEq, Repr

/-- The operation a convergence register buffers (R107): OP, MOD, A, B, C, E, RM and the values of A, B, C and E. -/
structure SigBuf where
  op : Nat
  md : Byte
  a  : Fld
  b  : Fld
  c  : Fld
  e  : Fld
  rm : Nat
  va : W32
  vb : W32
  vc : W32
  ve : W32
deriving DecidableEq, Repr

/-- A convergence register (Table 5.2). The buffer is present while OPEN is 1. -/
structure Conv where
  arm   : Bool := false
  pend  : Nat := 0
  count : Nat := 0
  buf   : Option SigBuf := none
  /-- The threads already counted, with the flags that the operation will decrement. -/
  signers : List (Nat × Option Nat) := []
deriving DecidableEq, Repr

/-- The launch kinds of Table 10.2 and the pool draw (R285). -/
inductive LKind where
  | nop | rect | tatting | gang | wait | pool
deriving DecidableEq, Repr

/-- A workgroup on a core (R235, R282). -/
structure Wg where
  core   : Nat
  fn     : Nat
  launch : Nat
  kind   : LKind
  g      : Nat
  /-- Local index `sys.wgl`. -/
  wgl    : Nat
  lx     : Nat
  ly     : Nat
  lw     : Nat
  lh     : Nat
  depth  : Nat
  arg    : W64
  queue  : Nat
  qidx   : W32
  nthr   : Nat
  threads : Tab Thread
  /-- Scratchpad allocation: first byte within the core's scratchpad, size, generation (R187, R277). -/
  sbase  : Nat
  ssize  : Nat
  gen    : Nat
  /-- Accumulator rows allocated, and those that have changed. -/
  nrows  : Nat
  rows   : Tab Row := []
  conv   : Tab Conv := []
  fmt    : Tab W32 := []
  ovf    : BitVec 128 := 0#128
  mstat  : W32 := 0#32
  mseed  : W32 := 1#32
  rfage  : Nat := 64
  /-- TATTING: the task the workgroup runs (R288). -/
  task   : Option Nat := none
  /-- Each physical code line as its groups last fetched it (R23). -/
  code   : Tab (List Byte) := []
  /-- The allocation accepts copy registrations (R376), and the bytes registered and not yet landed. -/
  accepts : Bool := true
  regBytes : Nat := 0
  /-- Every thread has ended. -/
  ended  : Bool := false
  /-- Halted: its groups issue nothing (Table 14.6). -/
  held   : Option Held := none
deriving DecidableEq, Repr

/-! ### Cores -/

/-- A weight plane (R104). -/
structure Plane where
  present : Bool := false
  tag     : Nat := 0
  bs      : Bool := false
  b32     : Bool := false
  scales  : List Host.Cell := []
  image   : List Host.Cell := []
deriving DecidableEq, Repr

/-- An operation in the array queue (R110, R119): its instruction, the issuing workgroup, the tables read at issue, the
signers with their flags, and whether it runs. -/
structure ArrOp where
  id    : Nat
  wg    : Nat
  fn    : Nat
  sig   : SigBuf
  fmt   : Tab W32
  ovf   : BitVec 128
  /-- The epilogue record of `mdrain`, as read at issue. -/
  epi   : List Byte := []
  signers : List (Nat × Option Nat) := []
  /-- The thread that completed the count, and the signature's program counter. -/
  tid   : Nat := 0
  pc    : W64 := 0#64
  running : Bool := false
  /-- Core cycles for which it keeps the array busy beyond the operations that started before it (R390). -/
  busy    : Nat := 0
  /-- Rows whose checksum mismatched in this run: row and whether the retry also failed (R135). -/
  miss  : List (Nat × Bool) := []
deriving DecidableEq, Repr

/-- An entry of a reform bin (R241): thread and filing cycle, threshold, filing time. -/
structure BinEnt where
  tid  : Nat
  cyc  : Nat
  thr  : Nat
  time : W64
deriving DecidableEq, Repr

/-- A reform bin: key and entries in filing order (R241). -/
structure Bin where
  wg  : Nat
  pc  : W64
  ents : List BinEnt
deriving DecidableEq, Repr

/-- A core (R12, R104, R241, R328, R331, R390). -/
structure Core where
  active : Plane := {}
  shadow : Plane := {}
  opq    : List ArrOp := []
  /-- Functions hosted, in order of arrival: HALF 0 and HALF 1 (R327). -/
  tenants : List Nat := []
  /-- Which tenant holds vector issue and the array (places in `tenants`), and when the slices began. -/
  vecHold : Nat := 0
  vecAt  : W64 := 0#64
  matHold : Nat := 0
  matAt  : W64 := 0#64
  /-- When the holder of vector issue, and that of the array, last had ready work (R331). -/
  vecWork : W64 := 0#64
  matWork : W64 := 0#64
  /-- Core cycle up to which the operations that have started keep the array busy (R390). -/
  busyTo : Nat := 0
  /-- Planes of functions that do not hold the array: function, active plane, shadow plane (R104, R331). -/
  saved  : List (Nat × Plane × Plane) := []
  bins   : Tab Bin := []
  /-- Cycle of the last draw of each bin (R242), issue cycles by 4 × function + quadrant (R245), cycle of each quadrant's last rotation
  (R246). -/
  drew   : Tab Nat := []
  issues : Tab Nat := []
  rotAt  : Tab Nat := []
  /-- Lines the L1 holds, with the expiry of their lease (R141). -/
  l1     : Tab W64 := []
  /-- Scratchpad bytes (absent ones zero), poisoned 16-byte units, and by 1 KiB block the function that last held it and its
  generation. -/
  scr    : List Host.Cell := []
  scrPois : List Nat := []
  blkFn  : Tab Nat := []
  blkGen : Tab Nat := []
  /-- Counters of Table 14.12 by 16 × function + number. -/
  ctr    : Tab W64 := []
  /-- The array is reported as failing, or the self-test retired the core (R135, R394). -/
  failing : Bool := false
  /-- The function whose turn the copy engine's is, and the bytes it has moved in the turn (R330). -/
  cpTurn : Nat × Nat := (0, 0)
  /-- Functions whose requests the mesh port holds back (R342). -/
  portHeld : List Nat := []
deriving DecidableEq, Repr

/-! ### Lines of memory and pending accesses -/

/-- The coherence state of a 64-byte physical line at its home (R141 to R147, R166, R316, R318). -/
structure Line where
  /-- Present in its home slice; in the memory-side cache; at lowest retention priority. -/
  present : Bool := false
  msc     : Bool := false
  low     : Bool := false
  /-- Latest read-lease expiry granted, history H, and whether a write has waited on the last lease. -/
  expiry  : W64 := 0#64
  hist    : Nat := 1
  waited  : Bool := false
  /-- Core that owns the line, since when. -/
  owner   : Option Nat := none
  ownedAt : W64 := 0#64
  /-- The owner has written its copy since the grant. -/
  ownDirty : Bool := false
  /-- Forwarded no-return atomics not acknowledged (R147). -/
  far     : Nat := 0
  /-- Agents whose acknowledgement a page-table write at the head of the queue waits for, and since when. -/
  inval   : List Nat := []
  invAt   : W64 := 0#64
  /-- The write whose invalidations have been sent. -/
  invFor  : Option Nat := none
  /-- Operation that holds writes to the line (R318). -/
  hold    : Option Nat := none
  /-- Migration whose block holds the line, or waits for it since its place in the arrival order, and migration whose replay this
  line awaits (R316). -/
  block   : Option Nat := none
  blockAt : Nat := 0
  blocked : Bool := false
  await   : Option Nat := none
  /-- Groups whose poll watches the line (R266). -/
  watch   : List Nat := []
  /-- Tag of the request that brought the line: function, range, virtual line address (R349). -/
  tag     : Option (Nat × Nat × Nat) := none
  /-- FILL or EVICT invocation pending (R351). -/
  pendEv  : Nat := 0
  /-- A miss whose data has not arrived from below; whether the request writes, and whether it is a `pf`. -/
  fetching : Bool := false
  reqWr : Bool := false
  reqPf : Bool := false
  /-- The slice has chosen the line for eviction. -/
  evicting : Bool := false
  /-- Above DRAM the line has been written since it was last written back: by which function last (R340). -/
  dirty   : Option Nat := none
deriving DecidableEq, Repr

/-- A thread of a workgroup. -/
structure ThRef where
  wg  : Nat
  tid : Nat
deriving DecidableEq, Repr

/-- Orderings (Table 6.4). -/
inductive Ord where
  | plain | relaxed | acquire | release | seqCst | acqRel
deriving DecidableEq, Repr

/-- Where an access goes: a physical address with its memory type, a byte of a core's scratchpad, or a pod device. -/
inductive Target where
  | glob (pa mt : Nat)
  | scr (core off : Nat)
  | pod (dev off : Nat)
deriving DecidableEq, Repr

/-- What every pending access carries: its place in its thread's program order (`id`), who issued it, for whom, its
translation (agent, incarnation and the table lines its walk read), and the flag it is attached to. -/
structure Acc where
  id   : Nat
  th   : Option ThRef
  core : Nat
  fn   : Nat
  launch : Nat
  pc   : W64
  va   : Nat
  tgt  : Target
  n    : Nat
  ord  : Ord
  agent : Nat := 0
  inc  : Nat := 0
  path : List Nat := []
  flag : Option Nat := none
  /-- Bobbin invocations the request waits for (R351), the range its tag names, and whether it is a `pf`. -/
  held : Nat := 0
  range : Option Nat := none
  /-- Place in the line's arrival order once it has reached its home. -/
  arrived : Option Nat := none
  /-- The request has left its core, or waits in the order in which its mesh port lets held requests go (R342). -/
  sent : Bool := false
  turn : Bool := false
  /-- Its miss in the L1 has been answered with a lease (R141). -/
  missed : Bool := false
  /-- The pod device that issued it, to which the answer goes (R322). -/
  reply : Option Nat := none
  /-- A device's access: the accesses that have to perform before it (R291, R296), and the queue whose interrupt its performing
  raises (R291). -/
  after : List Nat := []
  irq   : Option (Nat × Nat) := none
  /-- The translation it was made with has been dropped before it could leave: it is translated again (R166, R309). -/
  again : Bool := false
deriving DecidableEq, Repr

/-- Where a Bobbin core takes what it reads at a home: line buffer `buf`, with the status in register `rd`, or register `rd`. -/
inductive BobDst where
  | buf (k buf rd : Nat)
  | reg (k rd : Nat)
deriving DecidableEq, Repr

/-- A pending load (R175, R266). -/
structure PLoad where
  acc  : Acc
  dst  : Option Nat
  sext : Bool
  tag  : Nat
  /-- The group that polls with this load. -/
  poll : Option Nat := none
  /-- A line that a `trav` reads (R349): the instruction waits for it. -/
  unit : Bool := false
  /-- A `pf` of level 2 brings the line to the memory-side cache (R177). -/
  msc  : Bool := false
  /-- A handler's read that has met a migration's block (R418). -/
  bob  : Option BobDst := none
deriving DecidableEq, Repr

/-- The element operation of `trst` (R200): max, and the element's tag. -/
structure RedOp where
  max : Bool
  tag : Nat
deriving DecidableEq, Repr

/-- What a pending write does at its home. -/
inductive WrKind where
  | store (bytes : List Byte)
  | rmw (opc : Nat) (operand : W64) (dst : Option Nat) (tag : Nat) (noReturn : Bool)
  | cas (wide : Bool) (compare new : W64) (dst : Option Nat) (tag : Nat)
  | sigdec (amount : W32) (dst : Option Nat)
  | pte (op : Nat) (val : W64)
  /-- The decrement of PEND of task `i` of launch `l` (R296). -/
  | pend (l i : Nat)
  /-- Unit `k` of copy `c`: bytes with their poison, a reduction, or the signal's decrement. -/
  | copyUnit (c k : Nat) (bytes : List Byte) (bad : Bool)
  | copyRed (c k : Nat) (op : RedOp) (bytes : List Byte) (bad : Bool)
  | copySig (c : Nat)
  /-- `lnwr`: the masked bytes of a line buffer, and the register of Bobbin core `k` that takes the status. -/
  | line (k rd : Nat) (bytes : List Byte) (mask : W64)
deriving DecidableEq, Repr

/-- A pending write or read-modify-write (R139, R176, R179). -/
structure PWrite where
  acc  : Acc
  kind : WrKind
deriving DecidableEq, Repr

/-- A `fence.rel` that later writes of its thread still honour (Table 6.5). -/
structure PFence where
  id   : Nat
  th   : ThRef
  flag : Option Nat
deriving DecidableEq, Repr

/-- An update that waits for a picot's bank (R163). -/
inductive PicotAct where
  | init (arr : Nat) (byt : W32)
  | arrive (x : W32) (dst : Option Nat)
  /-- Bytes of a copy that have landed: their count, the allocation that registered them, and its generation (R161, R187). -/
  | bytes (n : Nat) (wg gen : Option Nat)
deriving DecidableEq, Repr

structure PPicot where
  acc  : Acc
  act  : PicotAct
deriving DecidableEq, Repr

/-- A cached translation of an agent (R308): function, first virtual byte, size, physical base, permissions, memory type,
and the table lines its walk read; `ptr`: the level of a table pointer that a walk cache holds, whose table lies at `pa`. -/
structure TlbEnt where
  agent : Nat
  fn    : Nat
  ex    : Bool
  va    : Nat
  size  : Nat
  pa    : Nat
  r     : Bool
  w     : Bool
  x     : Bool
  mt    : Nat
  path  : List Nat
  ptr   : Option Nat := none
deriving DecidableEq, Repr

/-! ### Copies (R184 to R200) -/

/-- An open or completed token batch (R158, R185). -/
structure Batch where
  th    : ThRef
  reg   : Nat
  joins : Nat
  done  : Nat
  part  : Bool := false
  pois  : Bool := false
  flags : List Nat := []
deriving DecidableEq, Repr

/-- Where a copy unit reads; `home`: a read that has reached the home of a blocked line and is queued there, with its physical place, its
memory type and its place in the line's arrival order (R316). -/
inductive CSrc where
  | va (a : Nat)
  | home (pa mt arrived : Nat)
  | scr (off : Nat)
  | lit (bytes : List Byte)
deriving DecidableEq, Repr

/-- Where a copy unit writes: a global or pod address, a byte of a workgroup's allocation, or a reduction into an element. -/
inductive CDst where
  | va (a : Nat)
  | peer (pos core : Nat) (wg : Option Nat) (gen base off : Nat)
  | red (a : Nat)
deriving DecidableEq, Repr

/-- A piece of a copy unit's source. -/
structure CPiece where
  src : CSrc
  n   : Nat
deriving DecidableEq, Repr

/-- A unit of a copy: the pieces of its source, destination, byte count, and whether its write is on its way to its home; the piece of
an image that it shares with the units of other peers, and whether that was poisoned where it was read (R197). -/
structure CUnit where
  srcs : List CPiece
  dst : CDst
  n   : Nat
  sent : Bool := false
  chunk : Option Nat := none
  bad  : Bool := false
deriving DecidableEq, Repr

/-- A copy in the engine (R184): the units that have not landed. -/
structure Copy where
  id    : Nat
  th    : ThRef
  core  : Nat
  fn    : Nat
  launch : Nat
  pc    : W64
  units : Tab CUnit
  red   : Option RedOp := none
  /-- Picot offset in every destination allocation, and those allocations: core and workgroup. -/
  picot : Option Nat := none
  peers : List (Nat × Nat × Nat) := []
  /-- Signal object of `rcp`. -/
  signal : Option Nat := none
  batch : Nat
  checked : Bool := false
  /-- The decrement of the signal is on its way. -/
  sigSent : Bool := false
  /-- Bobbin invocations its requests wait for (R351). -/
  held  : Nat := 0
  /-- Its next request waits in the order in which its mesh port lets held requests go (R342). -/
  turn  : Bool := false
deriving DecidableEq, Repr

/-! ### Other operations in flight -/

/-- A `shq` between its probe and its allocation (R213). -/
structure PShq where
  /-- A later access of its thread has been made before its answer (R226). -/
  passed : Bool := false
  id   : Nat
  th   : ThRef
  fn   : Nat
  launch : Nat
  key  : W64
  tag  : Nat
  /-- The probe reported absent or expired: material index, program counter and slot class. -/
  mat  : Option (Nat × W64 × Nat)
  dst  : Option Nat
  flag : Option Nat
  /-- The number of the first query of the same instruction, and HEAPVA as the instruction read it. -/
  ins  : Nat
  heapva : W64
deriving DecidableEq, Repr

/-- A raster or traversal operation whose result is still to be written (R229, R232): register values with tags and scratchpad
writes. -/
structure PRt where
  id   : Nat
  th   : ThRef
  dst  : Option Nat
  vals : List (W32 × Nat)
  core : Nat
  puts : List (Nat × List Byte)
  flag : Option Nat
deriving DecidableEq, Repr

/-- A message of `bmsg` (R364): waiting to arrive, queued or running, or answered. -/
inductive MsgSt where
  | sent | queued | replied (bytes : List Byte)
deriving DecidableEq, Repr

structure PMsg where
  id   : Nat
  th   : ThRef
  core : Nat
  fn   : Nat
  cluster : Nat
  bytes : List Byte
  dst  : Option Nat
  flag : Option Nat
  st   : MsgSt
deriving DecidableEq, Repr

/-- A `splinter` or `migrate` (R314 to R319): its operands, then what its walk has found. -/
structure PMig where
  id   : Nat
  th   : ThRef
  core : Nat
  dst  : Option Nat
  flag : Option Nat
  migrate : Bool
  ex   : Bool
  va   : Nat
  /-- The new table or frame, and the root of the walk. -/
  new  : Nat
  root : Nat
  /-- The walk has been made and its checks have passed: level and place of the leaf, the leaf, the old frame. -/
  started : Bool := false
  lvl  : Nat := 0
  pte  : Nat := 0
  leaf : W64 := 0#64
  old  : Nat := 0
  /-- Lines of the old frame whose block has not taken hold; the leaf has been written. -/
  left : List Nat := []
  remapped : Bool := false
deriving DecidableEq, Repr

/-! ### Launches and queues -/

/-- Phases of a packet's life (R280, R291). -/
inductive LPhase where
  | residency | ready | reserving | committing | running | ending | done
deriving DecidableEq, Repr

/-- A residency range (R276). -/
structure Range where
  base : Nat
  len  : Nat
  r    : Bool
  w    : Bool
deriving DecidableEq, Repr

/-- A role of a gang (R289). -/
structure Role where
  pc : W64
  regs : Nat
  groups : Nat
deriving DecidableEq, Repr

/-- A task of a graph as the front end read it (Table 10.6). -/
structure Task where
  pc : W64
  tx : Nat
  ty : Nat
  succ : List Nat
  sink : Bool
deriving DecidableEq, Repr

/-- A launch, from the read of its packet to its completion. For a pool, the pool's record and its draws. -/
structure Launch where
  fn    : Nat
  queue : Nat
  qidx  : W32
  kind  : LKind
  packet : List Byte
  lrec  : List Byte
  fmts  : Tab W32 := []
  ranges : List Range := []
  roles : List Role := []
  phase : LPhase := .residency
  depth : Nat := 0
  /-- Leaves asked, answered yes, answered no, committed; time of the reservation and of the first refusal. -/
  asked : List Nat := []
  yes   : List Nat := []
  no    : List Nat := []
  /-- Leaves whose answer has reached the scheduler. -/
  heard : List Nat := []
  toCommit : List Nat := []
  toCancel : List Nat := []
  askedAt : W64 := 0#64
  waitSince : Option W64 := none
  starved : Bool := false
  /-- TATTING: tasks ready, tasks running or done, the sink has completed. -/
  tasks : Tab Task := []
  ready : List Nat := []
  sinkDone : Bool := false
  status : Nat := 0
  nchild : Nat := 0
  /-- Running time counted by the watchdog, in ns. -/
  ran   : Nat := 0
  /-- A task-ending cause has been taken and TASK_END is due; the launch is halted for the debugger. -/
  ending : Bool := false
  killed : Bool := false
  /-- Its signal is not decremented: an `shtick` met TICK clear (R412). -/
  nosig : Bool := false
  debug : Bool := false
  /-- TASK_END has taken place. -/
  endDone : Bool := false
  /-- Groups that DBGRES 1 resumes past their trap: workgroup, thread (R368). -/
  skips : List (Nat × Nat) := []
  /-- Resources held by leaves in reservation: core and workgroups. -/
  heldOn : List Nat := []
  /-- It waits for resources to be freed before it is asked for again (R280); a leaf has checked its entry line (R25). -/
  blocked : Bool := false
  checked : Bool := false
deriving DecidableEq, Repr

/-- A place in the pending-launch pool (R292, R293): the packet, its queue, the launch that is its parent (for a pool workgroup, that
of its draw), the thread and the instruction that launched it, and the parent's completion writes once they have been sent. -/
structure Deferred where
  fn    : Nat
  queue : Nat
  image : List Byte
  parent : Nat
  thread : ThRef
  ins   : Nat
  after : List Nat := []
deriving DecidableEq, Repr

/-- A record filed in a pool bin (R285): bytes, filing cycle, and the allocation whose shading continuation it is (R216). -/
structure PoolRec where
  bytes : List Byte
  cyc  : Nat
  tile : Option Nat
deriving DecidableEq, Repr

structure PoolBin where
  pc   : W64
  recs : List PoolRec
deriving DecidableEq, Repr

/-- A queue's registers and the device's own state of it (Table 10.1, R285). -/
structure Queue where
  qbase  : W64 := 0#64
  en     : Bool := false
  type   : Nat := 0
  prio   : Nat := 0
  log2n  : Nat := 0
  qebud  : W32 := 0#32
  qrd    : W32 := 0#32
  qnotify : W32 := 0#32
  qeused : W32 := 0#32
  qerr   : W32 := 0#32
  qprec  : W64 := 0#64
  qprect : W32 := 0#32
  /-- The last write of QPRECT set a reserved bit; it reads zero, and EN is refused (R5, R285). -/
  rectRsv : Bool := false
  qpwg   : Nat := 0
  done   : Bool := false
  /-- 1 draining, 2 killing. -/
  destroying : Nat := 0
  /-- Index up to which entries are available: accepted notifies and the entries that the device itself has written. -/
  devEnd : W32 := 0#32
  /-- The packet at the head that has been read: its launch; a WAIT being held. -/
  head   : Option Nat := none
  waiting : Option (List Byte) := none
  /-- When a packet of the queue was last served, for the rotation among queues of one PRIO (R279). -/
  served : Nat := 0
  /-- Exhausted until the next period (R300). -/
  exhausted : Bool := false
  /-- Pool: launch that holds the record and the lease, bins, draws made. -/
  pool   : Option Nat := none
  bins   : Tab PoolBin := []
  /-- Ring indices at which the device has written shading continuations, each with its allocation (R216, R220). -/
  conts  : List (W32 × Nat) := []
  draws  : Nat := 0
deriving DecidableEq, Repr

/-- Translation registers (Table 11.1). -/
structure TransRegs where
  troot  : W64 := 0#64
  exroot : W64 := 0#64
  exen   : Bool := false
  exmask : BitVec 256 := 0#256
deriving DecidableEq, Repr

/-- Tenancy registers (Table 12.2) and the bucket balance (R341). -/
structure TenRegs where
  bwshare : Nat := 0
  vw : Nat := 0
  mw : Nat := 0
  cw : Nat := 0
  rw : Nat := 0
  borrow : Bool := false
  lend : Bool := false
  lpshare : Nat := 4096
  home : BitVec 100 := 0#100
  saveva : W64 := 0#64
  savesz : W32 := 0#32
  bwused : W32 := 0#32
  bwheld : W32 := 0#32
  balance : Int := 0
  heldBack : Bool := false
deriving DecidableEq, Repr

/-- A pseudo-channel of HBM: the open row of each bank, and the function and the direction of its last burst (R340). -/
structure Chan where
  rows : Tab Nat := []
  last : Option (Nat × Bool) := none
deriving DecidableEq, Repr

/-- A handler range (Table 13.3). -/
structure HRange where
  base : W64 := 0#64
  len  : W32 := 0#32
  evm  : Nat := 0
  budget : Nat := 0
deriving DecidableEq, Repr

/-- Handler registers (Table 13.3). -/
structure HandRegs where
  en : Bool := false
  dis : Bool := false
  ablim : Nat := 0
  hbase : W64 := 0#64
  hsize : W32 := 0#32
  pcmiss : W32 := 0#32
  pcfill : W32 := 0#32
  pcevict : W32 := 0#32
  pcmsg : W32 := 0#32
  mbudget : Nat := 0
  invoc : W32 := 0#32
  abort : W32 := 0#32
  drop : W32 := 0#32
  lcause : Nat := 0
  ranges : Tab HRange := []
  /-- Words of the block whose last write set a reserved bit; such a bit reads zero, and EN is refused (R5, R348). -/
  rsv : List Nat := []
deriving DecidableEq, Repr

/-- Fault block (Table 14.4) and the device's own state of a freeze. -/
structure FaultRegs where
  flogbase : W64 := 0#64
  flogn : Nat := 4
  dbgen : Bool := false
  flogwr : W32 := 0#32
  wdog : W32 := 0#32
  /-- FREEZE has been taken in, a THAW is held until the freeze is complete, a THAW has taken effect (R382). -/
  freezing : Bool := false
  thawHeld : Bool := false
  thawing : Bool := false
  /-- FROZEN has been seen to read 1 since the freeze (R382). -/
  froze : Bool := false
deriving DecidableEq, Repr

/-- Virtual-device shading record (Table 8.3). -/
structure ShadeRegs where
  en : Bool := false
  tick : Bool := false
  inv : Bool := false
  objn : W32 := 0#32
  objtab : W64 := 0#64
  mattab : W64 := 0#64
  heapva : W64 := 0#64
  shpool : Nat := 0
  rspool : Nat := 0
  mask : BitVec 256 := 0#256
deriving DecidableEq, Repr

/-- A context image in a function's save area (R382): what the device remembers of it beside its bytes in memory. `signers`: the threads
that have signed open operations, by convergence register, with the count that each operation decrements when it completes (R113). -/
structure Image where
  off  : Nat
  size : Nat
  cause : Nat
  launch : Nat
  since : W64
  signers : List (Nat × Nat × Option Nat) := []
deriving DecidableEq, Repr

/-- The register blocks of one function. -/
structure Fn where
  queues : Tab Queue := []
  trans : TransRegs := {}
  ten   : TenRegs := {}
  hand  : HandRegs := {}
  fault : FaultRegs := {}
  shade : ShadeRegs := {}
  images : List Image := []
deriving DecidableEq, Repr

/-! ### Bobbin cores -/

/-- An event for a Bobbin core (Table 13.4). -/
structure BEvent where
  kind  : Nat
  fn    : Nat
  range : Nat
  va    : Nat
  wr    : Bool := false
  pf    : Bool := false
  /-- The physical line, the requests that wait, and the message. -/
  line  : Nat := 0
  waits : List Nat := []
  msg   : Option Nat := none
  sender : W32 := 0#32
  stid  : W32 := 0#32
  bytes : List Byte := []
  reply : Bool := false
deriving DecidableEq, Repr

/-- A line buffer: 64 bytes and a write mask. -/
structure LineBuf where
  bytes : List Byte
  mask  : W64 := 0#64
deriving DecidableEq, Repr

/-- The invocation a Bobbin core runs (R350, R360). -/
structure Invoc where
  /-- Its number: the accesses that it makes have higher ones. -/
  id   : Nat := 0
  ev   : BEvent
  word : W32
  left : Nat
  past : Nat := 0
  replied : Bool := false
  /-- Its request is held back by the mesh port (R342); such cycles are not charged (R360). -/
  heldReq : Bool := false
  /-- The fetch of its first instruction has begun, from which its cycles count (R360). -/
  started : Bool := false
  /-- It executes no further instruction and ends once the writes that it issued have performed: with an abort cause of Table 13.9, or
  with 0 where the abort is not counted (R361). -/
  ends : Option Nat := none
deriving DecidableEq, Repr

/-- A Bobbin core (R345 to R352). -/
structure Bob where
  regs : Tab W32 := []
  pc   : W32 := 0#32
  scratch : List Host.Cell := []
  bufs : Tab LineBuf := []
  queue : List BEvent := []
  run  : Option Invoc := none
  instret : W64 := 0#64
deriving DecidableEq, Repr

/-! ### The shading cache -/

/-- A parked record (R218). -/
structure Park where
  pc  : W64
  key : W64
  words : List W32
  fn  : Nat
  /-- Released: the record to deliver. -/
  out : Option (List Byte) := none
deriving DecidableEq, Repr

/-- A shading-cache entry (Table 8.6); its slot class, and the launch whose continuation it started (R220). -/
structure Entry where
  key  : W64
  tag  : Nat
  state : Nat
  slot : Nat
  sc   : Nat
  fill : BitVec 16 := 0#16
  vuntil : BitVec 16 := 0#16
  ttl0 : Bool := false
  ref  : Bool := false
  asat : Bool := false
  pw   : List Nat := []
  /-- The allocation that the entry holds, and the task and function that have started its shading continuation (R220). -/
  tile : Nat := 0
  launch : Option Nat := none
  startFn : Option Nat := none
  /-- Poisoned by an error that its check could not correct (Table 15.1 place 3). -/
  pois : Bool := false
deriving DecidableEq, Repr

/-- A continuation in an emission buffer (R216): its record, its function, and the entry it belongs to. -/
structure Emit where
  fn   : Nat
  bytes : List Byte
  tile : Nat
deriving DecidableEq, Repr

/-- A pending-range register of a controller (R221). -/
structure InvRange where
  lo : Nat
  hi : Nat
  mask : BitVec 256
deriving DecidableEq, Repr

/-- A tag controller (R210). Entries by set × 16 + way; park pool by index; released records in release order. -/
structure Ctl where
  ents : Tab Entry := []
  emis : List Emit := []
  parks : Tab Park := []
  outq : List Nat := []
  ranges : Tab InvRange := []
  hands : Tab Nat := []
  scrub : Nat := 0
deriving DecidableEq, Repr

/-- The device shading record (Table 8.2), staged fields included, and the state of the slot pools. -/
structure DevShade where
  carve : Nat := 0
  n0 : W32 := 0#32
  n1 : W32 := 0#32
  n2 : W32 := 0#32
  heappa : W64 := 0#64
  heapsz : W64 := 0#64
  refused : Bool := false
  /-- The record in force: N0, N1, N2, HEAPPA, HEAPSZ as applied. -/
  a0 : Nat := 0
  a1 : Nat := 0
  a2 : Nat := 0
  aheap : Nat := 0
  frame : W32 := 0#32
  /-- Quarantined slots: slot index, class, frame of freeing (R225). -/
  quar : List (Nat × Nat × W32) := []
  /-- Slot-pool clock positions by class (R224). -/
  pclock : Tab Nat := []
  /-- Classes whose free list a quarantined slot has come back to (R411). -/
  mixed : List Nat := []
deriving DecidableEq, Repr

/-! ### Device-wide blocks -/

/-- Error block (Table 15.2). -/
structure ErrRegs where
  errbase : W64 := 0#64
  errn : Nat := 4
  errwr : W32 := 0#32
  corr : Tab W64 := []
  uncorr : Tab W64 := []
  stale : W64 := 0#64
  lostrec : W64 := 0#64
  lrefetch : W64 := 0#64
deriving DecidableEq, Repr

/-- A unit that the next boot retires (R9, R385). -/
inductive Retiree where
  | core (c : Nat)
  | bobbin (k : Nat)
  | port (p : Nat)
  | controller (i : Nat)
deriving DecidableEq, Repr

/-- Telemetry and boot (Table 15.6, R400, R401). -/
structure Boot where
  service : Nat := 0
  fimg : Nat := 0
  fstep : Nat := 0
  /-- Disabled logical cores, columns of a die whose spare is used (10 × die + column), and units retired at the next boot. -/
  disabled : List Nat := []
  spent : List Nat := []
  retire : List Retiree := []
  pwr : Nat := 0
  cclk : Nat := 0
  /-- Nanoseconds below the full clock in full service, of which TSLOW gives the microseconds. -/
  slowNs : Nat := 0
  tinlet : Nat := 0
  tjmax : Nat := 0
  flow : Nat := 0
  /-- Digests of the verified images, by row of Table 15.4. -/
  measures : Tab (List Byte) := []
  /-- Images in the firmware region, by row of Table 15.4: first byte and length (R400). -/
  fw : Tab (Nat × Nat) := []
  /-- Tag controllers that earlier boots have retired (R394). -/
  offCtls : List Nat := []
  /-- Units that have passed the self-test since boot; Bride links whose training has ended, and those that it has brought up; HBM is
  trained at full rate (R402). -/
  tested : List UnitName := []
  ended : List Nat := []
  links : List Nat := []
  hbmTrained : Bool := false
  /-- Faults in gap units that the self-test has not detected, and when they began (R393). -/
  gaps : List (UnitName × W64) := []
  /-- The device has stopped its clocks and left the link (R403). -/
  off : Bool := false
deriving DecidableEq, Repr

/-- A signal to the outside: an interrupt, or a report in a function's mailbox. -/
inductive Out where
  | queueIrq (fn q : Nat)
  | faultIrq (fn : Nat)
  | errorIrq
  | report (fn : Nat) (bytes : List Byte)
  /-- The answer to another device's access: whether it was made, and whether the bytes are poisoned. -/
  | remoteReply (dev : Nat) (ok pois : Bool) (bytes : List Byte)
  /-- A request to another device of the pod: the device, the issuer's number and function, and what it asks (R322). -/
  | podRequest (dev podid fn : Nat) (rq : RemoteReq)
deriving DecidableEq, Repr

/-- A halt request that has reached the scheduler (Table 14.6). -/
inductive HaltReq where
  | wgs (ids : List Nat) (how : Held)
deriving DecidableEq, Repr

/-- Where a fault strikes (Table 15.1): a register that a group reads, a scratchpad word, an accumulator row, a line of a core's L1, a
translation, an entry of a directory or filter, a line in a slice or the memory-side cache, an
entry of the shading tag store, a Bobbin memory, a line of HBM, a line of the
second tier, a flit, a vector multiplier. -/
inductive Struck where
  | reg (gid : Nat)
  | scratch (core off : Nat)
  | row (wg i : Nat)
  | l1 (core line : Nat)
  | tlb (i : Nat)
  | dir (key : Nat)
  | filter (key : Nat)
  | slice (line : Nat)
  | tagEntry (ctl pos : Nat)
  | bobMem (k : Nat)
  | hbm (line : Nat)
  | tier2 (line : Nat)
  | flit (core : Nat)
  | residue (gid : Nat)
deriving DecidableEq, Repr

/-- What the device does beside its instructions and the events of the table (R42, R340, R392 to R397, R402, R404). -/
inductive DevAct where
  /-- Firmware starts a group of the physical function at the privileged level (R42, file 18). -/
  | raisePriv (gid : Nat)
  /-- The memory-side cache evicts a line. -/
  | mscEvict (line : Nat)
  /-- The sensors are read. -/
  | senses
  /-- HBM training at full rate ends; the training of a Bride link ends, and the link is up or not (R402). -/
  | hbmTrained
  | linkTrains (link : Nat) (up : Bool)
  /-- A fault begins in a gap unit; such a unit corrupts a result: a register, the addresses of a copy's unit, the results of a `rast` or
  `trav`, the key that a tag controller holds for an entry (R393). -/
  | gapBegins (u : UnitName)
  | gapCorrupts (gid tid reg : Nat)
  | gapCopies (copy unit : Nat)
  | gapUnits (op : Nat)
  | gapEntries (ctl pos : Nat)
  /-- A fault strikes; `hard`: what the check cannot correct, as two bits of one word (Table 15.1). -/
  | strike (f : Struck) (hard : Bool)
deriving DecidableEq, Repr

/-- What acts at the next turn: a group of a core, a Bobbin core, an event of the table, or a write of memory by the host. -/
inductive Act where
  | group (gid : Nat)
  | bobbin (k : Nat)
  | event (i : Instr)
  | hostWrite (pa : Nat) (bytes : List Byte)
  /-- The device itself, beside its instructions. -/
  | device (d : DevAct)
deriving DecidableEq, Repr

/-- One turn of the schedule: nanoseconds and core cycles that pass before it, and who acts. -/
structure Turn where
  dt  : Nat
  dcyc : Nat
  act : Act
deriving DecidableEq, Repr

/-- Whose instruction `exec` executes. -/
inductive Cur where
  | none
  | group (gid : Nat)
  | bobbin (k : Nat)
deriving DecidableEq, Repr

end Sys2Proof.Machine
end

