-- ==== Sys2Proof/Machine/State.lean ====
section
/-! DEFINITION. The state of the machine, the reasons a step can stop, and the state after reset. -/

namespace Sys2Proof.Machine

/-- Why a step stops with a fault. -/
inductive Fault where
  /-- Raised by every operation after a thermal shutdown (R403): the device holds itself in reset and the host has lost it.
  Safe. -/
  | shutDown
deriving DecidableEq, Repr

/-- Why an operation is refused. -/
inductive Refusal where
  /-- The instruction has no meaning yet. Raised by `exec` alone. Safe. -/
  | notModelled (mnemonic : String)
  /-- A Thrum instruction outside any issue group, or a Bobbin instruction outside any invocation: nobody executes it. Raised
  by every such instruction. Safe. -/
  | noIssuer
  /-- An event that cannot happen in this state, named by its mnemonic: there is no such transition. Raised by the event
  meanings. Safe. -/
  | notEnabled (mnemonic : String)
  /-- An access that performs at the device-register window of Table 11.2 through a leaf of type 3: the spec does not place its
  registers there. Raised by loads, stores, atomics and copies. Safe. -/
  | deviceWindow
deriving DecidableEq, Repr

/-- The machine. -/
structure State where
  /-- The global time counter (R18) and the count of core cycles from which `sys.clk` is read. -/
  now     : W64
  cycles  : Nat
  /-- The schedule: what acts next (the model's own field). -/
  agenda  : List Turn
  /-- Whose turn it is (the model's own field). -/
  cur     : Cur
  /-- Counter of free values (the model's own field). -/
  fresh   : Nat
  /-- Next number for an access, an operation or an object (the model's own field). -/
  nextId  : Nat
  /-- Physical memory: HBM, second tier, host memory. An unlisted byte reads 0. -/
  mem     : List Host.Cell
  /-- Poisoned 16-byte units (R395); of a line outside SRAM all four or none. -/
  pois    : List Nat
  lines   : Tab Line
  tlb     : List TlbEnt
  /-- Sharers of page-table lines (R165, R310): by die and 512-byte region the holding clusters, by cluster and line the agents. -/
  dirs    : Tab (List Nat)
  filters : Tab (List Nat)
  /-- Incarnation of each caching agent (R385), and agents retired. -/
  incs    : Tab Nat
  retired : List Nat
  /-- Acknowledgements and lease returns that a dead agent still owes: agent and line (R386). -/
  late    : List (Nat × Nat)
  /-- Fault records that wait for the translation of their place: function and bytes (R371); functions whose save directory is to be
  written (R382). -/
  recsDue : List (Nat × List Byte)
  dirsDue : List Nat
  cores   : Tab Core
  groups  : Tab Group
  wgs     : Tab Wg
  loads   : Tab PLoad
  writes  : Tab PWrite
  fences  : Tab PFence
  picots  : Tab PPicot
  copies  : Tab Copy
  batches : Tab Batch
  shqs    : Tab PShq
  rts     : Tab PRt
  msgs    : Tab PMsg
  migs    : Tab PMig
  launches : Tab Launch
  deferred : Tab Deferred
  fns     : Tab Fn
  bobs    : Tab Bob
  /-- By cluster, the function whose turn the raster and traversal units' is, and its operations in the turn (R330). -/
  rtTurns : Tab (Nat × Nat)
  ctls    : Tab Ctl
  /-- Pseudo-channels of HBM by 64 × stack + channel (R340). -/
  chans   : Tab Chan
  /-- Activity of each queue's work since its last charge, by 4 × (65,536 × function + queue) + kind (R299). -/
  acts    : Tab Nat
  /-- Bandwidth periods, energy periods and energy charges that have taken place (R299, R340). -/
  bwPeriods : Nat
  enPeriods : Nat
  enCharges : Nat
  shade   : DevShade
  err     : ErrRegs
  boot    : Boot
  /-- `sys.podid` (R324). -/
  podid   : Nat
  halts   : List HaltReq
  out     : List Out
deriving DecidableEq, Repr

/-- The machine right after device reset: the time counter and the counters are zero (R18, R390), both planes of every core are
empty (R104), every register block holds its reset value (R208, R344, R370, R398), the frame counter is zero (R222),
SERVICE is 0 (R400), nothing is resident. DESIGN CHOICE (assumption 4). DEDUCED (assumption 91). -/
def State.reset : State :=
  { now := 0#64, cycles := 0, agenda := [], cur := .none, fresh := 0, nextId := 1, mem := [], pois := [], lines := [],
    tlb := [], dirs := [], filters := [], incs := [], retired := [], late := [], recsDue := [], dirsDue := [], cores := [],
    groups := [], wgs := [], loads := [], writes := [], fences := [],
    picots := [], copies := [], batches := [], shqs := [], rts := [], msgs := [], migs := [], launches := [],
    deferred := [], fns := [], bobs := [], rtTurns := [], ctls := [], chans := [], acts := [], bwPeriods := 0, enPeriods := 0,
    enCharges := 0, shade := {}, err := {}, boot := {}, podid := 0, halts := [], out := [] }

end Sys2Proof.Machine
end

