-- ==== Sys2Proof/Machine/Access.lean ====
section
/-! DEFINITION. Reading and updating the parts of the state, each part in one place. -/

namespace Sys2Proof.Machine

/-! ### Parts that always exist: an absent entry is the part at reset -/

def State.core (s : State) (c : Nat) : Core := tgetD s.cores c {}
def State.setCore (s : State) (c : Nat) (x : Core) : State := { s with cores := tset s.cores c x }
def State.modCore (s : State) (c : Nat) (f : Core → Core) : State := s.setCore c (f (s.core c))

def State.line (s : State) (l : Nat) : Line := tgetD s.lines l {}
def State.setLine (s : State) (l : Nat) (x : Line) : State := { s with lines := tset s.lines l x }
def State.modLine (s : State) (l : Nat) (f : Line → Line) : State := s.setLine l (f (s.line l))

def State.fnb (s : State) (f : Nat) : Fn := tgetD s.fns f {}
def State.setFn (s : State) (f : Nat) (x : Fn) : State := { s with fns := tset s.fns f x }
def State.modFn (s : State) (f : Nat) (g : Fn → Fn) : State := s.setFn f (g (s.fnb f))

def State.queue (s : State) (f q : Nat) : Queue := tgetD (s.fnb f).queues q {}
def State.setQueue (s : State) (f q : Nat) (x : Queue) : State :=
  s.modFn f (fun b => { b with queues := tset b.queues q x })
def State.modQueue (s : State) (f q : Nat) (g : Queue → Queue) : State := s.setQueue f q (g (s.queue f q))

def State.bob (s : State) (k : Nat) : Bob := tgetD s.bobs k {}
def State.setBob (s : State) (k : Nat) (x : Bob) : State := { s with bobs := tset s.bobs k x }
def State.modBob (s : State) (k : Nat) (f : Bob → Bob) : State := s.setBob k (f (s.bob k))

def State.ctl (s : State) (i : Nat) : Ctl := tgetD s.ctls i {}
def State.setCtl (s : State) (i : Nat) (x : Ctl) : State := { s with ctls := tset s.ctls i x }
def State.modCtl (s : State) (i : Nat) (f : Ctl → Ctl) : State := s.setCtl i (f (s.ctl i))

/-! ### Parts that come and go -/

def State.group? (s : State) (g : Nat) : Option Group := tget? s.groups g
def State.setGroup (s : State) (g : Nat) (x : Group) : State := { s with groups := tset s.groups g x }
def State.modGroup (s : State) (g : Nat) (f : Group → Group) : State := { s with groups := tmod s.groups g f }
def State.delGroup (s : State) (g : Nat) : State := { s with groups := terase s.groups g }

def State.wg? (s : State) (w : Nat) : Option Wg := tget? s.wgs w
def State.setWg (s : State) (w : Nat) (x : Wg) : State := { s with wgs := tset s.wgs w x }
def State.modWg (s : State) (w : Nat) (f : Wg → Wg) : State := { s with wgs := tmod s.wgs w f }
def State.delWg (s : State) (w : Nat) : State := { s with wgs := terase s.wgs w }

def Wg.thread (w : Wg) (t : Nat) : Thread := tgetD w.threads t {}
def Wg.modThread (w : Wg) (t : Nat) (f : Thread → Thread) : Wg :=
  { w with threads := tset w.threads t (f (w.thread t)) }

/-- The thread a reference names; the thread at its initial state when its workgroup is gone. -/
def State.thread (s : State) (r : ThRef) : Thread :=
  match s.wg? r.wg with
  | some w => w.thread r.tid
  | none => {}
/-- Updates a thread; a thread whose workgroup is gone takes no update. -/
def State.modThread (s : State) (r : ThRef) (f : Thread → Thread) : State :=
  s.modWg r.wg (fun w => w.modThread r.tid f)

def State.launch? (s : State) (l : Nat) : Option Launch := tget? s.launches l
def State.setLaunch (s : State) (l : Nat) (x : Launch) : State := { s with launches := tset s.launches l x }
def State.modLaunch (s : State) (l : Nat) (f : Launch → Launch) : State := { s with launches := tmod s.launches l f }

/-- A fresh number. -/
def State.newId (s : State) : Nat × State := (s.nextId, { s with nextId := s.nextId + 1 })
/-- A free value: nothing constrains it. -/
def State.free (s : State) : W64 × State := (Config.freeWord s.fresh, { s with fresh := s.fresh + 1 })
/-- A choice among `n` that the spec leaves to the device. -/
def State.choose (s : State) (n : Nat) : Nat × State :=
  (Config.choice s.fresh % n, { s with fresh := s.fresh + 1 })

/-- Bobbin cycles in a number of core cycles: half the core clock (R17). -/
def bobCycles (n : Nat) : Nat := n / 2

/-- Sends a signal to the outside. -/
def State.emit (s : State) (o : Out) : State := { s with out := s.out ++ [o] }

/-- Adds to a counter of Table 14.12. -/
def State.count (s : State) (c fn k n : Nat) : State :=
  s.modCore c (fun x => { x with ctr := tset x.ctr (16 * fn + k) (tgetD x.ctr (16 * fn + k) 0#64 + BitVec.ofNat 64 n) })

/-- Kinds of activity that energy is charged for (R299). -/
inductive Activity where
  | issue | array | access | copy
deriving DecidableEq, Repr

/-- Counts activity of a queue's work. -/
def actKey (fn q : Nat) (k : Activity) : Nat :=
  4 * (65536 * fn + q) + (match k with | .issue => 0 | .array => 1 | .access => 2 | .copy => 3)
def State.act (s : State) (fn q : Nat) (k : Activity) (n : Nat) : State :=
  { s with acts := tset s.acts (actKey fn q k) (tgetD s.acts (actKey fn q k) 0 + n) }
/-- Counts activity of a launch. -/
def State.actOf (s : State) (l : Nat) (k : Activity) (n : Nat) : State :=
  match s.launch? l with
  | some x => s.act x.fn x.queue k n
  | none => s

/-! ### The array queue and the planes of a tenant (R110, R331) -/

/-- Free entries of a function's share of the array queue: of all 8, or of 4 while two tenants share the core. -/
def Core.arrayFree (c : Core) (fn : Nat) : Nat :=
  (if c.tenants.length ≤ 1 then Config.arrayQueue else Config.arrayQueue / 2) - (c.opq.filter (fun o => o.fn == fn)).length

/-- Whether a function holds the array: alone on the core, or in its slice. -/
def Core.holdsArray (c : Core) (fn : Nat) : Bool := decide (c.tenants.length ≤ 1) || c.tenants[c.matHold]? == some fn

/-- The active and shadow planes of a function. -/
def Core.planes (c : Core) (fn : Nat) : Plane × Plane :=
  if c.holdsArray fn then (c.active, c.shadow)
  else match c.saved.find? (fun p => p.1 == fn) with
    | some p => p.2
    | none => ({}, {})

/-- Writes the planes of a function. -/
def Core.setPlanes (c : Core) (fn : Nat) (p : Plane × Plane) : Core :=
  if c.holdsArray fn then { c with active := p.1, shadow := p.2 }
  else { c with saved := (c.saved.filter (fun q => q.1 != fn)) ++ [(fn, p)] }

/-- The key of a line in a core's L1: tagged by function (R328). -/
def l1Key (fn l : Nat) : Nat := 64 * l + fn

/-! ### Memory -/

def State.read (s : State) (pa n : Nat) : List Byte := cread s.mem pa n
def State.readVal (s : State) (pa n : Nat) : Nat := cval s.mem pa n
/-- Writes bytes of memory, clearing the poison of the 16-byte units wholly covered (R395, R396). -/
def State.put (s : State) (pa : Nat) (bs : List Byte) : State :=
  { s with mem := cwrite s.mem pa bs, pois := poisWrite s.pois 16 pa bs.length false }
/-- Writes bytes with the poison of their source (R188). -/
def State.putPois (s : State) (pa : Nat) (bs : List Byte) (bad : Bool) : State :=
  { s with mem := cwrite s.mem pa bs, pois := poisWrite s.pois 16 pa bs.length bad }
def State.isPois (s : State) (pa n : Nat) : Bool := poisRead s.pois 16 pa n
/-- All four units of a line are poisoned: HBM and the second tier keep poison per line (R395). -/
def State.poisonLine (s : State) (l : Nat) : State := { s with pois := (upTo 4).foldl (fun p k => insertNat p (4 * l + k)) s.pois }
/-- A line leaves SRAM: with one unit poisoned, it lies below as a poisoned line (R395). -/
def State.leaveSram (s : State) (l : Nat) : State := if s.isPois (64 * l) 64 then s.poisonLine l else s

def State.scrRead (s : State) (c off n : Nat) : List Byte := cread (s.core c).scr off n
def State.scrPut (s : State) (c off : Nat) (bs : List Byte) (bad : Bool) : State :=
  s.modCore c (fun x => { x with scr := cwrite x.scr off bs, scrPois := poisWrite x.scrPois 16 off bs.length bad })
def State.scrIsPois (s : State) (c off n : Nat) : Bool := poisRead (s.core c).scrPois 16 off n

end Sys2Proof.Machine
end

