-- ==== Sys2Proof/Machine/Sig.lean ====
section
/-! DEFINITION. The signature of every Thrum instruction: what each field of its word names, which MOD bits it defines, whether it
rounds, whether it is privileged. From it follow the illegal-instruction and illegal-operand causes that R31 to R37 decide
from the encoding and the executing context. -/

namespace Sys2Proof

/-- What a source field names (R32, R33). -/
inductive SKind where
  | filler                      -- unused: 1022
  | src                         -- a 32-bit source of Table 2.4
  | srcNoLit                    -- the same, where the entry forbids a literal
  | pair                        -- a 64-bit source; a literal is widened
  | pairNoLit                   -- a 64-bit source, where the entry forbids a literal
  | quad                        -- a 128-bit source
  | span (n : Nat)              -- the first of `n` registers, no special value
  | pred                        -- a predicate, 0 to 7
  | target                      -- the literal of a relative branch: 1020
  | sel (ok : Nat → Bool)       -- a selector of its own

/-- What the destination field names. -/
inductive DKind where
  | filler                      -- unused: 1023
  | reg
  | pair
  | pairReg                     -- a pair; the null destination is refused
  | quad
  | token                       -- a single register, no null destination (R184)
  | pred                        -- a predicate, 0 to 7; p7 discards
  | conv                        -- a convergence register, 0 to 15

/-- The state of the executing context that R37 items 1 to 4 may look at: privilege, the kind of the launch, the register
count, the flags of the line, the service level, and the widths of the loaded formats. -/
structure EncCtx where
  priv    : Bool
  tatting : Bool
  nregs   : Nat
  line    : W32
  full    : Bool               -- the device is in full service (R402)
  fmt     : Tab W32            -- the loaded entries of the format table

/-- The signature of one instruction word. -/
structure Sig where
  d      : DKind := .reg
  a      : SKind := .filler
  b      : SKind := .filler
  c      : SKind := .filler
  e      : SKind := .filler
  mask   : Byte := 0#8         -- the MOD bits that the entry defines
  rounds : Bool := false
  zm     : Bool := true        -- ZM may be 1: the instruction has a destination
  priv   : Bool := false
  badI   : EncCtx → Bool := fun _ => false
  badO   : EncCtx → Bool := fun _ => false

/-- How many registers a source field of this kind names. -/
def SKind.width : SKind → Nat
  | .src | .srcNoLit => 1
  | .pair | .pairNoLit => 2
  | .quad => 4
  | .span n => n
  | _ => 0

/-- How many registers the destination names. -/
def DKind.width : DKind → Nat
  | .reg | .token => 1
  | .pair | .pairReg => 2
  | .quad => 4
  | _ => 0

/-- A run of `n` registers from `f` that is misaligned or reaches past the declared count (R33). -/
def badRun (f : Fld) (n nregs : Nat) : Bool :=
  (if n = 2 then f.toNat % 2 != 0 else if n = 4 then f.toNat % 4 != 0 else false) ||
    decide (768 < f.toNat + n) || decide (nregs < f.toNat + n)

/-- Illegal-operand of a source field, decided from the encoding (R32 to R34). `isE` is the E field, which never selects the
literal. -/
def SKind.badOperand (k : SKind) (isE : Bool) (f : Fld) (nregs : Nat) : Bool :=
  match k with
  | .filler => false
  | .src => if f = fLit then isE else if f = fLane ∨ f = fZero then false else badRun f 1 nregs
  | .srcNoLit => if f = fLit then true else if f = fLane ∨ f = fZero then false else badRun f 1 nregs
  | .pair => if f = fLit then isE else if f = fZero then false else badRun f 2 nregs
  | .pairNoLit => if f = fZero then false else badRun f 2 nregs
  | .quad => if f = fZero then false else badRun f 4 nregs
  | .span n => decide (768 < f.toNat + n) || decide (nregs < f.toNat + n)
  | .pred => decide (7 < f.toNat)
  | .target => f != fLit
  | .sel ok => !ok f.toNat

/-- Illegal-operand of the destination field (R32, R33). -/
def DKind.badOperand (k : DKind) (f : Fld) (nregs : Nat) : Bool :=
  match k with
  | .filler => false
  | .reg => if f = fNull then false else badRun f 1 nregs
  | .pair => if f = fNull then false else badRun f 2 nregs
  | .pairReg => badRun f 2 nregs
  | .quad => if f = fNull then false else badRun f 4 nregs
  | .token => badRun f 1 nregs
  | .pred => decide (7 < f.toNat)
  | .conv => decide (15 < f.toNat)

/-- How many of A, B and C hold 1020 (R34). -/
def litCount (w : TWord) : Nat :=
  (if w.a = fLit then 1 else 0) + (if w.b = fLit then 1 else 0) + (if w.c = fLit then 1 else 0)

/-- Whether EXT is the literal of the instruction: A, B or C holds 1020, whatever the field is used for (R34). -/
def Sig.usesLit (_ : Sig) (w : TWord) : Bool := w.a == fLit || w.b == fLit || w.c == fLit

/-- A source field that should hold its filler 1022 and does not (R35). -/
def SKind.badFiller (k : SKind) (f : Fld) : Bool :=
  match k with
  | .filler => f != fZero
  | _ => false

/-- A destination field that should hold its filler 1023 and does not (R35). -/
def DKind.badFiller (k : DKind) (f : Fld) : Bool :=
  match k with
  | .filler => f != fNull
  | _ => false

/-- The flag field of the line word that FE and FS name: SETA in bits 19:16, SETB in bits 15:12 (Table 2.1). -/
def lineFlag (line : W32) (fs : Bool) : Nat :=
  if fs then (line.extractLsb' 12 4).toNat else (line.extractLsb' 16 4).toNat

/-- Illegal-instruction, R37 item 3: a reserved MOD or EXT bit, RM = 7, a broken R35, a condition of the entry, a privileged
instruction executed without privilege, or FE = 1 naming a flag field that holds 15. -/
def Sig.illegalInstr (g : Sig) (w : TWord) (x : EncCtx) : Bool :=
  (w.md &&& ~~~ g.mask != 0#8) || g.d.badFiller w.d || g.a.badFiller w.a || g.b.badFiller w.b || g.c.badFiller w.c ||
  (!g.usesLit w && (extRsv w != 0 || extRM w == 7 || (!g.rounds && extRM w != 0) || (!g.zm && extZM w) ||
    g.e.badFiller (extE w))) ||
  g.badI x || (g.priv && !x.priv) || (w.fe && lineFlag x.line w.fs == 15)

/-- Illegal-operand decided from the encoding, R37 item 4. -/
def Sig.illegalOperand (g : Sig) (w : TWord) (x : EncCtx) : Bool :=
  g.d.badOperand w.d x.nregs || g.a.badOperand false w.a x.nregs || g.b.badOperand false w.b x.nregs ||
  g.c.badOperand false w.c x.nregs || (!g.usesLit w && g.e.badOperand true (extE w) x.nregs) ||
  decide (1 < litCount w) || g.badO x

/-! ### The formats a TAG names -/

/-- The width w = S + e + m of a narrow format's elements (R57). -/
def descWidth (x : W32) : Nat := fieldN x.toNat 15 1 + fieldN x.toNat 12 3 + fieldN x.toNat 8 4

/-- Bits per element of a format tag: 32, 64, 16, 8 or 4 by container (R61, Table 3.7); 0 for an empty or reserved entry. -/
def tagBits (fmt : Tab W32) (t : Nat) : Nat :=
  if t = 0 then 8 else if t ≤ 3 then 32 else if t ≤ 5 then 16 else if t = 6 then 64
  else if t = 7 ∨ t = 8 ∨ t = 10 ∨ t = 11 ∨ t = 13 then 8
  else if t = 9 ∨ t = 12 then 4
  else if t < 16 then 0
  else match tget? fmt t with
    | some x => if descWidth x ≤ 4 then 4 else 8
    | none => 0

/-- A tag no instruction may write: 14, 15, or an empty entry (R63). -/
def badTag (fmt : Tab W32) (t : Nat) : Bool :=
  decide (64 ≤ t) || t == 14 || t == 15 || (decide (16 ≤ t) && (tget? fmt t).isNone)

/-- Tags that are never array formats (R105). -/
def notArrayTag (t : Nat) : Bool := t ≤ 3 || t == 6 || t == 13 || t == 14 || t == 15

/-- A TAG that reduced service refuses: byte or nibble class (R402). -/
def reducedBad (x : EncCtx) (t : Nat) : Bool := !x.full && t != 4 && t != 5

/-! ### Class 0x0 and 0x1 (R80 to R88) -/

/-- TAG and T of `mov` and `sel`: TAG zero unless T; 14 and 15 refused (R82, R87). -/
def badMovTag (w : TWord) : Bool :=
  if mdB w 6 then mdF w 0 6 == 14 || mdF w 0 6 == 15 else mdF w 0 6 != 0

def sig3 (mask : Byte) : Sig := { a := .src, b := .src, mask := mask }
def sigAdd (_ : TWord) : Sig := sig3 0x03#8
def sigSub (_ : TWord) : Sig := sig3 0x03#8
def sigMul (_ : TWord) : Sig := sig3 0x03#8
def sigMulhi (_ : TWord) : Sig := sig3 0x01#8
def sigMad (_ : TWord) : Sig := { sig3 0x03#8 with c := .src }
def sigMulw (_ : TWord) : Sig := { sig3 0x01#8 with d := .pair }
def sigMadw (_ : TWord) : Sig := { sig3 0x03#8 with d := .pair, c := .pair }
def sigAddc (_ : TWord) : Sig := sig3 0xFE#8
def sigSubc (_ : TWord) : Sig := sig3 0xFE#8
def sigMin (_ : TWord) : Sig := sig3 0x01#8
def sigMax (_ : TWord) : Sig := sig3 0x01#8
def sigAbs (_ : TWord) : Sig := { a := .src, mask := 0x02#8 }
def sigNeg (_ : TWord) : Sig := { a := .src, mask := 0x03#8 }
def sigCmp (w : TWord) : Sig := { sig3 0x1D#8 with d := .pred, badI := fun _ => decide (6 ≤ mdF w 2 3) }
def sigSel (w : TWord) : Sig := { sig3 0xFF#8 with c := .pred, badI := fun _ => badMovTag w }

def sigAnd (_ : TWord) : Sig := sig3 0#8
def sigOr (_ : TWord) : Sig := sig3 0#8
def sigXor (_ : TWord) : Sig := sig3 0#8
def sigNot (_ : TWord) : Sig := { a := .src }
def sigLop3 (_ : TWord) : Sig := { sig3 0xFF#8 with c := .src }
def sigShl (_ : TWord) : Sig := sig3 0x02#8
def sigShr (_ : TWord) : Sig := sig3 0x03#8
def sigFsh (_ : TWord) : Sig := { sig3 0x03#8 with c := .src }
def sigBfe (_ : TWord) : Sig := sig3 0x01#8
def sigBfi (_ : TWord) : Sig := { sig3 0#8 with c := .src }
def sigPopc (_ : TWord) : Sig := { a := .src }
def sigClz (_ : TWord) : Sig := { a := .src }
def sigCtz (_ : TWord) : Sig := { a := .src }
def sigBrev (_ : TWord) : Sig := { a := .src }
def sigMov (w : TWord) : Sig := { a := .src, mask := 0x7F#8, badI := fun _ => badMovTag w }
def sigPlop (_ : TWord) : Sig := { d := .pred, a := .pred, b := .pred, c := .pred, mask := 0xFF#8 }
def sigP2r (_ : TWord) : Sig := {}
def sigR2p (_ : TWord) : Sig := { d := .filler, a := .src, mask := 0x7F#8 }

/-! ### Classes 0x2 to 0x5 (R89 to R100) -/

def sigFadd (_ : TWord) : Sig := { sig3 0x5B#8 with rounds := true }
def sigFsub (_ : TWord) : Sig := { sig3 0x5B#8 with rounds := true }
def sigFmul (_ : TWord) : Sig := { sig3 0x5B#8 with rounds := true }
def sigFfma (_ : TWord) : Sig := { sig3 0x7F#8 with c := .src, rounds := true }
def sigFmin (_ : TWord) : Sig := sig3 0x5B#8
def sigFmax (_ : TWord) : Sig := sig3 0x5B#8
def sigFcmp (_ : TWord) : Sig := { sig3 0x1B#8 with d := .pred, c := .sel (· ≤ 7) }

/-- `cvt`: C is read only when the destination is one half of a packed register (R92). -/
def sigCvt (w : TWord) : Sig :=
  { a := .src, c := if mdF w 0 4 ≤ 2 then .sel (· == 1022) else .src, mask := 0xFF#8, rounds := true,
    badI := fun _ => decide (7 ≤ mdF w 0 4) || decide (7 ≤ mdF w 4 4) }

/-- A TAG that `cvtn` refuses (R93). -/
def badCvtnTag (t : Nat) : Bool := !(decide (7 ≤ t ∧ t ≤ 13) || decide (16 ≤ t))

def sigCvtnPack (w : TWord) : Sig :=
  { a := .quad, b := .quad, mask := 0xFF#8, rounds := true,
    badI := fun _ => badCvtnTag (mdF w 0 6) || mdB w 6,
    badO := fun x => tagBits x.fmt (mdF w 0 6) != 4 && w.b != fZero }
/-- `cvtn.unpack` with a B field other than 1022 is an illegal instruction. DEDUCED (assumption 16). -/
def sigCvtnUnpack (w : TWord) : Sig :=
  { d := .quad, a := .src, mask := 0xFF#8, rounds := true,
    badI := fun x => badCvtnTag (mdF w 0 6) || (mdB w 6 && tagBits x.fmt (mdF w 0 6) != 4) }
def sigSettag (w : TWord) : Sig :=
  { a := .src, mask := 0x3F#8, badI := fun _ => mdF w 0 6 == 14 || mdF w 0 6 == 15 }
def sigGettag (_ : TWord) : Sig := { a := .src }
def sigFrcp (_ : TWord) : Sig := { a := .src, mask := 0x09#8, rounds := true }
def sigFrsqrt (_ : TWord) : Sig := { a := .src, mask := 0x09#8 }
def sigFsqrt (_ : TWord) : Sig := { a := .src, mask := 0x09#8, rounds := true }
def sigFexp2 (_ : TWord) : Sig := { a := .src, mask := 0x09#8 }
def sigFlog2 (_ : TWord) : Sig := { a := .src, mask := 0x09#8 }
def sigFsin (_ : TWord) : Sig := { a := .src, mask := 0x09#8 }
def sigFcos (_ : TWord) : Sig := { a := .src, mask := 0x09#8 }

def sigHadd2 (_ : TWord) : Sig := { sig3 0x17#8 with rounds := true }
def sigHsub2 (_ : TWord) : Sig := { sig3 0x17#8 with rounds := true }
def sigHmul2 (_ : TWord) : Sig := { sig3 0x17#8 with rounds := true }
def sigHfma2 (_ : TWord) : Sig := { sig3 0x1F#8 with c := .src, rounds := true }
def sigHmin2 (_ : TWord) : Sig := sig3 0x17#8
def sigHmax2 (_ : TWord) : Sig := sig3 0x17#8
def sigDp4a (_ : TWord) : Sig := { sig3 0x07#8 with c := .src }
def sigDp2bf (_ : TWord) : Sig := { sig3 0x0E#8 with c := .src, rounds := true }

def sigD3 (mask : Byte) : Sig := { d := .pair, a := .pair, b := .pair, mask := mask }
def sigDadd (_ : TWord) : Sig := { sigD3 0x5B#8 with rounds := true }
def sigDsub (_ : TWord) : Sig := { sigD3 0x5B#8 with rounds := true }
def sigDmul (_ : TWord) : Sig := { sigD3 0x5B#8 with rounds := true }
def sigDfma (_ : TWord) : Sig := { sigD3 0x7F#8 with c := .pair, rounds := true }
def sigDmin (_ : TWord) : Sig := sigD3 0x5B#8
def sigDmax (_ : TWord) : Sig := sigD3 0x5B#8
def sigDcmp (_ : TWord) : Sig := { sigD3 0x1B#8 with d := .pred, c := .sel (· ≤ 7) }

/-- The kinds `dcvt` takes (R100). -/
def dcvtKind (k : Nat) : Bool := k ≤ 2 || k == 7
def sigDcvt (w : TWord) : Sig :=
  { d := if mdF w 0 4 = 7 then .pair else .reg, a := if mdF w 4 4 = 7 then .pair else .src, mask := 0xFF#8, rounds := true,
    badI := fun _ => !dcvtKind (mdF w 0 4) || !dcvtKind (mdF w 4 4) || (mdF w 0 4 != 7 && mdF w 4 4 != 7) }

/-! ### Classes 0x6 and 0x7 (R253, R260) -/

def badWid (w : TWord) (lo : Nat) : Bool := decide (6 ≤ mdF w lo 3)
def sigShfl (w : TWord) : Sig := { sig3 0xFF#8 with badI := fun _ => badWid w 2 }
def sigPush (w : TWord) : Sig := { sig3 0xFC#8 with badI := fun _ => badWid w 2 }
def sigVote (w : TWord) : Sig := { a := .pred, mask := 0xFF#8, badI := fun _ => badWid w 2 }
/-- `match` in mode 0 with QP other than 7 is an illegal instruction. DEDUCED (assumption 15). -/
def sigMatch (w : TWord) : Sig :=
  { a := .src, mask := 0xFF#8,
    badI := fun _ => badWid w 2 || decide (2 ≤ mdF w 0 2) || (mdF w 0 2 == 0 && mdF w 5 3 != 7) }
def sigXred (w : TWord) : Sig :=
  { a := .src, mask := 0x7F#8, badI := fun _ => badWid w 4 || decide (11 ≤ mdF w 0 4) }
def sigXscan (w : TWord) : Sig :=
  { a := .src, mask := 0xFF#8, badI := fun _ => badWid w 4 || decide (11 ≤ mdF w 0 4) }

def sigPlain : Sig := { d := .filler, zm := false }
def sigNop (_ : TWord) : Sig := sigPlain
def sigBra (_ : TWord) : Sig := { sigPlain with a := .target }
def sigBrx (_ : TWord) : Sig := { sigPlain with a := .pairNoLit }
def sigCall (_ : TWord) : Sig := { d := .pairReg, a := .target, mask := 0x01#8, zm := false }
def sigCallInd (_ : TWord) : Sig := { d := .pairReg, a := .pairNoLit, mask := 0x01#8, zm := false }
def sigRet (_ : TWord) : Sig := { sigPlain with a := .pairNoLit }
def sigReform (_ : TWord) : Sig := sigPlain
def sigYield (_ : TWord) : Sig := sigPlain
def sigPoll (w : TWord) : Sig :=
  { a := if mdB w 6 then .pair else .src, b := .src, mask := 0x4F#8, zm := false }
def sigSleep (_ : TWord) : Sig := { sigPlain with a := .src }
def sigRegion (_ : TWord) : Sig := sigPlain
def sigExit (_ : TWord) : Sig := sigPlain
def sigTrap (_ : TWord) : Sig := { sigPlain with mask := 0xFF#8 }
def sigBkpt (_ : TWord) : Sig := sigPlain

/-! ### Classes 0x8 and 0x9 (R171 to R182) -/

/-- Bytes of an access by SZ (Table 7.2). -/
def szBytes (sz : Nat) : Nat :=
  if sz = 0 ∨ sz = 5 then 1 else if sz = 1 ∨ sz = 6 then 2 else if sz = 2 then 4 else if sz = 3 then 8 else 16

def dstOf (n : Nat) : DKind := if n = 8 then .pair else if n = 16 then .quad else .reg
def srcOf (n : Nat) : SKind := if n = 8 then .pair else if n = 16 then .quad else .src
def baseOf (wide : Bool) : SKind := if wide then .pair else .src

/-- The tag selector of a load (R175). -/
def badTagSel (sz c : Nat) : Bool :=
  decide (64 ≤ c) || c == 14 || c == 15 || ((sz == 0 || sz == 1 || sz == 5 || sz == 6) && decide (3 ≤ c))

def badLoadMod (w : TWord) : Bool :=
  mdF w 0 3 == 7 || mdF w 3 3 == 3 || decide (5 ≤ mdF w 3 3)
def badStoreMod (w : TWord) : Bool :=
  decide (5 ≤ mdF w 0 3) || mdF w 3 3 == 2 || decide (5 ≤ mdF w 3 3)

def sigLd (w : TWord) : Sig :=
  { d := dstOf (szBytes (mdF w 0 3)), a := baseOf (mdB w 6), b := .src, c := .sel (fun c => !badTagSel (mdF w 0 3) c),
    mask := 0xFF#8, badI := fun _ => badLoadMod w }
def sigLds (w : TWord) : Sig :=
  { d := dstOf (szBytes (mdF w 0 3)), a := .src, b := .src, c := .sel (fun c => !badTagSel (mdF w 0 3) c),
    mask := 0xBF#8, badI := fun _ => badLoadMod w }
def sigSt (w : TWord) : Sig :=
  { d := .filler, a := baseOf (mdB w 6), b := .src, c := srcOf (szBytes (mdF w 0 3)), mask := 0xFF#8, zm := false,
    badI := fun _ => badStoreMod w }
def sigSts (w : TWord) : Sig :=
  { d := .filler, a := .src, b := .src, c := srcOf (szBytes (mdF w 0 3)), mask := 0xBF#8, zm := false,
    badI := fun _ => badStoreMod w }
def sigPf (w : TWord) : Sig :=
  { d := .filler, a := baseOf (mdB w 6), b := .src, mask := 0x43#8, zm := false, badI := fun _ => mdF w 0 2 == 3 }
def sigEvict (w : TWord) : Sig :=
  { d := .filler, a := baseOf (mdB w 6), b := .src, mask := 0x43#8, zm := false, badI := fun _ => decide (2 ≤ mdF w 0 2) }

/-- Bytes of an atomic by OPC (Table 7.4). -/
def opcBytes (opc : Nat) : Nat := if 10 ≤ opc then 8 else 4
def badAtomMod (w : TWord) : Bool := decide (14 ≤ mdF w 0 4) || decide (6 ≤ mdF w 4 3)

def sigAtom (w : TWord) : Sig :=
  { d := dstOf (opcBytes (mdF w 0 4)), a := baseOf (mdB w 7), b := .src, c := srcOf (opcBytes (mdF w 0 4)), mask := 0xFF#8,
    badI := fun _ => badAtomMod w }
def sigAtomn (w : TWord) : Sig :=
  { d := .filler, a := baseOf (mdB w 7), b := .src, c := srcOf (opcBytes (mdF w 0 4)), mask := 0xFF#8, zm := false,
    badI := fun _ => badAtomMod w || !(mdF w 4 3 == 0 || mdF w 4 3 == 1 || mdF w 4 3 == 3) }
def sigAtoms (w : TWord) : Sig :=
  { d := dstOf (opcBytes (mdF w 0 4)), a := .src, b := .src, c := srcOf (opcBytes (mdF w 0 4)), mask := 0x7F#8,
    badI := fun _ => badAtomMod w }
def sigCas (w : TWord) : Sig :=
  { d := if mdB w 0 then .pair else .reg, a := baseOf (mdB w 7), b := .src, c := if mdB w 0 then .quad else .pairNoLit,
    mask := 0xF1#8, badI := fun _ => decide (6 ≤ mdF w 4 3) }
def sigCass (w : TWord) : Sig :=
  { d := if mdB w 0 then .pair else .reg, a := .src, b := .src, c := if mdB w 0 then .quad else .pairNoLit,
    mask := 0x71#8, badI := fun _ => decide (6 ≤ mdF w 4 3) }
def sigFence (w : TWord) : Sig := { sigPlain with mask := 0x03#8, badI := fun _ => mdF w 0 2 == 0 }

/-! ### Class 0xA (R184, R201) -/

def sigAcp (w : TWord) : Sig :=
  { d := .token, a := if mdF w 0 2 = 0 then .src else .pair, b := if mdF w 0 2 = 1 then .src else .pair, c := .src,
    e := if mdF w 0 2 = 0 then .src else .sel (· == 1022), mask := 0x03#8, badI := fun _ => mdF w 0 2 == 3 }
def sigTcp (_ : TWord) : Sig := { d := .token, a := .src, b := .quad, c := .pair, e := .src }
def badRect (w : TWord) : Bool := decide (4 < mdF w 0 3) || decide (4 < mdF w 3 3)
def sigTmc (w : TWord) : Sig := { sigTcp w with mask := 0x3F#8, badI := fun _ => badRect w }
def sigTsf (w : TWord) : Sig := { sigTcp w with mask := 0x3F#8, badI := fun _ => badRect w }
def sigTst (_ : TWord) : Sig := { d := .token, a := .src, b := .quad, c := .pair }
def sigTrst (w : TWord) : Sig := { sigTst w with mask := 0x01#8 }
def sigRcp (_ : TWord) : Sig := { d := .token, a := .pair, b := .pair, c := .src, e := .pairNoLit }
def sigPinit (_ : TWord) : Sig := { d := .filler, a := .src, b := .src, c := .src, zm := false }
def sigParr (_ : TWord) : Sig := { a := .src }
def sigParrb (_ : TWord) : Sig := { a := .src, b := .src }
def sigPwait (_ : TWord) : Sig := { d := .filler, a := .src, b := .src, zm := false }
def sigPtest (_ : TWord) : Sig := { d := .pred, a := .src, b := .src }

/-! ### Class 0xB (R121 to R134) -/

def sigConv : Sig := { d := .conv, zm := false }
def sigCinit (_ : TWord) : Sig := { d := .conv, zm := false, a := .src }
def sigMjoin (_ : TWord) : Sig := sigConv
/-- Block scales: B32 without BS, or BS with a tag that is not a floating format of byte or nibble class (R121, R125). -/
def badBlock (w : TWord) : Bool :=
  (mdB w 7 && !mdB w 6) || (mdB w 6 && (mdF w 0 6 == 4 || mdF w 0 6 == 5 || mdF w 0 6 == 7 || mdF w 0 6 == 8 || mdF w 0 6 == 9))
def sigMld (w : TWord) : Sig :=
  { d := .conv, zm := false, a := .src, b := if mdB w 6 then .src else .filler, mask := 0xFF#8,
    badI := fun x => notArrayTag (mdF w 0 6) || badBlock w || reducedBad x (mdF w 0 6) }
def sigMldq (_ : TWord) : Sig := { d := .conv, zm := false, a := .src, b := .src }
def sigMswap (_ : TWord) : Sig := sigConv
/-- `mstream` with BS = 1 refuses an activation tag of 7, 8 or 9 (R128), and a tag that is no array format. -/
def sigMstream (w : TWord) : Sig :=
  { d := .conv, zm := false, a := .src, b := .src, c := if mdB w 6 then .src else .filler, mask := 0xFF#8,
    badI := fun x => notArrayTag (mdF w 0 6) || (mdB w 7 && !mdB w 6) ||
      (mdB w 6 && decide (7 ≤ mdF w 0 6 ∧ mdF w 0 6 ≤ 9)) || reducedBad x (mdF w 0 6) }
/-- Tags that `mdrain` converts to (R132). -/
def badDrainTag (t : Nat) : Bool := t == 0 || t == 6 || t == 13 || t == 14 || t == 15
def sigMdrain (w : TWord) : Sig :=
  { d := .conv, zm := false, a := .src, b := .src, c := .src, e := .src, mask := 0x7F#8, rounds := true,
    badI := fun _ => badDrainTag (mdF w 0 6) }
def sigMzero (_ : TWord) : Sig := { d := .conv, zm := false, a := .src, mask := 0x01#8 }
def sigMrowSt (w : TWord) : Sig :=
  { d := .conv, zm := false, a := .src, b := .src, mask := 0xBF#8, badI := fun _ => mdF w 0 6 != 0 }
def sigMrowLd (w : TWord) : Sig :=
  { d := .conv, zm := false, a := .src, b := .src, mask := 0xBF#8, badI := fun _ => !(mdF w 0 6 == 1 || mdF w 0 6 == 3) }

/-! ### Classes 0xC and 0xD (R212, R294) -/

def sigRast (_ : TWord) : Sig := { a := .src, b := .src, zm := false }
def sigTrav (_ : TWord) : Sig := { d := .quad, a := .src, zm := false }
def sigShq (_ : TWord) : Sig := { d := .quad, a := .pairNoLit, zm := false }
def sigShpark (_ : TWord) : Sig := { d := .pred, a := .pairNoLit, b := .pairNoLit, c := .span 8, zm := false }
def sigShfill (_ : TWord) : Sig :=
  { d := .pred, a := .pairNoLit, b := .src, c := .src, mask := 0x01#8, zm := false }
def sigShfillDrop (w : TWord) : Sig := sigShfill w
def sigShinv (_ : TWord) : Sig := { sigPlain with a := .src, b := .src }
def sigShtick (_ : TWord) : Sig := { zm := false }
def sigLaunch (_ : TWord) : Sig := { d := .pred, a := .srcNoLit, b := .src, zm := false }
def sigTdone (_ : TWord) : Sig := { sigPlain with badI := fun x => !x.tatting }
def sigSigdec (_ : TWord) : Sig := { d := .pair, a := .pairNoLit, b := .src, zm := false }
def sigRole (_ : TWord) : Sig := { zm := false }

/-! ### Class 0xE (R387 to R391, R101, R102, R314, R315, R321, R364) -/

/-- Width and access of a system register (Table 14.11): 64-bit, writable, privileged. -/
structure SysReg where
  wide  : Bool
  write : Bool
  priv  : Bool

/-- Table 14.11. -/
def sysReg? (n : Nat) : Option SysReg :=
  if n = 0x02 ∨ n = 0x03 ∨ n = 0x0B ∨ n = 0x18 ∨ n = 0x1A then some ⟨true, false, false⟩
  else if n = 0x13 then some ⟨true, true, false⟩
  else if 0x10 ≤ n ∧ n ≤ 0x16 then some ⟨false, true, false⟩
  else if n ≤ 0x05 ∨ (0x08 ≤ n ∧ n ≤ 0x0F) ∨ n = 0x19 ∨ n = 0x1B then some ⟨false, false, false⟩
  else if n = 0x20 then some ⟨false, false, true⟩
  else if n = 0x21 then some ⟨true, true, true⟩
  else if n = 0x22 then some ⟨true, false, true⟩
  else none

def sysWide (w : TWord) : Bool := match sysReg? w.a.toNat with | some r => r.wide | none => false
def sysPriv (w : TWord) : Bool := match sysReg? w.a.toNat with | some r => r.priv | none => false

def sigSysr (w : TWord) : Sig :=
  { d := if sysWide w then .pair else .reg, a := .sel (fun n => (sysReg? n).isSome),
    badI := fun x => sysPriv w && !x.priv }
def sigSysw (w : TWord) : Sig :=
  { d := .filler, a := .sel (fun n => match sysReg? n with | some r => r.write | none => false),
    b := if sysWide w then .pair else .src, zm := false, badI := fun x => sysPriv w && !x.priv }
def sigLdfmt (w : TWord) : Sig :=
  { sigPlain with a := .src, mask := 0x7F#8, priv := true, badI := fun _ => decide (mdF w 0 6 < 16) }
def sigLdfmtClr (w : TWord) : Sig :=
  { sigPlain with mask := 0x7F#8, priv := true, badI := fun _ => decide (mdF w 0 6 < 16) }
def sigLdovf (_ : TWord) : Sig := { sigPlain with a := .quad, priv := true }
def sigXsync (_ : TWord) : Sig := sigPlain
def sigSplinter (_ : TWord) : Sig :=
  { a := .pairNoLit, b := .pairNoLit, c := .pairNoLit, mask := 0x01#8, zm := false, priv := true }
def sigMigrate (w : TWord) : Sig := sigSplinter w
def sigCtrr (_ : TWord) : Sig := { d := .pair, a := .src }
def sigTret (_ : TWord) : Sig := { sigPlain with mask := 0x01#8, priv := true }
def sigBmsg (_ : TWord) : Sig := { d := .quad, a := .span 8, b := .src, zm := false }

end Sys2Proof
end

