-- ==== Sys2Proof/Machine/NumFmt.lean ====
section
/-! DEFINITION. Number formats, exact values, rounding and the sticky flags that rounding sets (R49 to R73). -/

namespace Sys2Proof

/-- An exact value: a NaN (sign, and its fraction as 52 bits with the quiet bit on top), an infinity, or the number
±(m + ε) · 2^e, where 0 < ε < 1 if `st` (the value is known to lie strictly between two neighbours) and ε = 0 otherwise.
`m = 0` without `st` is a signed zero. -/
inductive Ex where
  | nan (sg : Bool) (pay : Nat)
  | inf (sg : Bool)
  | fin (sg : Bool) (m : Nat) (e : Int) (st : Bool)
deriving DecidableEq, Repr

/-- The quiet bit of a NaN's fraction. -/
def quietBit : Nat := 2 ^ 51
/-- A canonical NaN (R55). -/
def exNaN : Ex := .nan false quietBit
/-- A signed zero. -/
def exZero (sg : Bool) : Ex := .fin sg 0 0 false
/-- An integer as an exact value. -/
def exInt (x : Int) : Ex := .fin (decide (x < 0)) x.natAbs 0 false
/-- A NaN, made quiet. -/
def exQuiet : Ex → Ex
  | .nan s p => .nan s (p ||| quietBit)
  | x => x
def Ex.isNaN : Ex → Bool
  | .nan _ _ => true
  | _ => false
/-- A signalling NaN: its quiet bit is 0 (R55). -/
def Ex.isSNaN : Ex → Bool
  | .nan _ p => !p.testBit 51
  | _ => false
def Ex.isInf : Ex → Bool
  | .inf _ => true
  | _ => false
def Ex.isZero : Ex → Bool
  | .fin _ 0 _ false => true
  | _ => false
def Ex.sign : Ex → Bool
  | .nan s _ => s
  | .inf s => s
  | .fin s _ _ _ => s

/-- A floating-point format: sign bit present, exponent bits, fraction bits, bias, specials policy (R58 to R60, Table 3.3). -/
structure FltFmt where
  sg   : Bool
  e    : Nat
  m    : Nat
  bias : Int
  pol  : Nat
deriving DecidableEq, Repr

/-- The format of an element: floating, integer or scaled integer (R52, R59), or E8M0 (R62). -/
inductive Fmt where
  | flt (f : FltFmt)
  | sint (signed : Bool) (w : Nat) (bias : Int)
  | e8m0
deriving DecidableEq, Repr

def f64F : FltFmt := ⟨true, 11, 52, 1023, 0⟩
def f32F : FltFmt := ⟨true, 8, 23, 127, 0⟩
def f16F : FltFmt := ⟨true, 5, 10, 15, 0⟩
def bf16F : FltFmt := ⟨true, 8, 7, 127, 0⟩
def e4m3F : FltFmt := ⟨true, 4, 3, 7, 1⟩
def e5m2F : FltFmt := ⟨true, 5, 2, 15, 0⟩
def e2m1F : FltFmt := ⟨true, 2, 1, 1, 2⟩

/-- The BIAS of a descriptor, signed (Table 3.4). -/
def descBias (x : W32) : Int := (x.extractLsb' 24 8).toInt
/-- The exponent bits of a descriptor. -/
def descE (x : W32) : Nat := fieldN x.toNat 12 3
/-- The mantissa bits of a descriptor. -/
def descM (x : W32) : Nat := fieldN x.toNat 8 4
/-- The specials policy of a descriptor. -/
def descSpec (x : W32) : Nat := fieldN x.toNat 16 2
/-- Whether a descriptor has a sign bit. -/
def descS (x : W32) : Bool := x.getLsbD 15

/-- A valid narrow-format descriptor (R57). -/
def descValid (x : W32) : Bool :=
  decide (2 ≤ descWidth x) && decide (descWidth x ≤ 8) && descSpec x != 3 && (descE x != 0 || descSpec x == 2) &&
  (descSpec x != 0 || (decide (2 ≤ descE x) && decide (1 ≤ descM x))) && (descSpec x != 1 || decide (1 ≤ descE x)) &&
  fieldN x.toNat 18 6 == 0 && fieldN x.toNat 0 8 == 0 && decide (descM x ≤ 8)

/-- The element format that a valid descriptor defines (R58, R59). -/
def fmtOfDesc (x : W32) : Fmt :=
  if descE x = 0 then .sint (descS x) (descWidth x) (descBias x)
  else .flt ⟨descS x, descE x, descM x, descBias x, descSpec x⟩

/-- The element format of a tag (Table 3.7): none for untyped, reserved and empty entries. -/
def fmtOfTag (fmt : Tab W32) (t : Nat) : Option Fmt :=
  if t = 1 then some (.sint true 32 0) else if t = 2 then some (.sint false 32 0)
  else if t = 3 then some (.flt f32F) else if t = 4 then some (.flt f16F) else if t = 5 then some (.flt bf16F)
  else if t = 6 then some (.flt f64F) else if t = 7 then some (.sint true 8 0) else if t = 8 then some (.sint false 8 0)
  else if t = 9 then some (.sint true 4 0) else if t = 10 then some (.flt e4m3F) else if t = 11 then some (.flt e5m2F)
  else if t = 12 then some (.flt e2m1F) else if t = 13 then some .e8m0
  else if t < 16 then none
  else (tget? fmt t).map fmtOfDesc

/-- The code of the largest finite magnitude (R60). -/
def FltFmt.maxCode (f : FltFmt) : Nat :=
  if f.pol = 0 then (2 ^ f.e - 1) * 2 ^ f.m - 1
  else if f.pol = 1 then 2 ^ (f.e + f.m) - 2
  else 2 ^ (f.e + f.m) - 1
/-- The sign bit of a code, in its place. -/
def FltFmt.signBit (f : FltFmt) (s : Bool) : Nat := if f.sg && s then 2 ^ (f.e + f.m) else 0
/-- Whether the format has an infinity. -/
def FltFmt.hasInf (f : FltFmt) : Bool := f.pol == 0
/-- Whether the format has a NaN. -/
def FltFmt.hasNaN (f : FltFmt) : Bool := f.pol == 0 || f.pol == 1
/-- The code of an infinity (Table 3.5). -/
def FltFmt.infCode (f : FltFmt) (s : Bool) : Nat := f.signBit s + (2 ^ f.e - 1) * 2 ^ f.m
/-- The code of the canonical NaN with the given sign (R60). -/
def FltFmt.canonNaN (f : FltFmt) (s : Bool) : Nat :=
  if f.pol = 0 then f.signBit s + (2 ^ f.e - 1) * 2 ^ f.m + 2 ^ (f.m - 1)
  else f.signBit s + (2 ^ (f.e + f.m) - 1)

/-- The value of a code of a floating format (R58, R60, Table 3.5). -/
def FltFmt.val (f : FltFmt) (code : Nat) : Ex :=
  let c := code % 2 ^ (f.e + f.m)
  let s := f.sg && code.testBit (f.e + f.m)
  let x := c / 2 ^ f.m
  let fr := c % 2 ^ f.m
  if f.pol = 0 ∧ x = 2 ^ f.e - 1 then
    if fr = 0 then .inf s else .nan s (fr * 2 ^ (52 - f.m))
  else if f.pol = 1 ∧ c = 2 ^ (f.e + f.m) - 1 then .nan s quietBit
  else if x = 0 then .fin s fr (1 - f.bias - f.m) false
  else .fin s (2 ^ f.m + fr) ((x : Int) - f.bias - f.m) false

/-- `Val` (Table 2.7): the value that a code denotes. -/
def Fmt.val (f : Fmt) (code : Nat) : Ex :=
  match f with
  | .flt g => g.val code
  | .sint sg w b =>
    let n : Int := if sg && code.testBit (w - 1) then ((code % 2 ^ w : Nat) : Int) - 2 ^ w else ((code % 2 ^ w : Nat) : Int)
    .fin (decide (n < 0)) n.natAbs (-b) false
  | .e8m0 => if code % 256 = 255 then .nan false quietBit else .fin false 1 (((code % 256 : Nat) : Int) - 127) false

/-! ### The sticky flags and the generator -/

/-- The sticky flags of `sys.fpstat` (Table 3.2): NV DZ OF UF NX in bits 4 to 0. -/
abbrev Sticky := BitVec 5
def stNX : Sticky := 1#5
def stUF : Sticky := 2#5
def stOF : Sticky := 4#5
def stDZ : Sticky := 8#5
def stNV : Sticky := 16#5

/-- One step of the 32-bit generator (R65). -/
def genStep (x : W32) : W32 :=
  let a := x ^^^ (x <<< 13)
  let b := a ^^^ (a >>> 17)
  b ^^^ (b <<< 5)

/-- What a rounding step reads besides its value: the mode (Table 3.8), the flush bits and the overflow table (Table 3.9). -/
structure RCtx where
  rm    : Nat
  ftz   : Bool
  ftz64 : Bool
  ovf   : BitVec 128
deriving DecidableEq, Repr

/-- What a rounding step changes: the generator and the sticky flags. -/
structure RSt where
  seed  : W32
  flags : Sticky
deriving DecidableEq, Repr

/-- `Sticky(k)` (Table 2.7). -/
def RSt.set (r : RSt) (k : Sticky) : RSt := { r with flags := r.flags ||| k }
/-- Sets a sticky flag if the condition holds. -/
def RSt.setIf (r : RSt) (c : Bool) (k : Sticky) : RSt := if c then r.set k else r
/-- The generator step that each call of Round takes under stochastic rounding (R65). -/
def RSt.tick (r : RSt) (rm : Nat) : RSt := if rm = 6 then { r with seed := genStep r.seed } else r

/-- Whether Table 3.8 chooses the value away from zero. The discarded part is (num + ε) / 2^sh of the last place, with
0 < ε < 1 if `st`; `odd` is bit 0 of the lower code, `u` the generator's output. -/
def roundsUp (rm : Nat) (neg odd : Bool) (num sh : Nat) (st : Bool) (u : W32) : Bool :=
  let inexact := num != 0 || st
  if rm = 1 then decide (2 ^ sh < 2 * num) || (2 * num == 2 ^ sh && (st || odd))
  else if rm = 3 then inexact && !neg
  else if rm = 4 then inexact && neg
  else if rm = 5 then decide (2 ^ sh ≤ 2 * num)
  else if rm = 6 then decide (u.toNat * 2 ^ sh < num * 2 ^ 32) || (num * 2 ^ 32 == u.toNat * 2 ^ sh && st)
  else false

/-- The overflow-table entry of tag `t` (Table 3.9). -/
def ovfEntry (ovf : BitVec 128) (t : Nat) : Nat := fieldN ovf.toNat (2 * t) 2

/-- `OvfCode` (R67, R68). -/
def FltFmt.ovfCode (f : FltFmt) (ovf : BitVec 128) (t : Nat) (neg : Bool) (rm : Nat) : Nat :=
  let big := f.signBit neg + f.maxCode
  if rm = 2 ∨ (rm = 3 ∧ neg) ∨ (rm = 4 ∧ !neg) then big
  else
    let a := ovfEntry ovf t
    if a = 0 then big
    else if a = 1 then (if f.hasInf then f.infCode neg else if f.hasNaN then f.canonNaN neg else big)
    else (if f.hasNaN then f.canonNaN neg else if f.hasInf then f.infCode neg else big)

/-- A NaN sent to a floating format (R55). -/
def FltFmt.nanCode (f : FltFmt) (s : Bool) (pay : Nat) : Nat :=
  if f.pol = 0 then
    f.signBit s + (2 ^ f.e - 1) * 2 ^ f.m + ((pay / 2 ^ (52 - f.m)) % 2 ^ f.m ||| 2 ^ (f.m - 1))
  else f.canonNaN s

/-- Bits below the leading bit of `m · 2^e`: its floor(log2). -/
def lg (m : Nat) (e : Int) : Int := (Nat.log2 m : Int) + e

/-- `Round(x, t, rm)` to a floating format (R66). `flush` says that results of the format flush (R54). -/
def roundFlt (f : FltFmt) (t : Nat) (flush : Bool) (c : RCtx) (r0 : RSt) (x : Ex) : Nat × RSt :=
  let r := r0.tick c.rm
  match x with
  | .nan s p => if f.hasNaN then (f.nanCode s p, r) else (0, r.set stNV)
  | .inf s =>
    if !f.sg && s then (0, r.set stNV)
    else if f.hasInf then (f.infCode s, r)
    else (f.ovfCode c.ovf t s c.rm, r.set (stOF ||| stNX))
  | .fin s m e st =>
    if m = 0 ∧ st = false then (f.signBit s, r)
    else if !f.sg && s then (0, r.set stNV)
    else
      let tiny := decide (lg m e < 1 - f.bias)
      if flush && tiny then (f.signBit s, r.set (stUF ||| stNX))
      else
        let k := if lg m e < 1 - f.bias then 1 - f.bias else lg m e
        let sh := (k - f.m - e).toNat
        let lo := if k - f.m ≤ e then m * 2 ^ (e - (k - f.m)).toNat else m / 2 ^ sh
        let num := m % 2 ^ sh
        let code := (k - (1 - f.bias)).toNat * 2 ^ f.m + lo
        let up := roundsUp c.rm s (code % 2 == 1) num sh st r.seed
        let y := if up then code + 1 else code
        if f.maxCode < y then (f.ovfCode c.ovf t s c.rm, r.set (stOF ||| stNX))
        else
          let inexact := num != 0 || st
          (f.signBit s + y, (r.setIf inexact stNX).setIf (inexact && tiny) stUF)

/-- Rounding to an integer or scaled-integer format (R69): the bounds of the format are `lo` and `hi`. -/
def roundIntTo (lo hi : Int) (bias : Int) (c : RCtx) (r0 : RSt) (x : Ex) : Int × RSt :=
  let r := r0.tick c.rm
  match x with
  | .nan _ _ => (0, r.set stNV)
  | .inf s => (if s then lo else hi, r.set stNV)
  | .fin s m e0 st =>
    let e := e0 + bias
    let sh := (-e).toNat
    let q := if 0 ≤ e then m * 2 ^ e.toNat else m / 2 ^ sh
    let num := m % 2 ^ sh
    let up := roundsUp c.rm s (q % 2 == 1) num sh st r.seed
    let y : Int := if up then (q : Int) + 1 else q
    let v := if s then -y else y
    if v < lo then (lo, r.set stNV)
    else if hi < v then (hi, r.set stNV)
    else (v, r.setIf (num != 0 || st) stNX)

/-- The bounds of a scaled-integer format of `w` bits. -/
def sintLo (sg : Bool) (w : Nat) : Int := if sg then -(2 ^ (w - 1) : Int) else 0
def sintHi (sg : Bool) (w : Nat) : Int := if sg then (2 ^ (w - 1) : Int) - 1 else (2 ^ w : Int) - 1

/-- Rounding to E8M0 (R62). -/
def roundE8m0 (t : Nat) (c : RCtx) (r0 : RSt) (x : Ex) : Nat × RSt :=
  let r := r0.tick c.rm
  let ovfl : Nat × RSt :=
    -- largest finite 0xFE, NaN 0xFF, no infinity (R67, R68)
    (if c.rm = 2 ∨ c.rm = 4 then 0xFE else if ovfEntry c.ovf t = 0 then 0xFE else 0xFF, r.set (stOF ||| stNX))
  match x with
  | .nan _ _ => (0xFF, r.set stNV)
  | .inf s => if s then (0xFF, r.set stNV) else ovfl
  | .fin s m e st =>
    if s || (m == 0 && !st) then (0xFF, r.set stNV)
    else if lg m e < -127 then (0x00, r.set (stUF ||| stNX))
    else
      let k := lg m e
      let sh := Nat.log2 m
      let num := m - 2 ^ sh
      let code := (k + 127).toNat
      let up := roundsUp c.rm false (code % 2 == 1) num sh st r.seed
      let y := if up then code + 1 else code
      if 0xFE < y then ovfl else (y, r.setIf (num != 0 || st) stNX)

/-- `Round` to any format (R66, R62, R69). -/
def roundTo (f : Fmt) (t : Nat) (flush : Bool) (c : RCtx) (r : RSt) (x : Ex) : Nat × RSt :=
  match f with
  | .flt g => roundFlt g t flush c r x
  | .sint sg w b =>
    let (v, r') := roundIntTo (sintLo sg w) (sintHi sg w) b c r x
    ((v % 2 ^ w).toNat, r')
  | .e8m0 => roundE8m0 t c r x

/-! ### Exact operations -/

/-- The signed integer ±m · 2^(e − lo), for e ≥ lo. -/
def scaled (sg : Bool) (m : Nat) (e lo : Int) : Int :=
  let v : Int := (m * 2 ^ (e - lo).toNat : Nat)
  if sg then -v else v

/-- A signed integer times 2^e; a zero takes the sign `z`. -/
def exOf (v : Int) (e : Int) (z : Bool) : Ex := if v = 0 then exZero z else .fin (decide (v < 0)) v.natAbs e false

/-- The exact sum of two values that are no NaN; none where it is ∞ − ∞. An exact zero has the sign of R56. -/
def exAdd (rdn : Bool) (a b : Ex) : Option Ex :=
  match a, b with
  | .inf s, .inf u => if s = u then some (.inf s) else none
  | .inf s, _ => some (.inf s)
  | _, .inf u => some (.inf u)
  | .fin s m e _, .fin u n g _ =>
    let lo := if e ≤ g then e else g
    some (exOf (scaled s m e lo + scaled u n g lo) lo (if s = u then s else rdn))
  | _, _ => none

/-- The exact product of two values that are no NaN; none where it is 0 × ∞. -/
def exMul (a b : Ex) : Option Ex :=
  match a, b with
  | .fin s m e _, .fin u n g _ => some (.fin (s != u) (m * n) (e + g) false)
  | .inf s, .fin u n _ _ => if n = 0 then none else some (.inf (s != u))
  | .fin s m _ _, .inf u => if m = 0 then none else some (.inf (s != u))
  | .inf s, .inf u => some (.inf (s != u))
  | _, _ => none

/-- The value with its sign inverted. -/
def exNeg : Ex → Ex
  | .nan s p => .nan (!s) p
  | .inf s => .inf (!s)
  | .fin s m e st => .fin (!s) m e st

/-- Whether a < b for values that are no NaN; −0 and +0 compare equal. -/
def exLt (a b : Ex) : Bool :=
  match a, b with
  | .inf s, .inf u => s && !u
  | .inf s, _ => s
  | _, .inf u => !u
  | .fin s m e _, .fin u n g _ =>
    let lo := if e ≤ g then e else g
    decide (scaled s m e lo < scaled u n g lo)
  | _, _ => false

/-- Whether a = b for values that are no NaN. -/
def exEq (a b : Ex) : Bool := !a.isNaN && !b.isNaN && !exLt a b && !exLt b a

/-- The exact sum of several values that are no NaN; none where infinities of both signs meet. An exact zero has the common
sign of the terms, else the sign of R56. -/
def exSum (rdn : Bool) (xs : List Ex) : Option Ex :=
  match xs with
  | [] => some (exZero false)
  | x :: rest =>
    if xs.any (· == .inf true) then (if xs.any (· == .inf false) then none else some (.inf true))
    else if xs.any (· == .inf false) then some (.inf false)
    else
      let same := rest.all (fun y => y.sign == x.sign)
      rest.foldl (fun acc y => match acc with
        | some a => match exAdd rdn a y with
          | some r => some (if r.isZero then exZero (if same then x.sign else rdn) else r)
          | none => none
        | none => none) (some x)

/-- A subnormal of the format becomes a zero of its sign when flushing applies (R54). -/
def flushSrc (f : FltFmt) (flush : Bool) (x : Ex) : Ex :=
  match x with
  | .fin s m e st => if flush && m != 0 && decide (lg m e < 1 - f.bias) then exZero s else .fin s m e st
  | y => y

/-- The first NaN of a list, quieted. -/
def firstNaN (xs : List Ex) : Option Ex := (xs.find? (·.isNaN)).map exQuiet

/-! ### Square root and quotient, exactly rounded -/

/-- The integer square root, one bit a step from bit `n − 1` down. -/
def isqrtGo (x : Nat) : Nat → Nat → Nat
  | 0, acc => acc
  | n + 1, acc => isqrtGo x n (if (acc + 2 ^ n) * (acc + 2 ^ n) ≤ x then acc + 2 ^ n else acc)

/-- floor(√x). -/
def isqrt (x : Nat) : Nat := isqrtGo x (Nat.log2 x / 2 + 1) 0

/-- 1/x for a finite non-zero x, with 200 significant bits. -/
def exRecip (sg : Bool) (m : Nat) (e : Int) : Ex :=
  let p := Nat.log2 m + 200
  .fin sg (2 ^ p / m) (-(p : Int) - e) (2 ^ p % m != 0)

/-- √x for a positive x, with about 200 significant bits. -/
def exSqrt (m : Nat) (e : Int) : Ex :=
  let odd := e % 2 != 0
  let m1 := if odd then 2 * m else m
  let e1 := if odd then e - 1 else e
  let y := m1 * 2 ^ 400
  let q := isqrt y
  .fin false q (e1 / 2 - 200) (q * q != y)

/-- 1/√x for a positive x, with about 200 significant bits. -/
def exRsqrt (m : Nat) (e : Int) : Ex :=
  let odd := e % 2 != 0
  let m1 := if odd then 2 * m else m
  let e1 := if odd then e - 1 else e
  let p := 2 * ((Nat.log2 m1) + 200)
  let q := isqrt (2 ^ p / m1)
  .fin false q (-(p : Int) / 2 - e1 / 2) (q * q * m1 != 2 ^ p)

end Sys2Proof
end

