-- ==== Sys2Proof/Machine/Operands.lean ====
section
/-! DEFINITION. Operand forms: guards, sources by Table 2.4, pairs and quads by R33, literals by R34 and R76, tag checks by R38,
effective addresses by R171 and R174. -/

namespace Sys2Proof.Machine

/-- Tag sets of R74 and after. -/
def tINT (t : Nat) : Bool := decide (t ≤ 2)
def tIs (k t : Nat) : Bool := t == k
def tAny (_ : Nat) : Bool := true

/-- P[i]; P[7] is always 1 (R36). -/
def Thread.pred (th : Thread) (i : Nat) : Bool := if i = 7 then true else th.preds.getLsbD i
/-- Writes P[i]; a write of p7 is discarded (R32). -/
def Thread.setPred (th : Thread) (i : Nat) (b : Bool) : Thread :=
  if 7 ≤ i then th
  else { th with preds := if b then th.preds ||| BitVec.ofNat 7 (2 ^ i) else th.preds &&& ~~~ BitVec.ofNat 7 (2 ^ i) }

/-- The guard of a thread: P[PI] XOR PN (R36). -/
def Thread.guard (th : Thread) (w : TWord) : Bool := th.pred w.pi.toNat != w.pn

/-- A thread register. -/
def Thread.reg (th : Thread) (n : Nat) : Reg := tgetD th.regs n {}
/-- Writes a thread register with its tag (R38). -/
def Thread.setReg (th : Thread) (n : Nat) (v : W32) (t : Nat) : Thread :=
  { th with regs := tset th.regs n ⟨v, BitVec.ofNat 6 t⟩ }
/-- Writes consecutive registers with one tag. -/
def Thread.setRegs : Thread → Nat → List W32 → Nat → Thread
  | th, _, [], _ => th
  | th, n, v :: vs, t => Thread.setRegs (th.setReg n v t) (n + 1) vs t

/-- A 32-bit source by Table 2.4, with its copied tag (R74): the literal and zero copy tag 0, the home lane copies U32. -/
def srcReg (w : TWord) (th : Thread) (lane : Nat) (f : Fld) : Reg :=
  if f = fLit then ⟨w.ext, 0#6⟩
  else if f = fLane then ⟨BitVec.ofNat 32 lane, 2#6⟩
  else if f = fZero then ⟨0#32, 0#6⟩
  else th.reg f.toNat

/-- `Src(F)` (Table 2.7). -/
def src (w : TWord) (th : Thread) (lane : Nat) (f : Fld) : W32 := (srcReg w th lane f).v

/-- The copied tag of a source (R74). -/
def srcTag (w : TWord) (th : Thread) (lane : Nat) (f : Fld) : Nat := (srcReg w th lane f).t.toNat

/-- A 64-bit source: a pair, zero, or the literal widened with or without its sign (R33, R34, R76). -/
def srcPair (w : TWord) (th : Thread) (signed : Bool) (f : Fld) : W64 :=
  if f = fLit then (if signed then w.ext.signExtend 64 else w.ext.zeroExtend 64)
  else if f = fZero then 0#64
  else (th.reg (f.toNat + 1)).v ++ (th.reg f.toNat).v

/-- The `n` registers a wide source names, zeros for 1022. -/
def srcWide (w : TWord) (th : Thread) (f : Fld) (n : Nat) : List W32 :=
  if f = fZero then List.replicate n 0#32
  else if f = fLit then w.ext :: List.replicate (n - 1) 0#32
  else (upTo n).map (fun i => (th.reg (f.toNat + i)).v)

/-- `Require` (Table 2.7) on the `n` registers a source names: the literal and zero satisfy every check, the home lane those
that allow U32 or I32 (R38). -/
def tagOk (th : Thread) (f : Fld) (n : Nat) (set : Nat → Bool) : Bool :=
  if f = fLit ∨ f = fZero then true
  else if f = fLane then set 2 || set 1
  else (upTo n).all (fun i => set (th.reg (f.toNat + i)).t.toNat)

/-- The low and high halves of a 64-bit value. -/
def lo32 (x : W64) : W32 := x.truncate 32
def hi32 (x : W64) : W32 := x.extractLsb' 32 32
/-- A 64-bit value as a register pair. -/
def pairOf (x : W64) : List W32 := [lo32 x, hi32 x]

/-- Whether any source of the word selects the literal, so that EXT is no extension word (R34). -/
def litWord (g : Sig) (w : TWord) : Bool := g.usesLit w
/-- RM of the word, 0 when EXT is the literal (R34). -/
def wordRM (g : Sig) (w : TWord) : Nat := if g.usesLit w then 0 else extRM w
/-- ZM of the word, 0 when EXT is the literal (R34). -/
def wordZM (g : Sig) (w : TWord) : Bool := !g.usesLit w && extZM w
/-- The E field of the word, 1022 when EXT is the literal (R34). -/
def wordE (g : Sig) (w : TWord) : Fld := if g.usesLit w then fZero else extE w

/-- `RMode()` (Table 2.7): RM, else the thread's default mode (Table 3.1). -/
def rMode (g : Sig) (w : TWord) (th : Thread) : Nat :=
  if wordRM g w = 0 then (th.fpctl.extractLsb' 0 3).toNat else wordRM g w

/-- What a rounding step of the thread reads. -/
def rCtx (g : Sig) (w : TWord) (th : Thread) (ovf : BitVec 128) : RCtx :=
  { rm := rMode g w th, ftz := th.fpctl.getLsbD 3, ftz64 := th.fpctl.getLsbD 4, ovf := ovf }

/-- The effective address of R171. -/
def effAddr (w : TWord) (th : Thread) (lane : Nat) (wide : Bool) : W64 :=
  let base := if wide then srcPair w th false w.a else th.abase + (src w th lane w.a).zeroExtend 64
  base + (src w th lane w.b).signExtend 64

/-- The tag checks of R171 on the base and the displacement. -/
def addrTagsOk (w : TWord) (th : Thread) (wide : Bool) : Bool :=
  tagOk th w.a (if wide then 2 else 1) tINT && tagOk th w.b 1 tINT

/-- The scratchpad offset of R174. -/
def scrOffset (w : TWord) (th : Thread) (lane : Nat) : Nat := (src w th lane w.a + src w th lane w.b).toNat

/-- The program counter of the next slot: slot 0 of the next line after slot 4 (R24, R25). -/
def nextPc (pc : W64) : W64 :=
  if pc.extractLsb' 0 3 = 4#3 then (pc &&& ~~~ 7#64) + 64#64 else pc + 1#64
/-- The line address of a program counter. -/
def pcLine (pc : W64) : W64 := pc &&& ~~~ 63#64
/-- The slot of a program counter. -/
def pcSlot (pc : W64) : Nat := (pc.extractLsb' 0 3).toNat
/-- A malformed program counter (R24). -/
def pcBad (pc : W64) : Bool :=
  decide (5 ≤ pcSlot pc) || pc.extractLsb' 3 3 != 0#3 || pc.extractLsb' 55 9 != 0#9

end Sys2Proof.Machine
end

