-- ==== Sys2Proof/Machine/Flags.lean ====
section
/-! DEFINITION. Completion flags and their counts (R27), the scoreboard (R28), and the sticky flags of a thread (R51). -/

namespace Sys2Proof.Machine

/-- The completion flag an instruction is attached to: the one its line names, when FE is 1 (R27). -/
def flagOf (g : Group) (w : TWord) : Option Nat := if w.fe then some (lineFlag g.line w.fs) else none

/-- The count of a completion flag. -/
def Thread.flagCount (th : Thread) (n : Nat) : Nat := tgetD th.flags n 0
def Thread.flagInc (th : Thread) (n : Nat) : Thread := { th with flags := tset th.flags n (th.flagCount n + 1) }
def Thread.flagDec (th : Thread) (n : Nat) : Thread := { th with flags := tset th.flags n (th.flagCount n - 1) }
/-- Where a thread counts operations that it signed with a flag before it was saved: every flag is clear after a re-entry (R383), yet a wait
for the flag lasts until they complete (R113, R416). DEDUCED (assumption 22). -/
def owedFlag (f : Nat) : Nat := if f < 16 then f + 16 else f
/-- What a WAIT for a flag looks at. -/
def Thread.flagWaits (th : Thread) (f : Nat) : Bool := th.flagCount f != 0 || th.flagCount (owedFlag f) != 0
/-- Increments or decrements the flag if there is one. -/
def Thread.flagUp (th : Thread) (f : Option Nat) : Thread :=
  match f with
  | some n => th.flagInc n
  | none => th
def Thread.flagDown (th : Thread) (f : Option Nat) : Thread :=
  match f with
  | some n => th.flagDec n
  | none => th

/-- The scoreboard key of a predicate. -/
def predKey (i : Nat) : Nat := 1024 + i

/-- Whether a write to the register or predicate is still to come (R28). -/
def Thread.pending (th : Thread) (k : Nat) : Bool := tgetD th.pend k 0 != 0
def Thread.pendInc (th : Thread) (k : Nat) : Thread := { th with pend := tset th.pend k (tgetD th.pend k 0 + 1) }
def Thread.pendDec (th : Thread) (k : Nat) : Thread := { th with pend := tset th.pend k (tgetD th.pend k 0 - 1) }
def Thread.pendIncs (th : Thread) (k n : Nat) : Thread := (spanN k n).foldl Thread.pendInc th
def Thread.pendDecs (th : Thread) (k n : Nat) : Thread := (spanN k n).foldl Thread.pendDec th

/-- The scoreboard keys a source field names. -/
def skeys (k : SKind) (f : Fld) : List Nat :=
  match k with
  | .pred => if f.toNat < 7 then [predKey f.toNat] else []
  | .filler | .target | .sel _ => []
  | _ => if decide (f.toNat < 768) then spanN f.toNat k.width else []

/-- The scoreboard keys the destination names. A token register is no key of its own copy (R184). -/
def dkeys (k : DKind) (f : Fld) : List Nat :=
  match k with
  | .pred => if f.toNat < 7 then [predKey f.toNat] else []
  | .filler | .conv | .token => []
  | _ => if decide (f.toNat < 768) then spanN f.toNat k.width else []

/-- The predicates that MOD names in `addc`, `subc` and class 0x6, and those of `p2r` and `r2p`, as scoreboard keys. -/
def extraKeys (ps : List Nat) : List Nat := (ps.filter (fun i => decide (i < 7))).map predKey

/-- Everything an instruction word names, as scoreboard keys. -/
def wordKeys (g : Sig) (w : TWord) (extra : List Nat) : List Nat :=
  dkeys g.d w.d ++ skeys g.a w.a ++ skeys g.b w.b ++ skeys g.c w.c ++
    (if g.usesLit w then [] else skeys g.e (extE w)) ++ extra

/-- A write of the thread's guard is still to come. -/
def Thread.guardOpen (th : Thread) (w : TWord) : Bool := decide (w.pi.toNat < 7) && th.pending (predKey w.pi.toNat)

/-- Whether a copy's token register holds the thread back: a write of it is to come, and the thread does not join the batch that
makes it but opens one, or writes zero (R28, R158, R184). -/
def Thread.tokenWaits (th : Thread) (w : TWord) (zm : Bool) : Bool :=
  th.pending w.d.toNat && (if th.guard w then (tget? th.tokens w.d.toNat).isNone else zm)

/-- What the thread waits for on the scoreboard: its guard; then, if it executes or its destination is zeroed, whatever the
instruction names that is still to be written (R28). -/
def Thread.waitsOn (th : Thread) (g : Sig) (w : TWord) (extra : List Nat) : List Nat :=
  if th.guardOpen w then [predKey w.pi.toNat]
  else
    (if th.guard w || wordZM g w then (wordKeys g w extra).filter th.pending else []) ++
      (match g.d with
       | .token => if th.tokenWaits w (wordZM g w) then [w.d.toNat] else []
       | _ => [])

/-- Whether the thread must wait on the scoreboard. -/
def Thread.mustWait (th : Thread) (g : Sig) (w : TWord) (extra : List Nat) : Bool := !(th.waitsOn g w extra).isEmpty

/-- Whether an increment of the flag would pass 63 (R27). -/
def Thread.flagFull (th : Thread) (f : Option Nat) : Bool :=
  match f with
  | some n => decide (63 ≤ th.flagCount n)
  | none => false

/-- Adds sticky flags to `sys.fpstat` (R51). -/
def Thread.sticky (th : Thread) (k : Sticky) : Thread := { th with fpstat := th.fpstat ||| k.zeroExtend 32 }

end Sys2Proof.Machine
end

