-- ==== Sys2Proof/Machine/Trans.lean ====
section
/-! DEFINITION. Address translation: the physical map (Table 11.2), the walk (R304 to R306), the agents' cached translations (R308), the
permission check (R307), the residency check (R284) and the export tables of the pod window (R322, R323). -/

namespace Sys2Proof.Machine

/-! ### Places on the package -/

/-- `sys.core` of a core (Table 1.2): X = core mod 20, Y = core div 20. -/
def coreX (c : Nat) : Nat := c % 20
def coreY (c : Nat) : Nat := c / 20
/-- The core at a position (R7). -/
def coreAt (x y : Nat) : Nat := y * 20 + x
/-- Cluster index of a core (R10). -/
def clusterOf (c : Nat) : Nat := 10 * (coreY c / 2) + coreX c / 2
/-- The cores of a cluster. -/
def coresOf (k : Nat) : List Nat :=
  let x := 2 * (k % 10)
  let y := 2 * (k / 10)
  [coreAt x y, coreAt (x + 1) y, coreAt x (y + 1), coreAt (x + 1) (y + 1)]
/-- `sys.core` (R11, Table 1.2). -/
def sysCore (c : Nat) : W32 :=
  BitVec.ofNat 32 ((2 * (coreY c / 10) + coreX c / 10) * 2 ^ 24 + (coreX c % 2 + 2 * (coreY c % 2)) * 2 ^ 22 +
    clusterOf c * 2 ^ 15 + coreY c * 2 ^ 5 + coreX c)
/-- Base die of a cluster (R11). -/
def dieOf (k : Nat) : Nat := 2 * (k / 50) + k % 10 / 5
/-- The cluster whose slice is the home of a line: a fixed hash selects it (R139). -/
def homeSlice (line : Nat) : Nat := Config.homeHash line % Config.numClusters

/-! ### The physical map -/

/-- Regions of the physical map (Table 11.2). -/
inductive Region where
  | hbm | tier2 | dev | host
deriving DecidableEq, Repr

/-- The region of a physical address; none outside the map (R303). -/
def regionOf (pa : Nat) : Option Region :=
  if pa < 0xC000000000 then some .hbm
  else if 0x200000000000 ≤ pa ∧ pa < 0x400000000000 ∧ pa < 0x200000000000 + Config.tier2Bytes then some .tier2
  else if 0x4000000000000 ≤ pa ∧ pa < 0x4000100000000 then some .dev
  else if 0x8000000000000 ≤ pa ∧ pa < 0x10000000000000 then some .host
  else none

/-- HBM or the second tier. -/
def Region.isMem : Region → Bool
  | .hbm | .tier2 => true
  | .dev | .host => false

/-- Whether an address lies in tiers 0 or 1, where page tables and frames may be (Table 11.2). -/
def inTiers (pa : Nat) : Bool := match regionOf pa with | some r => r.isMem | none => false

/-- Memory types a leaf may give a region (Table 11.2, R140). -/
def mtOk (r : Region) (mt : Nat) : Bool :=
  match r with
  | .hbm | .tier2 => decide (mt ≤ 2)
  | .dev => mt == 3
  | .host => mt == 2 || mt == 3

/-- Whether a line lies in HBM. -/
def hbmLine (l : Nat) : Bool := match regionOf (64 * l) with | some .hbm => true | _ => false

/-! ### Lines in their slice, and the DRAM below (R340, Table 6.2) -/

/-- A line enters its home slice: its history starts anew (R142). -/
def Line.enter (x : Line) : Line := if x.present then x else { x with present := true, hist := 1 }

/-- An access of the memory type leaves the line in its slice; an I/O access bypasses it, a streaming one gives the line the lowest
retention priority (Table 6.2). -/
def Line.visit (mt : Nat) (x : Line) : Line :=
  if mt = 3 then x else { x.enter with low := x.low || mt == 1 }

/-- Charges tokens to a function (R340, R341). -/
def State.charge (s : State) (fn n : Nat) : State :=
  s.modFn fn (fun b => { b with
    ten := { b.ten with balance := b.ten.balance - n, bwused := b.ten.bwused + BitVec.ofNat 32 n } })

/-- The pseudo-channel of a line: 64 to a stack (R14, R340). -/
def chanOf (l : Nat) : Nat := 64 * (Config.stackOf (l / 16) % 12) + Config.dramChannel l % 64

/-- A burst of 64 bytes: 1 token, 4 for a row that it opens, 4 for a turnaround, of which the function on each side pays 2 (Table 12.5).
DESIGN CHOICE (assumption 62). -/
def State.burst (s : State) (fn l : Nat) (wr : Bool) : State :=
  let c := tgetD s.chans (chanOf l) {}
  let open_ := tget? c.rows (Config.dramBank l) == some (Config.dramRow l)
  let s1 := s.charge fn (if open_ then 1 else 5)
  let s2 := (match c.last with
    | some (g, w) => if w = wr then s1 else (s1.charge g 2).charge fn 2
    | none => s1)
  let c' : Chan := { rows := tset c.rows (Config.dramBank l) (Config.dramRow l), last := some (fn, wr) }
  { s2 with chans := tset s2.chans (chanOf l) c' }

/-- Below the slice and the memory-side cache the line's bytes come from DRAM. -/
def State.fromDram (s : State) (l : Nat) : Bool := !(s.line l).present && !(s.line l).msc && hbmLine l

/-- The bytes of a line come to its home for a request of a function. -/
def State.fetchIn (s : State) (fn l : Nat) : State := if s.fromDram l then s.burst fn l false else s

/-- A request of a function reaches a line's home: what it needs from below is charged to it, and the line stands in its slice as the
memory type says. -/
def State.touch (s : State) (fn l mt : Nat) : State :=
  if mt = 3 then s else (s.fetchIn fn l).modLine l (Line.visit mt)

/-- A line leaves the memory-side cache: one that has been written is written back, which is charged to its last writer. -/
def State.mscEvicts (s : State) (l : Nat) : State :=
  let s1 := (match (s.line l).dirty with
    | some f => if hbmLine l then s.burst f l true else s
    | none => s)
  (s1.leaveSram l).modLine l (fun x => { x with msc := false, dirty := none })

/-- The translation agents by number (Table 11.6): core TLBs, walk caches, walk-ahead caches, Bobbin TLBs, export caches.
DESIGN CHOICE (assumption 68). -/
def agTlb (core : Nat) : Nat := core
def agWalk (core : Nat) : Nat := 400 + core
def agAhead (core : Nat) : Nat := 800 + core
def agBob (k : Nat) : Nat := 1200 + k
def agExport (port : Nat) : Nat := 1300 + port
/-- The other agents that carry an incarnation (R385): the L1 of a core, a Bobbin core. -/
def agL1 (core : Nat) : Nat := 2000 + core
def agBobCore (k : Nat) : Nat := 2400 + k
/-- Whoever accesses memory on the device's own behalf, with translations that no cache holds: the front end and the writers of fault
records and context images. -/
def agFront : Nat := 3000

/-- Entries of an agent (Table 11.6). -/
def agentEntries (agent : Nat) : Nat :=
  if agent < 400 then 2048 else if agent < 1200 then 512 else if agent < 1300 then 64 else 1024
/-- The cluster with whose filter an agent registers (R308, Table 11.7). -/
def agentCluster (agent : Nat) : Nat :=
  if agent < 1200 then clusterOf (agent % 400) else if agent < 1300 then agent - 1200
  else Config.portCluster (agent - 1300) % Config.numClusters

/-- An agent is a Bobbin TLB. -/
def isBobTlb (agent : Nat) : Bool := decide (1200 ≤ agent ∧ agent < 1300)

/-- The core whose mesh port an agent's requests leave through: a core's own, or that of the Bobbin core beside it (R342). -/
def portOf (agent : Nat) : Option Nat :=
  if agent < 1200 then some (agent % 400) else if agent < 1300 then some ((coresOf (agent - 1200)).headD 0) else none

/-- The port holds back the requests that an agent makes for a function (R342). -/
def State.portStops (s : State) (agent fn : Nat) : Bool :=
  match portOf agent with
  | some c => (s.core c).portHeld.contains fn
  | none => false

/-- A level of the walk: its number, lowest index bit and index width (Table 11.3). -/
structure Level where
  lvl  : Nat
  lo   : Nat
  bits : Nat
deriving DecidableEq, Repr

/-- The levels below the root of a function's table (Table 11.3), and of an export table (R323). -/
def tableLevels : List Level := [⟨4, 48, 7⟩, ⟨3, 39, 9⟩, ⟨2, 30, 9⟩, ⟨1, 21, 9⟩, ⟨0, 16, 5⟩]
def exportLevels : List Level := [⟨3, 39, 8⟩, ⟨2, 30, 9⟩, ⟨1, 21, 9⟩, ⟨0, 16, 5⟩]

/-- Size and alignment of the table whose entries a level indexes. -/
def Level.tableSize (l : Level) : Nat := 8 * 2 ^ l.bits
/-- Bytes a leaf at this level maps. -/
def Level.pageSize (l : Level) : Nat := 2 ^ l.lo

/-- Bytes of physical memory that lie in the firmware region, which no function's tables can map (R400). -/
def Boot.fwOverlaps (b : Boot) (pa n : Nat) : Bool := b.fw.any (fun p => decide (p.2.1 < pa + n ∧ pa < p.2.1 + p.2.2))

/-- Why a walk does not end in a leaf: it fails at a level (R306), an entry is poisoned, or a line it must read takes no read
now (R166, R316). -/
inductive WalkErr where
  | fault (lvl : Nat)
  | poison
  | wait
deriving DecidableEq, Repr

/-- A successful walk: the leaf, its level and place, and the table lines read. -/
structure Walk where
  leaf : W64
  lvl  : Nat
  size : Nat
  pte  : Nat
  path : List Nat
deriving DecidableEq, Repr

/-- Whether the home makes any read of the line wait: an unacknowledged invalidation (R166), a block (R316), an ownership lease
of another core (R146), a far state (R147). -/
def State.homeWaits (s : State) (l : Nat) (core : Option Nat) : Bool :=
  let x := s.line l
  x.invFor.isSome || x.fetching || x.blocked || x.await.isSome || decide (x.far ≠ 0) ||
    (x.owner.isSome && x.owner != core)

/-- The same for a request that no handler made: it also waits while a FILL or EVICT of the line is pending (R351). -/
def State.readWaits (s : State) (l : Nat) (core : Option Nat) : Bool :=
  s.homeWaits l core || decide ((s.line l).pendEv ≠ 0)

/-- Whether a walk's read of a table line waits at its home; `bob`: a handler's access or fetch walks, which waits for no invocation
(R353). -/
def State.walkWaits (s : State) (bob : Bool) (l : Nat) : Bool := if bob then s.homeWaits l none else s.readWaits l none

/-- A leaf entry that breaks R305 or R306 (reserved bits, alignment, region, W without R, memory type), or, in an export table,
R323. DEDUCED (assumption 31). -/
def badLeaf (ex : Bool) (l : Level) (e : W64) : Bool :=
  let v := e.toNat
  let frame := fieldN v 16 36 * 2 ^ 16
  fieldN v 52 12 != 0 || fieldN v 7 9 != 0 || decide (frame % l.pageSize ≠ 0) || (bitN v 3 && !bitN v 2) ||
    (ex && (bitN v 4 || fieldN v 5 2 == 3)) ||
    (match regionOf frame, regionOf (frame + l.pageSize - 1) with
     | some r, some r' => r != r' || !mtOk r (fieldN v 5 2)
     | _, _ => true)

/-- A table pointer that breaks R305 or R306; `n` is the level whose table it names. -/
def badPointer (n : Level) (e : W64) : Bool :=
  let v := e.toNat
  let base := fieldN v 8 44 * 2 ^ 8
  fieldN v 52 12 != 0 || fieldN v 2 6 != 0 || decide (base % n.tableSize ≠ 0) || !inTiers base

/-- The walk from a table base down the levels (R304). DEDUCED (assumption 32). -/
def walkGo (s : State) (ex bob : Bool) (a : Nat) : List Level → Nat → List Nat → Except WalkErr Walk
  | [], _, _ => .error (.fault 0)
  | l :: ls, base, path =>
    let pte := base + 8 * fieldN a l.lo l.bits
    let line := pte / 64
    let e : W64 := BitVec.ofNat 64 (s.readVal pte 8)
    if s.walkWaits bob line then .error .wait
    else if s.isPois pte 8 then .error .poison
    else if !e.getLsbD 0 then .error (.fault l.lvl)
    else if e.getLsbD 1 then
      (if 3 ≤ l.lvl ∨ badLeaf ex l e then .error (.fault l.lvl)
       else if s.boot.fwOverlaps (fieldN e.toNat 16 36 * 2 ^ 16) l.pageSize then .error (.fault l.lvl)
       else .ok { leaf := e, lvl := l.lvl, size := l.pageSize, pte := pte, path := path ++ [line] })
    else match ls with
      | [] => .error (.fault l.lvl)
      | n :: _ =>
        if badPointer n e then .error (.fault l.lvl)
        else walkGo s ex bob a ls (fieldN e.toNat 8 44 * 2 ^ 8) (path ++ [line])

/-- The walk of a virtual address, or of an export offset, from a root. -/
def walkFrom (s : State) (ex bob : Bool) (root a : Nat) : Except WalkErr Walk :=
  match (if ex then exportLevels else tableLevels) with
  | [] => .error (.fault 0)
  | l :: ls =>
    if root % l.tableSize ≠ 0 ∨ !inTiers root then .error (.fault l.lvl) else walkGo s ex bob a (l :: ls) root []

/-- The cached translation an agent makes of a walk (R308). -/
def tlbOf (agent fn : Nat) (ex : Bool) (a : Nat) (w : Walk) : TlbEnt :=
  let v := w.leaf.toNat
  { agent := agent, fn := fn, ex := ex, va := a / w.size * w.size, size := w.size, pa := fieldN v 16 36 * 2 ^ 16,
    r := bitN v 2, w := bitN v 3, x := bitN v 4, mt := fieldN v 5 2, path := w.path }

/-- Whether a cached translation covers an address for an agent and function. -/
def TlbEnt.covers (t : TlbEnt) (agent fn : Nat) (ex : Bool) (a : Nat) : Bool :=
  t.agent == agent && t.fn == fn && t.ex == ex && decide (t.va ≤ a ∧ a < t.va + t.size)

/-! ### Sharers of page-table lines (R165, R310 to R312) -/

/-- The directory entry of a line: the die whose slices home it, and its 512-byte region. -/
def dirKey (l : Nat) : Nat := 4 * (l / 8) + dieOf (homeSlice l)
/-- The entry of a line in a cluster's translation filter. -/
def filtKey (k l : Nat) : Nat := Config.numClusters * l + k
/-- Two directory regions, or two filter lines, that share a set: 2,048 sets of 16 ways, 1,024 sets of 8 (Table 11.7).
DEDUCED (assumption 131). -/
def sameDirSet (d e : Nat) : Bool := d % 4 == e % 4 && d / 4 % 2048 == e / 4 % 2048
def sameFiltSet (f g : Nat) : Bool :=
  f % Config.numClusters == g % Config.numClusters && f / Config.numClusters % 1024 == g / Config.numClusters % 1024

/-- The agents registered for a line: the directory names the clusters, their filters the agents. -/
def State.holdersOf (s : State) (l : Nat) : List Nat :=
  (tgetD s.dirs (dirKey l) []).flatMap (fun k => tgetD s.filters (filtKey k l) [])

/-- The lines that a directory entry covers. -/
def dirLines (d : Nat) : List Nat := (spanN (8 * (d / 4)) 8).filter (fun l => dirKey l == d)

/-- The directory forgets a cluster that holds no line of the region any more. -/
def State.trimDir (s : State) (d k : Nat) : State :=
  if (dirLines d).all (fun l => (tget? s.filters (filtKey k l)).isNone) then
    let ks := (tgetD s.dirs d []).filter (fun c => c != k)
    { s with dirs := if ks.isEmpty then terase s.dirs d else tset s.dirs d ks }
  else s

/-- A cluster's agents drop every translation through a line without a drain, and its filter forgets the line (R312). -/
def State.backInvalidate (s : State) (k l : Nat) : State :=
  { s with
    tlb := s.tlb.filter (fun t => !(agentCluster t.agent == k && t.path.contains l))
    filters := terase s.filters (filtKey k l) }

/-- A full set of the directory evicts a region: every line of it is invalidated at every cluster of the entry (R312). -/
def State.evictRegion (s : State) (d : Nat) : State :=
  let t := (dirLines d).foldl (fun u l => (tgetD s.dirs d []).foldl (fun v k => v.backInvalidate k l) u) s
  { t with dirs := terase t.dirs d }

/-- A full set of a filter evicts a line (R312). -/
def State.evictFilter (s : State) (f : Nat) : State :=
  let k := f % Config.numClusters
  let l := f / Config.numClusters
  (s.backInvalidate k l).trimDir (dirKey l) k

/-- Room for one more entry: the victim of a full set is the device's choice. -/
def State.dirRoom (s : State) (d : Nat) : State :=
  let set_ := (tkeys s.dirs).filter (sameDirSet d)
  if set_.contains d || decide (set_.length < 16) then s
  else let (i, s1) := s.choose set_.length; s1.evictRegion (set_.getD i 0)
def State.filtRoom (s : State) (f : Nat) : State :=
  let set_ := (tkeys s.filters).filter (sameFiltSet f)
  if set_.contains f || decide (set_.length < 8) then s
  else let (i, s1) := s.choose set_.length; s1.evictFilter (set_.getD i 0)

/-- Registers an agent as a sharer of a line (R165). -/
def State.enrol (agent : Nat) (s : State) (l : Nat) : State :=
  let k := agentCluster agent
  let f := filtKey k l
  let s1 := s.filtRoom f
  let s2 := { s1 with filters := tset s1.filters f (insertNat (tgetD s1.filters f []) agent) }
  let s3 := s2.dirRoom (dirKey l)
  { s3 with dirs := tset s3.dirs (dirKey l) (insertNat (tgetD s3.dirs (dirKey l) []) k) }

/-- A home forgets an agent that has acknowledged (R166). -/
def State.disenrol (s : State) (agent l : Nat) : State :=
  let k := agentCluster agent
  let f := filtKey k l
  let as := (tgetD s.filters f []).filter (fun a => a != agent)
  ({ s with filters := if as.isEmpty then terase s.filters f else tset s.filters f as }).trimDir (dirKey l) k

/-- An agent caches an entry, in place of its oldest when it is full; none while it is not registered for every line of the walk
(R308). -/
def State.cacheEnt (s : State) (t : TlbEnt) : State :=
  if t.path.all (fun l => (s.holdersOf l).contains t.agent) then
    let n := (s.tlb.filter (fun u => u.agent == t.agent)).length
    { s with tlb := (if n < agentEntries t.agent then s.tlb else s.tlb.eraseP (fun u => u.agent == t.agent)) ++ [t] }
  else s

/-! ### Walks through the agents' caches (R304, R308) -/

/-- A table line that a walk reads: the lines from the root down to it, and the pointer found there with its level. -/
structure TableRead where
  path : List Nat
  ptr  : Option (Level × Nat)
deriving DecidableEq, Repr

/-- The lines that a walk reads before it ends or must wait. -/
def walkReads (s : State) (bob : Bool) (a : Nat) : List Level → Nat → List Nat → List TableRead
  | [], _, _ => []
  | l :: ls, base, path =>
    let pte := base + 8 * fieldN a l.lo l.bits
    let here := path ++ [pte / 64]
    let e : W64 := BitVec.ofNat 64 (s.readVal pte 8)
    if s.walkWaits bob (pte / 64) then []
    else if s.isPois pte 8 || !e.getLsbD 0 || e.getLsbD 1 then [⟨here, none⟩]
    else match ls with
      | [] => [⟨here, none⟩]
      | n :: _ =>
        let next := fieldN e.toNat 8 44 * 2 ^ 8
        if badPointer n e then [⟨here, none⟩] else ⟨here, some (l, next)⟩ :: walkReads s bob a ls next here

/-- The lines that a walk from a root reads before it ends or must wait. -/
def readsFrom (s : State) (ex bob : Bool) (root a : Nat) : List TableRead :=
  let ls := if ex then exportLevels else tableLevels
  if (ls.head?.map (fun l => root % l.tableSize == 0 && inTiers root)).getD false then walkReads s bob a ls root [] else []

/-- Table lines that a walk has read come to their slices, and are charged to the function (R340). -/
def State.sawPath (s : State) (fn : Nat) (path : List Nat) : State := path.foldl (fun t l => t.touch fn l 0) s
/-- The same of the lines that the device's own walk of an address reads, though it fail. -/
def State.walked (s : State) (fn a : Nat) : State :=
  (readsFrom s false false (s.fnb fn).trans.troot.toNat a).foldl (fun t r => t.sawPath fn (r.path.drop (r.path.length - 1))) s

/-- The deepest table pointer that the core's walk cache holds for an address, through no line that is being invalidated. -/
def State.cachedPtr (s : State) (agent fn a : Nat) : Option TlbEnt :=
  if agent < 400 then
    (s.tlb.filter (fun t => t.ptr.isSome && t.covers (agWalk agent) fn false a &&
      t.path.all (fun l => (s.line l).invFor.isNone))).foldl
      (fun b t => match b with
        | some u => if t.size < u.size then some t else b
        | none => some t) none
  else none

/-- The walk that an agent makes, with the lines it reads: from its core's walk cache where that holds a pointer, else from the
root. -/
def State.agentWalk (s : State) (agent fn : Nat) (ex : Bool) (a : Nat) : Except WalkErr Walk × List TableRead :=
  let root := if ex then (s.fnb fn).trans.exroot.toNat else (s.fnb fn).trans.troot.toNat
  let bob := isBobTlb agent
  match (if ex then none else s.cachedPtr agent fn a) with
  | some t =>
    let ls := tableLevels.filter (fun l => decide (l.lvl < t.ptr.getD 0))
    (walkGo s ex bob a ls t.pa t.path, walkReads s bob a ls t.pa t.path)
  | none => (walkFrom s ex bob root a, readsFrom s ex bob root a)

/-- The entry that a walk cache makes of a pointer. -/
def ptrEnt (core fn a : Nat) (path : List Nat) (l : Level) (table : Nat) : TlbEnt :=
  { agent := agWalk core, fn := fn, ex := false, va := a / l.pageSize * l.pageSize, size := l.pageSize, pa := table,
    r := false, w := false, x := false, mt := 0, path := path, ptr := some l.lvl }

/-- A read of a table line registers the agent; a core's walk also fills its walk cache, which registers with it. -/
def State.noteRead (agent fn a : Nat) (s : State) (r : TableRead) : State :=
  let s1 := (r.path.drop (r.path.length - 1)).foldl (fun t l => (t.touch fn l 0).enrol agent l) s
  if agent < 800 then
    let w := agWalk (agent % 400)
    match r.ptr with
    | some (l, table) =>
      let e := ptrEnt (agent % 400) fn a r.path l table
      if s1.tlb.contains e then s1 else (r.path.foldl (State.enrol w) s1).cacheEnt e
    | none => s1
  else s1

/-- The translation of an address for an agent: the cached one, or a walk whose entry the agent then holds and for whose lines it
is registered (R165, R308). Every line read is registered, though the walk fail; a walk makes no request that its port holds back
(R342). -/
def State.lookup (s : State) (agent fn : Nat) (ex : Bool) (a : Nat) : Except WalkErr TlbEnt × State :=
  match s.tlb.find? (fun t => t.ptr.isNone && t.covers agent fn ex a) with
  | some t => (.ok t, s)
  | none =>
    if s.portStops agent fn then (.error .wait, s)
    else
    let (r, reads) := s.agentWalk agent fn ex a
    let s1 := reads.foldl (State.noteRead agent fn a) s
    match r with
    | .ok w =>
      let t := tlbOf agent fn ex a w
      (.ok t, if 400 ≤ agent ∧ agent < 800 then s1 else (w.path.foldl (State.enrol agent) s1).cacheEnt t)
    | .error e => (.error e, s1)

/-! ### Checks of an access -/

/-- What an access needs (R307). -/
structure Need where
  r : Bool := false
  w : Bool := false
  x : Bool := false
deriving DecidableEq, Repr

def needR : Need := { r := true }
def needW : Need := { w := true }
def needRW : Need := { r := true, w := true }
def needX : Need := { x := true }

/-- The permission check of R307. -/
def TlbEnt.allows (t : TlbEnt) (n : Need) : Bool := (!n.r || t.r) && (!n.w || t.w) && (!n.x || t.x)

/-- The residency check of R284 on `n` bytes: each byte lies in a range that gives R for a read or a fetch and W for a write. -/
def resident (rs : List Range) (a n : Nat) (need : Need) : Bool :=
  (upTo n).all (fun i => rs.any (fun g =>
    decide (g.base ≤ a + i ∧ a + i < g.base + g.len) && (!(need.r || need.x) || g.r) && (!need.w || g.w)))

/-- Why an access does not go to its target: a class of Table 14.1 with its SUB, or it must wait. -/
inductive AccErr where
  | fault (cls sub : Nat)
  | wait
deriving DecidableEq, Repr

/-- Class codes of Table 14.1 that end a task. -/
def clsTrans : Nat := 0x10
def clsPerm : Nat := 0x11
def clsResid : Nat := 0x12
def clsPoison : Nat := 0x13

def WalkErr.toAcc : WalkErr → AccErr
  | .fault l => .fault clsTrans l
  | .poison => .fault clsPoison 0
  | .wait => .wait

/-- The first place of a target. -/
def Target.base : Target → Nat
  | .glob pa _ => pa
  | .scr _ o => o
  | .pod _ o => o

/-- A translated access: its target and the table lines its translation rests on. -/
structure Acced where
  tgt  : Target
  agent : Nat
  path : List Nat
  mt   : Nat
deriving DecidableEq, Repr

/-- The memory type of a target as its home sees it: a tracked line reached through an export table is ordered and cached at its home
alone (R138, R145), which the model writes as type 4. -/
def homeMt (mt : Nat) : Nat := if mt = 0 then 4 else mt

/-- The export check of R322 at this device for a request of function `fn` from pod device `dev`: EXEN, EXMASK, the export
walk. -/
def State.exportAccess (s : State) (port fn dev off : Nat) (need : Need) : Except AccErr Acced × State :=
  let t := (s.fnb fn).trans
  if !t.exen || !t.exmask.getLsbD dev then (.error (.fault clsPerm 0), s)
  else match s.lookup (agExport port) fn true off with
    | (.error .wait, s1) => (.error .wait, s1)
    | (.error _, s1) => (.error (.fault clsPerm 0), s1)
    | (.ok e, s1) =>
      if e.allows need then
        (.ok { tgt := .glob (e.pa + (off - e.va)) (homeMt e.mt), agent := agExport port, path := e.path, mt := e.mt }, s1)
      else (.error (.fault clsPerm 0), s1)

/-- The port whose export cache serves the device's accesses to its own part of the pod window: the first that is not retired (R385). -/
def State.ownPort (s : State) : Nat := ((upTo 16).find? (fun p => !s.retired.contains (agExport p))).getD 0

/-- Translation and checks of a global access in the order of R173 (R138, R306, R307, R284). `ranges` is none for an access that
no launch's residency covers. An access to the pod window is checked by the named device: this device for its own number.
DEDUCED (assumption 30). -/
def State.access (s : State) (agent fn : Nat) (ranges : Option (List Range)) (a n : Nat) (need : Need) :
    Except AccErr Acced × State :=
  if 2 ^ 56 ≤ a then (.error (.fault clsTrans 4), s)
  else if 2 ^ 55 ≤ a then
    let dev := fieldN a 47 8
    let off := fieldN a 0 47
    if dev = s.podid then s.exportAccess s.ownPort fn dev off need
    else (.ok { tgt := .pod dev off, agent := agent, path := [], mt := 2 }, s)
  else match s.lookup agent fn false a with
    | (.error e, s1) => (.error e.toAcc, s1)
    | (.ok t, s1) =>
      if !t.allows need then (.error (.fault clsPerm 0), s1)
      else if (match ranges with | some rs => !resident rs a n need | none => false) then
        (.error (.fault clsResid 0), s1)
      else (.ok { tgt := .glob (t.pa + (a - t.va)) t.mt, agent := agent, path := t.path, mt := t.mt }, s1)

/-- Where a store of a core's thread would go by the translations that the core holds now, and its memory type; the store's own
translation is made when it performs (R309). DEDUCED (assumption 105). -/
def State.storePlace (s : State) (core fn a : Nat) : Option (Target × Nat) :=
  match (s.access (agTlb core) fn none a 1 needW).1 with
  | .ok r => some (r.tgt, r.mt)
  | .error _ => none

/-- A translation that no agent caches: the front end, fault-log and save-area accesses read the tables themselves. The access
carries the lines of its walk, so that an invalidation waits for it (R168). -/
def State.plainAccess (s : State) (fn a : Nat) (need : Need) : Except AccErr Acced :=
  if 2 ^ 55 ≤ a then .error (.fault clsTrans 4)
  else match walkFrom s false false (s.fnb fn).trans.troot.toNat a with
    | .error e => .error e.toAcc
    | .ok w =>
      let t := tlbOf agFront fn false a w
      if t.allows need then .ok { tgt := .glob (t.pa + (a - t.va)) t.mt, agent := agFront, path := t.path, mt := t.mt }
      else .error (.fault clsPerm 0)

/-- Splits bytes at a virtual address into pieces inside 64-byte lines. -/
def splitLines : Nat → Nat → List Byte → List (Nat × List Byte)
  | 0, _, _ => []
  | fuel + 1, a, bs =>
    if bs.isEmpty then []
    else
      let k := 64 - a % 64
      (a, bs.take k) :: splitLines fuel (a + k) (bs.drop k)

def linePieces (a : Nat) (bs : List Byte) : List (Nat × List Byte) := splitLines (bs.length / 64 + 2) a bs

/-- The places of a device write at a virtual address, line by line; an error where a translation fails or must wait. -/
def State.plainPlaces (s : State) (fn a : Nat) (bs : List Byte) : Except AccErr (List (Acced × List Byte)) :=
  mapE (fun p : Nat × List Byte =>
    match s.plainAccess fn p.1 needW with
    | .ok t => .ok (t, p.2)
    | .error e => .error e) (linePieces a bs)

end Sys2Proof.Machine
end

