-- ==== Sys2Proof/Machine/Ops.lean ====
section
/-! DEFINITION. The operations that every instruction shares: device writes, fault records, ending a task, committing an idempotent
region, taking a precise trap and returning from one, and the frame in which an instruction issues. -/

namespace Sys2Proof.Machine

/-! ### Device writes and fault records -/

/-- The pending access of a device write: no thread issues it. -/
def devAcc (id fn pa n : Nat) : Acc :=
  { id := id, th := none, core := 0, fn := fn, launch := 0, pc := 0#64, va := 0, tgt := .glob pa 0, n := n, ord := .plain,
    agent := agFront }
/-- The pending access of a device write at a translated place. -/
def frontAcc (id fn : Nat) (t : Acced) (n : Nat) : Acc := { devAcc id fn 0 n with tgt := t.tgt, path := t.path }

/-- Sends a write of bytes inside one line to its home on the device's behalf. -/
def State.devWrite (s : State) (fn pa : Nat) (bs : List Byte) : State :=
  let (id, s1) := s.newId
  { s1 with writes := tset s1.writes id { acc := devAcc id fn pa bs.length, kind := .store bs } }

/-- Sends bytes to several places. -/
def State.devWrites (s : State) (fn : Nat) (ps : List (Nat × List Byte)) : State :=
  ps.foldl (fun t p => t.devWrite fn p.1 p.2) s

/-- Sends bytes to a translated place on the device's behalf; the walk of the place is charged to the function (R340). -/
def State.frontWrite (s : State) (fn : Nat) (t : Acced) (bs : List Byte) : State :=
  let (id, s1) := (s.sawPath fn t.path).newId
  { s1 with writes := tset s1.writes id { acc := frontAcc id fn t bs.length, kind := .store bs } }

/-- Sends bytes to several translated places. -/
def State.frontWrites (s : State) (fn : Nat) (ps : List (Acced × List Byte)) : State :=
  ps.foldl (fun t p => t.frontWrite fn p.1 p.2) s

/-- What a fault record names (Table 14.5). -/
structure FaultInfo where
  cls    : Nat
  sub    : Nat := 0
  pc     : W64 := 0#64
  addr   : Nat := 0
  core   : Option Nat := none
  wg     : W32 := 0#32
  tid    : Nat := 0
  dbg    : Bool := false
deriving DecidableEq, Repr

/-- The 64 bytes of a fault record (Table 14.5). -/
def faultBytes (f : FaultInfo) (queue : Nat) (qidx : W32) (time : W64) : List Byte :=
  leBytes 4 (f.cls + 256 * f.sub + 2 ^ 16 * (queue % 256) + (if f.dbg then 2 ^ 24 else 0)) ++ leBytes 4 qidx.toNat ++
    leBytes 8 f.pc.toNat ++ leBytes 8 f.addr ++
    leBytes 4 (match f.core with | some c => (sysCore c).toNat | none => 0xFFFFFFFF) ++ leBytes 4 f.wg.toNat ++
    leBytes 4 (f.tid % 2 ^ 11) ++ zeroBytes 4 ++ leBytes 8 time.toNat ++ zeroBytes 16

/-- Writes a fault record to the function's log and raises its fault interrupt (R371): none while the record's place waits for its
translation. A record whose write fails translation is lost and counted. -/
def State.putRecord (s : State) (fn : Nat) (bs : List Byte) : Option State :=
  let b := (s.fnb fn).fault
  let s1 := s.emit (.faultIrq fn)
  if b.flogbase = 0#64 then some s1
  else
    let a := b.flogbase.toNat + 64 * (b.flogwr.toNat % 2 ^ b.flogn)
    match s.plainPlaces fn a bs with
    | .ok ps =>
      some ((s1.frontWrites fn ps).modFn fn (fun x => { x with fault := { x.fault with flogwr := x.fault.flogwr + 1#32 } }))
    | .error .wait => none
    | .error (.fault _ _) => some { s1.walked fn a with err := { s1.err with lostrec := s1.err.lostrec + 1#64 } }

/-- Records a fault, after the records of the function that still wait. DEDUCED (assumption 102). -/
def State.faultRecord (s : State) (fn : Nat) (bs : List Byte) : State :=
  let due : State := { s with recsDue := s.recsDue ++ [(fn, bs)] }
  if s.recsDue.any (fun r => r.1 == fn) then due else (s.putRecord fn bs).getD due

/-- The records that wait are tried again, in order. -/
def State.flushRecs (s : State) : State := s.recsDue.foldl (fun t r => t.faultRecord r.1 r.2) { s with recsDue := [] }

/-- Records a fault of a launch. -/
def State.launchRecord (s : State) (l : Nat) (f : FaultInfo) : State :=
  match s.launch? l with
  | some x => s.faultRecord x.fn (faultBytes f x.queue x.qidx s.now)
  | none => s

/-- Ends the task of a launch on a task-ending fault (R365): the record is written and TASK_END is due. -/
def State.taskFault (s : State) (l : Nat) (f : FaultInfo) : State :=
  (s.launchRecord l f).modLaunch l (fun x => { x with ending := true })

/-- What a task-ending fault of a thread's access names. -/
def State.accFault (s : State) (a : Acc) (cls sub : Nat) : State :=
  let g := match a.th with
    | some r => (match s.wg? r.wg with | some w => w.g | none => 0)
    | none => 0
  s.taskFault a.launch
    { cls := cls, sub := sub, pc := a.pc, addr := a.va, core := some a.core, wg := BitVec.ofNat 32 g,
      tid := (match a.th with | some r => r.tid | none => 0) }

/-! ### Groups in their quadrants -/

/-- The groups of a quadrant in one of its sets, with their numbers. -/
def State.groupsIn (s : State) (core quad : Nat) (p : Place) : List (Nat × Group) :=
  s.groups.filter (fun x => x.2.core == core && x.2.quad == quad && x.2.place == p)

/-- The set a group that leaves the active set goes to: the pending set while it has room, else the overflow list (R239). -/
def State.pendingPlace (s : State) (core quad : Nat) : Place :=
  if (s.groupsIn core quad .pending).length < 56 then .pending else .overflow

/-- Where a new part of a group goes: the active set while it has a free place, else the pending set (R240). -/
def State.newPlace (s : State) (core quad : Nat) : Place :=
  if (s.groupsIn core quad .active).length < 8 then .active else s.pendingPlace core quad

/-- The group that has stood longest in a set of the quadrant. -/
def longest (gs : List (Nat × Group)) (at_ : Group → Nat) : Option (Nat × Group) :=
  gs.foldl (fun b x => match b with
    | none => some x
    | some y => if at_ x.2 < at_ y.2 then some x else some y) none

/-- Moves the longest-standing record of the overflow list into a free pending place (R239). -/
def State.fillPending (s : State) (core quad : Nat) : State :=
  if (s.groupsIn core quad .pending).length < 56 then
    match longest (s.groupsIn core quad .overflow) (·.activeAt) with
    | some (i, g) => s.setGroup i { g with place := .pending, activeAt := s.cycles }
    | none => s
  else s

/-- Moves a group to the pending set with the cause it waits for (R244). -/
def State.park (s : State) (gid : Nat) (w : Wait) : State :=
  match s.group? gid with
  | some g =>
    let p := s.pendingPlace g.core g.quad
    s.setGroup gid { g with place := p, wait := w, stall := none, activeAt := s.cycles, readyAt := s.cycles }
  | none => s

/-- Issue cycles that the tenant of a workgroup has had in a quadrant (R245). -/
def State.issueCount (s : State) (core quad wid : Nat) : Nat :=
  match s.wg? wid with
  | some w => tgetD (s.core core).issues (4 * w.fn + quad) 0
  | none => 0
/-- A group that is formed stands ready, and its wait for an issue begins (R245). -/
def State.readied (s : State) (g : Group) : Group :=
  { g with readyAt := s.cycles, issueAt := s.issueCount g.core g.quad g.wg }

/-- Makes a waiting group ready (Table 9.3). -/
def State.wake (s : State) (gid : Nat) : State :=
  s.modGroup gid (fun g => { g with wait := .ready, readyAt := s.cycles })

/-- Removes a group without live threads and frees its place (R240). -/
def State.dropGroup (s : State) (gid : Nat) : State :=
  match s.group? gid with
  | some g => (s.delGroup gid).fillPending g.core g.quad
  | none => s

/-! ### Tagged requests (R349) -/

/-- Bytes of a handler range. -/
def HRange.bytes (g : HRange) : Nat := g.len.toNat * 65536
/-- The lowest-numbered used range that contains an address (R348). -/
def HandRegs.rangeOf (h : HandRegs) (a : Nat) : Option Nat :=
  (h.ranges.find? (fun p => decide (p.2.base.toNat ≤ a ∧ a < p.2.base.toNat + p.2.bytes))).map Prod.fst

/-- The tag a request of a function carries (R349). -/
def State.tagOf (s : State) (f a : Nat) : Option Nat :=
  let h := (s.fnb f).hand
  if h.en && !h.dis then
    (h.rangeOf a).bind (fun r => if (tgetD h.ranges r {}).evm = 0 then none else some r)
  else none

/-- The range that the tag of a translated access of a core names: none for an I/O access, which bypasses the slice (R140), and for one
through an export table. -/
def State.tagFor (s : State) (f a : Nat) (t : Acced) : Option Nat :=
  match t.tgt with
  | .glob _ mt => if mt = 3 ∨ 1200 ≤ t.agent then none else s.tagOf f a
  | _ => none

/-! ### Committing a region (R332 to R334) -/

/-- The outcome of a commit: done, refused by a store's translation (the task ends), or waiting for a translation, with what the walks
have registered (R165). -/
inductive CRes where
  | ok (s : State)
  | fault (s : State)
  | wait (s : State)
deriving DecidableEq, Repr

/-- The target of a buffered store, translated at commit (R309). -/
def State.storeTarget (s : State) (g : Group) (w : Wg) (b : BufStore) : Except AccErr Acced × State :=
  if b.scr then (.ok { tgt := .scr g.core (w.sbase + b.addr), agent := agTlb g.core, path := [], mt := 0 }, s)
  else s.access (agTlb g.core) w.fn (match s.launch? w.launch with | some l => some l.ranges | none => none)
    b.addr b.bytes.length needW

/-- The buffer line of a store. -/
def BufStore.line (b : BufStore) : Bool × Nat := (b.scr, b.addr / 64)

/-- The distinct lines of a buffer. -/
def bufLines (bs : List BufStore) : List (Bool × Nat) := dedup' (bs.map BufStore.line)

/-- Whether some byte of the store stands in the buffer: no later store covers it. -/
def stands (b : BufStore) (later : List BufStore) : Bool :=
  (upTo b.bytes.length).any (fun i =>
    !later.any (fun x => x.scr == b.scr && decide (x.addr ≤ b.addr + i ∧ b.addr + i < x.addr + x.bytes.length)))

/-- The earliest store whose bytes stand in a buffer line (R309). -/
def firstIn (l : Bool × Nat) : List BufStore → Option BufStore
  | [] => none
  | b :: bs => if b.line = l ∧ stands b bs = true then some b else firstIn l bs

/-- The pending write a committed store becomes. -/
def storeWrite (g : Group) (gw : Wg) (wid : Nat) (b : BufStore) (t : Acced) (inc : Nat) (range : Option Nat) : PWrite :=
  let a : Acc :=
    { id := b.id, th := some ⟨wid, b.tid⟩, core := g.core, fn := gw.fn, launch := gw.launch, pc := b.pc, va := b.addr,
      tgt := t.tgt, n := b.bytes.length, ord := if b.relaxed then .relaxed else .plain, agent := t.agent, inc := inc, path := t.path,
      range := range }
  { acc := a, kind := .store b.bytes }

/-- Translates the buffered stores in order. -/
def State.commitGo (s : State) (g : Group) (w : Wg) (wid : Nat) :
    List BufStore → List PWrite → Except (AccErr × BufStore) (List PWrite) × State
  | [], acc => (.ok acc, s)
  | b :: bs, acc =>
    match s.storeTarget g w b with
    | (.ok t, s1) => s1.commitGo g w wid bs (acc ++ [storeWrite g w wid b t (tgetD s1.incs t.agent 0) (s1.tagFor w.fn b.addr t)])
    | (.error e, s1) => (.error (e, b), s1)

/-- Commits the region of every live thread of a group (R334): its buffered stores go to their homes or banks. A store that
translation refuses ends the task (R309). -/
def State.commit (s : State) (gid : Nat) : CRes :=
  match s.group? gid with
  | none => .ok s
  | some g =>
    if g.buf.isEmpty then .ok s
    else match s.wg? g.wg with
      | none => .ok (s.setGroup gid { g with buf := [] })
      | some w =>
        match s.commitGo g w g.wg g.buf [] with
        | (.ok ps, s1) =>
          .ok { s1.setGroup gid { g with buf := [] } with writes := ps.foldl (fun m p => tset m p.acc.id p) s1.writes }
        | (.error (.wait, _), s1) => .wait s1
        | (.error (.fault cls sub, b), s1) =>
          let f := (firstIn b.line g.buf).getD b
          .fault ((s1.setGroup gid { g with buf := [], wait := .trapped }).taskFault w.launch
            { cls := cls, sub := sub, pc := f.pc, addr := f.addr, core := some g.core, wg := BitVec.ofNat 32 w.g,
              tid := f.tid })

/-! ### Taking a precise trap (R365 to R368) and returning from one (R391) -/

/-- A precise trap: its class and SUB; `own` is none when the group raises it as a whole (R37 items 1 to 4), else the threads
that raise it, each with its `sys.taddr`; `addr` is the address of a group-wide cause. -/
structure TrapInfo where
  cls  : Nat
  sub  : Nat := 0
  own  : Option (List (Nat × Nat)) := none
  addr : Nat := 0
deriving DecidableEq, Repr

/-- Class codes of Table 14.1 that trap. -/
def clsLine : Nat := 0x01
def clsTarget : Nat := 0x02
def clsInstr : Nat := 0x03
def clsOperand : Nat := 0x04
def clsFormat : Nat := 0x05
def clsAlign : Nat := 0x06
def clsConv : Nat := 0x07
def clsRecord : Nat := 0x08
def clsSoft : Nat := 0x09
def clsBreak : Nat := 0x0A

/-- Whether a thread raised the cause, and its address. -/
def TrapInfo.owner? (t : TrapInfo) (tid : Nat) : Option Nat :=
  match t.own with
  | none => some t.addr
  | some l => (l.find? (fun p => p.1 == tid)).map Prod.snd

/-- The trap registers of a thread as the trap leaves them (Table 14.3). -/
def trapThread (t : TrapInfo) (pc : W64) (tid : Nat) (th : Thread) : Thread :=
  { th with
    tcause := BitVec.ofNat 32 (t.cls + 256 * t.sub + (if (t.owner? tid).isSome then 2 ^ 16 else 0))
    tpc := pc
    taddr := BitVec.ofNat 64 ((t.owner? tid).getD 0) }

/-- The lowest home lane that raised the cause: its thread and address (R368). -/
def TrapInfo.lowest (t : TrapInfo) (tids : List Nat) : Nat × Nat :=
  match tids.findSome? (fun i => (t.owner? i).map (fun a => (i, a))) with
  | some p => p
  | none => (0, t.addr)

/-- Every workgroup of a launch on the device. -/
def State.wgsOf (s : State) (l : Nat) : List Nat := (s.wgs.filter (fun p => p.2.launch == l)).map Prod.fst

/-- The prologue's actions (Table 14.2): the fault record, then the end of the task or the debug halt. -/
def State.prologue (s : State) (gid : Nat) (t : TrapInfo) (pc : W64) : State :=
  match s.group? gid with
  | none => s
  | some g =>
    match s.wg? g.wg with
    | none => s
    | some w =>
      let dbg := (s.fnb w.fn).fault.dbgen
      let (tid, addr) := t.lowest g.tids
      let s1 := s.launchRecord w.launch
        { cls := t.cls, sub := t.sub, pc := pc, addr := addr, core := some g.core, wg := BitVec.ofNat 32 w.g, tid := tid,
          dbg := dbg }
      if dbg then
        { s1.modLaunch w.launch (fun l => { l with
            debug := true
            skips := if t.cls = clsSoft ∨ t.cls = clsBreak then l.skips ++ g.tids.map (fun i => (w.g, i)) else l.skips }) with
          halts := s1.halts ++ [.wgs (s1.wgsOf w.launch) (.saving 2)] }
      else s1.modLaunch w.launch (fun l => { l with ending := true })

/-- Every live thread of the group enters the trap prologue at the privileged level (R366): its trap registers are written, a new
region begins at the trapping instruction, and counter 8 advances. In the prologue the group executes nothing of its own.
DEDUCED (assumption 106). -/
def State.enterTrap (s : State) (gid : Nat) (t : TrapInfo) (pc : W64) : State :=
  match s.group? gid with
  | none => s
  | some g =>
    let s1 := s.modWg g.wg (fun w => g.tids.foldl (fun v i => v.modThread i (trapThread t pc i)) w)
    let s2 := s1.setGroup gid { g with
      priv := true, pc := Config.prologuePc, rstart := pc, wait := .trapped, stall := none, begun := none, signed := [], lastIssue := s.cycles }
    match s.wg? g.wg with
    | some w => s2.count g.core w.fn 8 1
    | none => s2

/-- Takes a precise trap at a group's program counter (R365, R366): the trapping instruction is first a region boundary. -/
def State.takeTrap (s : State) (gid : Nat) (t : TrapInfo) : CRes :=
  match s.group? gid with
  | none => .ok s
  | some g =>
    match s.commit gid with
    | .ok s1 => .ok ((s1.enterTrap gid t g.pc).prologue gid t g.pc)
    | r => r

/-! ### The frame of an instruction -/

/-- What a meaning answers to the frame: it took effect and the program counter moves on; it set the program counter itself;
it waits, with the state as it was, with what its walks have registered (`wait`, R165) or, its group's region committed, with part of
its work done (`hold`: a region begins at it); it traps, with the state as it was or with part of
 its work standing (`trapIn`); it ends its task; it is refused. -/
inductive Res where
  | ok (s : State)
  | jump (s : State)
  | stall (on : StallOn := .other)
  | wait (s : State)
  | hold (s : State) (on : StallOn)
  | trap (t : TrapInfo)
  | trapIn (t : TrapInfo) (s : State)
  | fault (f : FaultInfo) (s : State)
  | refuse (r : Refusal)
deriving DecidableEq, Repr

/-- The context in which an instruction executes: the group and its number, the workgroup, the word and its signature. -/
structure Ctx where
  gid : Nat
  g   : Group
  wid : Nat
  wg  : Wg
  w   : TWord
  sg  : Sig

/-- A cause that one thread raises (R37 item 5), in the order of the item; convergence faults stand where R114 puts them. -/
inductive LaneFault where
  | format
  | operand
  | instr
  | align (addr : Nat)
  | conv (cause : Nat)
  | record
deriving DecidableEq, Repr

def LaneFault.rank : LaneFault → Nat
  | .format => 0
  | .operand => 1
  | .instr => 2
  | .align _ => 3
  | .conv c => if c = 1 ∨ c = 4 then 4 else if c = 2 then 6 else 5
  | .record => 7
/-- SUB of Table 14.1: the cause code of a convergence fault. -/
def LaneFault.sub : LaneFault → Nat
  | .conv c => c
  | _ => 0
def LaneFault.cls : LaneFault → Nat
  | .format => clsFormat
  | .operand => clsOperand
  | .instr => clsInstr
  | .align _ => clsAlign
  | .conv _ => clsConv
  | .record => clsRecord
def LaneFault.addr : LaneFault → Nat
  | .align a => a
  | _ => 0

/-- The trap of the first cause in the order of R37, owned by every thread that raises it. -/
def pickTrap (fs : List (Nat × LaneFault)) : Option TrapInfo :=
  match fs with
  | [] => none
  | f :: _ =>
    let best := fs.foldl (fun b x => if x.2.rank < b.rank then x.2 else b) f.2
    some { cls := best.cls, sub := best.sub, own := some ((fs.filter (fun x => x.2.rank == best.rank)).map (fun x => (x.1, x.2.addr))) }

/-- The home lane of a thread (R235). -/
def laneOf (tid : Nat) : Nat := tid % 32

/-- The group's live threads (R237). -/
def Ctx.threads (x : Ctx) : List (Nat × Thread) := x.g.tids.map (fun i => (i, x.wg.thread i))
/-- The threads whose guard is true (R36). -/
def Ctx.active (x : Ctx) : List (Nat × Thread) := x.threads.filter (fun p => p.2.guard x.w)
/-- The flag the instruction is attached to (R27). -/
def Ctx.flag (x : Ctx) : Option Nat := flagOf x.g x.w
/-- The source value of a field for a thread. -/
def Ctx.src (x : Ctx) (p : Nat × Thread) (f : Fld) : W32 := Machine.src x.w p.2 (laneOf p.1) f
/-- The launch's residency ranges (R284). -/
def Ctx.ranges (x : Ctx) (s : State) : Option (List Range) := (s.launch? x.wg.launch).map (·.ranges)
/-- The reference of a thread. -/
def Ctx.ref (x : Ctx) (tid : Nat) : ThRef := ⟨x.wid, tid⟩
/-- The next program counter in sequence. -/
def Ctx.next (x : Ctx) : W64 := nextPc x.g.pc

/-- The causes that the threads with a true guard raise under `chk`. -/
def Ctx.causes (x : Ctx) (chk : Nat × Thread → Option LaneFault) : Option TrapInfo :=
  pickTrap (x.active.filterMap (fun p => (chk p).map (fun f => (p.1, f))))

/-- A fault of one of the group's accesses (R173). -/
def Ctx.accFault (x : Ctx) (tid addr cls sub : Nat) : FaultInfo :=
  { cls := cls, sub := sub, pc := x.g.pc, addr := addr, core := some x.g.core, wg := BitVec.ofNat 32 x.wg.g, tid := tid }

/-- Updates the threads of the executing group. -/
def Ctx.update (x : Ctx) (s : State) (f : Nat → Thread → Thread) : State :=
  s.modWg x.wid (fun v => x.g.tids.foldl (fun v i => v.modThread i (f i)) v)
/-- Updates the threads whose guard is true. -/
def Ctx.updateActive (x : Ctx) (s : State) (f : Nat → Thread → Thread) : State :=
  s.modWg x.wid (fun v => x.active.foldl (fun v p => v.modThread p.1 (f p.1)) v)

/-- Ends the current region of every live thread of the group (R332, R248), begins the next one at `start`, and goes on. -/
def Ctx.boundary (x : Ctx) (s : State) (start : W64) (k : State → Res) : Res :=
  match s.commit x.gid with
  | .ok s1 => k (s1.modGroup x.gid (fun g => { g with rstart := start }))
  | .fault s1 => .jump s1
  | .wait s1 => .wait s1

/-- What the encoding checks of R37 look at: a register that some thread of the group has not declared is one (R33). -/
def Ctx.enc (x : Ctx) (s : State) : EncCtx :=
  { priv := x.g.priv, tatting := x.wg.kind == .tatting,
    nregs := x.g.tids.foldl (fun m i => min m (x.wg.thread i).nregs) 768,
    line := x.g.line, full := decide (s.boot.service ≠ 1), fmt := x.wg.fmt }

/-- The group-wide causes of R37 items 3 and 4. -/
def encTrap (sg : Sig) (w : TWord) (e : EncCtx) : Option TrapInfo :=
  if sg.illegalInstr w e then some { cls := clsInstr }
  else if sg.illegalOperand w e then some { cls := clsOperand }
  else none

/-- Whether some thread of the group must wait: the scoreboard (R28) or a full flag (R27). -/
def Ctx.blocked (x : Ctx) (extra : List Nat) : Bool :=
  x.threads.any (fun p => p.2.mustWait x.sg x.w extra) || x.active.any (fun p => p.2.flagFull x.flag)

/-- The key under which a group waits for a full flag to fall (R27). -/
def fullKey (f : Nat) : Nat := 2048 + f

/-- What the group's threads wait for: writes still to come, and their flag where a thread that executes has it full. -/
def Ctx.awaited (x : Ctx) (extra : List Nat) : List (Nat × Nat) :=
  x.threads.flatMap (fun p => (p.2.waitsOn x.sg x.w extra).map (fun k => (p.1, k))) ++
    (match x.flag with
     | some f => (x.active.filter (fun p => p.2.flagFull (some f) && !p.2.guardOpen x.w)).map (fun p => (p.1, fullKey f))
     | none => [])

/-- An instruction that issues counts as one group instruction and as one thread instruction per true guard (Table 14.12), and as an
issue of its tenant in the quadrant (R245). -/
def Ctx.counted (x : Ctx) (s : State) : State :=
  let n := s.issueCount x.g.core x.g.quad x.wid + 1
  let t := (s.count x.g.core x.wg.fn 1 1).count x.g.core x.wg.fn 2 x.active.length
  ((t.modCore x.g.core (fun c => { c with issues := tset c.issues (4 * x.wg.fn + x.g.quad) n })).act x.wg.fn x.wg.queue .issue 1).modGroup
    x.gid (fun g => { g with issueAt := n })

/-- A group that has found something to wait for. -/
def State.stalls (s : State) (gid : Nat) (on : StallOn) : State :=
  s.modGroup gid (fun g => { g with stall := some (g.stall.getD s.cycles), stallOn := on, triedAt := s.cycles })

/-- The state after a trap, or while the stores of the trapping instruction's region wait for a translation. -/
def Ctx.trapped (x : Ctx) (s : State) (t : TrapInfo) : Host.Outcome State Fault Refusal :=
  match s.takeTrap x.gid t with
  | .ok s1 => .next s1
  | .fault s1 => .next s1
  | .wait s1 => .next (s1.stalls x.gid .other)

/-- The state after a meaning's answer. -/
def Ctx.finish (x : Ctx) (s : State) (r : Res) : Host.Outcome State Fault Refusal :=
  match r with
  | .ok t => .next ((x.counted t).modGroup x.gid (fun g => { g with pc := nextPc g.pc, stall := none, lastIssue := s.cycles }))
  | .jump t => .next ((x.counted t).modGroup x.gid (fun g => { g with stall := none, lastIssue := s.cycles }))
  | .stall on => .next (s.stalls x.gid on)
  | .wait t => .next (t.stalls x.gid .other)
  | .hold t on => .next (t.modGroup x.gid (fun g =>
    { g with rstart := g.pc, stall := some (g.stall.getD s.cycles), stallOn := on, triedAt := s.cycles }))
  | .trap t => x.trapped s t
  | .trapIn t u => x.trapped u t
  | .fault f t => .next ((t.modGroup x.gid (fun g => { g with wait := .trapped })).taskFault x.wg.launch f)
  | .refuse e => .refused e

/-- The context of the instruction that the state's current group executes. -/
def State.ctx? (s : State) (sg : Sig) (w : TWord) : Option Ctx :=
  match s.cur with
  | .group gid => (match s.group? gid with
    | some g => (match s.wg? g.wg with
      | some v => if g.tids.isEmpty then none else some { gid := gid, g := g, wid := g.wg, wg := v, w := w, sg := sg }
      | none => none)
    | none => none)
  | _ => none

/-- Issues an instruction for the current group: the group-wide causes in the order of R37 (`pre` is item 2), the scoreboard
and the flags, then the instruction's own effect. -/
def runThrumWith (sg : Sig) (w : TWord) (extra : List Nat) (pre : Ctx → State → Option Res) (body : Ctx → State → Res)
    (s : State) : Host.Outcome State Fault Refusal :=
  if s.boot.off then .fault .shutDown
  else match s.ctx? sg w with
    | none => .refused .noIssuer
    | some x =>
      match pre x s with
      | some r => x.finish s r
      | none =>
        match encTrap sg w (x.enc s) with
        | some t => x.finish s (.trap t)
        | none => if x.blocked extra then x.finish s (.stall (.keys (x.awaited extra))) else x.finish s (body x s)

/-- Issues an instruction that has no cause of R37 item 2. -/
def runThrum (sg : Sig) (w : TWord) (extra : List Nat) (body : Ctx → State → Res) (s : State) :
    Host.Outcome State Fault Refusal :=
  runThrumWith sg w extra (fun _ _ => none) body s

/-- An event of the device: it happens where `can` holds, with the effect `eff`. -/
def runEvent (name : String) (can : State → Bool) (eff : State → State) (s : State) : Host.Outcome State Fault Refusal :=
  if s.boot.off then .fault .shutDown
  else if can s then .next (eff s) else .refused (.notEnabled name)


/-! ### The end of a workgroup's stay -/

/-- A picot of the workgroup's allocation is to step again (R163, R375). -/
def Wg.stepping (w : Wg) (p : PPicot) : Bool :=
  match p.act, p.acc.tgt with
  | .bytes _ none (some g), .scr c a => c == w.core && g == w.gen && decide (w.sbase ≤ a ∧ a < w.sbase + w.ssize)
  | _, _ => false

/-- Nothing that a workgroup's threads started is outstanding (R117, R291, R375). -/
def State.wgQuiet (s : State) (wid : Nat) : Bool :=
  let mine (r : Option ThRef) : Bool := match r with | some r => r.wg == wid | none => false
  !s.loads.any (fun p => mine p.2.acc.th) && !s.writes.any (fun p => mine p.2.acc.th) &&
    !s.picots.any (fun p => mine p.2.acc.th || (s.wg? wid).any (fun w => w.stepping p.2)) && !s.fences.any (fun p => p.2.th.wg == wid) &&
    !s.copies.any (fun p => p.2.th.wg == wid) && !s.batches.any (fun p => p.2.th.wg == wid) &&
    !s.shqs.any (fun p => p.2.th.wg == wid) && !s.rts.any (fun p => p.2.th.wg == wid) &&
    !s.msgs.any (fun p => p.2.th.wg == wid) && !s.migs.any (fun p => p.2.th.wg == wid) &&
    !s.cores.any (fun c => c.2.opq.any (fun o => o.wg == wid))

/-- A workgroup that has ended with nothing outstanding has no scratchpad allocation left (R117, R269). -/
def State.wgGone (s : State) (wid : Nat) (w : Wg) : Bool := w.ended && s.wgQuiet wid

end Sys2Proof.Machine
end

