-- ==== Sys2Proof/Machine/Errors.lean ====
section
/-! DEFINITION. Error records and the error counters (R398, Table 15.2, Table 15.3). -/

namespace Sys2Proof.Machine

/-- KIND of an error record (Table 15.3). -/
inductive ErrKind where
  | corrected | poisoned | taskEnded | retired | scrubPoison
deriving DecidableEq, Repr

def ErrKind.code : ErrKind → Nat
  | .corrected => 0
  | .poisoned => 1
  | .taskEnded => 2
  | .retired => 3
  | .scrubPoison => 4

/-- The 32 bytes of an error record. -/
def errorBytes (place : Nat) (k : ErrKind) (fn : Option Nat) (unit : W32) (pa : Nat) (time wstart : W64) : List Byte :=
  leBytes 4 (place + 256 * k.code + 2 ^ 12 * (fn.getD 0x3F)) ++ leBytes 4 unit.toNat ++ leBytes 8 pa ++ leBytes 8 time.toNat ++
    leBytes 8 wstart.toNat

/-- A detected error: its counter advances, the interrupt is raised, and a record is written unless ERRBASE is 0 (R398). A unit that
is taken out of service counts as uncorrected where its tasks end (`ends`). DEDUCED (assumption 25). -/
def State.errorRecord (s : State) (place : Nat) (k : ErrKind) (fn : Option Nat) (unit : W32) (pa : Nat) (wstart : W64)
    (ends : Bool := false) : State :=
  let up (t : Tab W64) : Tab W64 := tset t place (tgetD t place 0#64 + 1#64)
  let e := (match k with
    | .corrected => { s.err with corr := up s.err.corr }
    | .retired => if ends then { s.err with uncorr := up s.err.uncorr } else s.err
    | _ => { s.err with uncorr := up s.err.uncorr })
  let s1 := { s with err := e }.emit .errorIrq
  if e.errbase = 0#64 then s1
  else
    let a := e.errbase.toNat + 32 * (e.errwr.toNat % 2 ^ e.errn)
    { s1.devWrite 0 a (errorBytes place k fn unit pa s.now wstart) with err := { e with errwr := e.errwr + 1#32 } }

end Sys2Proof.Machine
end

