-- ==== Sys2Proof/Machine/Home.lean ====
section
/-! DEFINITION. What happens at the home of a line and at a scratchpad bank: the orders of Table 6.5, when a write or a read may
perform, what performing does (leases, watches, invalidations, poison), and what it completes in its thread. -/

namespace Sys2Proof.Machine

/-! ### Atomic operations (Table 7.4) -/

/-- An FP32 addition under RNE with subnormals kept and no overflow table, as `.fadd` of R179 and `trst.add` make it. -/
def f32AddPlain (f : FltFmt) (a b : Nat) : Nat :=
  let x := f.val a
  let y := f.val b
  if x.isNaN || y.isNaN then f.canonNaN false
  else match exAdd false x y with
    | none => f.canonNaN false
    | some z => (roundFlt f 0 false ⟨1, false, false, 1#128⟩ ⟨1#32, 0#5⟩ z).1

/-- The IEEE 754-2019 maximum with a canonical NaN result (R200). -/
def fltMax (f : FltFmt) (a b : Nat) : Nat :=
  let x := f.val a
  let y := f.val b
  if x.isNaN || y.isNaN then f.canonNaN false
  else if exLt x y then b else if exLt y x then a else if x.sign then b else a

/-- New value of an atomic operation (Table 7.4, R179). -/
def atomNew (opc : Nat) (old c : W64) : W64 :=
  let o := lo32 old
  let d := lo32 c
  let up (x : W32) : W64 := x.zeroExtend 64
  match opc with
  | 0 => up (o + d)
  | 1 => up (o &&& d)
  | 2 => up (o ||| d)
  | 3 => up (o ^^^ d)
  | 4 => up (if d.slt o then d else o)
  | 5 => up (if o.slt d then d else o)
  | 6 => up (if d.ult o then d else o)
  | 7 => up (if o.ult d then d else o)
  | 8 => up d
  | 9 => BitVec.ofNat 64 (f32AddPlain f32F o.toNat d.toNat)
  | 10 => old + c
  | 11 => c
  | 12 => if c.ult old then c else old
  | _ => if old.ult c then c else old

/-! ### Pending accesses of a thread -/

/-- Acquire part of an ordering (Table 6.4). -/
def Ord.acq : Ord → Bool
  | .acquire | .acqRel | .seqCst => true
  | _ => false
/-- Release part of an ordering. -/
def Ord.rel : Ord → Bool
  | .release | .acqRel | .seqCst => true
  | _ => false

/-- Whether a pending write also reads. -/
def WrKind.reads : WrKind → Bool
  | .store _ => false
  | _ => true

/-- Whether what it reads may be poisoned: all but a store, a copy's bytes and a signal's decrement. -/
def WrKind.answers : WrKind → Bool
  | .rmw _ _ _ _ _ | .cas _ _ _ _ _ | .sigdec _ _ | .copyRed _ _ _ _ _ => true
  | _ => false

/-- An atomic without a result. -/
def WrKind.noReturn : WrKind → Bool
  | .rmw _ _ _ _ n => n
  | .sigdec _ none => true
  | _ => false

/-- A handler's own access: it waits for no invocation (R353). -/
def Acc.byHandler (a : Acc) : Bool := isBobTlb a.agent

/-- An access as the order rules see it; `query`: a query of the shading cache. -/
structure OrdView where
  acc   : Acc
  read  : Bool
  write : Bool
  query : Bool := false
deriving DecidableEq, Repr

/-- A query of the shading cache as the order rules see it: with HIT it is an acquire (R226), and it touches no byte.
DEDUCED (assumption 128). -/
def PShq.view (q : PShq) : OrdView :=
  ⟨{ id := q.id, th := some q.th, core := 0, fn := q.fn, launch := q.launch, pc := 0#64, va := 0, tgt := .glob 0 0, n := 0,
     ord := .acquire }, true, false, true⟩

/-- A thread has gone on past its queries before a number that have no answer yet (R226). -/
def State.passBefore (s : State) (r : ThRef) (id : Nat) : State :=
  { s with shqs := s.shqs.map (fun (p : Nat × PShq) => (p.1, if p.2.th = r ∧ p.1 < id then { p.2 with passed := true } else p.2)) }

/-- An access of a thread is made: the queries before it that have no answer yet are passed by it (R226). -/
def State.passQueries (s : State) (a : Acc) : State :=
  match a.th with
  | none => s
  | some r => s.passBefore r a.id

/-- The same for threads of a workgroup. -/
def State.passSigners (s : State) (wid : Nat) (tids : List Nat) (id : Nat) : State :=
  tids.foldl (fun t i => t.passBefore ⟨wid, i⟩ id) s

/-- The pending accesses of a thread, buffered stores of its group apart. -/
def State.pendingOf (s : State) (r : ThRef) : List OrdView :=
  ((s.loads.filter (fun p => p.2.acc.th == some r)).map (fun p => ⟨p.2.acc, true, false, false⟩)) ++
    ((s.writes.filter (fun p => p.2.acc.th == some r)).map (fun p => ⟨p.2.acc, p.2.kind.reads, true, false⟩)) ++
    ((s.picots.filter (fun p => p.2.acc.th == some r)).map (fun p => ⟨p.2.acc, true, true, false⟩)) ++
    ((s.shqs.filter (fun p => p.2.th == r)).map (fun p => p.2.view))

/-- The pending accesses of a thread whose bytes memory, a scratchpad or a picot holds. -/
def State.accessesOf (s : State) (r : ThRef) : List OrdView := (s.pendingOf r).filter (fun v => !v.query)

/-- Where in the space of a target another target's bytes lie, if it is in that space. -/
def Target.place (a b : Target) : Option Nat :=
  match a, b with
  | .glob _ _, .glob q _ => some q
  | .scr c _, .scr d q => if c = d then some q else none
  | .pod d _, .pod e q => if d = e then some q else none
  | _, _ => none

/-- Whether two accesses touch a common byte: by physical place, scratchpad place or pod place. -/
def Target.overlap (a : Target) (n : Nat) (b : Target) (m : Nat) : Bool :=
  match a, b with
  | .glob p _, .glob q _ => decide (p < q + m ∧ q < p + n)
  | .scr c p, .scr d q => c == d && decide (p < q + m ∧ q < p + n)
  | .pod d p, .pod e q => d == e && decide (p < q + m ∧ q < p + n)
  | _, _ => false

/-- An I/O access (R140). -/
def Target.isIO : Target → Bool
  | .glob _ mt => mt == 3
  | _ => false

/-- Whether a fence of the thread stands between two accesses (R151). -/
def State.fenceBetween (s : State) (r : ThRef) (a b : Nat) : Bool :=
  s.fences.any (fun p => p.2.th == r && decide (a < p.1 ∧ p.1 < b))

/-- Whether the earlier access must perform before the later one (Table 6.5, R150, R140). One that is to be translated again comes before
whatever follows it (R309). DEDUCED (assumption 137). -/
def mustPrecede (s : State) (r : ThRef) (e l : OrdView) : Bool :=
  e.acc.again || (e.read && l.write) || (e.read && e.acc.ord.acq) || (l.write && l.acc.ord.rel) ||
    (e.acc.ord == .seqCst && l.acc.ord == .seqCst) || (l.write && s.fenceBetween r e.acc.id l.acc.id) ||
    (e.acc.tgt.isIO && l.acc.tgt.isIO) ||
    (e.acc.tgt.overlap e.acc.n l.acc.tgt l.acc.n && (l.write || e.read))

/-- A write that the device makes on its own behalf. -/
def Acc.front (a : Acc) : Bool := a.th.isNone && a.agent == agFront

/-- Whether the orders of Table 6.5 let the access perform now: no earlier pending access of its thread must precede it. The device's
own writes of the same bytes perform in the order in which it makes them: each reaches the home after the one before it.
DEDUCED (assumption 132). -/
def State.ordOk (s : State) (v : OrdView) : Bool :=
  match v.acc.th with
  | none => !(v.acc.front && s.writes.any (fun e => e.2.acc.front && decide (e.1 < v.acc.id) && e.2.acc.arrived.isNone &&
      e.2.acc.tgt.overlap e.2.acc.n v.acc.tgt v.acc.n))
  | some r => !(s.accessesOf r).any (fun e => decide (e.acc.id < v.acc.id) && mustPrecede s r e v)

/-- Completes every `fence.rel` of the thread that no earlier access is pending for (Table 6.6). -/
def State.settleFences (s : State) (r : ThRef) : State :=
  s.fences.foldl (fun t p =>
    if p.2.th == r && !(t.accessesOf r).any (fun e => decide (e.acc.id < p.1)) then
      { t with fences := terase t.fences p.1 }.modThread r (fun th => th.flagDown p.2.flag)
    else t) s

/-- A message of an agent that has since been declared dead (R386). -/
def State.staleAcc (s : State) (a : Acc) : Bool :=
  (a.again || !a.path.isEmpty) && (decide (a.inc ≠ tgetD s.incs a.agent 0) || s.retired.contains a.agent)

/-- Whether an earlier scratchpad write of some threads of a workgroup has still to perform, updates of picots among them, or an acquire
that orders another thread's writes before what follows it (R112, R229, R232). -/
def State.signerPending (s : State) (wid : Nat) (tids : List Nat) (before : Nat) : Bool :=
  s.writes.any (fun p => decide (p.1 < before) &&
    (match p.2.acc.th, p.2.acc.tgt with
     | some r, .scr _ _ => r.wg == wid && tids.contains r.tid
     | _, _ => false)) ||
  s.picots.any (fun p => decide (p.1 < before) &&
    (match p.2.acc.th with
     | some r => r.wg == wid && tids.contains r.tid
     | none => false)) ||
  tids.any (fun t => (s.accessesOf ⟨wid, t⟩).any (fun e => decide (e.acc.id < before) && e.read && e.acc.ord.acq))

/-- The launch's residency ranges. -/
def State.residency (s : State) (l : Nat) : Option (List Range) := (s.launch? l).map (·.ranges)

/-! ### When an access performs -/

/-- An access translated by an agent through a line. -/
def Acc.through (a : Acc) (l : Nat) : Bool := a.path.contains l

/-- The agents that an invalidation of a page-table line goes to: those registered for it (R165, R310), and any with an access still
pending that was translated through it (R168). -/
def State.sharers (s : State) (l : Nat) : List Nat :=
  dedup' (s.holdersOf l ++ ((s.loads.filter (fun p => p.2.acc.through l)).map (fun p => p.2.acc.agent)) ++
    ((s.writes.filter (fun p => p.2.acc.through l)).map (fun p => p.2.acc.agent)))

/-- Whether no handler invocation makes a request wait (R351): none of its events is pending, and a tagged request has its line
in the home slice, or queues there behind a migration's block (R316). -/
def State.unheld (s : State) (a : Acc) : Bool :=
  decide (a.held = 0) &&
    (match a.range, a.tgt with
     | some _, .glob pa _ => (s.line (pa / 64)).present || (s.line (pa / 64)).blocked
     | _, _ => true)

/-- The writes that have reached a line's home and wait there, in arrival order. -/
def State.waitingAt (s : State) (l : Nat) : List (Nat × Nat) :=
  (s.writes.filterMap (fun p => match p.2.acc.arrived, p.2.acc.tgt with
    | some t, .glob pa _ => if pa / 64 = l then some (t, p.1) else none
    | _, _ => none)).mergeSort (fun a b => decide (a.1 ≤ b.1))

/-- The place in the arrival order of a line that an access waiting there holds. -/
def Acc.placeAt (a : Acc) (l : Nat) : Option Nat :=
  match a.arrived, a.tgt with
  | some t, .glob pa _ => if pa / 64 = l then some t else none
  | _, _ => none
/-- The same of a piece of a copy. -/
def CPiece.placeAt (q : CPiece) (l : Nat) : Option Nat :=
  match q.src with
  | .home pa _ t => if pa / 64 = l then some t else none
  | _ => none

/-- The reads of copies that wait at a line, by their places in its arrival order. -/
def State.copyReadsAt (s : State) (l : Nat) : List Nat :=
  (tvals s.copies).flatMap (fun c => (tvals c.units).flatMap (fun u => u.srcs.filterMap (fun q => q.placeAt l)))
/-- The loads that wait at a line. -/
def State.loadsAt (s : State) (l : Nat) : List (Nat × Acc) :=
  (tvals s.loads).filterMap (fun p => (p.acc.placeAt l).map (fun t => (t, p.acc)))

/-- The reads that waited at a line and that no invocation and no death of their agent holds up. -/
def State.readsAt (s : State) (l : Nat) : List Nat :=
  ((s.loadsAt l).filter (fun q => s.unheld q.2 && !s.staleAcc q.2)).map Prod.fst ++ s.copyReadsAt l

/-- Everything that waits at a line, in its arrival order (R316). -/
def State.arrivals (s : State) (l : Nat) : List Nat :=
  ((s.waitingAt l).map Prod.fst ++ (s.loadsAt l).map Prod.fst ++ s.copyReadsAt l).mergeSort (fun a b => decide (a ≤ b))

/-- Every write that reached the line before a place in its arrival order has performed. -/
def State.writesBefore (s : State) (l t : Nat) : Bool := (s.waitingAt l).any (fun q => decide (q.1 < t))

/-- An atomic without a result that the memory-side cache executes (R147): streaming or untracked, in HBM. -/
def isFar (w : PWrite) : Bool :=
  w.kind.noReturn && (w.acc.th.isSome || w.acc.reply.isSome) &&
    (match w.acc.tgt with
     | .glob pa mt => (mt == 1 || mt == 2) && regionOf pa == some .hbm
     | _ => false)

/-- The core whose L1 may serve an access or execute it as the line's owner (R141, R146): that of a thread's or a hint's access to a
tracked line, not of one through an export table (R138), nor of another agent's. -/
def Acc.atCore (a : Acc) : Option Nat :=
  match a.tgt with
  | .glob _ mt => if mt = 0 ∧ a.agent < 400 ∧ a.reply = none then some a.core else none
  | _ => none

/-- An access that its core owns the line for: the owner's accesses perform in its L1, for 64 ns at most (R146). -/
def State.owns (s : State) (x : Line) (core : Option Nat) : Bool :=
  x.owner.isSome && x.owner == core && decide ((s.now - x.ownedAt).toNat ≤ 64)

/-- Nothing that holds back other writes of the line holds this one: the line is owned by its core (R146), far and the write goes far
too (R147), pending in an invocation and the write a handler's (R353), or held for the operation whose write it is (R318). -/
def State.lineLets (s : State) (l : Nat) (w : PWrite) : Bool :=
  let x := s.line l
  (x.owner.isNone || s.owns x w.acc.atCore) && (decide (x.far = 0) || isFar w) && (decide (x.pendEv = 0) || w.acc.byHandler) &&
    (x.hold.isNone || (match w.kind with | .pte op _ => x.hold == some op | _ => false))

/-- Some writes of the line are let past others. -/
def Line.favours (x : Line) : Bool := x.owner.isSome || decide (x.far ≠ 0) || decide (x.pendEv ≠ 0) || x.hold.isSome

/-- The writes that wait at a line, in the order in which they may perform: that of their arrival, past the writes that something holds
back. -/
def State.nextWrite (s : State) (l : Nat) : Option PWrite :=
  (s.waitingAt l).findSome? (fun p => (tget? s.writes p.2).filter (fun w => s.lineLets l w))

/-- Whether the state of the line lets the next of its writes perform (R143, R146, R147, R316, R318). A block takes its place in the
order of the writes; what the line favours does not wait for one that has not taken hold. Reads that were queued at the line before the
write come before it, but hold up no handler (R316, R353). -/
def State.lineTakes (s : State) (l : Nat) (w : PWrite) : Bool :=
  let x := s.line l
  s.lineLets l w && decide (x.expiry ≤ s.now) && !x.fetching && !x.blocked && x.await.isNone &&
    (x.block.isNone || x.favours || decide (w.acc.arrived.getD 0 < x.blockAt)) &&
    (match x.invFor with | some i => i == w.acc.id && x.inval.isEmpty | none => true) &&
    (w.acc.byHandler || (s.readsAt l).all (fun t => decide (w.acc.arrived.getD 0 < t)))

/-- Whether a write that its line takes must first have its line's translations invalidated (R166). -/
def State.mustInvalidate (s : State) (l : Nat) (w : PWrite) : Bool :=
  (s.line l).invFor != some w.acc.id && !(s.sharers l).isEmpty

/-! ### What performing does -/

/-- Wakes the polling groups that watch a line (R266). -/
def State.wakeWatchers (s : State) (l : Nat) : State :=
  (s.line l).watch.foldl (fun t g => match t.group? g with
    | some x => (match x.wait with
      | .poll _ _ _ _ => t.wake g
      | _ => t)
    | none => t) (s.modLine l (fun x => { x with watch := [] }))

/-- Writes bytes at their home and wakes the line's watchers. -/
def State.perform (s : State) (pa : Nat) (bs : List Byte) : State := (s.put pa bs).wakeWatchers (pa / 64)

/-- Where an access reads and writes its bytes. -/
def State.tgtRead (s : State) (t : Target) (n : Nat) : List Byte :=
  match t with
  | .glob pa _ => s.read pa n
  | .scr c off => s.scrRead c off n
  | .pod _ _ => zeroBytes n
def State.tgtWrite (s : State) (t : Target) (bs : List Byte) : State :=
  match t with
  | .glob pa _ => s.perform pa bs
  | .scr c off => s.scrPut c off bs false
  | .pod _ _ => s
def State.tgtPois (s : State) (t : Target) (n : Nat) : Bool :=
  match t with
  | .glob pa _ => s.isPois pa n
  | .scr c off => s.scrIsPois c off n
  | .pod _ _ => false

/-- The registers that an access of `n` bytes writes. -/
def regsOf (n : Nat) : Nat := if n ≤ 4 then 1 else n / 4
/-- The words of a value of `n` bytes. -/
def wordsOf (n : Nat) (v : Nat) : List W32 := (upTo (regsOf n)).map (fun i => BitVec.ofNat 32 (v / 2 ^ (32 * i)))

/-- Writes an access's result to its destination and completes the access for its flag (R27, R28). -/
def State.deliver (s : State) (a : Acc) (dst : Option Nat) (v tag : Nat) : State :=
  match a.th with
  | none => s
  | some r => s.modThread r (fun th =>
      (match dst with
       | some d => (th.setRegs d (wordsOf a.n v) tag).pendDecs d (regsOf a.n)
       | none => th).flagDown a.flag)

/-- Frees the destination of an access that writes nothing. -/
def State.release (s : State) (a : Acc) (dst : Option Nat) (n : Nat) : State :=
  match a.th with
  | none => s
  | some r => s.modThread r (fun th =>
      (match dst with | some d => th.pendDecs d (regsOf n) | none => th).flagDown a.flag)

/-- The destination of a pending write, and how many bytes its result has. -/
def WrKind.dst : WrKind → Option Nat × Nat
  | .store _ => (none, 0)
  | .rmw opc _ d _ _ => (d, if 10 ≤ opc then 8 else 4)
  | .cas wide _ _ d _ => (d, if wide then 8 else 4)
  | .sigdec _ d => (d, 8)
  | .pte _ _ => (none, 8)
  | .pend _ _ => (none, 4)
  | .copyUnit _ _ _ _ => (none, 0)
  | .copyRed _ _ _ _ _ => (none, 0)
  | .copySig _ => (none, 0)
  | .line _ _ _ _ => (none, 64)

/-! ### Copies (R158, R185, R200) -/

/-- A reduction into an element (R200). -/
def redNew (op : RedOp) (n old new : Nat) : Nat :=
  match (if op.tag = 3 then some f32F else if op.tag = 4 then some f16F else if op.tag = 5 then some bf16F else none) with
  | some f => if op.max then fltMax f old new else f32AddPlain f old new
  | none =>
    if op.max then
      (if op.tag = 1 then (if (BitVec.ofNat 32 old).slt (BitVec.ofNat 32 new) then new else old) else Nat.max old new)
    else (old + new) % 2 ^ (8 * n)

/-- A copy has completed: it leaves the engine and its batch counts it (R158). -/
def State.copyDone (s : State) (c : Nat) : State :=
  match tget? s.copies c with
  | some y => { s with
      copies := terase s.copies c
      batches := tmod s.batches y.batch (fun b => { b with done := b.done + 1 }) }
  | none => s

/-- A unit of a copy has landed or been dropped; with the last of them the copy completes, unless a signal is to follow. -/
def State.unitDone (s : State) (c k : Nat) : State :=
  match tget? s.copies c with
  | some y =>
    let y' := { y with units := terase y.units k }
    let s1 := { s with copies := tset s.copies c y' }
    if y'.units.isEmpty && y'.signal.isNone then s1.copyDone c else s1
  | none => s

/-- Marks the batch of a copy. -/
def State.markBatch (s : State) (c : Nat) (part pois : Bool) : State :=
  match tget? s.copies c with
  | some y => { s with batches := tmod s.batches y.batch (fun b => { b with part := b.part || part, pois := b.pois || pois }) }
  | none => s

/-- The bytes of `old` with those of `new` where the mask has a one (R356). -/
def maskMerge (old new : List Byte) (mask : W64) : List Byte :=
  (upTo old.length).map (fun i => if mask.getLsbD i then new.getD i 0#8 else old.getD i 0#8)

/-! ### `splinter` and `migrate` (R314 to R316) -/

/-- The status word (Table 11.8). -/
def migStatus (lvl code : Nat) : W32 := BitVec.ofNat 32 (2 ^ 31 + 16 * lvl + code)

/-- An operation ends: D takes its status, its flag completes. -/
def State.migDone (s : State) (id lvl code : Nat) : State :=
  match tget? s.migs id with
  | some m => { s with migs := terase s.migs id }.modThread m.th (fun th =>
      (match m.dst with
       | some d => (th.setRegs d [migStatus lvl code] 2).pendDecs d 1
       | none => th).flagDown m.flag)
  | none => s

/-- The operation's write to the leaf has performed: a `splinter` releases its hold and ends; a `migrate` goes on to its replay. -/
def State.pteDone (s : State) (id : Nat) : State :=
  match tget? s.migs id with
  | some m =>
    if m.migrate then { s with migs := tset s.migs id { m with remapped := true } }
    else (s.modLine (m.pte / 64) (fun x => { x with hold := none })).migDone id m.lvl 0
  | none => s

/-- The value of an access of the pod window on another device: nothing constrains what comes back. A choice of the links
says whether it is delivered (0), refused by the other device's export table (1), undeliverable (2), or, of an access that reads,
delivered poisoned (3) (R183, R322, R395). DESIGN CHOICE (assumption 28). -/
def State.podAnswer (s : State) (n : Nat) (reads : Bool) : Nat × Nat × State :=
  let (c, s1) := s.choose (if reads then 4 else 3)
  let (v, s2) := s1.free
  let (u, s3) := s2.free
  (c, (u ++ v).toNat % 2 ^ (8 * n), s3)

/-- What a write asks of another device. -/
def WrKind.remote : WrKind → RemoteOp
  | .store bs => .write bs false
  | .rmw opc v _ _ n => .rmw opc v n
  | .cas wide c v _ _ => .cas wide c v
  | .sigdec x _ => .sigdec x
  | .pte _ v => .write (leBytes 8 v.toNat) false
  | .pend _ _ => .rmw 0 0xFFFFFFFF#64 true
  | .copyUnit _ _ bs bad => .write bs bad
  | .copyRed _ _ op bs bad => .red op.max op.tag bs bad
  | .copySig _ => .sigdec 1#32
  | .line _ _ bs _ => .write bs false

/-- A request leaves for another device of the pod: its number and function go with it (R322). -/
def State.askPod (s : State) (a : Acc) (op : RemoteOp) : State :=
  match a.tgt with
  | .pod d off => s.emit (.podRequest d s.podid a.fn ⟨off, op⟩)
  | _ => s

/-- An access of the pod window that the link cannot deliver (R183, R392): an error is recorded, whose unit the device names. -/
def State.podLost (s : State) (fn : Nat) : State :=
  let (v, s1) := s.free
  s1.errorRecord 7 .taskEnded (some fn) (lo32 v) 0 0#64

/-- A pod access that the other device refuses, that the link cannot deliver, or that reads poison (R183, R392, R395): its task ends. -/
def State.podFails (s : State) (a : Acc) (c : Nat) : State :=
  if c = 1 then s.accFault a clsPerm 0
  else (if c = 2 then s.podLost a.fn else s).accFault a clsPoison 0

/-- A refusal of a copy: class, SUB, address, and the core it names. -/
structure Refused where
  cls  : Nat
  sub  : Nat
  addr : Nat
  core : Nat
deriving DecidableEq, Repr

/-- The task-ending fault that a copy takes (R186). -/
def Copy.fault (c : Copy) (s : State) (r : Refused) : FaultInfo :=
  { cls := r.cls, sub := r.sub, pc := c.pc, addr := r.addr, core := some r.core,
    wg := (match s.wg? c.th.wg with | some w => BitVec.ofNat 32 w.g | none => 0#32), tid := c.th.tid }

/-- A copy that a refusal ends: it leaves the engine, what it had registered and not landed is taken back, and its batch counts it
(R158, R186, R187). DEDUCED (assumption 99). -/
def State.copyFails (s : State) (id : Nat) : State :=
  match tget? s.copies id with
  | none => s
  | some c =>
    let s1 := if c.checked then
        c.units.foldl (fun t u => match u.2.dst with
          | .peer _ _ (some w) _ _ _ => t.modWg w (fun v => { v with regBytes := v.regBytes - u.2.n })
          | _ => t) s
      else s
    s1.copyDone id

/-- A copy whose write another device refuses, or that no link delivers, ends with its task (R183, R186). -/
def State.copyLost (s : State) (id : Nat) (a : Acc) (c : Nat) : State :=
  match tget? s.copies id with
  | some y =>
    let t := if c = 2 then s.podLost a.fn else s
    (t.copyFails id).taskFault y.launch (y.fault t ⟨if c = 1 then clsPerm else clsPoison, 0, a.va, a.core⟩)
  | none => s

/-- A write whose place lies on the other device of a pod: what comes back is delivered, or the access faults (R183, R322). A reduction of
a poisoned element leaves it poisoned (R188). -/
def State.writePod (s : State) (w : PWrite) : State :=
  let a := w.acc
  let (d, n) := w.kind.dst
  let (c, v, t) := (s.askPod a w.kind.remote).podAnswer n w.kind.answers
  match w.kind with
  | .copyUnit y k _ bad => if c = 0 then (t.markBatch y false bad).unitDone y k else t.copyLost y a c
  | .copyRed y k _ _ bad => if c = 0 ∨ c = 3 then (t.markBatch y false (bad || c == 3)).unitDone y k else t.copyLost y a c
  | .copySig y => if c = 0 then t.copyDone y else t.copyLost y a c
  | .rmw _ _ _ tag _ => if c = 0 then t.deliver { a with n := n } d v tag else (t.release a d n).podFails a c
  | .cas _ _ _ _ tag => if c = 0 then t.deliver { a with n := n } d v tag else (t.release a d n).podFails a c
  | _ => if c = 0 then t.deliver { a with n := n } d v 2 else (t.release a d n).podFails a c

/-- A copy's bytes reach their place in memory, with or without poison. -/
def State.copyWrite (s : State) (a : Acc) (bs : List Byte) (bad : Bool) : State :=
  match a.tgt with
  | .glob pa _ => (s.putPois pa bs bad).wakeWatchers (pa / 64)
  | _ => s

/-- The invocation that an access belongs to still runs on its Bobbin core: the results of one that has ended are discarded (R418). -/
def Bob.owns (b : Bob) (id : Nat) : Bool := b.run.any (fun r => decide (r.id < id))

/-- A register of a Bobbin core takes what an access of its invocation brings; x0 takes nothing (R354). -/
def State.bobWrites (s : State) (k id rd : Nat) (v : W32) : State :=
  s.modBob k (fun b => if rd = 0 ∨ b.owns id = false then b else { b with regs := tset b.regs rd v })

/-- A read-modify-write of the value `old`: poison ends its task, else `go` performs it (R179, R395). -/
def State.modifies (s : State) (a : Acc) (d : Option Nat) (go : State) : State :=
  if s.tgtPois a.tgt a.n then (s.release a d a.n).accFault a clsPoison 0 else go

/-- The bytes of a write change at its point of coherence or scratchpad bank, and what depends on them happens (R139, R179, R181,
R297). -/
def State.writeData (s : State) (w : PWrite) : State :=
  let a := w.acc
  let old := leVal (s.tgtRead a.tgt a.n)
  match w.kind with
  | .store bs => (s.tgtWrite a.tgt bs).deliver a none 0 0
  | .rmw opc c d tag _ =>
    s.modifies a d ((s.tgtWrite a.tgt (leBytes a.n (atomNew opc (BitVec.ofNat 64 old) c).toNat)).deliver a d old tag)
  | .cas _ cmp new d tag =>
    s.modifies a d ((if old = cmp.toNat then s.tgtWrite a.tgt (leBytes a.n new.toNat) else s).deliver a d old tag)
  | .sigdec x d =>
    let new := (BitVec.ofNat 64 old - x.zeroExtend 64).toNat
    s.modifies a d ((s.tgtWrite a.tgt (leBytes 8 new)).deliver a d new 2)
  | .pte op v => (s.tgtWrite a.tgt (leBytes 8 v.toNat)).pteDone op
  | .pend l i =>
    let new := BitVec.ofNat 32 old - 1#32
    (s.tgtWrite a.tgt (leBytes 4 new.toNat)).modLaunch l (fun x =>
      if new = 0#32 ∧ !x.sinkDone ∧ !x.ending then { x with ready := x.ready ++ [i] } else x)
  | .copyUnit c k bs bad => ((s.copyWrite a bs bad).markBatch c false bad).unitDone c k
  | .copyRed c k op bs bad =>
    let pois := bad || s.tgtPois a.tgt a.n
    ((s.copyWrite a (leBytes a.n (redNew op a.n old (leVal bs))) pois).markBatch c false pois).unitDone c k
  | .copySig c => (s.tgtWrite a.tgt (leBytes 8 (BitVec.ofNat 64 old - 1#64).toNat)).copyDone c
  | .line k rd bs mask =>
    let t := s.tgtWrite a.tgt (maskMerge (s.tgtRead a.tgt 64) bs mask)
    ({ t with pois := poisMasked s.pois (a.tgt.base / 64) mask } : State).bobWrites k a.id rd 0#32

/-- The line's record after a write there has performed: of a far atomic the home has dropped its copy (R147). A write of less than the
line needs its other bytes. -/
def State.lineWritten (s : State) (w : PWrite) : State :=
  match w.acc.tgt with
  | .glob pa mt =>
    let l := pa / 64
    let s1 := if mt = 3 ∨ w.acc.n = 64 then s else s.fetchIn w.acc.fn l
    let s2 := s1.modLine l (fun x =>
      let y := { x with
        invFor := none, inval := [], dirty := if mt = 3 then x.dirty else some w.acc.fn, ownDirty := x.ownDirty || x.owner.isSome }
      if isFar w then { y with present := false, tag := none, msc := true, far := x.far + 1 } else y.visit mt)
    if mt = 3 && !(s.line l).present && !(s.line l).msc then s2.leaveSram l else s2
  | _ => s

/-- What the outside sees of a write: the interrupt of a notification, and the reply to another device, with the bytes of `u`. -/
def State.writeReplied (s u : State) (w : PWrite) : State :=
  let a := w.acc
  let s1 := (match a.irq with
    | some (f, q) => s.emit (.queueIrq f q)
    | none => s)
  match a.reply with
  | some d =>
    let bad := w.kind.answers && u.tgtPois a.tgt a.n
    s1.emit (.remoteReply d true bad (if bad || !w.kind.answers then [] else u.tgtRead a.tgt a.n))
  | none => s1

/-- Performs a write that waits for nothing more: one indivisible step at its point of coherence (R139, R179, R181, R297), or at
its scratchpad bank, or on the other device of a pod. DESIGN CHOICE
(assumption 117). -/
def State.performWrite (s : State) (w : PWrite) : State :=
  let s0 := ({ s with writes := terase s.writes w.acc.id } : State).actOf w.acc.launch .access 1
  let s1 := (match w.acc.tgt with
    | .pod _ _ => s0.writePod w
    | _ => s0.writeData w)
  let s2 := (s1.lineWritten w).writeReplied s0 w
  match w.acc.th with
  | some r => s2.settleFences r
  | none => s2

/-- Drops a message of a dead agent and counts it (R386). -/
def State.dropStale (s : State) (a : Acc) (dst : Option Nat) (n : Nat) : State :=
  { s with err := { s.err with stale := s.err.stale + 1#64 } }.release a dst n

/-- Drops a pending write of a dead agent; a copy's unit is done with it. -/
def State.dropWrite (s : State) (w : PWrite) : State :=
  let s0 := { s with writes := terase s.writes w.acc.id }.dropStale w.acc w.kind.dst.1 w.kind.dst.2
  let s1 := (match w.acc.tgt with
    | .glob pa _ =>
      if (s.line (pa / 64)).invFor = some w.acc.id then s0.modLine (pa / 64) (fun x => { x with invFor := none, inval := [] }) else s0
    | _ => s0)
  match w.kind with
  | .copyUnit c k _ _ => s1.unitDone c k
  | .copyRed c k _ _ _ => s1.unitDone c k
  | .copySig c => s1.copyDone c
  | .line k rd _ _ => s1.bobWrites k w.acc.id rd 0#32
  | _ => s1

/-- Drops the writes of dead agents that wait at a line (R386). -/
def State.dropDead (s : State) (l : Nat) : State :=
  (s.waitingAt l).foldl (fun t p => match tget? t.writes p.2 with
    | some w => if t.staleAcc w.acc then t.dropWrite w else t
    | none => t) s

/-- Lets the writes that wait at a line perform for as long as the line takes them; at a tracked page-table line the first of them sends
its invalidations instead (R143, R166). -/
def State.drainLine (s : State) (l : Nat) : Nat → State
  | 0 => s
  | fuel + 1 =>
    match (s.dropDead l).nextWrite l with
    | none => s.dropDead l
    | some w =>
      let t := s.dropDead l
      if t.lineTakes l w then
        (if t.mustInvalidate l w then
          t.modLine l (fun x => { x with invFor := some w.acc.id, inval := t.sharers l, invAt := t.now })
         else (t.performWrite w).drainLine l fuel)
      else t

/-- The history and the waiting mark of a line that a write reaches (R142, R143). -/
def Line.meetWrite (x : Line) (now : W64) : Line :=
  if now < x.expiry then { x with hist := x.hist - 1, waited := true } else x

/-- A write reaches its home: it takes its place in the line's arrival order and performs at once when nothing makes it wait. -/
def State.arrive (s : State) (w : PWrite) : State :=
  let s := s.passQueries w.acc
  match w.acc.tgt with
  | .glob pa _ =>
    let l := pa / 64
    let (t, s0) := s.newId
    -- an `atomn` completes for its flag when the home accepts it (R180)
    let s1 := if w.kind.noReturn then s0.release w.acc none 0 else s0
    let flag := if w.kind.noReturn then none else w.acc.flag
    let w' := { w with acc := { w.acc with arrived := some t, flag := flag } }
    let s2 := ({ s1 with writes := tset s1.writes w.acc.id w' }).modLine l (fun x => x.meetWrite s.now)
    s2.drainLine l (s2.writes.length + 1)
  | _ => s.performWrite w

/-! ### Reads -/

/-- Lays bytes written at `b` over the bytes read at `a`. -/
def overlay (a : Nat) (base : List Byte) (b : Nat) (bs : List Byte) : List Byte :=
  (upTo base.length).map (fun i =>
    if b ≤ a + i ∧ a + i < b + bs.length then bs.getD (a + i - b) 0#8 else base.getD i 0#8)

/-- Where a buffered store would go, in the space of a read's target: beside the read in a page of both, else where the translations that
the core holds lead; its own translation is made at commit (R309). -/
def State.bufPlace (s : State) (a : Acc) (sbase : Nat) (b : BufStore) : Option Nat :=
  match a.tgt with
  | .glob pa _ =>
    if b.scr then none
    else if a.va / 65536 = b.addr / 65536 then some (pa + b.addr - a.va)
    else (s.storePlace a.core a.fn b.addr).bind (fun q => a.tgt.place q.1)
  | .scr c _ => if b.scr && c == a.core then some (sbase + b.addr) else none
  | .pod _ _ => if b.scr then none else (s.storePlace a.core a.fn b.addr).bind (fun q => a.tgt.place q.1)

/-- The stores that a thread's group buffers and that are older than an access, with their places. -/
def State.bufferedOf (s : State) (a : Acc) (r : ThRef) : List (Nat × List Byte) :=
  let sbase := (match s.wg? r.wg with | some w => w.sbase | none => 0)
  (tvals s.groups).flatMap (fun g =>
    if g.wg = r.wg then
      g.buf.filterMap (fun b =>
        if b.tid = r.tid ∧ b.id < a.id then
          (s.bufPlace a sbase b).map (fun q => (q, b.bytes))
        else none)
    else [])

/-- The thread's own stores older than an access that have not performed, oldest first, with their places: pending ones, then
those its group buffers (R144). -/
def State.ownStores (s : State) (a : Acc) : List (Nat × List Byte) :=
  match a.th with
  | none => []
  | some r =>
    s.writes.filterMap (fun p =>
      if p.2.acc.th = some r ∧ p.1 < a.id then
        (match p.2.kind, a.tgt.place p.2.acc.tgt with
         | .store bs, some q => some (q, bs)
         | _, _ => none)
      else none) ++ s.bufferedOf a r

/-- The bytes `bs` at an access's place under the thread's own older stores. -/
def State.underOwn (s : State) (a : Acc) (bs : List Byte) : List Byte :=
  (s.ownStores a).foldl (fun m p => overlay a.tgt.base m p.1 p.2) bs

/-- The bytes a read returns now: those in memory, under the thread's own older stores. -/
def State.readNow (s : State) (a : Acc) : List Byte := s.underOwn a (s.tgtRead a.tgt a.n)

/-- Every byte of a read comes from the thread's own older stores (R144). -/
def State.ownSupply (s : State) (a : Acc) : Bool :=
  let ws := s.ownStores a
  (upTo a.n).all (fun i => ws.any (fun p => decide (p.1 ≤ a.tgt.base + i ∧ a.tgt.base + i < p.1 + p.2.length)))

/-- Whether the core serves reads of the line from its L1 (R141). -/
def State.l1Serves (s : State) (core fn l : Nat) : Bool :=
  match tget? (s.core core).l1 (l1Key fn l) with
  | some x => decide (s.now + 2#64 < x)
  | none => false

/-- A write waits on the line, a migration's block among them. -/
def State.writeWaits (s : State) (l : Nat) : Bool := !(s.waitingAt l).isEmpty || (s.line l).block.isSome

/-- A request leaves its core through the mesh port: a thread's, a hint's or the copy engine's (R342). -/
def Acc.byPort (a : Acc) : Bool :=
  a.reply.isNone && (a.th.isSome || decide (a.agent < 1200)) && (match a.tgt with | .scr _ _ => false | _ => true)

/-- Whether the L1 answers a read under a lease, so that no request leaves the core. -/
def State.l1Answers (s : State) (a : Acc) : Bool :=
  match a.atCore with
  | some c => s.l1Serves c a.fn (a.tgt.base / 64)
  | none => false

/-- The line of a read takes it now: it waits for no invalidation, block, owner or invocation; a handler's read waits for no invocation
(R353). A queued read comes after the writes that were queued before it (R316). -/
def State.lineReads (s : State) (a : Acc) : Bool :=
  match a.tgt with
  | .glob pa _ =>
    !(if a.byHandler then s.homeWaits (pa / 64) none else s.readWaits (pa / 64) a.atCore) &&
      (match a.arrived with | some t => !s.writesBefore (pa / 64) t | none => true)
  | _ => true

/-- Whether a core's port holds back the fetch of a code line (R342), which the L1 may serve; of a line that has been fetched before the
device says whether the core still has it. DESIGN CHOICE (assumption 139). -/
def State.fetchHeld (s : State) (core fn l : Nat) (had : Bool) : Bool × State :=
  if !(s.core core).portHeld.contains fn || s.l1Serves core fn l then (false, s)
  else if had then let (k, t) := s.choose 2; (k = 1, t)
  else (true, s)

/-- A request to which its order in its core gives its turn at the mesh port (R342). -/
def Acc.inTurn (a : Acc) (core fn id : Nat) : Bool :=
  a.turn && a.arrived.isNone && decide (a.id < id) && a.core == core && a.fn == fn

/-- A request that the port held before the given one, and that has still to leave: a write, a load that its line takes, a copy's
(R342). -/
def State.aheadAtPort (s : State) (core fn id : Nat) : Bool :=
  s.writes.any (fun w => w.2.acc.inTurn core fn id && s.ordOk ⟨w.2.acc, w.2.kind.reads, true, false⟩ && s.unheld w.2.acc) ||
    s.loads.any (fun p => p.2.acc.inTurn core fn id && !p.2.acc.missed && s.ordOk ⟨p.2.acc, true, false, false⟩ && s.unheld p.2.acc &&
      !s.ownSupply p.2.acc && !s.l1Answers p.2.acc && s.lineReads p.2.acc) ||
    s.copies.any (fun c => c.2.turn && decide (c.1 < id) && c.2.core == core && c.2.fn == fn && c.2.held == 0 &&
      c.2.units.any (fun u => !u.2.sent))

/-- The mesh port holds the request back, or earlier ones that it held go first (R342). -/
def State.heldBack (s : State) (a : Acc) : Bool :=
  a.byPort && !a.sent && ((s.core a.core).portHeld.contains a.fn || s.aheadAtPort a.core a.fn a.id)

/-- The home, or the owning L1, serves a read itself: a tracked read of a core takes a lease instead (R141), unless it was queued there
(R316), a write waits on the line (R143) or the core owns it (R146). -/
def State.homeServes (s : State) (a : Acc) : Bool :=
  s.lineReads a &&
    (match a.tgt with
     | .glob pa _ => a.atCore.isNone || a.arrived.isSome || s.writeWaits (pa / 64) || (s.line (pa / 64)).owner.isSome
     | _ => true)

/-- A pending load may return: in order, waiting for no invocation that it has raised (R351), and supplied by the thread's own stores
(R144), or answered by the L1, or served at its home without being held back by its port. DEDUCED (assumption 98). -/
def State.canLoad (s : State) (p : PLoad) : Bool :=
  !p.acc.again && p.acc.held == 0 && s.ordOk ⟨p.acc, true, false, false⟩ &&
    (s.ownSupply p.acc || (s.unheld p.acc && (s.l1Answers p.acc || (s.homeServes p.acc && !s.heldBack p.acc))))

/-- A migration keeps what arrives at the line queued: its block holds the line, or it has copied there and not ended (R316). -/
def Line.parks (x : Line) : Bool := x.blocked || x.await.isSome
/-- An access that a migration keeps queued at its home. -/
def State.parked (s : State) (a : Acc) : Bool :=
  match a.tgt with
  | .glob pa _ => a.arrived.isSome && (s.line (pa / 64)).parks
  | _ => false

/-- A read reaches its home and is queued there (R316): a block holds the line, its migration has not ended, or its translations are
being invalidated (R166). -/
def Line.queues (x : Line) : Bool := x.parks || x.invFor.isSome
def State.loadQueues (s : State) (p : PLoad) : Bool :=
  match p.acc.tgt with
  | .glob pa _ =>
    !p.acc.again && p.acc.arrived.isNone && (s.line (pa / 64)).queues && s.ordOk ⟨p.acc, true, false, false⟩ && s.unheld p.acc &&
      !s.ownSupply p.acc && !s.l1Answers p.acc && !s.heldBack p.acc
  | _ => false

/-- A read takes its place in its line's arrival order. -/
def State.queueLoad (s : State) (p : PLoad) : State :=
  let (t, s1) := s.newId
  { s1 with loads := tset s1.loads p.acc.id { p with acc := { p.acc with arrived := some t, sent := true } } }

/-- The value a load writes (R175). -/
def loadValue (n : Nat) (sext : Bool) (bs : List Byte) : Nat :=
  let v := leVal bs
  if sext then (trunc32 (if 2 ^ (8 * n - 1) ≤ v then (v : Int) - 2 ^ (8 * n) else v)).toNat else v

/-- A satisfied load of a `poll` records the watch and, with the last of them, starts the timeout (R266). -/
def State.pollLoaded (s : State) (gid l : Nat) : State :=
  match s.group? gid with
  | some g =>
    (match g.wait with
     | .poll n tmo _ ws =>
       let room := Config.watchRoom s.fresh
       let s1 := { s with fresh := s.fresh + 1 }.modGroup gid (fun g => { g with
         wait := .poll (n - 1) tmo (if n ≤ 1 then some (s.now + BitVec.ofNat 64 tmo) else none)
           (if room then ws ++ [l] else ws) })
       if room then s1.modLine l (fun x => { x with watch := insertNat x.watch gid }) else s1
     | _ => s)
  | none => s

/-- The bytes of a line with those of its poisoned units as zero (Table 13.6). -/
def State.cleanLine (s : State) (l : Nat) : List Byte :=
  (upTo 4).flatMap (fun k => if s.isPois (64 * l + 16 * k) 16 then zeroBytes 16 else s.read (64 * l + 16 * k) 16)

/-- What a handler's read that was queued at its home brings to its Bobbin core; an invocation that has ended takes nothing, and one whose
window load reads poison is to abort with that cause (R346, R355, R418). -/
def State.bobLoaded (s : State) (p : PLoad) (d : BobDst) : State :=
  let a := p.acc
  match d with
  | .buf k b rd =>
    if (s.bob k).owns a.id then
      (s.modBob k (fun x => { x with bufs := tset x.bufs b { bytes := s.cleanLine (a.tgt.base / 64) } })).bobWrites k a.id rd
        (if s.tgtPois a.tgt 64 then 3#32 else 0#32)
    else s
  | .reg k rd =>
    if s.tgtPois a.tgt a.n then
      s.modBob k (fun x => if x.owns a.id then { x with run := x.run.map (fun r => { r with ends := some 6 }) } else x)
    else s.bobWrites k a.id rd (BitVec.ofNat 32 (loadValue a.n p.sext (s.tgtRead a.tgt a.n)))

/-- What a returning load brings its thread: its value, or the fault of a poisoned or failed read (R175, R395). Bytes that the thread's
own stores supply are read from no memory (R144). -/
def State.loadData (s : State) (p : PLoad) : State :=
  let a := p.acc
  match p.bob with
  | some d => s.bobLoaded p d
  | none =>
  if s.ownSupply a then s.deliver a p.dst (loadValue a.n p.sext (s.readNow a)) p.tag
  else match a.tgt with
    | .pod _ _ =>
      let (c, v, t) := (s.askPod a (.read a.n)).podAnswer a.n true
      if c = 0 then t.deliver a p.dst (loadValue a.n p.sext (s.underOwn a (leBytes a.n v))) p.tag
      else (t.release a p.dst a.n).podFails a c
    | _ =>
      if a.th.isSome && s.tgtPois a.tgt a.n then (s.release a p.dst a.n).accFault a clsPoison 0
      else s.deliver a p.dst (loadValue a.n p.sext (s.readNow a)) p.tag

/-- A poll whose load has returned watches the line (R266). -/
def State.loadPolled (s : State) (p : PLoad) : State :=
  match p.poll, p.acc.tgt with
  | some gid, .glob pa _ => s.pollLoaded gid (pa / 64)
  | some gid, _ => s.pollLoaded gid 0
  | none, _ => s

/-- The line of a prefetch comes to the memory-side cache of its stack (R177, R357). -/
def State.toMsc (s : State) (fn l : Nat) : State :=
  (s.fetchIn fn l).modLine l (fun y => { y with msc := y.msc || regionOf (64 * l) == some .hbm })

/-- A load that its home has served leaves its line present; `l1`: the L1 had the line, with the lease that the load itself took where it is
no `hit` (Table 14.12). -/
def State.loadSeen (s : State) (a : Acc) (l1 hit : Bool) : State :=
  match a.tgt with
  | .glob pa mt =>
    let t := if l1 then s else s.touch a.fn (pa / 64) mt
    if mt ≤ 1 ∧ a.reply = none ∧ a.byHandler = false then t.count a.core a.fn (if hit then 3 else 4) 1 else t
  | _ => s

/-- The reply to another device's read, with the bytes that `u` holds and their poison, which travels with them (R395). -/
def State.loadReplied (s u : State) (a : Acc) : State :=
  match a.reply with
  | some d =>
    s.emit (.remoteReply d true (u.tgtPois a.tgt a.n) (u.readNow a))
  | none => s

/-- A load's data returns (R175): its value is fixed, poison ends its task (R395). -/
def State.returnLoad (s : State) (p : PLoad) : State :=
  let a := p.acc
  let s0 := (({ s with loads := terase s.loads a.id } : State).passQueries a).actOf a.launch .access 1
  let s3 := (s0.loadData p).loadPolled p
  let s4 := (if p.msc then s3.toMsc a.fn (a.tgt.base / 64)
    else if s.ownSupply a then s3
    else s3.loadSeen a (s.l1Answers a) (s.l1Answers a && !a.missed)).loadReplied s0 a
  match a.th with
  | some r => s4.settleFences r
  | none => s4

/-- Drops a pending load of a dead agent. -/
def State.dropLoad (s : State) (p : PLoad) : State :=
  { s with loads := terase s.loads p.acc.id }.dropStale p.acc p.dst p.acc.n


end Sys2Proof.Machine
end

