-- ==== Sys2Proof/Machine/RvCode.lean ====
section
/-! DEFINITION. The encodings of RV32IMC with Zicsr as a Bobbin core in user mode reads them (R345), decoder and encoder, and the
base instruction that each compressed one stands for. -/

namespace Sys2Proof

/-- The field of `n` bits of `x` from bit `lo` up. -/
abbrev bx {m : Nat} (x : BitVec m) (lo n : Nat) : BitVec n := x.extractLsb' lo n

/-- A register field of three bits names x8 to x15. -/
def creg (r : BitVec 3) : BitVec 5 := 0b01#2 ++ r

def rvAluOf? (f7 : BitVec 7) (f3 : BitVec 3) : Option RvAlu :=
  if f7 = 0#7 then
    match f3.toNat with
    | 0 => some .add | 1 => some .sll | 2 => some .slt | 3 => some .sltu | 4 => some .xor | 5 => some .srl | 6 => some .or
    | _ => some .and
  else if f7 = 0x20#7 then
    match f3.toNat with
    | 0 => some .sub | 5 => some .sra | _ => none
  else if f7 = 1#7 then
    match f3.toNat with
    | 0 => some .mul | 1 => some .mulh | 2 => some .mulhsu | 3 => some .mulhu | 4 => some .div | 5 => some .divu
    | 6 => some .rem | _ => some .remu
  else none

def rvAluF7 : RvAlu → BitVec 7
  | .sub | .sra => 0x20#7
  | .mul | .mulh | .mulhsu | .mulhu | .div | .divu | .rem | .remu => 1#7
  | _ => 0#7

def rvAluF3 : RvAlu → BitVec 3
  | .add | .sub | .mul => 0#3
  | .sll | .mulh => 1#3
  | .slt | .mulhsu => 2#3
  | .sltu | .mulhu => 3#3
  | .xor | .div => 4#3
  | .srl | .sra | .divu => 5#3
  | .or | .rem => 6#3
  | .and | .remu => 7#3

/-- The operation of OP-IMM: shifts take their kind from imm[11:5]. -/
def rvImmOf? (f3 : BitVec 3) (imm : BitVec 12) : Option RvAlu :=
  match f3.toNat with
  | 0 => some .add
  | 1 => if bx imm 5 7 = 0#7 then some .sll else none
  | 2 => some .slt
  | 3 => some .sltu
  | 4 => some .xor
  | 5 => if bx imm 5 7 = 0#7 then some .srl else if bx imm 5 7 = 0x20#7 then some .sra else none
  | 6 => some .or
  | _ => some .and

/-- Whether OP-IMM has this operation with this immediate. -/
def rvImmOk (op : RvAlu) (imm : BitVec 12) : Bool := rvImmOf? (rvAluF3 op) imm == some op

def rvCondOf? (f3 : BitVec 3) : Option RvCond :=
  match f3.toNat with
  | 0 => some .eq | 1 => some .ne | 4 => some .lt | 5 => some .ge | 6 => some .ltu | 7 => some .geu | _ => none
def rvCondF3 : RvCond → BitVec 3
  | .eq => 0#3 | .ne => 1#3 | .lt => 4#3 | .ge => 5#3 | .ltu => 6#3 | .geu => 7#3
def rvLoadOf? (f3 : BitVec 3) : Option RvLoad :=
  match f3.toNat with
  | 0 => some .lb | 1 => some .lh | 2 => some .lw | 4 => some .lbu | 5 => some .lhu | _ => none
def rvLoadF3 : RvLoad → BitVec 3
  | .lb => 0#3 | .lh => 1#3 | .lw => 2#3 | .lbu => 4#3 | .lhu => 5#3
def rvStoreOf? (f3 : BitVec 3) : Option RvStore :=
  match f3.toNat with
  | 0 => some .sb | 1 => some .sh | 2 => some .sw | _ => none
def rvStoreF3 : RvStore → BitVec 3
  | .sb => 0#3 | .sh => 1#3 | .sw => 2#3
def rvCsrOf? (f2 : BitVec 2) : Option RvCsr :=
  match f2.toNat with
  | 1 => some .rw | 2 => some .rs | 3 => some .rc | _ => none
def rvCsrF2 : RvCsr → BitVec 2
  | .rw => 1#2 | .rs => 2#2 | .rc => 3#2

/-- Decodes a 32-bit base instruction; an encoding that is illegal in user mode decodes to `illegal`. -/
def decodeRv (w : W32) : RvInstr :=
  let rd : BitVec 5 := bx w 7 5
  let f3 : BitVec 3 := bx w 12 3
  let rs1 : BitVec 5 := bx w 15 5
  let rs2 : BitVec 5 := bx w 20 5
  let f7 : BitVec 7 := bx w 25 7
  let immI : BitVec 12 := bx w 20 12
  match (bx w 0 7).toNat with
  | 0x37 => .lui rd (bx w 12 20)
  | 0x17 => .auipc rd (bx w 12 20)
  | 0x6F => .jal rd (bx w 31 1 ++ bx w 12 8 ++ bx w 20 1 ++ bx w 21 10)
  | 0x67 => if f3 = 0#3 then .jalr rd rs1 immI else .illegal w
  | 0x63 => match rvCondOf? f3 with
    | some c => .branch c rs1 rs2 (bx w 31 1 ++ bx w 7 1 ++ bx w 25 6 ++ bx w 8 4)
    | none => .illegal w
  | 0x03 => match rvLoadOf? f3 with
    | some k => .load k rd rs1 immI
    | none => .illegal w
  | 0x23 => match rvStoreOf? f3 with
    | some k => .store k rs2 rs1 (f7 ++ rd)
    | none => .illegal w
  | 0x13 => match rvImmOf? f3 immI with
    | some op => .opImm op rd rs1 immI
    | none => .illegal w
  | 0x33 => match rvAluOf? f7 f3 with
    | some op => .op op rd rs1 rs2
    | none => .illegal w
  | 0x0F => if f3 = 0#3 then .fence (bx w 28 4) (bx w 24 4) (bx w 20 4) rs1 rd else .illegal w
  | 0x73 =>
    if w = 0x00000073#32 then .ecall
    else if w = 0x00100073#32 then .ebreak
    else match rvCsrOf? (bx w 12 2) with
      | some op => .csr op (w.getLsbD 14) rd rs1 immI
      | none => .illegal w
  | _ => .illegal w

/-- The 32-bit word of a base instruction. A compressed one has a halfword instead (`encodeRvC`). -/
def encodeRv : RvInstr → W32
  | .lui rd imm => imm ++ rd ++ 0x37#7
  | .auipc rd imm => imm ++ rd ++ 0x17#7
  | .jal rd imm => bx imm 19 1 ++ bx imm 0 10 ++ bx imm 10 1 ++ bx imm 11 8 ++ rd ++ 0x6F#7
  | .jalr rd rs1 imm => imm ++ rs1 ++ 0#3 ++ rd ++ 0x67#7
  | .branch c rs1 rs2 imm =>
    bx imm 11 1 ++ bx imm 4 6 ++ rs2 ++ rs1 ++ rvCondF3 c ++ bx imm 0 4 ++ bx imm 10 1 ++ 0x63#7
  | .load k rd rs1 imm => imm ++ rs1 ++ rvLoadF3 k ++ rd ++ 0x03#7
  | .store k rs2 rs1 imm => bx imm 5 7 ++ rs2 ++ rs1 ++ rvStoreF3 k ++ bx imm 0 5 ++ 0x23#7
  | .opImm op rd rs1 imm => imm ++ rs1 ++ rvAluF3 op ++ rd ++ 0x13#7
  | .op op rd rs1 rs2 => rvAluF7 op ++ rs2 ++ rs1 ++ rvAluF3 op ++ rd ++ 0x33#7
  | .fence fm p s rs1 rd => fm ++ p ++ s ++ rs1 ++ 0#3 ++ rd ++ 0x0F#7
  | .ecall => 0x00000073#32
  | .ebreak => 0x00100073#32
  | .csr op i rd src num => num ++ src ++ BitVec.ofBool i ++ rvCsrF2 op ++ rd ++ 0x73#7
  | .compressed _ => 0#32
  | .illegal w => w
  | .illegalC _ => 0#32

/-- Decodes a 16-bit instruction of RV32C. -/
def decodeRvC (h : BitVec 16) : RvInstr :=
  let rdp : BitVec 3 := bx h 2 3
  let rs1p : BitVec 3 := bx h 7 3
  let rd : BitVec 5 := bx h 7 5
  let rs2 : BitVec 5 := bx h 2 5
  let imm6 : BitVec 6 := bx h 12 1 ++ bx h 2 5
  match (bx h 0 2).toNat, (bx h 13 3).toNat with
  | 0, 0 =>
    let imm : BitVec 8 := bx h 7 4 ++ bx h 11 2 ++ bx h 5 1 ++ bx h 6 1
    if imm = 0#8 then .illegalC h else .compressed (.addi4spn rdp imm)
  | 0, 2 => .compressed (.lw rdp rs1p (bx h 5 1 ++ bx h 10 3 ++ bx h 6 1))
  | 0, 6 => .compressed (.sw rdp rs1p (bx h 5 1 ++ bx h 10 3 ++ bx h 6 1))
  | 1, 0 => .compressed (.addi rd imm6)
  | 1, 1 => .compressed (.jal (bx h 12 1 ++ bx h 8 1 ++ bx h 9 2 ++ bx h 6 1 ++ bx h 7 1 ++ bx h 2 1 ++ bx h 11 1 ++ bx h 3 3))
  | 1, 2 => .compressed (.li rd imm6)
  | 1, 3 =>
    if rd = 2#5 then
      let imm : BitVec 6 := bx h 12 1 ++ bx h 3 2 ++ bx h 5 1 ++ bx h 2 1 ++ bx h 6 1
      if imm = 0#6 then .illegalC h else .compressed (.addi16sp imm)
    else if imm6 = 0#6 then .illegalC h else .compressed (.lui rd imm6)
  | 1, 4 =>
    match (bx h 10 2).toNat with
    | 0 => if h.getLsbD 12 then .illegalC h else .compressed (.srli rs1p rs2)
    | 1 => if h.getLsbD 12 then .illegalC h else .compressed (.srai rs1p rs2)
    | 2 => .compressed (.andi rs1p imm6)
    | _ => if h.getLsbD 12 then .illegalC h else .compressed (.alu (bx h 5 2) rs1p rdp)
  | 1, 5 => .compressed (.j (bx h 12 1 ++ bx h 8 1 ++ bx h 9 2 ++ bx h 6 1 ++ bx h 7 1 ++ bx h 2 1 ++ bx h 11 1 ++ bx h 3 3))
  | 1, 6 => .compressed (.beqz rs1p (bx h 12 1 ++ bx h 5 2 ++ bx h 2 1 ++ bx h 10 2 ++ bx h 3 2))
  | 1, 7 => .compressed (.bnez rs1p (bx h 12 1 ++ bx h 5 2 ++ bx h 2 1 ++ bx h 10 2 ++ bx h 3 2))
  | 2, 0 => if h.getLsbD 12 then .illegalC h else .compressed (.slli rd rs2)
  | 2, 2 => if rd = 0#5 then .illegalC h else .compressed (.lwsp rd (bx h 2 2 ++ bx h 12 1 ++ bx h 4 3))
  | 2, 4 =>
    if h.getLsbD 12 then
      if rs2 = 0#5 then (if rd = 0#5 then .compressed .ebreak else .compressed (.jalr rd)) else .compressed (.add rd rs2)
    else if rs2 = 0#5 then (if rd = 0#5 then .illegalC h else .compressed (.jr rd)) else .compressed (.mv rd rs2)
  | 2, 6 => .compressed (.swsp rs2 (bx h 7 2 ++ bx h 9 4))
  | _, _ => .illegalC h

/-- The halfword of a compressed instruction. -/
def encodeRvC : RvC → BitVec 16
  | .addi4spn rd i => 0#3 ++ bx i 2 2 ++ bx i 4 4 ++ bx i 0 1 ++ bx i 1 1 ++ rd ++ 0#2
  | .lw rd rs1 i => 2#3 ++ bx i 1 3 ++ rs1 ++ bx i 0 1 ++ bx i 4 1 ++ rd ++ 0#2
  | .sw rs2 rs1 i => 6#3 ++ bx i 1 3 ++ rs1 ++ bx i 0 1 ++ bx i 4 1 ++ rs2 ++ 0#2
  | .addi rd i => 0#3 ++ bx i 5 1 ++ rd ++ bx i 0 5 ++ 1#2
  | .jal i => 1#3 ++ bx i 10 1 ++ bx i 3 1 ++ bx i 7 2 ++ bx i 9 1 ++ bx i 5 1 ++ bx i 6 1 ++ bx i 0 3 ++ bx i 4 1 ++ 1#2
  | .li rd i => 2#3 ++ bx i 5 1 ++ rd ++ bx i 0 5 ++ 1#2
  | .addi16sp i => 3#3 ++ bx i 5 1 ++ 2#5 ++ bx i 0 1 ++ bx i 2 1 ++ bx i 3 2 ++ bx i 1 1 ++ 1#2
  | .lui rd i => 3#3 ++ bx i 5 1 ++ rd ++ bx i 0 5 ++ 1#2
  | .srli rd s => 4#3 ++ 0#1 ++ 0#2 ++ rd ++ s ++ 1#2
  | .srai rd s => 4#3 ++ 0#1 ++ 1#2 ++ rd ++ s ++ 1#2
  | .andi rd i => 4#3 ++ bx i 5 1 ++ 2#2 ++ rd ++ bx i 0 5 ++ 1#2
  | .alu op rd rs2 => 4#3 ++ 0#1 ++ 3#2 ++ rd ++ op ++ rs2 ++ 1#2
  | .j i => 5#3 ++ bx i 10 1 ++ bx i 3 1 ++ bx i 7 2 ++ bx i 9 1 ++ bx i 5 1 ++ bx i 6 1 ++ bx i 0 3 ++ bx i 4 1 ++ 1#2
  | .beqz rs1 i => 6#3 ++ bx i 7 1 ++ bx i 2 2 ++ rs1 ++ bx i 5 2 ++ bx i 0 2 ++ bx i 4 1 ++ 1#2
  | .bnez rs1 i => 7#3 ++ bx i 7 1 ++ bx i 2 2 ++ rs1 ++ bx i 5 2 ++ bx i 0 2 ++ bx i 4 1 ++ 1#2
  | .slli rd s => 0#3 ++ 0#1 ++ rd ++ s ++ 2#2
  | .lwsp rd i => 2#3 ++ bx i 3 1 ++ rd ++ bx i 0 3 ++ bx i 4 2 ++ 2#2
  | .jr rs1 => 4#3 ++ 0#1 ++ rs1 ++ 0#5 ++ 2#2
  | .mv rd rs2 => 4#3 ++ 0#1 ++ rd ++ rs2 ++ 2#2
  | .ebreak => 4#3 ++ 1#1 ++ 0#5 ++ 0#5 ++ 2#2
  | .jalr rs1 => 4#3 ++ 1#1 ++ rs1 ++ 0#5 ++ 2#2
  | .add rd rs2 => 4#3 ++ 1#1 ++ rd ++ rs2 ++ 2#2
  | .swsp rs2 i => 6#3 ++ bx i 0 4 ++ bx i 4 2 ++ rs2 ++ 2#2

/-- The immediate and register limits of the compressed forms. -/
def rvcOk : RvC → Bool
  | .addi4spn _ i => i != 0#8
  | .addi16sp i => i != 0#6
  | .lui rd i => rd != 2#5 && i != 0#6
  | .lwsp rd _ => rd != 0#5
  | .jr rs1 | .jalr rs1 => rs1 != 0#5
  | .mv _ rs2 | .add _ rs2 => rs2 != 0#5
  | _ => true

/-- The base instruction a compressed one expands to. -/
def expandC : RvC → RvInstr
  | .addi4spn rd i => .opImm .add (creg rd) 2#5 (i ++ 0#2 |>.zeroExtend 12)
  | .lw rd rs1 i => .load .lw (creg rd) (creg rs1) (i ++ 0#2 |>.zeroExtend 12)
  | .sw rs2 rs1 i => .store .sw (creg rs2) (creg rs1) (i ++ 0#2 |>.zeroExtend 12)
  | .addi rd i => .opImm .add rd rd (i.signExtend 12)
  | .jal i => .jal 1#5 (i.signExtend 20)
  | .li rd i => .opImm .add rd 0#5 (i.signExtend 12)
  | .addi16sp i => .opImm .add 2#5 2#5 ((i ++ 0#4).signExtend 12)
  | .lui rd i => .lui rd (i.signExtend 20)
  | .srli rd s => .opImm .srl (creg rd) (creg rd) (s.zeroExtend 12)
  | .srai rd s => .opImm .sra (creg rd) (creg rd) (0x20#7 ++ s)
  | .andi rd i => .opImm .and (creg rd) (creg rd) (i.signExtend 12)
  | .alu op rd rs2 =>
    .op (match op.toNat with | 0 => .sub | 1 => .xor | 2 => .or | _ => .and) (creg rd) (creg rd) (creg rs2)
  | .j i => .jal 0#5 (i.signExtend 20)
  | .beqz rs1 i => .branch .eq (creg rs1) 0#5 (i.signExtend 12)
  | .bnez rs1 i => .branch .ne (creg rs1) 0#5 (i.signExtend 12)
  | .slli rd s => .opImm .sll rd rd (s.zeroExtend 12)
  | .lwsp rd i => .load .lw rd 2#5 (i ++ 0#2 |>.zeroExtend 12)
  | .jr rs1 => .jalr 0#5 rs1 0#12
  | .mv rd rs2 => .op .add rd 0#5 rs2
  | .ebreak => .ebreak
  | .jalr rs1 => .jalr 1#5 rs1 0#12
  | .add rd rs2 => .op .add rd rd rs2
  | .swsp rs2 i => .store .sw rs2 2#5 (i ++ 0#2 |>.zeroExtend 12)

/-- Whether a word of custom-0 or custom-1 is an instruction of Table 13.5. -/
def customOk (w : W32) : Bool :=
  let f3 := (bx w 12 3).toNat
  match (bx w 0 7).toNat with
  | 0x0B =>
    ((f3 == 0 || f3 == 1) && bx w 28 4 == 0#4) || (f3 == 2 && bx w 26 6 == 0#6) || (f3 == 3 && bx w 25 7 == 0#7)
  | 0x2B => (f3 == 0 && bx w 28 4 == 0#4 && bx w 20 5 == 0#5 && bx w 15 5 == 0#5) || w == 0x0000102B#32
  | _ => false

end Sys2Proof
end

