-- ==== Sys2Proof/Machine/Bobbin.lean ====
section
/-! DEFINITION. Bobbin cores (R345 to R363): events and their default actions, the handler address space, the custom instructions, the
RISC-V instructions, aborts. -/

namespace Sys2Proof.Machine

/-! ### Registers and the invocation -/

/-- x0 reads zero. -/
def Bob.reg (b : Bob) (n : BitVec 5) : W32 := if n = 0#5 then 0#32 else tgetD b.regs n.toNat 0#32
/-- A write of x0 is discarded. -/
def Bob.setReg (b : Bob) (n : BitVec 5) (v : W32) : Bob :=
  if n = 0#5 then b else { b with regs := tset b.regs n.toNat v }
/-- A line buffer: 64 zero bytes with a clear mask until something is placed in it. -/
def Bob.buf (b : Bob) (i : Nat) : LineBuf := tgetD b.bufs i { bytes := zeroBytes 64 }
def Bob.setBuf (b : Bob) (i : Nat) (x : LineBuf) : Bob := { b with bufs := tset b.bufs i x }

/-- The event word (Table 13.4, a0). -/
def eventWord (ev : BEvent) (k : Nat) : W32 := BitVec.ofNat 32 (ev.kind + 4 * ev.range + 2 ^ 16 * k + 2 ^ 24 * ev.fn)

/-- The entry register of an event's kind (Table 13.3). -/
def HandRegs.entry (h : HandRegs) (kind : Nat) : W32 :=
  match kind with
  | 0 => h.pcmiss
  | 1 => h.pcfill
  | 2 => h.pcevict
  | _ => h.pcmsg

/-- Adds one to a saturating 32-bit counter. -/
def satInc (x : W32) : W32 := if x = ~~~ 0#32 then x else x + 1#32

/-- Updates the handler registers of a function. -/
def State.modHand (s : State) (f : Nat) (g : HandRegs → HandRegs) : State := s.modFn f (fun b => { b with hand := g b.hand })

/-- Takes one invocation off every access that waited for it. -/
def State.unhold (s : State) (ids : List Nat) : State :=
  ids.foldl (fun t i =>
    { t with
      loads := tmod t.loads i (fun p => { p with acc := { p.acc with held := p.acc.held - 1 } })
      writes := tmod t.writes i (fun p => { p with acc := { p.acc with held := p.acc.held - 1 } })
      copies := tmod t.copies i (fun c => { c with held := c.held - 1 }) }) s

/-- The default action of an event (Table 13.4), once its invocation has ended or when none is made. -/
def State.defaultAction (s : State) (ev : BEvent) : State :=
  match ev.kind with
  | 0 => s.unhold ev.waits
  | 1 => (s.unhold ev.waits).modLine ev.line (fun x => { x.enter with pendEv := x.pendEv - 1 })
  | 2 =>
    let t := if regionOf (64 * ev.line) == some .hbm then s else s.leaveSram ev.line
    t.modLine ev.line (fun x => { x with
      present := false, msc := regionOf (64 * ev.line) == some .hbm, tag := none, evicting := false, pendEv := x.pendEv - 1,
      dirty := if regionOf (64 * ev.line) == some .hbm then x.dirty else none })
  | _ =>
    match ev.msg with
    | some m =>
      if ev.reply then { s with msgs := tmod s.msgs m (fun p =>
        match p.st with
        | .replied _ => p
        | _ => { p with st := .replied (zeroBytes 16) }) }
      else s
    | none => s

/-- The Bobbin core or its TLB has been retired (R385). -/
def State.bobRetired (s : State) (k : Nat) : Bool := [agBob k, agBobCore k].any s.retired.contains

/-- An event reaches its Bobbin core (R350, R352): queued, or turned into its default action when its entry is not valid, the
function's handlers are off, or the queue is full. -/
def State.raiseEvent (s : State) (k : Nat) (ev : BEvent) : State :=
  let h := (s.fnb ev.fn).hand
  if !h.en || h.dis || !(h.entry ev.kind).getLsbD 0 || s.bobRetired k then s.defaultAction ev
  else if Config.eventQueue ≤ (s.bob k).queue.length then
    (s.modHand ev.fn (fun h => { h with drop := satInc h.drop })).defaultAction ev
  else s.modBob k (fun b => { b with queue := b.queue ++ [ev] })

/-- Discards the queued invocations of a function at one core; their events take their default actions (R348). -/
def State.discardQueue (s : State) (k f : Nat) : State :=
  let q := (s.bob k).queue
  (q.filter (fun e => e.fn == f)).foldl (fun t e => t.defaultAction e)
    (s.modBob k (fun b => { b with queue := q.filter (fun e => e.fn != f) }))

/-- Discards the queued invocations of a function everywhere. -/
def State.discardAll (s : State) (f : Nat) : State := (tkeys s.bobs).foldl (fun t k => t.discardQueue k f) s

/-- Ends the invocation of a core and runs the default action of its event (R359, R361). -/
def State.endInvocation (s : State) (k : Nat) : State :=
  match (s.bob k).run with
  | some r => (s.modBob k (fun b => { b with run := none })).defaultAction { r.ev with reply := r.ev.reply && !r.replied }
  | none => s

/-- Abort causes (Table 13.9). -/
def abBudget : Nat := 1
def abIllegal : Nat := 2
def abAccess : Nat := 3
def abAlign : Nat := 4
def abFetch : Nat := 5
def abPoison : Nat := 6

/-- Aborts the invocation of a core (R361): counted, with its cause, disabling the handlers at ABLIM. -/
def State.abortInvocation (s : State) (k cause : Nat) : State :=
  match (s.bob k).run with
  | none => s
  | some r =>
    let f := r.ev.fn
    let s1 := s.modHand f (fun h => { h with abort := satInc h.abort, lcause := cause })
    let h := (s1.fnb f).hand
    let s2 := if h.ablim ≠ 0 ∧ h.abort.toNat = h.ablim then
        (s1.modHand f (fun h => { h with dis := true, en := false })).discardAll f
      else s1
    s2.endInvocation k

/-- The pending accesses of the invocation that a core runs. -/
def State.bobAccesses (s : State) (k : Nat) : List Acc :=
  ((tvals s.writes).map (·.acc) ++ (tvals s.loads).map (·.acc)).filter (fun a =>
    a.th.isNone && a.agent == agBob k && (s.bob k).owns a.id)
/-- Whether an access that the invocation issued has not performed; its next instruction waits for it (R170, R362). -/
def State.bobPending (s : State) (k : Nat) : Bool := !(s.bobAccesses k).isEmpty
/-- Whether one of them is not queued by a migration: the invocation does not end before it (R359, R361, R418). -/
def State.bobOpen (s : State) (k : Nat) : Bool := (s.bobAccesses k).any (fun a => !s.parked a)

/-- Updates the invocation that a core runs. -/
def State.modInvoc (s : State) (k : Nat) (f : Invoc → Invoc) : State := s.modBob k (fun b => { b with run := b.run.map f })

/-- An invocation that executes nothing more ends once its accesses have performed (R361). -/
def State.endStopped (s : State) (k : Nat) : State :=
  match (s.bob k).run.bind (·.ends) with
  | some c => if s.bobOpen k then s else if c = 0 then s.endInvocation k else s.abortInvocation k c
  | none => s

/-- Whether the core's mesh port holds back its tenant's requests (R342). -/
def State.bobHeld (s : State) (k f : Nat) : Bool := (s.core ((coresOf k).headD 0)).portHeld.contains f

/-! ### The frame of a Bobbin instruction -/

/-- What a Bobbin instruction does: it retires and the pc moves on or to a target; it waits, with what its walk has registered (R165); it
aborts the invocation; it ends it; it is refused. -/
inductive BRes where
  | ok (s : State)
  | jump (pc : W32) (s : State)
  | stall (heldReq : Bool) (s : State)
  | abort (cause : Nat) (s : State)
  | fin
  | refuse (r : Refusal)
deriving DecidableEq, Repr

/-- Executes an instruction of `len` bytes on the current Bobbin core. -/
def runBobbin (len : Nat) (body : Nat → Bob → Invoc → State → BRes) (s : State) : Host.Outcome State Fault Refusal :=
  if s.boot.off then .fault .shutDown
  else match s.cur with
    | .bobbin k =>
      (match (s.bob k).run with
       | none => .refused .noIssuer
       | some r =>
         let pc := (s.bob k).pc
         let held (x : Bool) (t : State) : State :=
           t.modBob k (fun b => { b with run := b.run.map (fun i => { i with heldReq := x }) })
         let retire (npc : W32) (t : State) : State :=
           held false (t.modBob k (fun b => { b with pc := npc, instret := b.instret + 1#64 }))
         if s.bobPending k || r.ends.isSome then .next s
         else match body k (s.bob k) r s with
           | .ok t => .next (retire (pc + BitVec.ofNat 32 len) t)
           | .jump npc t => .next (retire npc t)
           | .stall x t => .next (held x t)
           | .abort c t => .next (t.abortInvocation k c)
           | .fin => .next ((s.modBob k (fun b => { b with instret := b.instret + 1#64 })).endInvocation k)
           | .refuse e => .refused e)
    | _ => .refused .noIssuer

/-! ### Line addresses and the handler address space -/

/-- The line address of R354; none when rs2[31:23] is not zero. -/
def lineAddr (lo hi : W32) : Option Nat :=
  if hi.toNat / 2 ^ 23 ≠ 0 then none else some ((hi.toNat * 2 ^ 32 + lo.toNat) / 64 * 64)

/-- Whether an address lies in a used range or in the window (R354). -/
def HandRegs.inArea (h : HandRegs) (a : Nat) : Bool :=
  h.ranges.any (fun p => decide (p.2.base.toNat ≤ a ∧ a < p.2.base.toNat + p.2.bytes)) ||
    decide (h.hbase.toNat ≤ a ∧ a < h.hbase.toNat + h.hsize.toNat * 65536)
/-- A translated request is tagged, and its line is not in the home slice. -/
def State.tagMiss (s : State) (f a : Nat) (t : Acced) : Bool :=
  (s.tagFor f a t).isSome && (match t.tgt with | .glob pa _ => !(s.line (pa / 64)).present | _ => false)

/-- Statuses (Table 13.6). -/
def stOk : W32 := 0#32
def stRange : W32 := 1#32
def stFault : W32 := 2#32
def stPoison : W32 := 3#32
def stNoMsg : W32 := 4#32

/-- What a line address leads to: out of range, refused, waiting, or a physical line with its translation. -/
inductive LineRes where
  | range
  | fault (s : State)
  | wait (s : State)
  | ok (t : Acced) (va : Nat) (s : State)
deriving DecidableEq, Repr

/-- Translation and checks of a handler's access: no leaf of the tenant maps an address from 2^55 on (R346, R354). -/
def State.bobAccess (s : State) (k f a n : Nat) (need : Need) : Except AccErr Acced × State :=
  if 2 ^ 55 ≤ a then (.error (.fault clsTrans 4), s) else s.access (agBob k) f none a n need

/-- A handler's request waits; the port's holding it back is not charged (R360). -/
def BRes.waits (k f : Nat) (s : State) : BRes := .stall (s.bobHeld k f) s

/-- Translates a handler's line address (R354). -/
def State.bobLine (s : State) (k f : Nat) (lo hi : W32) (need : Need) : LineRes :=
  match lineAddr lo hi with
  | none => .range
  | some a =>
    if !(s.fnb f).hand.inArea a then .range
    else match s.bobAccess k f a 64 need with
      | (.ok t, s1) => .ok t a s1
      | (.error .wait, s1) => .wait s1
      | (.error _, s1) => .fault s1

/-- Writes rd and retires. -/
def BRes.status (k : Nat) (rd : BitVec 5) (v : W32) (s : State) : BRes := .ok (s.modBob k (fun b => b.setReg rd v))

/-- Whether a translation leads to the device-register window. -/
def Acced.isDev (t : Acced) : Bool := t.mt == 3 && (match t.tgt with | .glob pa _ => regionOf pa == some .dev | _ => false)

/-- An access of a handler on its way to its home: no thread issues it (R170). -/
def bobAcc (id k f va n : Nat) (t : Acced) (inc : Nat) : Acc :=
  { id := id, th := none, core := (coresOf k).headD 0, fn := f, launch := 0, pc := 0#64, va := va, tgt := t.tgt, n := n,
    ord := .plain, agent := agBob k, inc := inc, path := t.path }

/-- A handler's read that a migration's block queues at its home (R418). -/
def State.bobQueues (s : State) (k f va n : Nat) (t : Acced) (sext : Bool) (d : BobDst) : State :=
  let (id, s1) := s.newId
  s1.queueLoad { acc := bobAcc id k f va n t (tgetD s.incs (agBob k) 0), dst := none, sext := sext, tag := 0, bob := some d }

/-- `lnrd` (R355, R418). -/
def lnrdBody (bi : BitVec 3) (rs2 rs1 rd : BitVec 5) (k : Nat) (b : Bob) (r : Invoc) (s : State) : BRes :=
  match s.bobLine k r.ev.fn (b.reg rs1) (b.reg rs2) needR with
  | .range => .status k rd stRange s
  | .fault s1 => .status k rd stFault s1
  | .wait s1 => .waits k r.ev.fn s1
  | .ok t va s1 =>
    if t.isDev then .refuse .deviceWindow
    else
      let l := t.tgt.base / 64
      if s.bobHeld k r.ev.fn then .stall true s1
      else if (s1.line l).parks then .ok (s1.bobQueues k r.ev.fn va 64 t false (.buf k bi.toNat rd.toNat))
      else if s1.homeWaits l none then .stall false s1
      else
        .status k rd (if s1.isPois (64 * l) 64 then stPoison else stOk)
          ((s1.touch r.ev.fn l t.mt).modBob k (fun b => b.setBuf bi.toNat { bytes := s1.cleanLine l }))

/-- `lnwr` (R356). -/
def lnwrBody (bi : BitVec 3) (rs2 rs1 rd : BitVec 5) (k : Nat) (b : Bob) (r : Invoc) (s : State) : BRes :=
  match s.bobLine k r.ev.fn (b.reg rs1) (b.reg rs2) needRW with
  | .range => .status k rd stRange s
  | .fault s1 => .status k rd stFault s1
  | .wait s1 => .waits k r.ev.fn s1
  | .ok t va s1 =>
    if t.isDev then .refuse .deviceWindow
    else
      let x := b.buf bi.toNat
      if x.mask = 0#64 then .status k rd stOk s1
      else if s.bobHeld k r.ev.fn then .stall true s1
      else
        let (id, s2) := s1.newId
        let acc := bobAcc id k r.ev.fn va 64 t (tgetD s.incs (agBob k) 0)
        .ok ({ s2 with writes := tset s2.writes id { acc := acc, kind := .line k rd.toNat x.bytes x.mask } }.modBob k
          (fun b => b.setBuf bi.toNat { x with mask := 0#64 }))

/-- `lnpf` (R357); one that reaches a blocked line is accepted and discarded (R418). -/
def lnpfBody (lvl : BitVec 1) (rs2 rs1 rd : BitVec 5) (k : Nat) (b : Bob) (r : Invoc) (s : State) : BRes :=
  match s.bobLine k r.ev.fn (b.reg rs1) (b.reg rs2) needR with
  | .range => .status k rd stRange s
  | .fault s1 => .status k rd stFault s1
  | .wait s1 => .waits k r.ev.fn s1
  | .ok t _ s1 =>
    if s.bobHeld k r.ev.fn then .stall true s1
    else
      let l := t.tgt.base / 64
      .status k rd stOk (if (s1.line l).parks then s1 else if lvl = 0#1 then s1.touch r.ev.fn l t.mt else s1.toMsc r.ev.fn l)

/-- The lease word of a line (Table 13.7); a migration's block that has not taken hold is a write that waits (R316). -/
def State.leaseWord (s : State) (l : Nat) : W32 :=
  let x := s.line l
  let left := if s.now < x.expiry then (x.expiry - s.now).toNat else 0
  BitVec.ofNat 32 ((if x.present then 2 ^ 31 else 0) + (if x.owner.isSome then 2 ^ 30 else 0) +
    (if !(s.waitingAt l).isEmpty || (x.block.isSome && !x.blocked) then 2 ^ 29 else 0) + (if x.far ≠ 0 then 2 ^ 28 else 0) + min left 511)

/-- `lsq` (R358). -/
def lsqBody (rs2 rs1 rd : BitVec 5) (k : Nat) (b : Bob) (r : Invoc) (s : State) : BRes :=
  match s.bobLine k r.ev.fn (b.reg rs1) (b.reg rs2) needR with
  | .range => .status k rd (~~~ 0#32) s
  | .fault s1 => .status k rd (~~~ 0#32) s1
  | .wait s1 => .waits k r.ev.fn s1
  | .ok t _ s1 => if s.bobHeld k r.ev.fn then .stall true s1 else .status k rd (s1.leaseWord (t.tgt.base / 64)) s1

/-- `mrep` (R359, Table 13.6). -/
def mrepBody (bi : BitVec 3) (rd : BitVec 5) (k : Nat) (b : Bob) (r : Invoc) (s : State) : BRes :=
  match r.ev.msg with
  | some m =>
    if r.ev.kind != 3 || !r.ev.reply || r.replied then .status k rd stNoMsg s
    else
      let s1 := { s with msgs := tmod s.msgs m (fun p => { p with st := .replied ((b.buf bi.toNat).bytes.take 16) }) }
      .status k rd stOk (s1.modBob k (fun b => { b with run := b.run.map (fun i => { i with replied := true }) }))
  | none => .status k rd stNoMsg s

/-! ### RISC-V instructions -/

/-- RV32I and M operations (R345). -/
def rvAlu (op : RvAlu) (a b : W32) : W32 :=
  let sh := b.toNat % 32
  match op with
  | .add => a + b
  | .sub => a - b
  | .sll => a <<< sh
  | .slt => if a.slt b then 1#32 else 0#32
  | .sltu => if a.ult b then 1#32 else 0#32
  | .xor => a ^^^ b
  | .srl => a >>> sh
  | .sra => a.sshiftRight sh
  | .or => a ||| b
  | .and => a &&& b
  | .mul => a * b
  | .mulh => trunc32 (a.toInt * b.toInt / 2 ^ 32)
  | .mulhsu => trunc32 (a.toInt * (b.toNat : Int) / 2 ^ 32)
  | .mulhu => BitVec.ofNat 32 (a.toNat * b.toNat / 2 ^ 32)
  | .div => if b = 0#32 then ~~~ 0#32 else trunc32 (a.toInt.tdiv b.toInt)
  | .divu => if b = 0#32 then ~~~ 0#32 else a / b
  | .rem => if b = 0#32 then a else trunc32 (a.toInt.tmod b.toInt)
  | .remu => if b = 0#32 then a else a % b

/-- Branch conditions. -/
def rvCond (c : RvCond) (a b : W32) : Bool :=
  match c with
  | .eq => a == b
  | .ne => a != b
  | .lt => a.slt b
  | .ge => !a.slt b
  | .ltu => a.ult b
  | .geu => !a.ult b

/-- Regions of the handler address space (Table 13.2). -/
inductive BRegion where
  | window | scratch | buffers
deriving DecidableEq, Repr

/-- The region that holds all `n` bytes at an address. -/
def bobRegion (h : HandRegs) (a n : Nat) : Option BRegion :=
  if a + n ≤ 65536 * h.hsize.toNat then some .window
  else if 0xFFFFE000 ≤ a ∧ a + n ≤ 0xFFFFF000 then some .scratch
  else if 0xFFFFFE00 ≤ a ∧ a + n ≤ 2 ^ 32 then some .buffers
  else none

/-- The bytes of the line buffers from an offset. -/
def Bob.bufRead (b : Bob) (o n : Nat) : List Byte := (upTo n).map (fun i => (b.buf ((o + i) / 64)).bytes.getD ((o + i) % 64) 0#8)
/-- A store into the line buffers, which also sets the bytes' mask bits. -/
def Bob.bufWrite (b : Bob) (o : Nat) (bs : List Byte) : Bob :=
  (upTo bs.length).foldl (fun b i =>
    let k := (o + i) / 64
    let x := b.buf k
    b.setBuf k { bytes := x.bytes.set ((o + i) % 64) (bs.getD i 0#8),
                 mask := x.mask ||| BitVec.ofNat 64 (2 ^ ((o + i) % 64)) }) b

def rvLoadBytes : RvLoad → Nat
  | .lb | .lbu => 1
  | .lh | .lhu => 2
  | .lw => 4
/-- A load that extends the sign. -/
def rvSext : RvLoad → Bool
  | .lb | .lh => true
  | _ => false
/-- The value a load writes, sign-extended or zero-extended. -/
def rvLoadVal (w : RvLoad) (bs : List Byte) : W32 := BitVec.ofNat 32 (loadValue (rvLoadBytes w) (rvSext w) bs)
def rvStoreBytes : RvStore → Nat
  | .sb => 1
  | .sh => 2
  | .sw => 4

/-- A load (R346, R362). -/
def rvLoad (w : RvLoad) (rd : BitVec 5) (a k : Nat) (b : Bob) (r : Invoc) (s : State) : BRes :=
  let n := rvLoadBytes w
  let h := (s.fnb r.ev.fn).hand
  match bobRegion h a n with
  | none => .abort abAccess s
  | some reg =>
    if a % n ≠ 0 then .abort abAlign s
    else match reg with
      | .scratch => .status k rd (rvLoadVal w (cread b.scratch (a - 0xFFFFE000) n)) s
      | .buffers => .status k rd (rvLoadVal w (b.bufRead (a - 0xFFFFFE00) n)) s
      | .window =>
        match s.bobAccess k r.ev.fn (h.hbase.toNat + a) n needR with
        | (.error .wait, s1) => .waits k r.ev.fn s1
        | (.error _, s1) => .abort abAccess s1
        | (.ok t, s1) =>
          if t.isDev then .refuse .deviceWindow
          else if s.bobHeld k r.ev.fn then .stall true s1
          else if (s1.line (t.tgt.base / 64)).parks then
            .ok (s1.bobQueues k r.ev.fn (h.hbase.toNat + a) n t (rvSext w) (.reg k rd.toNat))
          else if s1.homeWaits (t.tgt.base / 64) none then .stall false s1
          else if s1.tgtPois t.tgt n then .abort abPoison s1
          else .status k rd (rvLoadVal w (s1.tgtRead t.tgt n)) (s1.touch r.ev.fn (t.tgt.base / 64) t.mt)

/-- A store (R346, R362). -/
def rvStore (w : RvStore) (v : W32) (a k : Nat) (r : Invoc) (s : State) : BRes :=
  let n := rvStoreBytes w
  let bs := leBytes n v.toNat
  let h := (s.fnb r.ev.fn).hand
  match bobRegion h a n with
  | none => .abort abAccess s
  | some reg =>
    if a % n ≠ 0 then .abort abAlign s
    else match reg with
      | .scratch => .ok (s.modBob k (fun b => { b with scratch := cwrite b.scratch (a - 0xFFFFE000) bs }))
      | .buffers => .ok (s.modBob k (fun b => b.bufWrite (a - 0xFFFFFE00) bs))
      | .window =>
        match s.bobAccess k r.ev.fn (h.hbase.toNat + a) n needW with
        | (.error .wait, s1) => .waits k r.ev.fn s1
        | (.error _, s1) => .abort abAccess s1
        | (.ok t, s1) =>
          if t.isDev then .refuse .deviceWindow
          else if s.bobHeld k r.ev.fn then .stall true s1
          else
            let (id, s2) := s1.newId
            let acc := bobAcc id k r.ev.fn (h.hbase.toNat + a) n t (tgetD s.incs (agBob k) 0)
            .ok { s2 with writes := tset s2.writes id { acc := acc, kind := .store bs } }

/-- The CSRs of Table 13.1; `cycles`: core cycles since device reset. -/
def bobCsr (num : BitVec 12) (b : Bob) (r : Invoc) (now : W64) (cycles : Nat) : Option W32 :=
  match num.toNat with
  | 0xC00 => some (BitVec.ofNat 32 (bobCycles cycles))
  | 0xC80 => some (BitVec.ofNat 32 (bobCycles cycles / 2 ^ 32))
  | 0xC01 => some (lo32 now)
  | 0xC81 => some (hi32 now)
  | 0xC02 => some (lo32 b.instret)
  | 0xC82 => some (hi32 b.instret)
  | 0xCC0 => some r.word
  | 0xCC1 => some (BitVec.ofNat 32 r.left)
  | _ => none

/-- A B-type or J-type displacement: the stored bits stand one place up, so bit 0 is zero. -/
def dispOf {n : Nat} (imm : BitVec n) : W32 := (imm ++ 0#1).signExtend 32

/-- One RISC-V instruction, already expanded from a compressed form; `len` is its length in memory. -/
def rvBody (len : Nat) (i : RvInstr) (k : Nat) (b : Bob) (r : Invoc) (s : State) : BRes :=
  let next := b.pc + BitVec.ofNat 32 len
  match i with
  | .lui rd imm => .status k rd (imm ++ 0#12) s
  | .auipc rd imm => .status k rd (b.pc + (imm ++ 0#12)) s
  | .jal rd imm => .jump (b.pc + dispOf imm) (s.modBob k (fun b => b.setReg rd next))
  | .jalr rd rs1 imm => .jump ((b.reg rs1 + imm.signExtend 32) &&& ~~~ 1#32) (s.modBob k (fun b => b.setReg rd next))
  | .branch c rs1 rs2 imm => if rvCond c (b.reg rs1) (b.reg rs2) then .jump (b.pc + dispOf imm) s else .ok s
  | .load w rd rs1 imm => rvLoad w rd (b.reg rs1 + imm.signExtend 32).toNat k b r s
  | .store w rs2 rs1 imm => rvStore w (b.reg rs2) (b.reg rs1 + imm.signExtend 32).toNat k r s
  | .opImm op rd rs1 imm => .status k rd (rvAlu op (b.reg rs1) (imm.signExtend 32)) s
  | .op op rd rs1 rs2 => .status k rd (rvAlu op (b.reg rs1) (b.reg rs2)) s
  | .fence _ _ _ _ _ => .ok s
  | .ecall => .abort abIllegal s
  | .ebreak => .abort abIllegal s
  | .csr op _ rd src num =>
    -- a CSR read that writes nothing: csrrs and csrrc with a zero source (R345)
    (match bobCsr num b r s.now s.cycles with
     | some v => if (match op with | .rw => true | _ => src != 0#5) then .abort abIllegal s
                 else .status k rd v s
     | none => .abort abIllegal s)
  | .compressed _ => .abort abIllegal s
  | .illegal _ => .abort abIllegal s
  | .illegalC _ => .abort abIllegal s

/-- The instruction that a compressed one stands for, and its length. -/
def rvExpand : RvInstr → RvInstr × Nat
  | .compressed c => (expandC c, 2)
  | .illegalC h => (.illegalC h, 2)
  | i => (i, 4)

/-! ### The meanings -/

def execLnrd (b : BitVec 3) (rs2 rs1 rd : BitVec 5) (s : State) : Host.Outcome State Fault Refusal :=
  runBobbin 4 (lnrdBody b rs2 rs1 rd) s
def execLnwr (b : BitVec 3) (rs2 rs1 rd : BitVec 5) (s : State) : Host.Outcome State Fault Refusal :=
  runBobbin 4 (lnwrBody b rs2 rs1 rd) s
def execLnpf (lvl : BitVec 1) (rs2 rs1 rd : BitVec 5) (s : State) : Host.Outcome State Fault Refusal :=
  runBobbin 4 (lnpfBody lvl rs2 rs1 rd) s
def execLsq (rs2 rs1 rd : BitVec 5) (s : State) : Host.Outcome State Fault Refusal := runBobbin 4 (lsqBody rs2 rs1 rd) s
def execMrep (b : BitVec 3) (rd : BitVec 5) (s : State) : Host.Outcome State Fault Refusal := runBobbin 4 (mrepBody b rd) s
/-- `hfin` (R359): ends the invocation and runs the default action. -/
def execHfin (s : State) : Host.Outcome State Fault Refusal := runBobbin 4 (fun _ _ _ _ => .fin) s
def execBobbinBase (i : RvInstr) (s : State) : Host.Outcome State Fault Refusal :=
  runBobbin (rvExpand i).2 (rvBody (rvExpand i).2 (rvExpand i).1) s

end Sys2Proof.Machine
end

