-- ==== Sys2Proof/WellFormed.lean ====
section
/-! DEFINITION. Which operations are well formed: for a Thrum instruction, that no cause of R37 items 3 and 4 can be decided
from its word alone; for a Bobbin instruction, that its fields fit its encoding; for an event, that the queue, core, cluster
or function it names exists. Each check has a name. -/

namespace Sys2Proof

/-- The signature of a Thrum instruction, with its word; none for the other rows of the table. -/
def sigOf : Instr → Option (Sig × TWord)
  | .add w => some (sigAdd w, w)
  | .sub w => some (sigSub w, w)
  | .mul w => some (sigMul w, w)
  | .mulhi w => some (sigMulhi w, w)
  | .mad w => some (sigMad w, w)
  | .mulw w => some (sigMulw w, w)
  | .madw w => some (sigMadw w, w)
  | .addc w => some (sigAddc w, w)
  | .subc w => some (sigSubc w, w)
  | .min w => some (sigMin w, w)
  | .max w => some (sigMax w, w)
  | .abs w => some (sigAbs w, w)
  | .neg w => some (sigNeg w, w)
  | .cmp w => some (sigCmp w, w)
  | .sel w => some (sigSel w, w)
  | .and w => some (sigAnd w, w)
  | .or w => some (sigOr w, w)
  | .xor w => some (sigXor w, w)
  | .not w => some (sigNot w, w)
  | .lop3 w => some (sigLop3 w, w)
  | .shl w => some (sigShl w, w)
  | .shr w => some (sigShr w, w)
  | .fsh w => some (sigFsh w, w)
  | .bfe w => some (sigBfe w, w)
  | .bfi w => some (sigBfi w, w)
  | .popc w => some (sigPopc w, w)
  | .clz w => some (sigClz w, w)
  | .ctz w => some (sigCtz w, w)
  | .brev w => some (sigBrev w, w)
  | .mov w => some (sigMov w, w)
  | .plop w => some (sigPlop w, w)
  | .p2r w => some (sigP2r w, w)
  | .r2p w => some (sigR2p w, w)
  | .fadd w => some (sigFadd w, w)
  | .fsub w => some (sigFsub w, w)
  | .fmul w => some (sigFmul w, w)
  | .ffma w => some (sigFfma w, w)
  | .fmin w => some (sigFmin w, w)
  | .fmax w => some (sigFmax w, w)
  | .fcmp w => some (sigFcmp w, w)
  | .cvt w => some (sigCvt w, w)
  | .cvtnPack w => some (sigCvtnPack w, w)
  | .cvtnUnpack w => some (sigCvtnUnpack w, w)
  | .settag w => some (sigSettag w, w)
  | .gettag w => some (sigGettag w, w)
  | .frcp w => some (sigFrcp w, w)
  | .frsqrt w => some (sigFrsqrt w, w)
  | .fsqrt w => some (sigFsqrt w, w)
  | .fexp2 w => some (sigFexp2 w, w)
  | .flog2 w => some (sigFlog2 w, w)
  | .fsin w => some (sigFsin w, w)
  | .fcos w => some (sigFcos w, w)
  | .hadd2 w => some (sigHadd2 w, w)
  | .hsub2 w => some (sigHsub2 w, w)
  | .hmul2 w => some (sigHmul2 w, w)
  | .hfma2 w => some (sigHfma2 w, w)
  | .hmin2 w => some (sigHmin2 w, w)
  | .hmax2 w => some (sigHmax2 w, w)
  | .dp4a w => some (sigDp4a w, w)
  | .dp2bf w => some (sigDp2bf w, w)
  | .dadd w => some (sigDadd w, w)
  | .dsub w => some (sigDsub w, w)
  | .dmul w => some (sigDmul w, w)
  | .dfma w => some (sigDfma w, w)
  | .dmin w => some (sigDmin w, w)
  | .dmax w => some (sigDmax w, w)
  | .dcmp w => some (sigDcmp w, w)
  | .dcvt w => some (sigDcvt w, w)
  | .shfl w => some (sigShfl w, w)
  | .push w => some (sigPush w, w)
  | .vote w => some (sigVote w, w)
  | .matchOp w => some (sigMatch w, w)
  | .xred w => some (sigXred w, w)
  | .xscan w => some (sigXscan w, w)
  | .nop w => some (sigNop w, w)
  | .bra w => some (sigBra w, w)
  | .brx w => some (sigBrx w, w)
  | .call w => some (sigCall w, w)
  | .callInd w => some (sigCallInd w, w)
  | .ret w => some (sigRet w, w)
  | .reform w => some (sigReform w, w)
  | .yield w => some (sigYield w, w)
  | .poll w => some (sigPoll w, w)
  | .sleep w => some (sigSleep w, w)
  | .region w => some (sigRegion w, w)
  | .exit w => some (sigExit w, w)
  | .trap w => some (sigTrap w, w)
  | .bkpt w => some (sigBkpt w, w)
  | .ld w => some (sigLd w, w)
  | .st w => some (sigSt w, w)
  | .lds w => some (sigLds w, w)
  | .sts w => some (sigSts w, w)
  | .pf w => some (sigPf w, w)
  | .evict w => some (sigEvict w, w)
  | .atom w => some (sigAtom w, w)
  | .atomn w => some (sigAtomn w, w)
  | .cas w => some (sigCas w, w)
  | .atoms w => some (sigAtoms w, w)
  | .cass w => some (sigCass w, w)
  | .fence w => some (sigFence w, w)
  | .acp w => some (sigAcp w, w)
  | .tcp w => some (sigTcp w, w)
  | .tmc w => some (sigTmc w, w)
  | .tsf w => some (sigTsf w, w)
  | .tst w => some (sigTst w, w)
  | .trst w => some (sigTrst w, w)
  | .rcp w => some (sigRcp w, w)
  | .pinit w => some (sigPinit w, w)
  | .parr w => some (sigParr w, w)
  | .parrb w => some (sigParrb w, w)
  | .pwait w => some (sigPwait w, w)
  | .ptest w => some (sigPtest w, w)
  | .cinit w => some (sigCinit w, w)
  | .mjoin w => some (sigMjoin w, w)
  | .mld w => some (sigMld w, w)
  | .mldq w => some (sigMldq w, w)
  | .mswap w => some (sigMswap w, w)
  | .mstream w => some (sigMstream w, w)
  | .mdrain w => some (sigMdrain w, w)
  | .mzero w => some (sigMzero w, w)
  | .mrowSt w => some (sigMrowSt w, w)
  | .mrowLd w => some (sigMrowLd w, w)
  | .rast w => some (sigRast w, w)
  | .trav w => some (sigTrav w, w)
  | .shq w => some (sigShq w, w)
  | .shpark w => some (sigShpark w, w)
  | .shfill w => some (sigShfill w, w)
  | .shfillDrop w => some (sigShfillDrop w, w)
  | .shinv w => some (sigShinv w, w)
  | .shtick w => some (sigShtick w, w)
  | .launch w => some (sigLaunch w, w)
  | .tdone w => some (sigTdone w, w)
  | .sigdec w => some (sigSigdec w, w)
  | .role w => some (sigRole w, w)
  | .sysr w => some (sigSysr w, w)
  | .sysw w => some (sigSysw w, w)
  | .ldfmt w => some (sigLdfmt w, w)
  | .ldfmtClr w => some (sigLdfmtClr w, w)
  | .ldovf w => some (sigLdovf w, w)
  | .xsync w => some (sigXsync w, w)
  | .splinter w => some (sigSplinter w, w)
  | .migrate w => some (sigMigrate w, w)
  | .ctrr w => some (sigCtrr w, w)
  | .tret w => some (sigTret w, w)
  | .bmsg w => some (sigBmsg w, w)
  | .lnrd _ _ _ _ => none
  | .lnwr _ _ _ _ => none
  | .lnpf _ _ _ _ => none
  | .lsq _ _ _ => none
  | .mrep _ _ => none
  | .hfin => none
  | .bobbinBase _ => none
  | .deviceReset => none
  | .firmwareImageLoad _ => none
  | .fullServiceEntry => none
  | .clockStep _ => none
  | .thermalShutdown => none
  | .attestationRequest _ _ => none
  | .registerWrite _ _ _ _ _ => none
  | .qnotifyWrite _ _ _ => none
  | .queueEnable _ _ => none
  | .queueDestroyDrain _ _ => none
  | .queueDestroyKill _ _ => none
  | .ringEntryRead _ _ => none
  | .waitPacketSatisfied _ _ => none
  | .residencyLeaseGrant _ => none
  | .reservation _ _ => none
  | .reservationAnswer _ _ => none
  | .reservationTimeout _ => none
  | .commit _ _ => none
  | .cancel _ _ => none
  | .resourcesFreed _ => none
  | .reservationStarvation _ => none
  | .continuationRecordFile _ _ => none
  | .poolAgedDraw _ _ _ _ => none
  | .taskDispatch _ _ _ => none
  | .launchCompletion _ => none
  | .deferredPacketMove _ => none
  | .energyCharge => none
  | .energyPeriod => none
  | .halt _ => none
  | .contextSave _ _ => none
  | .contextReentry _ _ _ => none
  | .freeze _ => none
  | .thaw _ => none
  | .debugResume _ => none
  | .debugEnd _ => none
  | .taskEnd _ => none
  | .watchdog _ => none
  | .ownershipReturnTimeout _ => none
  | .invalidationAckTimeout _ _ => none
  | .bobbinOverrun _ => none
  | .vectorSliceEnd _ => none
  | .sliceIdleEnd _ _ => none
  | .matrixSliceSwitch _ => none
  | .spinnerDisplacement _ _ => none
  | .bandwidthPeriod => none
  | .portThrottleUpdate _ _ => none
  | .functionLevelReset _ => none
  | .promotion _ _ => none
  | .rotation _ _ => none
  | .scoreboardDemotion _ _ => none
  | .binAgedDraw _ _ _ => none
  | .sleepWake _ _ => none
  | .pollTimeout _ _ => none
  | .pollSpuriousWake _ _ => none
  | .loadReturn _ => none
  | .readLeaseRequest _ _ => none
  | .writePerform _ => none
  | .leaseWaitEnd _ => none
  | .ownershipGrant _ _ => none
  | .ownershipReturn _ => none
  | .farAtomicAck _ => none
  | .pageWalk _ _ _ => none
  | .translationInvalidation _ _ => none
  | .invalidationAck _ _ => none
  | .remoteRequest _ _ _ => none
  | .migrationLineBlock _ _ => none
  | .migrationReplay _ => none
  | .copyCheck _ => none
  | .copyWriteLand _ _ => none
  | .batchClose _ => none
  | .rcpSignalDecrement _ => none
  | .picotStep _ _ => none
  | .arrayOperationStart _ _ => none
  | .arrayOperationComplete _ _ => none
  | .shqAllocate _ => none
  | .continuationEmit _ => none
  | .releasedRecordDelivery _ => none
  | .shinvScanDone _ _ => none
  | .poolClockEviction _ => none
  | .shadingRecordApply _ => none
  | .handlerEnable _ => none
  | .handlerDisable _ => none
  | .missEvent _ => none
  | .fillEvent _ => none
  | .evictEvent _ => none
  | .msgEvent _ => none
  | .invocationStart _ => none
  | .budgetExhausted _ => none
  | .bmsgReply _ => none
  | .patrolScrub _ _ => none
  | .selfTest _ _ => none
  | .linkRetry _ _ => none
  | .queueDisable _ _ => none
  | .reducedServiceEntry => none
  | .rastTravResult _ => none
  | .flogbaseWrite _ _ => none

/-- The context that decides nothing: privileged, every register declared, a line whose flag fields name f0, full service. -/
def anyCtx : EncCtx := { priv := true, tatting := true, nregs := 768, line := 0#32, full := true, fmt := [] }

/-- The checks of well-formedness. -/
inductive WfCheck where
  | illegalInstruction   -- R37 item 3 holds of the word
  | illegalOperand       -- R37 item 4 holds of the word
  | subform              -- a MOD bit that selects another row's form
  | rvImmediate          -- OP-IMM has no such operation
  | rvCompressed         -- a compressed form with a reserved field
  | rvLegal              -- an `illegal` that holds a legal encoding
  | function             -- no such function (R325)
  | queue                -- no such queue of the function (R272)
  | core                 -- no such core (R7)
  | cluster              -- no such cluster or controller (R10, R210)
  | image                -- no such firmware image (Table 15.4)
deriving DecidableEq, Repr

def okFn (fn : Nat) : Bool := decide (fn < Config.numFns)
/-- Queues 0 to 63 of a virtual function, 0 to 255 of the physical function (R272). -/
def okQueue (fn q : Nat) : Bool := decide (q < if fn = 0 then 256 else 64)
def okCore (c : Nat) : Bool := decide (c < Config.numCores)
def okCluster (k : Nat) : Bool := decide (k < Config.numClusters)

/-- The checks of a Thrum word. -/
def wordChecks (g : Sig) (w : TWord) : List (WfCheck × Bool) :=
  [(.illegalInstruction, !g.illegalInstr w anyCtx), (.illegalOperand, !g.illegalOperand w anyCtx)]

/-- The checks of an RV32IMC instruction. -/
def rvChecks : RvInstr → List (WfCheck × Bool)
  | .opImm op _ _ imm => [(.rvImmediate, rvImmOk op imm)]
  | .compressed c => [(.rvCompressed, rvcOk c)]
  | .illegal w => [(.rvLegal, bx w 0 2 == 3#2 && decodeRv w == .illegal w && !customOk w)]
  | .illegalC h => [(.rvLegal, bx h 0 2 != 3#2 && decodeRvC h == .illegalC h)]
  | _ => []

/-- Every check of an operation, with whether it holds. -/
def checks : Instr → List (WfCheck × Bool)
  | .add w => wordChecks (sigAdd w) w
  | .sub w => wordChecks (sigSub w) w
  | .mul w => wordChecks (sigMul w) w
  | .mulhi w => wordChecks (sigMulhi w) w
  | .mad w => wordChecks (sigMad w) w
  | .mulw w => wordChecks (sigMulw w) w
  | .madw w => wordChecks (sigMadw w) w
  | .addc w => wordChecks (sigAddc w) w
  | .subc w => wordChecks (sigSubc w) w
  | .min w => wordChecks (sigMin w) w
  | .max w => wordChecks (sigMax w) w
  | .abs w => wordChecks (sigAbs w) w
  | .neg w => wordChecks (sigNeg w) w
  | .cmp w => wordChecks (sigCmp w) w
  | .sel w => wordChecks (sigSel w) w
  | .and w => wordChecks (sigAnd w) w
  | .or w => wordChecks (sigOr w) w
  | .xor w => wordChecks (sigXor w) w
  | .not w => wordChecks (sigNot w) w
  | .lop3 w => wordChecks (sigLop3 w) w
  | .shl w => wordChecks (sigShl w) w
  | .shr w => wordChecks (sigShr w) w
  | .fsh w => wordChecks (sigFsh w) w
  | .bfe w => wordChecks (sigBfe w) w
  | .bfi w => wordChecks (sigBfi w) w
  | .popc w => wordChecks (sigPopc w) w
  | .clz w => wordChecks (sigClz w) w
  | .ctz w => wordChecks (sigCtz w) w
  | .brev w => wordChecks (sigBrev w) w
  | .mov w => wordChecks (sigMov w) w
  | .plop w => wordChecks (sigPlop w) w
  | .p2r w => wordChecks (sigP2r w) w
  | .r2p w => wordChecks (sigR2p w) w
  | .fadd w => wordChecks (sigFadd w) w
  | .fsub w => wordChecks (sigFsub w) w
  | .fmul w => wordChecks (sigFmul w) w
  | .ffma w => wordChecks (sigFfma w) w
  | .fmin w => wordChecks (sigFmin w) w
  | .fmax w => wordChecks (sigFmax w) w
  | .fcmp w => wordChecks (sigFcmp w) w
  | .cvt w => wordChecks (sigCvt w) w
  | .cvtnPack w => (.subform, !mdB w 7) :: wordChecks (sigCvtnPack w) w
  | .cvtnUnpack w => (.subform, mdB w 7) :: wordChecks (sigCvtnUnpack w) w
  | .settag w => wordChecks (sigSettag w) w
  | .gettag w => wordChecks (sigGettag w) w
  | .frcp w => wordChecks (sigFrcp w) w
  | .frsqrt w => wordChecks (sigFrsqrt w) w
  | .fsqrt w => wordChecks (sigFsqrt w) w
  | .fexp2 w => wordChecks (sigFexp2 w) w
  | .flog2 w => wordChecks (sigFlog2 w) w
  | .fsin w => wordChecks (sigFsin w) w
  | .fcos w => wordChecks (sigFcos w) w
  | .hadd2 w => wordChecks (sigHadd2 w) w
  | .hsub2 w => wordChecks (sigHsub2 w) w
  | .hmul2 w => wordChecks (sigHmul2 w) w
  | .hfma2 w => wordChecks (sigHfma2 w) w
  | .hmin2 w => wordChecks (sigHmin2 w) w
  | .hmax2 w => wordChecks (sigHmax2 w) w
  | .dp4a w => wordChecks (sigDp4a w) w
  | .dp2bf w => wordChecks (sigDp2bf w) w
  | .dadd w => wordChecks (sigDadd w) w
  | .dsub w => wordChecks (sigDsub w) w
  | .dmul w => wordChecks (sigDmul w) w
  | .dfma w => wordChecks (sigDfma w) w
  | .dmin w => wordChecks (sigDmin w) w
  | .dmax w => wordChecks (sigDmax w) w
  | .dcmp w => wordChecks (sigDcmp w) w
  | .dcvt w => wordChecks (sigDcvt w) w
  | .shfl w => wordChecks (sigShfl w) w
  | .push w => wordChecks (sigPush w) w
  | .vote w => wordChecks (sigVote w) w
  | .matchOp w => wordChecks (sigMatch w) w
  | .xred w => wordChecks (sigXred w) w
  | .xscan w => wordChecks (sigXscan w) w
  | .nop w => wordChecks (sigNop w) w
  | .bra w => wordChecks (sigBra w) w
  | .brx w => wordChecks (sigBrx w) w
  | .call w => (.subform, !mdB w 0) :: wordChecks (sigCall w) w
  | .callInd w => (.subform, mdB w 0) :: wordChecks (sigCallInd w) w
  | .ret w => wordChecks (sigRet w) w
  | .reform w => wordChecks (sigReform w) w
  | .yield w => wordChecks (sigYield w) w
  | .poll w => wordChecks (sigPoll w) w
  | .sleep w => wordChecks (sigSleep w) w
  | .region w => wordChecks (sigRegion w) w
  | .exit w => wordChecks (sigExit w) w
  | .trap w => wordChecks (sigTrap w) w
  | .bkpt w => wordChecks (sigBkpt w) w
  | .ld w => wordChecks (sigLd w) w
  | .st w => wordChecks (sigSt w) w
  | .lds w => wordChecks (sigLds w) w
  | .sts w => wordChecks (sigSts w) w
  | .pf w => wordChecks (sigPf w) w
  | .evict w => wordChecks (sigEvict w) w
  | .atom w => wordChecks (sigAtom w) w
  | .atomn w => wordChecks (sigAtomn w) w
  | .cas w => wordChecks (sigCas w) w
  | .atoms w => wordChecks (sigAtoms w) w
  | .cass w => wordChecks (sigCass w) w
  | .fence w => wordChecks (sigFence w) w
  | .acp w => wordChecks (sigAcp w) w
  | .tcp w => wordChecks (sigTcp w) w
  | .tmc w => wordChecks (sigTmc w) w
  | .tsf w => wordChecks (sigTsf w) w
  | .tst w => wordChecks (sigTst w) w
  | .trst w => wordChecks (sigTrst w) w
  | .rcp w => wordChecks (sigRcp w) w
  | .pinit w => wordChecks (sigPinit w) w
  | .parr w => wordChecks (sigParr w) w
  | .parrb w => wordChecks (sigParrb w) w
  | .pwait w => wordChecks (sigPwait w) w
  | .ptest w => wordChecks (sigPtest w) w
  | .cinit w => wordChecks (sigCinit w) w
  | .mjoin w => wordChecks (sigMjoin w) w
  | .mld w => wordChecks (sigMld w) w
  | .mldq w => wordChecks (sigMldq w) w
  | .mswap w => wordChecks (sigMswap w) w
  | .mstream w => wordChecks (sigMstream w) w
  | .mdrain w => wordChecks (sigMdrain w) w
  | .mzero w => wordChecks (sigMzero w) w
  | .mrowSt w => (.subform, !mdB w 7) :: wordChecks (sigMrowSt w) w
  | .mrowLd w => (.subform, mdB w 7) :: wordChecks (sigMrowLd w) w
  | .rast w => wordChecks (sigRast w) w
  | .trav w => wordChecks (sigTrav w) w
  | .shq w => wordChecks (sigShq w) w
  | .shpark w => wordChecks (sigShpark w) w
  | .shfill w => (.subform, !mdB w 0) :: wordChecks (sigShfill w) w
  | .shfillDrop w => (.subform, mdB w 0) :: wordChecks (sigShfillDrop w) w
  | .shinv w => wordChecks (sigShinv w) w
  | .shtick w => wordChecks (sigShtick w) w
  | .launch w => wordChecks (sigLaunch w) w
  | .tdone w => wordChecks (sigTdone w) w
  | .sigdec w => wordChecks (sigSigdec w) w
  | .role w => wordChecks (sigRole w) w
  | .sysr w => wordChecks (sigSysr w) w
  | .sysw w => wordChecks (sigSysw w) w
  | .ldfmt w => (.subform, !mdB w 6) :: wordChecks (sigLdfmt w) w
  | .ldfmtClr w => (.subform, mdB w 6) :: wordChecks (sigLdfmtClr w) w
  | .ldovf w => wordChecks (sigLdovf w) w
  | .xsync w => wordChecks (sigXsync w) w
  | .splinter w => wordChecks (sigSplinter w) w
  | .migrate w => wordChecks (sigMigrate w) w
  | .ctrr w => wordChecks (sigCtrr w) w
  | .tret w => wordChecks (sigTret w) w
  | .bmsg w => wordChecks (sigBmsg w) w
  | .lnrd _ _ _ _ => []
  | .lnwr _ _ _ _ => []
  | .lnpf _ _ _ _ => []
  | .lsq _ _ _ => []
  | .mrep _ _ => []
  | .hfin => []
  | .bobbinBase i => rvChecks i
  | .deviceReset => []
  | .firmwareImageLoad img => [(.image, decide (img.row < 5))]
  | .fullServiceEntry => []
  | .clockStep _ => []
  | .thermalShutdown => []
  | .attestationRequest fn _ => [(.function, okFn fn)]
  | .registerWrite _ fn _ _ _ => [(.function, okFn fn)]
  | .qnotifyWrite fn q _ => [(.function, okFn fn), (.queue, okQueue fn q)]
  | .queueEnable fn q => [(.function, okFn fn), (.queue, okQueue fn q)]
  | .queueDestroyDrain fn q => [(.function, okFn fn), (.queue, okQueue fn q)]
  | .queueDestroyKill fn q => [(.function, okFn fn), (.queue, okQueue fn q)]
  | .ringEntryRead fn q => [(.function, okFn fn), (.queue, okQueue fn q)]
  | .waitPacketSatisfied fn q => [(.function, okFn fn), (.queue, okQueue fn q)]
  | .residencyLeaseGrant _ => []
  | .reservation _ leaf => [(.cluster, okCluster leaf)]
  | .reservationAnswer _ leaf => [(.cluster, okCluster leaf)]
  | .reservationTimeout _ => []
  | .commit _ leaf => [(.cluster, okCluster leaf)]
  | .cancel _ leaf => [(.cluster, okCluster leaf)]
  | .resourcesFreed leaf => [(.cluster, okCluster leaf)]
  | .reservationStarvation _ => []
  | .continuationRecordFile fn q => [(.function, okFn fn), (.queue, okQueue fn q)]
  | .poolAgedDraw fn q _ core => [(.function, okFn fn), (.queue, okQueue fn q), (.core, okCore core)]
  | .taskDispatch core _ _ => [(.core, okCore core)]
  | .launchCompletion _ => []
  | .deferredPacketMove _ => []
  | .energyCharge => []
  | .energyPeriod => []
  | .halt _ => []
  | .contextSave core _ => [(.core, okCore core)]
  | .contextReentry fn _ core => [(.function, okFn fn), (.core, okCore core)]
  | .freeze fn => [(.function, okFn fn)]
  | .thaw fn => [(.function, okFn fn)]
  | .debugResume fn => [(.function, okFn fn)]
  | .debugEnd fn => [(.function, okFn fn)]
  | .taskEnd _ => []
  | .watchdog _ => []
  | .ownershipReturnTimeout _ => []
  | .invalidationAckTimeout _ _ => []
  | .bobbinOverrun k => [(.cluster, okCluster k)]
  | .vectorSliceEnd core => [(.core, okCore core)]
  | .sliceIdleEnd core _ => [(.core, okCore core)]
  | .matrixSliceSwitch core => [(.core, okCore core)]
  | .spinnerDisplacement core _ => [(.core, okCore core)]
  | .bandwidthPeriod => []
  | .portThrottleUpdate fn core => [(.function, okFn fn), (.core, okCore core)]
  | .functionLevelReset fn => [(.function, okFn fn)]
  | .promotion core _ => [(.core, okCore core)]
  | .rotation core _ => [(.core, okCore core)]
  | .scoreboardDemotion core _ => [(.core, okCore core)]
  | .binAgedDraw core _ _ => [(.core, okCore core)]
  | .sleepWake core _ => [(.core, okCore core)]
  | .pollTimeout core _ => [(.core, okCore core)]
  | .pollSpuriousWake core _ => [(.core, okCore core)]
  | .loadReturn _ => []
  | .readLeaseRequest core _ => [(.core, okCore core)]
  | .writePerform _ => []
  | .leaseWaitEnd _ => []
  | .ownershipGrant core _ => [(.core, okCore core)]
  | .ownershipReturn _ => []
  | .farAtomicAck _ => []
  | .pageWalk _ fn _ => [(.function, okFn fn)]
  | .translationInvalidation _ _ => []
  | .invalidationAck _ _ => []
  | .remoteRequest _ fn _ => [(.function, okFn fn)]
  | .migrationLineBlock _ _ => []
  | .migrationReplay _ => []
  | .copyCheck _ => []
  | .copyWriteLand _ _ => []
  | .batchClose _ => []
  | .rcpSignalDecrement _ => []
  | .picotStep core _ => [(.core, okCore core)]
  | .arrayOperationStart core _ => [(.core, okCore core)]
  | .arrayOperationComplete core _ => [(.core, okCore core)]
  | .shqAllocate _ => []
  | .continuationEmit ctl => [(.cluster, decide (ctl < 4))]
  | .releasedRecordDelivery ctl => [(.cluster, decide (ctl < 4))]
  | .shinvScanDone ctl _ => [(.cluster, decide (ctl < 4))]
  | .poolClockEviction _ => []
  | .shadingRecordApply _ => []
  | .handlerEnable fn => [(.function, okFn fn)]
  | .handlerDisable fn => [(.function, okFn fn)]
  | .missEvent _ => []
  | .fillEvent _ => []
  | .evictEvent _ => []
  | .msgEvent _ => []
  | .invocationStart k => [(.cluster, okCluster k)]
  | .budgetExhausted k => [(.cluster, okCluster k)]
  | .bmsgReply _ => []
  | .patrolScrub _ _ => []
  | .selfTest _ _ => []
  | .linkRetry _ _ => []
  | .queueDisable fn q => [(.function, okFn fn), (.queue, okQueue fn q)]
  | .reducedServiceEntry => []
  | .rastTravResult _ => []
  | .flogbaseWrite fn _ => [(.function, okFn fn)]

/-- The names of the checks an operation fails. -/
def failed (i : Instr) : List WfCheck := ((checks i).filter (fun p => !p.2)).map Prod.fst

/-- An operation is well formed when it fails no check. -/
def WellFormed (i : Instr) : Prop := failed i = []

end Sys2Proof
end

