-- ==== Sys2Proof/Decode.lean ====
section
/-! DEFINITION. Decoding of Thrum instruction words (R31, Table 2.8) and of Bobbin instructions (R345, R354), and the encoder
written from the same tables. -/

namespace Sys2Proof

/-- Why a word is no instruction: an operation code Table 2.8 does not assign (R42), or too few bytes. -/
inductive DecodeErr where
  | unassigned (op : Nat)
  | short
deriving DecidableEq, Repr

/-- The fields of a 96-bit instruction word (Table 2.3). -/
def wordFields (x : BitVec 96) : TWord :=
  { d := bx x 76 10, a := bx x 66 10, b := bx x 56 10, c := bx x 46 10, pn := x.getLsbD 45, pi := bx x 42 3,
    fe := x.getLsbD 41, fs := x.getLsbD 40, md := bx x 32 8, ext := bx x 0 32 }

/-- OP: 64 × class + function (R31). -/
def wordOp (x : BitVec 96) : Nat := (bx x 86 10).toNat

/-- The instruction that OP selects, with the fields `w` (Table 2.8). -/
def thrumOf (op : Nat) (w : TWord) : Except DecodeErr Instr :=
  match op with
  | 0x000 => .ok (.add w)
  | 0x001 => .ok (.sub w)
  | 0x002 => .ok (.mul w)
  | 0x003 => .ok (.mulhi w)
  | 0x004 => .ok (.mad w)
  | 0x005 => .ok (.mulw w)
  | 0x006 => .ok (.madw w)
  | 0x007 => .ok (.addc w)
  | 0x008 => .ok (.subc w)
  | 0x009 => .ok (.min w)
  | 0x00A => .ok (.max w)
  | 0x00B => .ok (.abs w)
  | 0x00C => .ok (.neg w)
  | 0x00D => .ok (.cmp w)
  | 0x00E => .ok (.sel w)
  | 0x040 => .ok (.and w)
  | 0x041 => .ok (.or w)
  | 0x042 => .ok (.xor w)
  | 0x043 => .ok (.not w)
  | 0x044 => .ok (.lop3 w)
  | 0x045 => .ok (.shl w)
  | 0x046 => .ok (.shr w)
  | 0x047 => .ok (.fsh w)
  | 0x048 => .ok (.bfe w)
  | 0x049 => .ok (.bfi w)
  | 0x04A => .ok (.popc w)
  | 0x04B => .ok (.clz w)
  | 0x04C => .ok (.ctz w)
  | 0x04D => .ok (.brev w)
  | 0x04E => .ok (.mov w)
  | 0x04F => .ok (.plop w)
  | 0x050 => .ok (.p2r w)
  | 0x051 => .ok (.r2p w)
  | 0x080 => .ok (.fadd w)
  | 0x081 => .ok (.fsub w)
  | 0x082 => .ok (.fmul w)
  | 0x083 => .ok (.ffma w)
  | 0x084 => .ok (.fmin w)
  | 0x085 => .ok (.fmax w)
  | 0x086 => .ok (.fcmp w)
  | 0x0C0 => .ok (.cvt w)
  | 0x0C1 => .ok (if mdB w 7 then .cvtnUnpack w else .cvtnPack w)
  | 0x0C2 => .ok (.settag w)
  | 0x0C3 => .ok (.gettag w)
  | 0x0C8 => .ok (.frcp w)
  | 0x0C9 => .ok (.frsqrt w)
  | 0x0CA => .ok (.fsqrt w)
  | 0x0CB => .ok (.fexp2 w)
  | 0x0CC => .ok (.flog2 w)
  | 0x0CD => .ok (.fsin w)
  | 0x0CE => .ok (.fcos w)
  | 0x100 => .ok (.hadd2 w)
  | 0x101 => .ok (.hsub2 w)
  | 0x102 => .ok (.hmul2 w)
  | 0x103 => .ok (.hfma2 w)
  | 0x104 => .ok (.hmin2 w)
  | 0x105 => .ok (.hmax2 w)
  | 0x108 => .ok (.dp4a w)
  | 0x109 => .ok (.dp2bf w)
  | 0x140 => .ok (.dadd w)
  | 0x141 => .ok (.dsub w)
  | 0x142 => .ok (.dmul w)
  | 0x143 => .ok (.dfma w)
  | 0x144 => .ok (.dmin w)
  | 0x145 => .ok (.dmax w)
  | 0x146 => .ok (.dcmp w)
  | 0x147 => .ok (.dcvt w)
  | 0x180 => .ok (.shfl w)
  | 0x181 => .ok (.push w)
  | 0x182 => .ok (.vote w)
  | 0x183 => .ok (.matchOp w)
  | 0x184 => .ok (.xred w)
  | 0x185 => .ok (.xscan w)
  | 0x1C0 => .ok (.nop w)
  | 0x1C1 => .ok (.bra w)
  | 0x1C2 => .ok (.brx w)
  | 0x1C3 => .ok (if mdB w 0 then .callInd w else .call w)
  | 0x1C4 => .ok (.ret w)
  | 0x1C5 => .ok (.reform w)
  | 0x1C6 => .ok (.yield w)
  | 0x1C7 => .ok (.poll w)
  | 0x1C8 => .ok (.sleep w)
  | 0x1C9 => .ok (.region w)
  | 0x1CA => .ok (.exit w)
  | 0x1CB => .ok (.trap w)
  | 0x1CC => .ok (.bkpt w)
  | 0x200 => .ok (.ld w)
  | 0x201 => .ok (.st w)
  | 0x202 => .ok (.lds w)
  | 0x203 => .ok (.sts w)
  | 0x204 => .ok (.pf w)
  | 0x205 => .ok (.evict w)
  | 0x240 => .ok (.atom w)
  | 0x241 => .ok (.atomn w)
  | 0x242 => .ok (.cas w)
  | 0x243 => .ok (.atoms w)
  | 0x244 => .ok (.cass w)
  | 0x248 => .ok (.fence w)
  | 0x280 => .ok (.acp w)
  | 0x281 => .ok (.tcp w)
  | 0x282 => .ok (.tmc w)
  | 0x283 => .ok (.tsf w)
  | 0x284 => .ok (.tst w)
  | 0x285 => .ok (.trst w)
  | 0x286 => .ok (.rcp w)
  | 0x288 => .ok (.pinit w)
  | 0x289 => .ok (.parr w)
  | 0x28A => .ok (.parrb w)
  | 0x28B => .ok (.pwait w)
  | 0x28C => .ok (.ptest w)
  | 0x2C0 => .ok (.cinit w)
  | 0x2C1 => .ok (.mjoin w)
  | 0x2C2 => .ok (.mld w)
  | 0x2C3 => .ok (.mldq w)
  | 0x2C4 => .ok (.mswap w)
  | 0x2C5 => .ok (.mstream w)
  | 0x2C6 => .ok (.mdrain w)
  | 0x2C7 => .ok (.mzero w)
  | 0x2C8 => .ok (if mdB w 7 then .mrowLd w else .mrowSt w)
  | 0x300 => .ok (.rast w)
  | 0x301 => .ok (.trav w)
  | 0x302 => .ok (.shq w)
  | 0x303 => .ok (.shpark w)
  | 0x304 => .ok (if mdB w 0 then .shfillDrop w else .shfill w)
  | 0x305 => .ok (.shinv w)
  | 0x306 => .ok (.shtick w)
  | 0x340 => .ok (.launch w)
  | 0x341 => .ok (.tdone w)
  | 0x342 => .ok (.sigdec w)
  | 0x343 => .ok (.role w)
  | 0x380 => .ok (.sysr w)
  | 0x381 => .ok (.sysw w)
  | 0x382 => .ok (if mdB w 6 then .ldfmtClr w else .ldfmt w)
  | 0x383 => .ok (.ldovf w)
  | 0x384 => .ok (.xsync w)
  | 0x385 => .ok (.splinter w)
  | 0x386 => .ok (.migrate w)
  | 0x387 => .ok (.ctrr w)
  | 0x388 => .ok (.tret w)
  | 0x389 => .ok (.bmsg w)
  | _ => .error (.unassigned op)

/-- Decodes a 96-bit instruction word. DEDUCED (assumption 13). -/
def decodeThrum (x : BitVec 96) : Except DecodeErr Instr := thrumOf (wordOp x) (wordFields x)

/-- Decodes a 32-bit Bobbin word: custom-0 and custom-1 by Table 13.5, everything else as RV32IM with Zicsr. A word of custom-0
or custom-1 that the table does not give is an illegal instruction (R345). -/
def decodeBobbin32 (w : W32) : Instr :=
  let rd : BitVec 5 := bx w 7 5
  let rs1 : BitVec 5 := bx w 15 5
  let rs2 : BitVec 5 := bx w 20 5
  let f7 : BitVec 7 := bx w 25 7
  let f3 : Nat := (bx w 12 3).toNat
  let bad : Instr := .bobbinBase (.illegal w)
  match (bx w 0 7).toNat with
  | 0x0B =>
    if f3 = 0 then (if bx w 28 4 = 0#4 then .lnrd (bx w 25 3) rs2 rs1 rd else bad)
    else if f3 = 1 then (if bx w 28 4 = 0#4 then .lnwr (bx w 25 3) rs2 rs1 rd else bad)
    else if f3 = 2 then (if bx w 26 6 = 0#6 then .lnpf (bx w 25 1) rs2 rs1 rd else bad)
    else if f3 = 3 then (if f7 = 0#7 then .lsq rs2 rs1 rd else bad)
    else bad
  | 0x2B =>
    if f3 = 0 then (if bx w 28 4 = 0#4 ∧ rs2 = 0#5 ∧ rs1 = 0#5 then .mrep (bx w 25 3) rd else bad)
    else if w = 0x0000102B#32 then .hfin
    else bad
  | _ => .bobbinBase (decodeRv w)

/-- Decodes the Bobbin instruction at the head of `bs`, with its length in bytes: a halfword whose low bits are not 11 is a
compressed instruction. -/
def decodeBobbin (bs : List Byte) : Except DecodeErr (Instr × Nat) :=
  match bs with
  | b0 :: b1 :: rest =>
    let h : BitVec 16 := b1 ++ b0
    if bx h 0 2 = 3#2 then
      match rest with
      | b2 :: b3 :: _ => .ok (decodeBobbin32 (b3 ++ b2 ++ b1 ++ b0), 4)
      | _ => .error .short
    else .ok (.bobbinBase (decodeRvC h), 2)
  | _ => .error .short

/-- Decodes the slot of a fetch line that starts at the head of `bs`: a little-endian 96-bit word (R21). -/
def decodeSlot (bs : List Byte) : Except DecodeErr Instr :=
  if bs.length < 12 then .error .short else decodeThrum (BitVec.ofNat 96 (leVal (bs.take 12)))

/-! ### The encoder -/

/-- The 96-bit word of OP and fields (Table 2.3). -/
def thrumWord (op : Nat) (w : TWord) : BitVec 96 :=
  BitVec.ofNat 10 op ++ w.d ++ w.a ++ w.b ++ w.c ++ BitVec.ofBool w.pn ++ w.pi ++ BitVec.ofBool w.fe ++ BitVec.ofBool w.fs ++
    w.md ++ w.ext

/-- The encoding of an operation: a 96-bit Thrum word, a 32-bit Bobbin word, a 16-bit compressed one; none for an event, which
no word names. -/
inductive Code where
  | thrum (x : BitVec 96)
  | rv (x : W32)
  | rvc (x : BitVec 16)
  | event
deriving DecidableEq, Repr

/-- Encodes an operation (Table 2.8, Table 13.5, R345). -/
def encode : Instr → Code
  | .add w => .thrum (thrumWord 0x000 w)
  | .sub w => .thrum (thrumWord 0x001 w)
  | .mul w => .thrum (thrumWord 0x002 w)
  | .mulhi w => .thrum (thrumWord 0x003 w)
  | .mad w => .thrum (thrumWord 0x004 w)
  | .mulw w => .thrum (thrumWord 0x005 w)
  | .madw w => .thrum (thrumWord 0x006 w)
  | .addc w => .thrum (thrumWord 0x007 w)
  | .subc w => .thrum (thrumWord 0x008 w)
  | .min w => .thrum (thrumWord 0x009 w)
  | .max w => .thrum (thrumWord 0x00A w)
  | .abs w => .thrum (thrumWord 0x00B w)
  | .neg w => .thrum (thrumWord 0x00C w)
  | .cmp w => .thrum (thrumWord 0x00D w)
  | .sel w => .thrum (thrumWord 0x00E w)
  | .and w => .thrum (thrumWord 0x040 w)
  | .or w => .thrum (thrumWord 0x041 w)
  | .xor w => .thrum (thrumWord 0x042 w)
  | .not w => .thrum (thrumWord 0x043 w)
  | .lop3 w => .thrum (thrumWord 0x044 w)
  | .shl w => .thrum (thrumWord 0x045 w)
  | .shr w => .thrum (thrumWord 0x046 w)
  | .fsh w => .thrum (thrumWord 0x047 w)
  | .bfe w => .thrum (thrumWord 0x048 w)
  | .bfi w => .thrum (thrumWord 0x049 w)
  | .popc w => .thrum (thrumWord 0x04A w)
  | .clz w => .thrum (thrumWord 0x04B w)
  | .ctz w => .thrum (thrumWord 0x04C w)
  | .brev w => .thrum (thrumWord 0x04D w)
  | .mov w => .thrum (thrumWord 0x04E w)
  | .plop w => .thrum (thrumWord 0x04F w)
  | .p2r w => .thrum (thrumWord 0x050 w)
  | .r2p w => .thrum (thrumWord 0x051 w)
  | .fadd w => .thrum (thrumWord 0x080 w)
  | .fsub w => .thrum (thrumWord 0x081 w)
  | .fmul w => .thrum (thrumWord 0x082 w)
  | .ffma w => .thrum (thrumWord 0x083 w)
  | .fmin w => .thrum (thrumWord 0x084 w)
  | .fmax w => .thrum (thrumWord 0x085 w)
  | .fcmp w => .thrum (thrumWord 0x086 w)
  | .cvt w => .thrum (thrumWord 0x0C0 w)
  | .cvtnPack w => .thrum (thrumWord 0x0C1 w)
  | .cvtnUnpack w => .thrum (thrumWord 0x0C1 w)
  | .settag w => .thrum (thrumWord 0x0C2 w)
  | .gettag w => .thrum (thrumWord 0x0C3 w)
  | .frcp w => .thrum (thrumWord 0x0C8 w)
  | .frsqrt w => .thrum (thrumWord 0x0C9 w)
  | .fsqrt w => .thrum (thrumWord 0x0CA w)
  | .fexp2 w => .thrum (thrumWord 0x0CB w)
  | .flog2 w => .thrum (thrumWord 0x0CC w)
  | .fsin w => .thrum (thrumWord 0x0CD w)
  | .fcos w => .thrum (thrumWord 0x0CE w)
  | .hadd2 w => .thrum (thrumWord 0x100 w)
  | .hsub2 w => .thrum (thrumWord 0x101 w)
  | .hmul2 w => .thrum (thrumWord 0x102 w)
  | .hfma2 w => .thrum (thrumWord 0x103 w)
  | .hmin2 w => .thrum (thrumWord 0x104 w)
  | .hmax2 w => .thrum (thrumWord 0x105 w)
  | .dp4a w => .thrum (thrumWord 0x108 w)
  | .dp2bf w => .thrum (thrumWord 0x109 w)
  | .dadd w => .thrum (thrumWord 0x140 w)
  | .dsub w => .thrum (thrumWord 0x141 w)
  | .dmul w => .thrum (thrumWord 0x142 w)
  | .dfma w => .thrum (thrumWord 0x143 w)
  | .dmin w => .thrum (thrumWord 0x144 w)
  | .dmax w => .thrum (thrumWord 0x145 w)
  | .dcmp w => .thrum (thrumWord 0x146 w)
  | .dcvt w => .thrum (thrumWord 0x147 w)
  | .shfl w => .thrum (thrumWord 0x180 w)
  | .push w => .thrum (thrumWord 0x181 w)
  | .vote w => .thrum (thrumWord 0x182 w)
  | .matchOp w => .thrum (thrumWord 0x183 w)
  | .xred w => .thrum (thrumWord 0x184 w)
  | .xscan w => .thrum (thrumWord 0x185 w)
  | .nop w => .thrum (thrumWord 0x1C0 w)
  | .bra w => .thrum (thrumWord 0x1C1 w)
  | .brx w => .thrum (thrumWord 0x1C2 w)
  | .call w => .thrum (thrumWord 0x1C3 w)
  | .callInd w => .thrum (thrumWord 0x1C3 w)
  | .ret w => .thrum (thrumWord 0x1C4 w)
  | .reform w => .thrum (thrumWord 0x1C5 w)
  | .yield w => .thrum (thrumWord 0x1C6 w)
  | .poll w => .thrum (thrumWord 0x1C7 w)
  | .sleep w => .thrum (thrumWord 0x1C8 w)
  | .region w => .thrum (thrumWord 0x1C9 w)
  | .exit w => .thrum (thrumWord 0x1CA w)
  | .trap w => .thrum (thrumWord 0x1CB w)
  | .bkpt w => .thrum (thrumWord 0x1CC w)
  | .ld w => .thrum (thrumWord 0x200 w)
  | .st w => .thrum (thrumWord 0x201 w)
  | .lds w => .thrum (thrumWord 0x202 w)
  | .sts w => .thrum (thrumWord 0x203 w)
  | .pf w => .thrum (thrumWord 0x204 w)
  | .evict w => .thrum (thrumWord 0x205 w)
  | .atom w => .thrum (thrumWord 0x240 w)
  | .atomn w => .thrum (thrumWord 0x241 w)
  | .cas w => .thrum (thrumWord 0x242 w)
  | .atoms w => .thrum (thrumWord 0x243 w)
  | .cass w => .thrum (thrumWord 0x244 w)
  | .fence w => .thrum (thrumWord 0x248 w)
  | .acp w => .thrum (thrumWord 0x280 w)
  | .tcp w => .thrum (thrumWord 0x281 w)
  | .tmc w => .thrum (thrumWord 0x282 w)
  | .tsf w => .thrum (thrumWord 0x283 w)
  | .tst w => .thrum (thrumWord 0x284 w)
  | .trst w => .thrum (thrumWord 0x285 w)
  | .rcp w => .thrum (thrumWord 0x286 w)
  | .pinit w => .thrum (thrumWord 0x288 w)
  | .parr w => .thrum (thrumWord 0x289 w)
  | .parrb w => .thrum (thrumWord 0x28A w)
  | .pwait w => .thrum (thrumWord 0x28B w)
  | .ptest w => .thrum (thrumWord 0x28C w)
  | .cinit w => .thrum (thrumWord 0x2C0 w)
  | .mjoin w => .thrum (thrumWord 0x2C1 w)
  | .mld w => .thrum (thrumWord 0x2C2 w)
  | .mldq w => .thrum (thrumWord 0x2C3 w)
  | .mswap w => .thrum (thrumWord 0x2C4 w)
  | .mstream w => .thrum (thrumWord 0x2C5 w)
  | .mdrain w => .thrum (thrumWord 0x2C6 w)
  | .mzero w => .thrum (thrumWord 0x2C7 w)
  | .mrowSt w => .thrum (thrumWord 0x2C8 w)
  | .mrowLd w => .thrum (thrumWord 0x2C8 w)
  | .rast w => .thrum (thrumWord 0x300 w)
  | .trav w => .thrum (thrumWord 0x301 w)
  | .shq w => .thrum (thrumWord 0x302 w)
  | .shpark w => .thrum (thrumWord 0x303 w)
  | .shfill w => .thrum (thrumWord 0x304 w)
  | .shfillDrop w => .thrum (thrumWord 0x304 w)
  | .shinv w => .thrum (thrumWord 0x305 w)
  | .shtick w => .thrum (thrumWord 0x306 w)
  | .launch w => .thrum (thrumWord 0x340 w)
  | .tdone w => .thrum (thrumWord 0x341 w)
  | .sigdec w => .thrum (thrumWord 0x342 w)
  | .role w => .thrum (thrumWord 0x343 w)
  | .sysr w => .thrum (thrumWord 0x380 w)
  | .sysw w => .thrum (thrumWord 0x381 w)
  | .ldfmt w => .thrum (thrumWord 0x382 w)
  | .ldfmtClr w => .thrum (thrumWord 0x382 w)
  | .ldovf w => .thrum (thrumWord 0x383 w)
  | .xsync w => .thrum (thrumWord 0x384 w)
  | .splinter w => .thrum (thrumWord 0x385 w)
  | .migrate w => .thrum (thrumWord 0x386 w)
  | .ctrr w => .thrum (thrumWord 0x387 w)
  | .tret w => .thrum (thrumWord 0x388 w)
  | .bmsg w => .thrum (thrumWord 0x389 w)
  | .lnrd b rs2 rs1 rd => .rv (0#4 ++ b ++ rs2 ++ rs1 ++ 0#3 ++ rd ++ 0x0B#7)
  | .lnwr b rs2 rs1 rd => .rv (0#4 ++ b ++ rs2 ++ rs1 ++ 1#3 ++ rd ++ 0x0B#7)
  | .lnpf l rs2 rs1 rd => .rv (0#6 ++ l ++ rs2 ++ rs1 ++ 2#3 ++ rd ++ 0x0B#7)
  | .lsq rs2 rs1 rd => .rv (0#7 ++ rs2 ++ rs1 ++ 3#3 ++ rd ++ 0x0B#7)
  | .mrep b rd => .rv (0#4 ++ b ++ 0#5 ++ 0#5 ++ 0#3 ++ rd ++ 0x2B#7)
  | .hfin => .rv 0x0000102B#32
  | .bobbinBase (.compressed c) => .rvc (encodeRvC c)
  | .bobbinBase (.illegalC h) => .rvc h
  | .bobbinBase i => .rv (encodeRv i)
  | .deviceReset => .event
  | .firmwareImageLoad _ => .event
  | .fullServiceEntry => .event
  | .clockStep _ => .event
  | .thermalShutdown => .event
  | .attestationRequest _ _ => .event
  | .registerWrite _ _ _ _ _ => .event
  | .qnotifyWrite _ _ _ => .event
  | .queueEnable _ _ => .event
  | .queueDestroyDrain _ _ => .event
  | .queueDestroyKill _ _ => .event
  | .ringEntryRead _ _ => .event
  | .waitPacketSatisfied _ _ => .event
  | .residencyLeaseGrant _ => .event
  | .reservation _ _ => .event
  | .reservationAnswer _ _ => .event
  | .reservationTimeout _ => .event
  | .commit _ _ => .event
  | .cancel _ _ => .event
  | .resourcesFreed _ => .event
  | .reservationStarvation _ => .event
  | .continuationRecordFile _ _ => .event
  | .poolAgedDraw _ _ _ _ => .event
  | .taskDispatch _ _ _ => .event
  | .launchCompletion _ => .event
  | .deferredPacketMove _ => .event
  | .energyCharge => .event
  | .energyPeriod => .event
  | .halt _ => .event
  | .contextSave _ _ => .event
  | .contextReentry _ _ _ => .event
  | .freeze _ => .event
  | .thaw _ => .event
  | .debugResume _ => .event
  | .debugEnd _ => .event
  | .taskEnd _ => .event
  | .watchdog _ => .event
  | .ownershipReturnTimeout _ => .event
  | .invalidationAckTimeout _ _ => .event
  | .bobbinOverrun _ => .event
  | .vectorSliceEnd _ => .event
  | .sliceIdleEnd _ _ => .event
  | .matrixSliceSwitch _ => .event
  | .spinnerDisplacement _ _ => .event
  | .bandwidthPeriod => .event
  | .portThrottleUpdate _ _ => .event
  | .functionLevelReset _ => .event
  | .promotion _ _ => .event
  | .rotation _ _ => .event
  | .scoreboardDemotion _ _ => .event
  | .binAgedDraw _ _ _ => .event
  | .sleepWake _ _ => .event
  | .pollTimeout _ _ => .event
  | .pollSpuriousWake _ _ => .event
  | .loadReturn _ => .event
  | .readLeaseRequest _ _ => .event
  | .writePerform _ => .event
  | .leaseWaitEnd _ => .event
  | .ownershipGrant _ _ => .event
  | .ownershipReturn _ => .event
  | .farAtomicAck _ => .event
  | .pageWalk _ _ _ => .event
  | .translationInvalidation _ _ => .event
  | .invalidationAck _ _ => .event
  | .remoteRequest _ _ _ => .event
  | .migrationLineBlock _ _ => .event
  | .migrationReplay _ => .event
  | .copyCheck _ => .event
  | .copyWriteLand _ _ => .event
  | .batchClose _ => .event
  | .rcpSignalDecrement _ => .event
  | .picotStep _ _ => .event
  | .arrayOperationStart _ _ => .event
  | .arrayOperationComplete _ _ => .event
  | .shqAllocate _ => .event
  | .continuationEmit _ => .event
  | .releasedRecordDelivery _ => .event
  | .shinvScanDone _ _ => .event
  | .poolClockEviction _ => .event
  | .shadingRecordApply _ => .event
  | .handlerEnable _ => .event
  | .handlerDisable _ => .event
  | .missEvent _ => .event
  | .fillEvent _ => .event
  | .evictEvent _ => .event
  | .msgEvent _ => .event
  | .invocationStart _ => .event
  | .budgetExhausted _ => .event
  | .bmsgReply _ => .event
  | .patrolScrub _ _ => .event
  | .selfTest _ _ => .event
  | .linkRetry _ _ => .event
  | .queueDisable _ _ => .event
  | .reducedServiceEntry => .event
  | .rastTravResult _ => .event
  | .flogbaseWrite _ _ => .event

/-- The bytes of an encoding as they lie in memory (R3, R21). -/
def Code.bytes : Code → List Byte
  | .thrum x => leBytes 12 x.toNat
  | .rv x => leBytes 4 x.toNat
  | .rvc x => leBytes 2 x.toNat
  | .event => []

/-- The instruction that the decoder reads from an encoding. -/
def Code.decode : Code → Option Instr
  | .thrum x => (decodeThrum x).toOption
  | .rv x => if bx x 0 2 = 3#2 then some (decodeBobbin32 x) else none
  | .rvc x => if bx x 0 2 = 3#2 then none else some (.bobbinBase (decodeRvC x))
  | .event => none

/-- The instruction of an opcode-table row whose word is `w` in `nbits` bits: 32 bits or fewer are a Bobbin instruction, more
are a slot of a Thrum line. The words are laid out as bytes and given to the decoders. -/
def decodeTableWord (nbits w : Nat) : Option Instr :=
  if nbits ≤ 32 then
    match decodeBobbin (leBytes 4 w) with
    | .ok (i, _) => some i
    | .error _ => none
  else (decodeSlot (leBytes 12 w)).toOption

end Sys2Proof
end

