-- ==== Sys2Proof/Machine/Migrate.lean ====
section
/-! DEFINITION. Operations of `splinter` and `migrate` (R314 to R319): their checks, their start, the blocking of lines and the
replay. -/

namespace Sys2Proof.Machine

/-- Lines of a 64 KiB frame. -/
def frameLines (f : Nat) : List Nat := spanN (f / 64) 1024
/-- Some line of a frame is blocked. -/
def State.frameBlocked (s : State) (f : Nat) : Bool := (frameLines f).any (fun l => (s.line l).block.isSome)

/-- What the walk of an operation from its root finds; none while it waits. -/
def State.migWalk (s : State) (m : PMig) : Option (Except Unit Walk) :=
  if (if m.ex then 2 ^ 47 else 2 ^ 55) ≤ m.va then some (.error ())
  else match walkFrom s m.ex false m.root m.va with
    | .ok w => some (.ok w)
    | .error .wait => none
    | .error _ => some (.error ())

/-- CODE of an operation that goes no further (Table 11.8): FAULT apart. -/
def State.migRefusal (s : State) (m : PMig) (w : Walk) : Option Nat :=
  let old := fieldN w.leaf.toNat 16 36 * 2 ^ 16
  let held := (s.line (w.pte / 64)).hold.isSome
  if m.migrate then
    (if w.lvl ≠ 0 then some 2
     else if m.new % 65536 ≠ 0 ∨ inTiers m.new = false ∨ inTiers (m.new + 65535) = false ∨ m.new = old then some 3
     else if held || s.frameBlocked old || s.frameBlocked m.new then some 4
     else none)
  else
    let size := if w.lvl = 2 then 4096 else 256
    if w.lvl ≠ 2 ∧ w.lvl ≠ 1 then some 2
    else if m.new % size ≠ 0 ∨ inTiers m.new = false ∨ inTiers (m.new + size - 1) = false then some 3
    else if held || s.frameBlocked (m.new / 65536 * 65536) then some 4
    else none

/-- The entries of the new table of a `splinter`. -/
def splinterLeaves (w : Walk) : List Byte :=
  let n := if w.lvl = 2 then 512 else 32
  let size := if w.lvl = 2 then 2 ^ 21 else 2 ^ 16
  (upTo n).flatMap (fun i => leBytes 8 (w.leaf.toNat + i * size))

/-- Sends the operation's write to the leaf, after other writes. -/
def State.sendPte (s : State) (m : PMig) (after : List Nat) (v : W64) : State :=
  let (id, s1) := s.newId
  let acc : Acc := { devAcc id 0 m.pte 8 with core := m.core, after := after }
  { s1 with writes := tset s1.writes id { acc := acc, kind := .pte m.id v } }

/-- A `splinter` begins: the table's entries are written, then the pointer to it. -/
def State.beginSplinter (s : State) (m : PMig) (w : Walk) : State :=
  let ps := linePieces m.new (splinterLeaves w)
  let s1 := s.devWrites 0 ps
  s1.sendPte m (spanN s.nextId ps.length) (BitVec.ofNat 64 (m.new + 1))

/-- A `migrate` begins: the block of every line of the old frame takes its place in the line's queue. -/
def State.beginMigrate (s : State) (m : PMig) : State :=
  let (t, s1) := s.newId
  (frameLines m.old).foldl (fun u l => u.modLine l (fun x => { x with block := some m.id, blockAt := t, blocked := false })) s1

/-- Begins an operation: it ends at once with its status, or places its hold and goes on. Nothing while its walk waits. -/
def State.startMig (s : State) (m : PMig) : State :=
  match s.migWalk m with
  | none => s
  | some (.error _) => s.migDone m.id 15 1
  | some (.ok w) =>
    match s.migRefusal m w with
    | some c => s.migDone m.id w.lvl c
    | none =>
      let old := fieldN w.leaf.toNat 16 36 * 2 ^ 16
      let m' := { m with started := true, lvl := w.lvl, pte := w.pte, leaf := w.leaf, old := old,
                         left := if m.migrate then frameLines old else [] }
      let s1 := { s with migs := tset s.migs m.id m' }.modLine (w.pte / 64) (fun x => { x with hold := some m.id })
      if m.migrate then s1.beginMigrate m' else s1.beginSplinter m' w

/-- An operation that may begin: no earlier one of its core is in progress. -/
def State.migReady (s : State) (m : PMig) : Bool :=
  !m.started && !s.migs.any (fun p => p.2.core == m.core && decide (p.1 < m.id))

/-- Begins every operation that may. -/
def State.startMigs (s : State) : State :=
  s.migs.foldl (fun t p => match tget? t.migs p.1 with
    | some m => if t.migReady m then t.startMig m else t
    | none => t) s

/-! ### Blocking, copying and replay (R316) -/

/-- A MISS, FILL or EVICT invocation of the line is queued or running (R418). -/
def State.lineBusy (s : State) (l : Nat) : Bool :=
  s.bobs.any (fun p => (p.2.queue ++ (p.2.run.map (·.ev)).toList).any (fun e => decide (e.kind ≤ 2) && e.line == l))

/-- A line of memory can be taken over by a migration: no lease, owner, far atomic, fill, invalidation or invocation stands there, and
every write that arrived before `at_` has performed. -/
def State.lineFree (s : State) (l at_ : Nat) : Bool :=
  let x := s.line l
  !x.blocked && !x.fetching && decide (x.expiry ≤ s.now) && x.owner.isNone && decide (x.far = 0) && x.await.isNone &&
    x.invFor.isNone && decide (x.pendEv = 0) && !s.lineBusy l && (s.waitingAt l).all (fun p => decide (at_ < p.1))

/-- The line of the new frame that a line of the old frame goes to. -/
def PMig.dest (m : PMig) (l : Nat) : Nat := m.new / 64 + (l - m.old / 64)

/-- A block may take hold of a line, and the copy of its bytes be written in the new frame. DEDUCED (assumption 133). -/
def State.mayBlock (s : State) (id l : Nat) : Bool :=
  (s.line l).block == some id && s.lineFree l (s.line l).blockAt &&
    (match tget? s.migs id with
     | some m => s.lineFree (m.dest l) s.nextId
     | none => false)

/-- The bytes and the poison of line `l` go to line `dl`; the one is blocked, the other waits for the migration.
DEDUCED (assumption 66). DEDUCED (assumption 72). -/
def State.copyLine (s0 : State) (fn id l dl : Nat) : State :=
  let s := s0.touch fn l 0
  let s1 := ({ s.put (64 * dl) (s.read (64 * l) 64) with pois := poisMove s.pois l dl } : State).wakeWatchers dl
  (s1.modLine l (fun x => { x with blocked := true })).modLine dl (fun x => { x.enter with await := some id, dirty := some fn })

/-- A block takes hold of a line: its bytes go to the same place in the new frame, poison with them; after the last line the leaf
is written. -/
def State.blockLine (s : State) (id l : Nat) : State :=
  match tget? s.migs id with
  | none => s
  | some m =>
    let dl := m.dest l
    let s2 := s.copyLine (match s.wg? m.th.wg with | some w => w.fn | none => 0) id l dl
    let m' := { m with left := m.left.filter (fun k => k != l) }
    let s3 := { s2 with migs := tset s2.migs id m' }
    if m'.left.isEmpty then
      s3.sendPte m' [] (BitVec.ofNat 64 (m.leaf.toNat - m.old + m.new))
    else s3

/-- The place that an access or a copy's read queued at line `l` or `dl` takes: at line `dl`, under its number in the joined queue. -/
def forwardTo (l dl : Nat) (place : Nat → Nat) (pa t : Nat) : Nat × Nat :=
  if pa / 64 = l then (pa - 64 * l + 64 * dl, place t) else if pa / 64 = dl then (pa, place t) else (pa, t)
def Acc.forward (l dl : Nat) (place : Nat → Nat) (a : Acc) : Acc :=
  match a.arrived, a.tgt with
  | some t, .glob pa mt =>
    let (q, k) := forwardTo l dl place pa t
    { a with tgt := .glob q mt, arrived := some k }
  | _, _ => a
def CPiece.forward (l dl : Nat) (place : Nat → Nat) (q : CPiece) : CPiece :=
  match q.src with
  | .home pa mt t =>
    let (b, k) := forwardTo l dl place pa t
    { q with src := .home b mt k }
  | _ => q

/-- Sends what is queued at line `l`, reads and writes in their arrival order, to line `dl`: it comes before what waits there. -/
def State.joinQueues (s : State) (l dl : Nat) : State :=
  let queue := s.arrivals l ++ s.arrivals dl
  let place (t : Nat) : Nat := s.nextId + queue.idxOf t
  let go := Acc.forward l dl place
  { s with
    nextId := s.nextId + queue.length
    writes := s.writes.map (fun (p : Nat × PWrite) => (p.1, { p.2 with acc := go p.2.acc }))
    loads := s.loads.map (fun (p : Nat × PLoad) => (p.1, { p.2 with acc := go p.2.acc }))
    copies := s.copies.map (fun (p : Nat × Copy) => (p.1, { p.2 with
      units := p.2.units.map (fun (u : Nat × CUnit) => (u.1, { u.2 with srcs := u.2.srcs.map (CPiece.forward l dl place) })) })) }

/-- The accesses queued at a line of the old frame go to the same line of the new one, and perform there. -/
def State.forwardLine (m : PMig) (s : State) (l : Nat) : State :=
  let dl := m.dest l
  let ws := (s.line l).watch
  let s1 := ((s.joinQueues l dl).modLine l (fun x => { x with block := none, blockAt := 0, blocked := false, watch := [] })).modLine dl
    (fun x => { x with await := none, watch := ws.foldl insertNat x.watch })
  s1.drainLine dl (s1.writes.length + 1)

/-- The replay: every queue of the old frame performs at the new one, the frame is unblocked, the hold released. -/
def State.replay (s : State) (id : Nat) : State :=
  match tget? s.migs id with
  | none => s
  | some m =>
    let s1 := (frameLines m.old).foldl (State.forwardLine m) s
    let s2 := s1.modLine (m.pte / 64) (fun x => { x with hold := none })
    (s2.migDone id m.lvl 0).drainLine (m.pte / 64) (s2.writes.length + 1)

/-- A migration whose leaf has been written. -/
def State.mayReplay (s : State) (id : Nat) : Bool :=
  match tget? s.migs id with
  | some m => m.migrate && m.remapped
  | none => false

/-! ### The meanings -/

/-- MIGRATION_LINE_BLOCK (R316). -/
def execMigrationLineBlock (id line : Nat) (s : State) : Host.Outcome State Fault Refusal :=
  runEvent "MIGRATION_LINE_BLOCK" (fun t => (tget? t.migs id).isSome && t.mayBlock id line) (fun t => t.blockLine id line) s
/-- MIGRATION_REPLAY (R316). -/
def execMigrationReplay (id : Nat) (s : State) : Host.Outcome State Fault Refusal :=
  runEvent "MIGRATION_REPLAY" (fun t => t.mayReplay id) (fun t => t.replay id) s

end Sys2Proof.Machine
end

