-- ==== Sys2Proof/Machine/Ring.lean ====
section
/-! DEFINITION. Rings of queues (R272 to R274, R422): which entries are available, what the device itself writes into a ring. -/

namespace Sys2Proof.Machine

/-- Queues of a function (R272). -/
def queuesOf (fn : Nat) : Nat := if fn = 0 then 256 else 64

/-- Entries of the ring. -/
def Queue.size (x : Queue) : Nat := 2 ^ x.log2n
/-- How far an index stands ahead of QRD; 0 when it does not lie within the ring. -/
def Queue.ahead (x : Queue) (i : W32) : Nat := if (i - x.qrd).toNat ≤ x.size then (i - x.qrd).toNat else 0
/-- Entries available to the front end: those that notifies and the device's own writes have made available (assumption 6). -/
def Queue.avail (x : Queue) : Nat := x.ahead x.devEnd
/-- The virtual address of ring entry `i` (R273). -/
def Queue.entryVa (x : Queue) (i : Nat) : Nat := x.qbase.toNat + 64 * (i % x.size)

/-- Counts a refused notify, a failed packet or a discarded record: QERR saturates (Table 10.1). -/
def State.qerr (s : State) (fn q : Nat) : State :=
  if q < queuesOf fn then
    s.modQueue fn q (fun x => { x with qerr := if x.qerr = ~~~ 0#32 then x.qerr else x.qerr + 1#32 })
  else s

/-- What becomes of an entry that the device offers to a queue. -/
inductive RingRes where
  | full
  | cannot
  | wait
  | ok (s : State)
deriving DecidableEq, Repr

/-- Offers 64 bytes to a queue of the given TYPE (R217, R293): it cannot take them when it is not enabled, of another TYPE, under
destroy, or when its entry cannot be written. DEDUCED (assumption 6). -/
def State.ringPut (s : State) (type fn q : Nat) (bs : List Byte) : RingRes :=
  let x := s.queue fn q
  if queuesOf fn ≤ q ∨ !x.en ∨ x.type ≠ type ∨ x.destroying ≠ 0 then .cannot
  else if x.size ≤ x.avail then .full
  else
    let i := x.qrd.toNat + x.avail
    match s.plainAccess fn (x.entryVa i) needW with
    | .ok t => .ok ((s.frontWrite fn t bs).setQueue fn q { x with devEnd := BitVec.ofNat 32 (i + 1) })
    | .error .wait => .wait
    | .error _ => .cannot

/-- A record that a queue cannot take is discarded and counted; where it is the ring entry that cannot be written, its walk has been made
(R217, R293, R340). -/
def State.ringRefused (s : State) (type fn q : Nat) : State :=
  let x := s.queue fn q
  (if x.en ∧ x.type = type ∧ x.destroying = 0 then s.walked fn (x.entryVa (x.qrd.toNat + x.avail)) else s).qerr fn q

/-- Whether a device or host write to these bytes has still to perform. -/
def State.unsettled (s : State) (pa n : Nat) : Bool :=
  s.writes.any (fun w => w.2.acc.th.isNone && w.2.acc.tgt.overlap w.2.acc.n (.glob pa 0) n)

/-- What the front end finds when it reads a structure: bytes, a structure that cannot be read or is poisoned (R422), or a wait. -/
inductive FrontRes where
  | bytes (bs : List Byte)
  | unreadable
  | wait
deriving DecidableEq, Repr

/-- Reads bytes for the front end in pieces inside 64-byte lines. -/
def State.frontGo (s : State) (fn : Nat) : Nat → Nat → Nat → FrontRes
  | 0, _, _ => .bytes []
  | fuel + 1, a, n =>
    if n = 0 then .bytes []
    else
      let k := min n (64 - a % 64)
      match s.plainAccess fn a needR with
      | .ok t =>
        let pa := t.tgt.base
        if s.unsettled pa k || s.readWaits (pa / 64) none then .wait
        else if s.isPois pa k then .unreadable
        else match s.frontGo fn fuel (a + k) (n - k) with
          | .bytes bs => .bytes (s.read pa k ++ bs)
          | r => r
      | .error .wait => .wait
      | .error _ => .unreadable

/-- Reads `n` bytes at a virtual address of a function for the front end: the writes of the device and the host to them have
performed (R274). DEDUCED (assumption 104). -/
def State.frontRead (s : State) (fn a n : Nat) : FrontRes := s.frontGo fn (n / 64 + 2) a n

/-- The lines that the front end has read for a function, those of its walks among them, come to their slices, and are charged to it
(R340). -/
def State.sawGo (fn : Nat) : Nat → State → Nat → Nat → State
  | 0, s, _, _ => s
  | fuel + 1, s, a, n =>
    if n = 0 then s
    else
      let k := min n (64 - a % 64)
      let u := s.walked fn a
      let t := (match s.plainAccess fn a needR with
        | .ok t => (match t.tgt with
          | .glob pa mt => u.touch fn (pa / 64) mt
          | _ => u)
        | .error _ => u)
      State.sawGo fn fuel t (a + k) (n - k)
def State.frontSaw (s : State) (fn a n : Nat) : State := State.sawGo fn (n / 64 + 2) s a n

end Sys2Proof.Machine
end

