-- ==== Sys2Proof/Machine/Packet.lean ====
section
/-! DEFINITION. Launch packets, launch records and the structures they name: their fields and the checks of R275, R276, R287 and R289. -/

namespace Sys2Proof.Machine

/-! ### Packets (Table 10.2) -/

/-- KIND of a packet, and whether a reserved bit of Table 10.2 is set. -/
def pktKind (bs : List Byte) : Nat := fieldN (recVal bs 0 4) 0 4
def pktReserved (bs : List Byte) : Bool :=
  fieldN (recVal bs 0 4) 11 21 != 0 || fieldN (recVal bs 4 4) 5 3 != 0 || fieldN (recVal bs 4 4) 13 3 != 0 ||
    fieldN (recVal bs 4 4) 21 3 != 0 || fieldN (recVal bs 4 4) 29 3 != 0 || fieldN (recVal bs 48 4) 8 24 != 0
def pktBarrier (bs : List Byte) : Bool := bitN (recVal bs 0 4) 4
def pktIrq (bs : List Byte) : Bool := bitN (recVal bs 0 4) 5
def pktDepth (bs : List Byte) : Nat := fieldN (recVal bs 0 4) 6 5
def pktLrec (bs : List Byte) : Nat := recVal bs 8 8
def pktArg (bs : List Byte) : W64 := BitVec.ofNat 64 (recVal bs 16 8)
def pktSig (bs : List Byte) : Nat := recVal bs 24 8
def pktCrec (bs : List Byte) : Nat := recVal bs 32 8
def pktAux (bs : List Byte) : Nat := recVal bs 40 8
def pktWgpc (bs : List Byte) : Nat := recVal bs 48 1
def pktTasks (bs : List Byte) : Nat := recVal bs 52 4
def pktVal (bs : List Byte) : W64 := BitVec.ofNat 64 (recVal bs 56 8)

/-- A rectangle of cores. -/
structure Rect where
  ox : Nat
  oy : Nat
  w  : Nat
  h  : Nat
deriving DecidableEq, Repr

/-- A rectangle as bytes 4–7 of a packet hold it. -/
def rectOf (v : Nat) : Rect := ⟨fieldN v 0 5, fieldN v 8 5, fieldN v 16 5 + 1, fieldN v 24 5 + 1⟩
def pktRect (bs : List Byte) : Rect := rectOf (recVal bs 4 4)
/-- It lies inside the mesh. -/
def Rect.inMesh (r : Rect) : Bool := decide (r.ox + r.w ≤ 20 ∧ r.oy + r.h ≤ 20)
/-- Its cores in launch-relative order, c = LY·W + LX (R282). -/
def Rect.cores (r : Rect) : List Nat :=
  (upTo r.h).flatMap (fun y => (upTo r.w).map (fun x => coreAt (r.ox + x) (r.oy + y)))
/-- The clusters it overlaps. -/
def Rect.clusters (r : Rect) : List Nat := dedup' (r.cores.map clusterOf)
def Rect.overlaps (a b : Rect) : Bool := a.cores.any b.cores.contains

/-- A packet starts workgroups: KIND 1, 2 or 3. -/
def pktStarts (bs : List Byte) : Bool := decide (1 ≤ pktKind bs ∧ pktKind bs ≤ 3)

/-- A packet that breaks a rule of Table 10.2 (R275); `host`: it stands in a TYPE 0 ring. -/
def pktBad (host : Bool) (bs : List Byte) : Bool :=
  let k := pktKind bs
  let starts := pktStarts bs
  decide (4 < k) || pktReserved bs || (host && pktDepth bs != 0) || (starts && !(pktRect bs).inMesh) ||
    (if starts then pktLrec bs % 64 != 0 else pktLrec bs != 0) || pktSig bs % 8 != 0 || pktCrec bs % 16 != 0 ||
    (if k = 2 then pktAux bs % 64 != 0 else if k = 3 then pktAux bs % 16 != 0 else pktAux bs != 0) ||
    (starts && pktWgpc bs == 0) ||
    (if k = 2 then pktTasks bs == 0 || decide (2 ^ 24 < pktTasks bs) else pktTasks bs != 0) ||
    (k != 4 && pktVal bs != 0#64) || (k == 4 && pktSig bs == 0)

/-- The launch kind of a packet. -/
def pktLKind (bs : List Byte) : LKind :=
  match pktKind bs with
  | 1 => .rect
  | 2 => .tatting
  | 3 => .gang
  | 4 => .wait
  | _ => .nop

/-! ### Launch records (Table 10.3) -/

def recPc (r : List Byte) : W64 := BitVec.ofNat 64 (recVal r 0 8)
def recRegs (r : List Byte) : Nat := recVal r 8 2
def recThreads (r : List Byte) : Nat := recVal r 10 2
def recScratch (r : List Byte) : Nat := recVal r 12 4
def recAcc (r : List Byte) : Nat := recVal r 16 2
/-- RFAGE as it takes effect: 0 gives 64, 1–15 give 16, above 1,024 gives 1,024. -/
def recRfage (r : List Byte) : Nat := let v := recVal r 18 2; if v = 0 then 64 else max 16 (min v 1024)
/-- FPCTL as it takes effect: DRM 0 or 7 gives 1. -/
def recFpctl (r : List Byte) : W32 :=
  let v := recVal r 20 1 % 32
  BitVec.ofNat 32 (if v % 8 = 0 ∨ v % 8 = 7 then v / 8 * 8 + 1 else v)
def recAbase (r : List Byte) : W64 := BitVec.ofNat 64 (recVal r 24 8)
def recOvf (r : List Byte) : BitVec 128 := BitVec.ofNat 128 (recVal r 32 16)

/-- An overflow table with an entry of 3 (R67). -/
def ovfBad (o : BitVec 128) : Bool := (upTo 64).any (fun t => o.extractLsb' (2 * t) 2 == 3#2)

/-- A record that breaks a rule of Table 10.3. -/
def recBad (gang pool : Bool) (r : List Byte) : Bool :=
  let regs := recRegs r
  decide (regs < 8 ∨ 768 < regs) || regs % 8 != 0 || (pool && decide (regs < 16)) ||
    (!gang && decide (recThreads r < 1 ∨ 2048 < recThreads r)) || (pool && recThreads r != 32) ||
    decide (1048576 < recScratch r) || decide (1024 < recAcc r) || fieldN (recVal r 20 4) 5 27 != 0 || ovfBad (recOvf r) ||
    recVal r 48 8 % 8 != 0 || decide (48 < recVal r 56 1) || recVal r 57 7 != 0 || recVal r 64 8 % 16 != 0 ||
    decide (recVal r 72 1 < 1 ∨ 64 < recVal r 72 1) || recVal r 73 55 != 0

/-- What comes of reading a structure that a packet names. -/
inductive Got (α : Type) where
  | ok (a : α)
  | bad
  | wait

/-- Reads bytes for the front end as a structure of a packet: unreadable bytes fail the packet (R422). -/
def State.got (s : State) (fn a n : Nat) : Got (List Byte) :=
  match s.frontRead fn a n with
  | .bytes bs => .ok bs
  | .unreadable => .bad
  | .wait => .wait

/-- The format list (R276): tag and descriptor of each entry. -/
def fmtsOf (bs : List Byte) : Nat → Nat → Option (Tab W32)
  | 0, _ => some []
  | k + 1, i =>
    match fmtsOf bs k (i + 1) with
    | none => none
    | some m =>
      let t := recVal bs (8 * i) 1
      let d : W32 := BitVec.ofNat 32 (recVal bs (8 * i + 4) 4)
      if t < 16 ∨ 63 < t ∨ recVal bs (8 * i + 1) 3 ≠ 0 ∨ descValid d = false ∨ (tget? m t).isSome = true then none
      else some (tset m t d)

/-- The residency list (R276). -/
def rangesOf (bs : List Byte) : Nat → Nat → Option (List Range)
  | 0, _ => some []
  | k + 1, i =>
    match rangesOf bs k (i + 1) with
    | none => none
    | some m =>
      let base := recVal bs (16 * i) 8
      let len := recVal bs (16 * i + 8) 4
      let f := recVal bs (16 * i + 12) 4
      if base % 65536 ≠ 0 ∨ len = 0 ∨ 4 ≤ f then none
      else some ({ base := base, len := 65536 * len, r := bitN f 0, w := bitN f 1 } :: m)

/-- What the read of a launch record gives. -/
structure LRec where
  bytes  : List Byte
  fmts   : Tab W32
  ranges : List Range
deriving DecidableEq, Repr

/-- Reads and checks a launch record with its lists (R276). -/
def State.readLrec (s : State) (fn a : Nat) (gang pool : Bool) : Got LRec :=
  match s.got fn a 128 with
  | .wait => .wait
  | .bad => .bad
  | .ok r =>
    if recBad gang pool r then .bad
    else
      let nf := recVal r 56 1
      let nr := recVal r 72 1
      match s.got fn (recVal r 48 8) (8 * nf), s.got fn (recVal r 64 8) (16 * nr) with
      | .wait, _ => .wait
      | _, .wait => .wait
      | .ok fb, .ok rb =>
        (match fmtsOf fb nf 0, rangesOf rb nr 0 with
         | some fs, some rs => .ok { bytes := r, fmts := fs, ranges := rs }
         | _, _ => .bad)
      | _, _ => .bad

/-! ### Role tables (R289) -/

/-- Reads the entries of a role table up to the one marked last. -/
def State.readRoles (s : State) (fn : Nat) : Nat → Nat → Got (List Role)
  | 0, _ => .bad
  | k + 1, a =>
    match s.got fn a 16 with
    | .wait => .wait
    | .bad => .bad
    | .ok b =>
      let r : Role := { pc := BitVec.ofNat 64 (recVal b 0 8), regs := recVal b 8 2, groups := recVal b 10 2 }
      let f := recVal b 12 4
      if r.regs < 8 ∨ 768 < r.regs ∨ r.regs % 8 ≠ 0 ∨ r.groups < 1 ∨ 64 < r.groups ∨ f % 2 ^ 31 ≠ 0 then .bad
      else if bitN f 31 then .ok [r]
      else match s.readRoles fn k (a + 16) with
        | .ok rs => .ok (r :: rs)
        | e => e

/-- Groups of every role together. -/
def roleGroups (rs : List Role) : Nat := rs.foldl (fun n r => n + r.groups) 0

/-- Reads and checks a role table. -/
def State.roleTable (s : State) (fn a : Nat) : Got (List Role) :=
  match s.readRoles fn 8 a with
  | .ok rs => if 64 < roleGroups rs then .bad else .ok rs
  | e => e

/-! ### Task graphs (R287) -/

/-- One task record with its successors, and its PEND. -/
def State.readTask (s : State) (fn a n : Nat) : Got (Task × Nat) :=
  match s.got fn a 64 with
  | .wait => .wait
  | .bad => .bad
  | .ok b =>
    let ns := recVal b 20 2
    let fl := recVal b 22 2
    let sa := recVal b 24 8
    if 64 < ns ∨ 2 ≤ fl ∨ sa % 8 ≠ 0 ∨ recVal b 36 28 ≠ 0 then .bad
    else match s.got fn sa (8 * ns) with
      | .wait => .wait
      | .bad => .bad
      | .ok sb =>
        let succ := (upTo ns).map (fun i => recVal sb (8 * i) 8)
        if succ.any (fun i => decide (n ≤ i)) || (fl == 1 && ns != 0) then .bad
        else .ok ({ pc := BitVec.ofNat 64 (recVal b 0 8), tx := recVal b 16 2, ty := recVal b 18 2, succ := succ, sink := fl == 1 },
          recVal b 32 4)

/-- Every task record of an array, with PEND: `k` records from index `i`. -/
def State.readTasks (s : State) (fn aux n : Nat) : Nat → Nat → Got (Tab (Task × Nat))
  | 0, _ => .ok []
  | k + 1, i =>
    match s.readTask fn (aux + 64 * i) n, s.readTasks fn aux n k (i + 1) with
    | .wait, _ => .wait
    | _, .wait => .wait
    | .ok t, .ok ts => .ok ((i, t) :: ts)
    | _, _ => .bad

/-- Reads a graph and checks it: exactly one sink, at least one root. -/
def State.taskGraph (s : State) (fn aux n : Nat) : Got (Tab Task) :=
  match s.readTasks fn aux n n 0 with
  | .wait => .wait
  | .bad => .bad
  | .ok ts =>
    if (ts.filter (fun p => p.2.1.sink)).length = 1 ∧ ts.any (fun p => p.2.2 == 0) = true then
      .ok (ts.map (fun p => (p.1, p.2.1)))
    else .bad

/-! ### What the front end has read (R340) -/

/-- A launch record, with its lists where its other fields are sound. -/
def State.sawLrec (s : State) (fn a : Nat) (gang pool : Bool) : State :=
  let t := s.frontSaw fn a 128
  match s.got fn a 128 with
  | .ok r =>
    if recBad gang pool r then t
    else (t.frontSaw fn (recVal r 48 8) (8 * recVal r 56 1)).frontSaw fn (recVal r 64 8) (16 * recVal r 72 1)
  | _ => t
/-- The entries of a role table up to the one marked last. -/
def State.sawRoles (fn : Nat) : Nat → State → Nat → State
  | 0, s, _ => s
  | k + 1, s, a =>
    let t := s.frontSaw fn a 16
    match s.got fn a 16 with
    | .ok b => if bitN (recVal b 12 4) 31 then t else State.sawRoles fn k t (a + 16)
    | _ => t
/-- The task records of a graph, each with its successors. -/
def State.sawTasks (s : State) (fn aux n : Nat) : State :=
  (upTo n).foldl (fun t i =>
    let u := t.frontSaw fn (aux + 64 * i) 64
    match t.got fn (aux + 64 * i) 64 with
    | .ok b => if 64 < recVal b 20 2 then u else u.frontSaw fn (recVal b 24 8) (8 * recVal b 20 2)
    | _ => u) s
/-- The structures that a launch packet names. -/
def State.sawLaunch (s : State) (fn : Nat) (pk : List Byte) : State :=
  let k := pktLKind pk
  let s1 := s.sawLrec fn (pktLrec pk) (k == .gang) false
  if k = .gang then State.sawRoles fn 8 s1 (pktAux pk)
  else if k = .tatting then s1.sawTasks fn (pktAux pk) (pktTasks pk)
  else s1

/-! ### What a workgroup needs (R277, R12) -/

/-- Needs of workgroups: register bytes by quadrant bank (R235), scratchpad bytes, rows, threads by quadrant (R239). -/
structure Needs where
  regs : List Nat
  scr  : Nat
  rows : Nat
  quads : List Nat
deriving DecidableEq, Repr

def Needs.add (a b : Needs) : Needs :=
  ⟨List.zipWith (· + ·) a.regs b.regs, a.scr + b.scr, a.rows + b.rows, List.zipWith (· + ·) a.quads b.quads⟩
def Needs.zero : Needs := ⟨[0, 0, 0, 0], 0, 0, [0, 0, 0, 0]⟩
def Needs.times (a : Needs) (n : Nat) : Needs := ⟨a.regs.map (· * n), a.scr * n, a.rows * n, a.quads.map (· * n)⟩
/-- Threads in all. -/
def Needs.thr (a : Needs) : Nat := a.quads.sum

/-- Rounds up to a multiple. -/
def roundUp (x g : Nat) : Nat := (x + g - 1) / g * g

/-- Threads of a workgroup of `n` whose home quadrant is `q` (R235). -/
def quadThreads (n q : Nat) : Nat := 32 * (n / 128) + min 32 (n % 128 - 32 * q)

/-- Needs of a workgroup of a launch record; a gang's registers are those of its roles. -/
def needsOf (r : List Byte) (roles : List Role) : Needs :=
  let groups := roles.flatMap (fun x => List.replicate x.groups x.regs)
  { regs := (upTo 4).map (fun q =>
      if roles.isEmpty then 4 * recRegs r * quadThreads (recThreads r) q
      else ((upTo groups.length).zip groups).foldl (fun n x => if x.1 % 4 = q then n + 4 * 32 * x.2 else n) 0)
    scr := roundUp (recScratch r) 1024
    rows := roundUp (recAcc r) 32
    quads := (upTo 4).map (quadThreads (if roles.isEmpty then recThreads r else 32 * roleGroups roles)) }

/-- Pool bytes that workgroups take together: each part rounded to its granule, at least 256 KiB of registers, as many 16 KiB in
every quadrant bank as the fullest takes (Table 1.3, R235). DEDUCED (assumption 38). -/
def Needs.pool (a : Needs) : Nat :=
  max (256 * 1024) (4 * roundUp (a.regs.foldl max 0) (16 * 1024)) + roundUp a.scr (16 * 1024) + a.rows * 512

/-- Scratchpad, rows and threads within what one core has; a quadrant holds at most 2,048 threads (Table 1.3, R239). -/
def Needs.inCore (a : Needs) : Bool :=
  decide (a.scr ≤ Config.maxScratch ∧ a.rows ≤ Config.maxRows) && a.quads.all (fun n => decide (4 * n ≤ Config.maxThreads))

/-- Within the limits of a core that holds nothing else (Table 1.3, Table 1.8); `room` is the pool it may use. -/
def Needs.within (a : Needs) (room : Nat) : Bool := decide (a.pool ≤ room) && a.inCore

/-! ### The launch of a context image (R286, R379, R382) -/

/-- The packet of an image. -/
def imPacket (bs : List Byte) : List Byte := (bs.drop 16).take 64

/-- The kind of launch that an image belongs to: a pool's where its queue is a continuation pool. DEDUCED (assumption 57). -/
def State.imageKind (s : State) (fn : Nat) (bs : List Byte) : LKind :=
  if (s.queue fn (recVal bs 80 2)).type = 2 then .pool else pktLKind (imPacket bs)

/-- The launch of the same packet that this device holds. -/
def State.launchOf (s : State) (fn : Nat) (bs : List Byte) : Option (Nat × Launch) :=
  s.launches.find? (fun p => p.2.fn == fn && p.2.queue == recVal bs 80 2 && p.2.qidx.toNat == recVal bs 84 4 &&
    p.2.phase == .running && (p.2.kind == .pool) == (s.imageKind fn bs == .pool))

/-- The launch on this device that an image belongs to: the one it was saved for, or the one that its header names. -/
def State.imageOwner (s : State) (fn : Nat) (m : Image) : Option Nat :=
  if (s.launch? m.launch).isSome then some m.launch
  else match s.frontRead fn ((s.fnb fn).ten.saveva.toNat + m.off) 256 with
    | .bytes bs => (s.launchOf fn bs).map Prod.fst
    | _ => none

/-- The images of a launch. -/
def State.imagesOf (s : State) (fn id : Nat) : List Image := (s.fnb fn).images.filter (fun m => s.imageOwner fn m == some id)

end Sys2Proof.Machine
end

