-- ==== Sys2Proof/Machine/Fetch.lean ====
section
/-! DEFINITION. Time passing, which group issues (R244, R245), and the fetch of its instruction: the line check of R22, the entry of a
line (R27), the decoding of the slot. -/

namespace Sys2Proof.Machine

/-- A group that may issue at all: active, ready, not halted, its launch not stopped for the debugger, and its tenant holding
vector issue (R331). -/
def State.issuable (s : State) (g : Group) : Bool :=
  g.place == .active && g.wait == .ready && !g.tids.isEmpty &&
    (match s.wg? g.wg with
     | some w =>
       let c := s.core g.core
       w.held.isNone && (decide (c.tenants.length ≤ 1) || c.tenants[c.vecHold]? == some w.fn)
     | none => false)

/-- A group that has not issued in 64 issue cycles of its tenant in the quadrant although it was ready (R245). -/
def State.starvedGroup (s : State) (g : Group) : Bool := decide (g.issueAt + 64 ≤ s.issueCount g.core g.quad g.wg)

/-- Whether group `a` issues before group `b`: a starved one first, then the older stamp (R245). -/
def State.before (s : State) (a b : Group) : Bool :=
  let older : Bool := a.stamp.ult b.stamp || (a.stamp == b.stamp && decide (a.sub < b.sub))
  match s.starvedGroup a, s.starvedGroup b with
  | true, false => true
  | false, true => false
  | _, _ => older

/-- What a thread waits for has not come: the write, or a place in the flag's count. -/
def Thread.awaits (th : Thread) (k : Nat) : Bool :=
  th.pending k || (upTo 12).any (fun f => k == fullKey f && th.flagFull (some f))

/-- What a group waits for on the scoreboard or in a queue still holds it (Table 9.3). -/
def State.stallHolds (s : State) (g : Group) (on : StallOn) : Bool :=
  match on with
  | .keys ks =>
    (match s.wg? g.wg with
     | some w => ks.any (fun p => g.tids.contains p.1 && (w.thread p.1).awaits p.2)
     | none => false)
  | .copyQueue => !decide ((s.copies.filter (fun p => p.2.core == g.core)).length < Config.copyQueue)
  | .arrayQueue => (match s.wg? g.wg with | some w => decide ((s.core g.core).arrayFree w.fn = 0) | none => false)
  | .msgQueue => !decide ((s.msgs.filter (fun p => p.2.core == g.core)).length < Config.msgQueue)
  | .other => false

/-- A group of the active set that cannot issue in this cycle: what it waits for still holds it, or it has been found waiting in the
cycle. -/
def State.stalled (s : State) (g : Group) : Bool :=
  g.stall.isSome && (s.stallHolds g g.stallOn || (g.stallOn == .other && g.triedAt == s.cycles))

/-- Whether the quadrant may issue from this group in this cycle: no other ready group that is not stalled issues before it (R245). -/
def State.mayIssue (s : State) (gid : Nat) (g : Group) : Bool :=
  s.issuable g &&
    s.groups.all (fun p => p.1 == gid || p.2.core != g.core || p.2.quad != g.quad || s.stalled p.2 ||
      !s.issuable p.2 || !s.before p.2 g)

/-- Turns the group's fetch into an instruction: it runs; or the state after the fetch, with nothing run. -/
inductive Fetched where
  | run (i : Instr) (s : State)
  | pass (s : State)
deriving DecidableEq, Repr

/-- The parity of a line's 512 bits (Table 2.1). -/
def lineParityOk (bs : List Byte) : Bool := (bs.map popcount).foldl (· + ·) 0 % 2 == 0

/-- A line word that breaks R22: a set flag of 12 to 14, overlapping pairs, a reserved bit. -/
def badLineWord (x : W32) : Bool :=
  let v := x.toNat
  let bad (n : Nat) : Bool := decide (12 ≤ n ∧ n ≤ 14)
  bad (fieldN v 16 4) || bad (fieldN v 12 4) || fieldN v 1 2 != 0 ||
    (bitN v 3 && bitN v 4) || (bitN v 4 && bitN v 5) || (bitN v 5 && bitN v 6)

/-- The flags that a line's WAIT names (R21). -/
def waitFlags (x : W32) : List Nat := (upTo 12).filter (fun i => x.getLsbD (20 + i))

/-- A fetch of a quarter of a line: its content, or the content it had at the last fetch where a store has changed it since (R23). DEDUCED
(assumption 129). -/
def State.codeQuarter (s : State) (old new : List Byte) (q : Nat) : List Byte × State :=
  let part (l : List Byte) : List Byte := (l.drop (16 * q)).take 16
  if part old = part new then (part new, s)
  else
    let (k, s1) := s.choose 2
    (part (if k = 0 then old else new), s1)

/-- The content of a code line that a workgroup fetches (R23). DESIGN CHOICE (assumption 111). -/
def State.codeBytes (s : State) (wid pa : Nat) : List Byte × State :=
  let new := s.read pa 64
  let old := match s.wg? wid with | some w => tgetD w.code pa new | none => new
  let r := (upTo 4).foldl (fun a q => let b := a.2.codeQuarter old new q; (a.1 ++ b.1, b.2)) ([], s)
  (r.1, r.2.modWg wid (fun w => { w with code := tset w.code pa r.1 }))

/-- The physical place and the bytes of a code line for a group: through its core TLB with X and the launch's residency (R307, R284). -/
def State.codeLine (s : State) (g : Group) (w : Wg) (a : Nat) : Except AccErr (Nat × List Byte) × State :=
  match s.access (agTlb g.core) w.fn ((s.launch? w.launch).map (·.ranges)) a 64 needX with
  | (.ok t, s1) =>
    (match t.tgt with
     | .glob pa mt =>
       if s1.readWaits (pa / 64) (some g.core) && !(mt == 0 && s1.l1Serves g.core w.fn (pa / 64)) then (.error .wait, s1)
       else
         let (held, s2) := s1.fetchHeld g.core w.fn (pa / 64) (tget? w.code pa).isSome
         if held then (.error .wait, s2)
         else if s2.isPois pa 64 then (.error (.fault clsPoison 0), s2)
         else let r := (s2.touch w.fn (pa / 64) mt).codeBytes g.wg pa
              (.ok (pa, r.1), r.2)
     | _ => (.error (.fault clsTrans 4), s1))
  | (.error e, s1) => (.error e, s1)

/-- The state after a group stops at a fetch: a task-ending fault of the line, or a wait. -/
def State.fetchStop (s : State) (gid : Nat) (g : Group) (w : Wg) (e : AccErr) : State :=
  match e with
  | .fault cls sub =>
    (s.modGroup gid (fun g => { g with wait := .trapped })).taskFault w.launch
      { cls := cls, sub := sub, pc := g.pc, addr := (pcLine g.pc).toNat, core := some g.core, wg := BitVec.ofNat 32 w.g,
        tid := g.tids.headD 0 }
  | .wait => s.stalls gid .other

/-- The state after a trap that the fetch raises. -/
def State.fetchTrap (s : State) (gid : Nat) (t : TrapInfo) : State :=
  match s.takeTrap gid t with
  | .ok s1 => s1
  | .fault s1 => s1
  | .wait s1 => s1.stalls gid .other

/-- The instruction in the slot of the line that the group has begun. -/
def State.fetchSlot (s : State) (gid : Nat) (g : Group) : Fetched :=
  let s1 := { s with cur := .group gid }
  match decodeSlot (g.code.drop (4 + 12 * pcSlot g.pc)) with
  | .ok i => .run i s1
  | .error _ => .pass (s1.fetchTrap gid { cls := clsInstr })

/-- Place of Table 15.1 of the caches of a core. -/
def placeL1 : Nat := 2

/-- A line whose parity fails is fetched once more, from its home, and counted as a detected error (R22, R398).
DEDUCED (assumption 35). DEDUCED (assumption 130). -/
def State.refetched (s : State) (g : Group) (w : Wg) (pa : Nat) (bs : List Byte) : List Byte × State :=
  if lineParityOk bs then (bs, s)
  else
    let s1 := ({ s with err := { s.err with lrefetch := s.err.lrefetch + 1#64 } } : State).errorRecord placeL1 .corrected (some w.fn)
      (sysCore g.core) pa 0#64
    let new := s.read pa 64
    (new, s1.modWg g.wg (fun v => { v with code := tset v.code pa new }))

/-- A line that breaks R22. -/
def badLine (bs : List Byte) : Bool := badLineWord (BitVec.ofNat 32 (recVal bs 0 4)) || !lineParityOk bs

/-- A group begins a line: the line is checked as a whole (R22), then WAIT (R27). -/
def State.enterLine (s : State) (gid : Nat) (g : Group) (w : Wg) (bs : List Byte) : Fetched :=
  let x : W32 := BitVec.ofNat 32 (recVal bs 0 4)
  let a := pcLine g.pc
  if badLine bs then .pass (s.fetchTrap gid { cls := clsLine, addr := a.toNat })
  else if g.tids.any (fun i => (waitFlags x).any (fun f => (w.thread i).flagWaits f)) then
    .pass (s.park gid (.flag (waitFlags x)))
  else
    let g' := { g with begun := some a, line := x, code := bs }
    (s.setGroup gid g').fetchSlot gid g'

/-- Fetches the next instruction of a group whose turn it is: from the line it has begun, or from one that it begins. -/
def State.fetchGroup (s : State) (gid : Nat) : Fetched :=
  match s.group? gid with
  | none => .pass s
  | some g =>
    match s.wg? g.wg with
    | none => .pass s
    | some w =>
      if !s.mayIssue gid g then .pass s
      else if g.begun = some (pcLine g.pc) then s.fetchSlot gid g
      else match s.codeLine g w (pcLine g.pc).toNat with
        | (.ok l, s1) =>
          let r := s1.refetched g w l.1 l.2
          r.2.enterLine gid g w r.1
        | (.error e, s1) => .pass (s1.fetchStop gid g w e)

/-! ### Time -/

/-- Whether a launch's watchdog counts (R372): it runs, not every workgroup of it is halted for its budget or to be saved, and its
function is not frozen, which for the launch lasts until its last image has re-entered. -/
def State.watchdogRuns (s : State) (i : Nat) (l : Launch) : Bool :=
  let b := (s.fnb l.fn).fault
  let live := (tvals s.wgs).filter (fun w => w.launch == i && !w.ended)
  let halted (w : Wg) : Bool := match w.held with | some .energy | some (.saving _) => true | _ => false
  let saved := !(s.imagesOf l.fn i).isEmpty
  l.phase == .running && !(if b.thawing then saved else b.freezing) && !(live.all halted && (!live.isEmpty || saved))

/-- The groups of a tenant on a core. -/
def State.tenantGroups (s : State) (core fn : Nat) : List (Nat × Group) :=
  s.groups.filter (fun p => p.2.core == core && (match s.wg? p.2.wg with | some w => w.fn == fn | none => false))

/-- A tenant has ready work in a class: a ready group that is halted for nothing but the slice, or a queued operation. -/
def State.readyWork (s : State) (core fn : Nat) (matrix : Bool) : Bool :=
  if matrix then (s.core core).opq.any (fun o => o.fn == fn)
  else (s.tenantGroups core fn).any (fun p => p.2.wait == .ready &&
    (match s.wg? p.2.wg with
     | some w => w.held.isNone || w.held == some .slice
     | none => false))

/-- The holder of a class, and the other tenant. -/
def Core.holder (c : Core) (matrix : Bool) : Nat := c.tenants.getD (if matrix then c.matHold else c.vecHold) 0
def Core.other (c : Core) (matrix : Bool) : Nat := c.tenants.getD (1 - (if matrix then c.matHold else c.vecHold)) 0

/-- Counter 0: core cycles in which the tenant held vector issue (Table 14.12). -/
def coreTick (dcyc : Nat) (c : Core) : Core :=
  match c.tenants[if c.tenants.length ≤ 1 then 0 else c.vecHold]? with
  | some f => { c with ctr := tset c.ctr (16 * f) (tgetD c.ctr (16 * f) 0#64 + BitVec.ofNat 64 dcyc) }
  | none => c

/-- When the holders of a shared core's classes last had ready work, by the global time counter (R331). -/
def State.workTick (s : State) (till : W64) (k : Nat) (c : Core) : Core :=
  if c.tenants.length = 2 then
    { c with
      vecWork := if s.readyWork k (c.holder false) false then till else c.vecWork
      matWork := if s.readyWork k (c.holder true) true then till else c.matWork }
  else c

/-- A Bobbin core that runs an invocation spends `n` cycles of its budget, then of its overrun; cycles for which the port holds its
request back are not charged, nor those before its first instruction (R360). -/
def bobTick (n : Nat) (b : Bob) : Bob :=
  match b.run with
  | some r =>
    let k := if r.heldReq || !r.started then 0 else n
    { b with run := some { r with left := r.left - k, past := r.past + (k - r.left) } }
  | none => b

/-- Whether what a pending group waits for on flags or the scoreboard has cleared (Table 9.3). -/
def State.cleared (s : State) (g : Group) : Bool :=
  match g.wait with
  | .flag fs =>
    let ths := match s.wg? g.wg with | some w => g.tids.map w.thread | none => []
    ths.all (fun t => fs.all (fun f => !t.flagWaits f))
  | .score on => !s.stallHolds g on
  | _ => false

/-- `dt` ns and `dcyc` core cycles pass; a group whose flags or scoreboard have cleared becomes ready. -/
def State.pass (s : State) (dt dcyc : Nat) : State :=
  { s with
    now := s.now + BitVec.ofNat 64 dt
    cycles := s.cycles + dcyc
    cores := s.cores.map (fun p => (p.1, s.workTick (s.now + BitVec.ofNat 64 dt) p.1 (coreTick dcyc p.2)))
    groups := s.groups.map (fun p =>
      (p.1, if s.cleared p.2 then { p.2 with wait := .ready, readyAt := s.cycles + dcyc } else p.2))
    boot := if s.boot.service = 2 ∧ s.boot.cclk < Config.fullClock then { s.boot with slowNs := s.boot.slowNs + dt } else s.boot
    bobs := s.bobs.map (fun p => (p.1, bobTick (bobCycles (s.cycles + dcyc) - bobCycles s.cycles) p.2))
    launches := s.launches.map (fun p => (p.1, if s.watchdogRuns p.1 p.2 then { p.2 with ran := p.2.ran + dt } else p.2)) }

/-- The host writes bytes of device or host memory by physical address; the writes perform at their homes. -/
def State.hostWrite (s : State) (pa : Nat) (bs : List Byte) : State := s.devWrites 0 (linePieces pa bs)

end Sys2Proof.Machine
end

