-- ==== Sys2Proof/Machine/Place.lean ====
section
/-! DEFINITION. Placing workgroups: the pool of a core (R12, R277, R327), home and lent clusters (R337), a function's arrival at and
departure from a core (R329, R331), scratchpad assignment (R187, R329) and the start of a workgroup (R282). -/

namespace Sys2Proof.Machine

/-! ### Room on a core -/

/-- What a workgroup holds of its core. -/
def Wg.needs (w : Wg) : Needs :=
  { regs := (upTo 4).map (fun q => w.threads.foldl (fun n t => if t.1 / 32 % 4 = q then n + 4 * t.2.nregs else n) 0),
    scr := w.ssize, rows := roundUp w.nrows 32, quads := (upTo 4).map (quadThreads w.nthr) }

/-- Needs of one workgroup of a launch. -/
def Launch.needs (l : Launch) : Needs := needsOf l.lrec l.roles

/-- What a function holds of a core: its workgroups, and the reservations held for its packets. -/
def State.useOf (s : State) (core fn : Nat) : Needs :=
  let res := (tvals s.launches).foldl (fun n l =>
    if l.fn = fn ∧ l.heldOn.contains core = true then n.add (l.needs.times (pktWgpc l.packet)) else n) Needs.zero
  (tvals s.wgs).foldl (fun n w => if w.core = core ∧ w.fn = fn then n.add w.needs else n) res

/-- The functions that hold some part of a core. -/
def State.holders (s : State) (core : Nat) : List Nat :=
  dedup' ((s.core core).tenants ++ ((tvals s.wgs).filter (fun w => w.core == core)).map (·.fn) ++
    ((tvals s.launches).filter (fun l => l.heldOn.contains core)).map (·.fn))

/-- A core that takes no launch: disabled, with a failing array, or retired with one of its agents (R9, R135, R385). -/
def State.coreShut (s : State) (core : Nat) : Bool :=
  s.boot.disabled.contains core || (s.core core).failing ||
    [agTlb core, agWalk core, agAhead core, agL1 core].any s.retired.contains

/-- The generations that stamp writes still in flight to a core's scratchpad (R187). -/
def State.gensInFlight (s : State) (core : Nat) : List Nat :=
  s.copies.flatMap (fun c => c.2.units.filterMap (fun u => match u.2.dst with
    | .peer _ k _ g _ _ => if k = core then some g else none
    | _ => none)) ++
  s.picots.filterMap (fun p => match p.2.act with
    | .bytes _ _ g => if p.2.acc.core = core then g else none
    | _ => none)

/-- The least generation that no write in flight to a core carries and that satisfies a further condition. -/
def State.freeGen (s : State) (core : Nat) (ok : Nat → Bool) : Option Nat :=
  (upTo 256).find? (fun g => ok g && !(s.gensInFlight core).contains g)

/-- A core has a generation for a new area: none is assigned while all of them are in flight (R187). -/
def State.genFree (s : State) (core : Nat) : Bool := (s.freeGen core (fun _ => true)).isSome

/-- Pool bytes of one of two tenants (R327). -/
def halfRoom : Nat := Config.halfBytes - Config.planeSaveBytes

/-- Whether a core can take more work of a function (R12, R327). -/
def State.fits (s : State) (core fn : Nat) (n : Needs) : Bool :=
  let others := (s.holders core).filter (fun f => f != fn)
  let mine := (s.useOf core fn).add n
  let all := others.foldl (fun a f => a.add (s.useOf core f)) mine
  !s.coreShut core && decide (others.length ≤ 1) && all.inCore && s.genFree core &&
    (if others.isEmpty then decide (mine.pool ≤ Config.poolBytes)
     else decide (mine.pool ≤ halfRoom) && others.all (fun f => decide ((s.useOf core f).pool ≤ halfRoom)))

/-! ### Home and lent clusters (R337, R338) -/

/-- A cluster is a home cluster of a function. -/
def State.isHome (s : State) (fn k : Nat) : Bool := (s.fnb fn).ten.home.getLsbD k

/-- Workgroups on a cluster. -/
def State.wgsAt (s : State) (k : Nat) : List (Nat × Wg) := s.wgs.filter (fun p => (coresOf k).contains p.2.core)

/-- Its reservation is in progress. -/
def Launch.inProgress (l : Launch) : Bool := l.phase == .reserving || l.phase == .committing

/-- A cluster is lent: its home functions lend it, none has work on it, none waits for it in reservation.
DEDUCED (assumption 41). -/
def State.lent (s : State) (k : Nat) : Bool :=
  s.fns.all (fun p => !p.2.ten.home.getLsbD k ||
    (p.2.ten.lend && !(s.wgsAt k).any (fun w => w.2.fn == p.1) &&
      !s.launches.any (fun l => l.2.fn == p.1 && l.2.inProgress && l.2.asked.contains k)))

/-- Bytes of a section of an image, padded to 64 (R378). -/
def sect (n : Nat) : Nat := roundUp n 64
/-- Size of a context image in 4 KiB units: register counts of the threads, scratchpad bytes, rows (R378). -/
def imageUnits (regs : List Nat) (scr rows : Nat) : Nat :=
  let n := 256 + 384 + 512 + 2 * 33088 + 64 * regs.length + regs.foldl (fun a r => a + sect (5 * r)) 0 + sect scr + sect (513 * rows)
  (n + 4095) / 4096

/-- Register counts of the threads of a workgroup of a launch. -/
def Launch.regsOf (l : Launch) : List Nat :=
  if l.roles.isEmpty then List.replicate (recThreads l.lrec) (recRegs l.lrec)
  else l.roles.flatMap (fun r => List.replicate (32 * r.groups) r.regs)

/-- Size of the image of a workgroup in 4 KiB units. -/
def Wg.imageSize (w : Wg) : Nat := imageUnits ((tvals w.threads).map (·.nregs)) w.ssize w.nrows

/-- Units that the images of a launch's workgroups on a number of cores take. -/
def Launch.imageUnits (l : Launch) (cores : Nat) : Nat :=
  Sys2Proof.Machine.imageUnits l.regsOf l.needs.scr (recAcc l.lrec) * pktWgpc l.packet * cores

/-- The save area of a function can take the images of `more` units beside those that it holds, those of its workgroups that borrow and
those of its other launches in reservation on lent clusters (R338). DEDUCED (assumption 42). -/
def State.saveRoom (s : State) (fn more : Nat) (l : Option Launch) : Bool :=
  let lentAt (c : Nat) : Bool := !s.isHome fn (clusterOf c)
  let images := (s.fnb fn).images.foldl (fun n i => n + i.size) 0
  let wgs := (tvals s.wgs).foldl (fun n w => if w.fn = fn ∧ w.ended = false ∧ lentAt w.core = true then n + w.imageSize else n) 0
  let others := (tvals s.launches).foldl (fun n x =>
    if x.fn = fn ∧ some x ≠ l then n + x.imageUnits (x.heldOn.filter lentAt).length else n) 0
  decide (16 + images + wgs + others + more ≤ (s.fnb fn).ten.savesz.toNat)

/-- Units of the images that a launch adds on lent clusters; a pool adds one workgroup at a time. -/
def State.borrowUnits (s : State) (l : Launch) : Nat :=
  if l.kind = .pool then imageUnits l.regsOf l.needs.scr (recAcc l.lrec)
  else l.imageUnits ((pktRect l.packet).cores.filter (fun c => !s.isHome l.fn (clusterOf c))).length

/-- A launch may be placed on a cluster: a home cluster, or a lent one where its function borrows (R337). -/
def State.mayUse (s : State) (l : Launch) (k : Nat) : Bool :=
  s.isHome l.fn k || ((s.fnb l.fn).ten.borrow && s.lent k && s.saveRoom l.fn (s.borrowUnits l) (some l))

/-- The workgroups that borrow a cluster. -/
def State.borrowers (s : State) (k : Nat) : List Nat :=
  ((s.wgsAt k).filter (fun p => !s.isHome p.2.fn k)).map Prod.fst

/-! ### Arrival and departure of a function (R327, R329, R331) -/

/-- The planes kept of the functions other than `fn`. -/
def Core.savedBut (c : Core) (fn : Nat) : List (Nat × Plane × Plane) := c.saved.filter (fun p => p.1 != fn)
/-- The planes kept of a function, empty if it never had any. -/
def Core.savedOf (c : Core) (fn : Nat) : Plane × Plane := ((c.saved.find? (fun p => p.1 == fn)).map Prod.snd).getD ({}, {})

/-- A function's workgroup arrives: a first tenant finds its own planes as it left them, or empty ones; a second tenant halves the core,
and both engine classes start a slice of the first. -/
def Core.arrive (c : Core) (fn : Nat) (now : W64) : Core :=
  let own := c.savedOf fn
  if c.tenants.contains fn then c
  else if c.tenants.isEmpty then
    { c with
      tenants := [fn], active := own.1, shadow := own.2, saved := c.savedBut fn, vecHold := 0, matHold := 0, vecAt := now, matAt := now }
  else
    { c with
      tenants := c.tenants ++ [fn], saved := c.savedBut fn ++ [(fn, own)], vecHold := 0, matHold := 0, vecAt := now, matAt := now }

/-- A function leaves with its last workgroup: its planes stay for its own return (R104); the other of two tenants holds the array from
then on. DEDUCED (assumption 50). -/
def Core.leave (c : Core) (fn : Nat) : Core :=
  if !c.tenants.contains fn then c
  else match c.tenants.filter (fun f => f != fn) with
    | [] => { c with tenants := [], saved := c.savedBut fn ++ [(fn, c.active, c.shadow)], portHeld := c.portHeld.filter (fun f => f != fn) }
    | o :: _ =>
      let p := c.planes o
      { c with tenants := [o], active := p.1, shadow := p.2, saved := (c.savedBut fn).filter (fun q => q.1 != o) ++ [(fn, c.planes fn)],
               vecHold := 0, matHold := 0,
               portHeld := c.portHeld.filter (fun f => f != fn) }

/-- The L1 after a function's arrival beside another: the first tenant's lines may go with the ways it loses (R328). -/
def Core.splitL1 (c : Core) : Core := if c.tenants.length = 2 then { c with l1 := [] } else c

/-! ### Scratchpad (R187, R277, R329) -/

/-- The least base at which `size` bytes touch none of the ranges in use. DESIGN CHOICE (assumption 33). -/
def firstFit (used : List (Nat × Nat)) (size : Nat) : Nat :=
  let free (b : Nat) : Bool := used.all (fun u => decide (b + size ≤ u.1 ∨ u.1 + u.2 ≤ b))
  if size = 0 then 0
  else ((0 :: used.map (fun u => u.1 + u.2)).filter free).foldl (fun m b => min m b) (used.foldl (fun m u => max m (u.1 + u.2)) 0)

/-- One KiB of an area passes to a workgroup of a function: zeroed when another function last held it (R329), with the new
generation. -/
def Core.takeBlock (fn gen : Nat) (c : Core) (b : Nat) : Core :=
  let keep := tget? c.blkFn b = some fn
  { c with
    scr := if keep then c.scr else cwrite c.scr (1024 * b) (zeroBytes 1024)
    scrPois := if keep then c.scrPois else c.scrPois.filter (fun u => u / 64 != b)
    blkFn := tset c.blkFn b fn
    blkGen := tset c.blkGen b gen }

/-- Assigns an area of a core's scratchpad. -/
def Core.assign (c : Core) (fn gen base size : Nat) : Core := (spanN (base / 1024) (size / 1024)).foldl (Core.takeBlock fn gen) c

/-! ### Starting a workgroup (R238, R282) -/

/-- A thread at the start of its workgroup (R39, R50, R282). -/
def initThread (r : List Byte) (nregs : Nat) : Thread := { nregs := nregs, fpctl := recFpctl r, abase := recAbase r }

/-- A seed at the start of a workgroup: the product modulo 2^32, 1 where that is 0 (R65, R120). -/
def startSeed (k n : Nat) : W32 := let x : W32 := BitVec.ofNat 32 (k * n); if x = 0#32 then 1#32 else x

/-- The role of a gang's group, its number within the role and the role's groups. -/
def roleOf : List Role → Nat → Nat → Option (Nat × Nat × Role)
  | [], _, _ => none
  | r :: rs, i, k => if k < r.groups then some (i, k, r) else roleOf rs (i + 1) (k - r.groups)

/-- The threads of a workgroup of a launch. -/
def Launch.threads (l : Launch) (g : Nat) : Tab Thread :=
  (upTo l.needs.thr).map (fun t =>
    let seed := startSeed 0x9E3779B9 (2048 * g + t + 1)
    (t, match roleOf l.roles 0 (t / 32) with
        | some (i, k, r) => { initThread l.lrec r.regs with role := i, rgrp := k, rgrps := r.groups, srseed := seed }
        | none => { initThread l.lrec (recRegs l.lrec) with srseed := seed }))

/-- The entry program counter of a group of a launch (R282, R289). -/
def Launch.entry (l : Launch) (k : Nat) : W64 :=
  match roleOf l.roles 0 k with
  | some (_, _, r) => r.pc
  | none => recPc l.lrec

/-- Every entry program counter of a launch. -/
def Launch.entries (l : Launch) : List W64 := if l.roles.isEmpty then [recPc l.lrec] else l.roles.map (·.pc)

/-- Where a workgroup stands: core, index, local index, position and rectangle. -/
structure Spot where
  core : Nat
  g    : Nat
  wgl  : Nat
  lx   : Nat
  ly   : Nat
  lw   : Nat
  lh   : Nat
deriving DecidableEq, Repr

/-- A workgroup at its start. -/
def Launch.wg (l : Launch) (id gen sbase : Nat) (p : Spot) : Wg :=
  { core := p.core, fn := l.fn, launch := id, kind := l.kind, g := p.g, wgl := p.wgl, lx := p.lx, ly := p.ly, lw := p.lw, lh := p.lh,
    depth := pktDepth l.packet, arg := pktArg l.packet, queue := l.queue, qidx := l.qidx, nthr := l.needs.thr,
    threads := l.threads p.g, mseed := startSeed 0x85EBCA6B (p.g + 1), sbase := sbase, ssize := l.needs.scr, gen := gen,
    nrows := recAcc l.lrec, fmt := l.fmts,
    ovf := recOvf l.lrec, rfage := recRfage l.lrec }

/-- The generation that an area gets: the least of 8 bits that no part of it has and no write in flight to the core carries (R187), else
the least that none in flight carries. DESIGN CHOICE (assumption 134). -/
def State.newGen (s : State) (core base size : Nat) : Nat :=
  let old := (spanN (base / 1024) (size / 1024)).map (fun b => tgetD (s.core core).blkGen b 0)
  ((s.freeGen core (fun g => !old.contains g)).or (s.freeGen core (fun _ => true))).getD 0

/-- A workgroup placed while its queue is exhausted is to be halted (R300). -/
def State.haltSpent (s : State) (wid : Nat) (w : Wg) : State :=
  if (s.queue w.fn w.queue).exhausted then { s with halts := s.halts ++ [.wgs [wid] .energy] } else s

/-- Puts a workgroup on its core: the function arrives, the scratchpad area is assigned with a new generation (R187). -/
def State.placeWg (s : State) (mk : Nat → Nat → Wg) : Nat × State :=
  let (wid, s1) := s.newId
  let w0 := mk 0 0
  let used := ((tvals s.wgs).filter (fun w => w.core == w0.core && w.ssize != 0)).map (fun w => (w.sbase, w.ssize))
  let base := firstFit used w0.ssize
  let gen := s.newGen w0.core base w0.ssize
  let w := mk gen base
  (wid, (s1.modCore w.core (fun c =>
    let c1 := if c.tenants.contains w.fn then c else (c.arrive w.fn s.now).splitL1
    c1.assign w.fn gen w.sbase w.ssize)).setWg wid w |>.haltSpent wid w)

/-- Adds a group of threads of one quadrant, stamped with the present time. -/
def State.formGroup (s : State) (core wid sub : Nat) (pc : W64) (tids : List Nat) : State :=
  match tids with
  | [] => s
  | t :: _ =>
    let quad := t / 32 % 4
    let (id, s1) := s.newId
    s1.setGroup id (s.readied
      { core := core, wg := wid, quad := quad, tids := tids, pc := pc, rstart := pc, stamp := s.now, sub := sub,
        place := s.newPlace core quad, activeAt := s.cycles, lastIssue := s.cycles })

/-- The threads of group `k` of a workgroup of `n` threads (R238). -/
def groupTids (n k : Nat) : List Nat := (spanN (32 * k) 32).filter (fun t => decide (t < n))

/-- Groups the live threads of a workgroup by index and starts them (R238). -/
def State.startGroups (s : State) (wid : Nat) (pc : Nat → W64) : State :=
  match s.wg? wid with
  | none => s
  | some w => (upTo ((w.nthr + 31) / 32)).foldl (fun t k =>
      t.formGroup w.core wid k (pc k) ((groupTids w.nthr k).filter (fun i => (w.thread i).st == .live))) s

/-- Starts one workgroup of a launch; a Tatting workgroup starts idle (R288). -/
def State.startWg (s : State) (id : Nat) (l : Launch) (p : Spot) : State :=
  let (wid, s1) := s.placeWg (fun gen base => l.wg id gen base p)
  if l.kind = .tatting then
    s1.modWg wid (fun w => { w with threads := w.threads.map (fun q => (q.1, { q.2 with st := .tdone })) })
  else s1.startGroups wid l.entry

/-- The places of a launch's workgroups on one cluster (R282). -/
def Launch.spots (l : Launch) (k : Nat) : List Spot :=
  let r := pktRect l.packet
  let n := pktWgpc l.packet
  ((upTo r.cores.length).zip r.cores).flatMap (fun q =>
    if clusterOf q.2 = k then
      (upTo n).map (fun j => { core := q.2, g := q.1 * n + j, wgl := j, lx := q.1 % r.w, ly := q.1 / r.w, lw := r.w, lh := r.h })
    else [])

/-! ### Resuming in place (R377) -/

/-- The groups of a workgroup. -/
def State.groupsOf (s : State) (wid : Nat) : List (Nat × Group) := s.groups.filter (fun p => p.2.wg == wid)

/-- A halted group goes on. -/
def Group.resume (now : W64) (cycles : Nat) (g : Group) : Group :=
  { g with
    readyAt := cycles
    wait := match g.wait with
      | .sleep left fl => .sleep (now + left) fl
      | .pwait _ _ => .ready
      | w => w }

/-- Threads filed in bins are filed again, with the present as their filing time. -/
def Bin.refile (wid cycles : Nat) (now : W64) (b : Bin) : Bin :=
  if b.wg = wid then { b with ents := b.ents.map (fun e => { e with cyc := cycles, time := now }) } else b

/-- A workgroup that was halted for a reason resumes in place. -/
def State.resumeWg (how : Held) (s : State) (wid : Nat) : State :=
  match s.wg? wid with
  | none => s
  | some w =>
    if w.held = some how then
      let s1 := (s.groupsOf wid).foldl (fun t q => t.setGroup q.1 (q.2.resume s.now s.cycles)) s
      (s1.setWg wid { w with held := none }).modCore w.core (fun c =>
        { c with bins := c.bins.map (fun (b : Nat × Bin) => (b.1, b.2.refile wid s.cycles s.now)) })
    else s

/-! ### Leaving a core -/

/-- Takes a workgroup off its core; the last of its function takes the function with it. -/
def State.removeWg (s : State) (wid : Nat) : State :=
  match s.wg? wid with
  | none => s
  | some w =>
    let s1 := (s.groups.filter (fun p => p.2.wg == wid)).foldl (fun t p => t.dropGroup p.1) (s.delWg wid)
    let s2 := s1.modCore w.core (fun c => { c with bins := c.bins.filter (fun b => b.2.wg != wid) })
    if s2.wgs.any (fun p => p.2.core == w.core && p.2.fn == w.fn) then s2
    else ((s2.wgs.filter (fun p => p.2.core == w.core)).map Prod.fst).foldl (State.resumeWg .slice)
      (s2.modCore w.core (fun c => c.leave w.fn))

/-- Waiting packets are tried again (R280). -/
def State.unblock (s : State) : State := { s with launches := s.launches.map (fun p => (p.1, { p.2 with blocked := false })) }

end Sys2Proof.Machine
end

