-- ==== Sys2Proof/Machine/Coherence.lean ====
section
/-! DEFINITION. Coherence events (R139 to R147), the walks and invalidations of translations (R165 to R168, R308 to R312), remote requests
(R322), and agents that stop answering (R385, R386). -/

namespace Sys2Proof.Machine

/-! ### Reads and leases (R141, R142) -/

/-- A load of the core on the line that asks the home for a lease: tracked, not held back, in order, not answered by the L1. -/
def State.asksLease (s : State) (core l : Nat) (p : PLoad) : Bool :=
  p.acc.atCore == some core && p.acc.tgt.base / 64 == l && !s.staleAcc p.acc && !p.acc.again && p.acc.arrived.isNone &&
    s.ordOk ⟨p.acc, true, false, false⟩ && !s.heldBack p.acc && s.unheld p.acc && !s.l1Answers p.acc && !s.ownSupply p.acc

/-- Length of a read lease (Table 6.3). DEDUCED (assumption 73). -/
def leaseLength (h : Nat) : Nat := if h = 0 then 16 else if h = 1 then 64 else 256

/-- The home can grant a lease of the line to the core. -/
def State.mayLease (s : State) (core l : Nat) : Bool :=
  s.loads.any (fun p => s.asksLease core l p.2) && !s.readWaits l (some core) && !s.writeWaits l

/-- H after a lease request: 1 on a line that enters the slice; else it rises when the previous lease expired with no write having waited on it. -/
def Line.askedHist (x : Line) (now : W64) : Nat :=
  if !x.present then 1 else if x.expiry ≠ 0#64 ∧ x.expiry ≤ now ∧ !x.waited then min 2 (x.hist + 1) else x.hist

/-- Grants a lease: the home keeps the latest expiry, the L1 takes the line for the function that asked. -/
def State.grantLease (s : State) (core l : Nat) : State :=
  let x := s.line l
  let h := x.askedHist s.now
  let until_ := s.now + BitVec.ofNat 64 (leaseLength h)
  let fns := dedup' ((s.loads.filter (fun p => s.asksLease core l p.2)).map (fun p => p.2.acc.fn))
  let mark (p : PLoad) : PLoad := if s.asksLease core l p then { p with acc := { p.acc with missed := true } } else p
  let t := s.touch (fns.headD 0) l 0
  let x' := { t.line l with hist := h, expiry := if x.expiry < until_ then until_ else x.expiry, waited := false }
  { (t.setLine l x').modCore core (fun c => { c with l1 := fns.foldl (fun m f => tset m (l1Key f l) until_) c.l1 }) with
    loads := s.loads.map (fun (p : Nat × PLoad) => (p.1, mark p.2)) }

/-! ### Accesses that are translated again (R309, R316) -/

/-- What an access is checked for when it is translated again (R307). -/
def WrKind.need : WrKind → Need
  | .store _ | .copyUnit _ _ _ _ => needW
  | _ => needRW

/-- An access whose translation was dropped before it could leave is translated again, once its turn has come: the access with its new
target, or the fault that it meets; none while its walk waits. DEDUCED (assumption 137). -/
def State.retranslate (s : State) (v : OrdView) (need : Need) : Option (Except (Nat × Nat) Acc × State) :=
  let a := v.acc
  if !a.again || !s.ordOk v then none
  else match s.access a.agent a.fn (s.residency a.launch) a.va a.n need with
    | (.error .wait, _) => none
    | (.error (.fault cls sub), t) => some (.error (cls, sub), t)
    | (.ok r, t) => some (.ok { a with tgt := r.tgt, path := r.path, again := false, inc := tgetD t.incs r.agent 0,
                                       range := t.tagFor a.fn a.va r }, t)
/-- The same of a load, and of a write. -/
def State.loadAgain (s : State) (p : PLoad) : Option State :=
  (s.retranslate ⟨p.acc, true, false, false⟩ needR).map (fun q => match q with
    | (.ok a, t) => { t with loads := tset t.loads a.id { p with acc := a } }
    | (.error e, t) =>
      (({ t with loads := terase t.loads p.acc.id } : State).release p.acc p.dst p.acc.n).accFault p.acc e.1 e.2)
def State.writeAgain (s : State) (w : PWrite) : Option State :=
  (s.retranslate ⟨w.acc, w.kind.reads, true, false⟩ w.kind.need).map (fun q => match q with
    | (.ok a, t) => { t with writes := tset t.writes a.id { w with acc := a } }
    | (.error e, t) =>
      (({ t with writes := terase t.writes w.acc.id } : State).release w.acc w.kind.dst.1 w.kind.dst.2).accFault w.acc e.1 e.2)

/-- A pending load can return, be translated again or be queued at its home, or is dropped with its dead agent. -/
def State.mayReturn (s : State) (id : Nat) : Bool :=
  match tget? s.loads id with
  | some p => s.staleAcc p.acc || (s.loadAgain p).isSome || s.canLoad p || s.loadQueues p
  | none => false

/-- What becomes of a pending load. With one that was queued at its home the line's queue goes on. -/
def State.loadReturns (s : State) (id : Nat) : State :=
  match tget? s.loads id with
  | some p =>
    if s.staleAcc p.acc then s.dropLoad p
    else if p.acc.again then (s.loadAgain p).getD s
    else if s.canLoad p then
      let t := s.returnLoad p
      (if p.acc.arrived.isSome then t.drainLine (p.acc.tgt.base / 64) (t.writes.length + 1) else t)
    else if s.loadQueues p then s.queueLoad p
    else s
  | none => s

/-! ### Writes (R139, R143) -/

/-- No access of a list is still to perform. -/
def State.allGone (s : State) (ids : List Nat) : Bool :=
  ids.all (fun i => (tget? s.writes i).isNone && (tget? s.loads i).isNone && (tget? s.picots i).isNone)

/-- The next write of a line can perform, or send its invalidations. -/
def State.headReady (s : State) (l : Nat) : Bool :=
  match s.nextWrite l with
  | some w => s.lineTakes l w
  | none => false

/-- A pending write may leave for its home. -/
def State.maySend (s : State) (w : PWrite) : Bool :=
  !w.acc.again && s.ordOk ⟨w.acc, w.kind.reads, true, false⟩ && !s.heldBack w.acc && s.unheld w.acc && s.allGone w.acc.after

/-- A pending write reaches its home or performs there, or is dropped with its dead agent. -/
def State.mayPerform (s : State) (id : Nat) : Bool :=
  match tget? s.writes id with
  | some w =>
    s.staleAcc w.acc || (s.writeAgain w).isSome ||
      (match w.acc.arrived, w.acc.tgt with
       | some _, .glob pa _ => (s.nextWrite (pa / 64)).map (·.acc.id) == some id && s.headReady (pa / 64)
       | _, _ => s.maySend w)
  | none => false

/-- Lets a line's queue go on. -/
def State.drain (s : State) (l : Nat) : State := s.drainLine l (s.writes.length + 1)

/-- What becomes of the write. -/
def State.writePerforms (s : State) (id : Nat) : State :=
  match tget? s.writes id with
  | some w =>
    if s.staleAcc w.acc then
      (match w.acc.tgt with
       | .glob pa _ => (s.dropWrite w).drain (pa / 64)
       | _ => s.dropWrite w)
    else if w.acc.again then (s.writeAgain w).getD s
    else (match w.acc.arrived, w.acc.tgt with
      | some _, .glob pa _ => s.drain (pa / 64)
      | _, _ => s.arrive w)
  | none => s

/-! ### Ownership (R146) -/

/-- An atomic of the core that may execute at the core under an ownership lease of the line. -/
def State.wantsOwner (s : State) (core l : Nat) (w : PWrite) : Bool :=
  w.acc.atCore == some core && w.acc.tgt.base / 64 == l && w.acc.th.isSome && w.kind.reads && !s.staleAcc w.acc &&
    (if w.acc.arrived.isSome then (s.nextWrite l).map (·.acc.id) == some w.acc.id else (s.waitingAt l).isEmpty && s.maySend w)

/-- The home can grant an ownership lease: every read lease has expired, and nothing else holds the line. -/
def State.mayOwn (s : State) (core l : Nat) : Bool :=
  let x := s.line l
  decide (x.expiry ≤ s.now) && x.owner.isNone && decide (x.far = 0) && x.block.isNone && x.await.isNone && x.hold.isNone &&
    x.invFor.isNone && decide (x.pendEv = 0) && (s.sharers l).isEmpty && s.writes.any (fun p => s.wantsOwner core l p.2)

/-- The function whose atomic takes an ownership lease. -/
def State.ownerFn (s : State) (core l : Nat) : Nat :=
  match s.writes.find? (fun p => s.wantsOwner core l p.2) with
  | some p => p.2.acc.fn
  | none => 0

/-- Grants an ownership lease (R146). -/
def State.grantOwner (s : State) (core l : Nat) : State :=
  (s.touch (s.ownerFn core l) l 0).modLine l (fun x => { x with owner := some core, ownedAt := s.now, ownDirty := false })

/-! ### Invalidations (R166, R167) -/

/-- An agent holds a translation through the line. -/
def State.holdsPath (s : State) (agent l : Nat) : Bool := s.tlb.any (fun t => t.agent == agent && t.path.contains l)

/-- An access that no drain waits for: it is queued at a line that a migration holds (R316), or at the line that is being
invalidated. -/
def State.settledAt (s : State) (l : Nat) (a : Acc) : Bool := s.parked a || (a.placeAt l).isSome
/-- A thread's access that cannot leave before one that is so queued: its translation is dropped, and made again when it leaves. -/
def State.behindQueue (s : State) (l : Nat) (v : OrdView) : Bool :=
  match v.acc.th with
  | some r => v.acc.arrived.isNone && !s.ordOk v &&
      (s.accessesOf r).any (fun e => decide (e.acc.id < v.acc.id) && s.settledAt l e.acc)
  | none => false
/-- What a drain of the agent waits for: an access translated through the line that has neither performed nor been queued.
DEDUCED (assumption 67). -/
def State.undrained (s : State) (agent l : Nat) (v : OrdView) : Bool :=
  v.acc.agent == agent && v.acc.through l && !s.settledAt l v.acc && !s.behindQueue l v

/-- Every access that the agent had translated through the line has performed, or is queued, or waits behind one of its thread that
is. DEDUCED (assumption 67). DEDUCED (assumption 137). -/
def State.drained (s : State) (agent l : Nat) : Bool :=
  !s.loads.any (fun p => s.undrained agent l ⟨p.2.acc, true, false, false⟩) &&
    !s.writes.any (fun p => s.undrained agent l ⟨p.2.acc, p.2.kind.reads, true, false⟩)

/-- The agent has received the invalidation and has translations to drop. -/
def State.mayInvalidateAt (s : State) (agent l : Nat) : Bool := (s.line l).inval.contains agent && s.holdsPath agent l
/-- The agent may acknowledge. -/
def State.mayAck (s : State) (agent l : Nat) : Bool :=
  ((s.line l).inval.contains agent && !s.holdsPath agent l && s.drained agent l) ||
    (!(s.line l).inval.contains agent && s.late.contains (agent, l))

/-- An agent drops every translation through a line. -/
def State.dropPath (s : State) (agent l : Nat) : State :=
  { s with tlb := s.tlb.filter (fun t => !(t.agent == agent && t.path.contains l)) }

/-- A message of an incarnation that is past: the home drops it and counts it (R386). -/
def State.dropLate (s : State) (agent l : Nat) : State :=
  { s with late := s.late.erase (agent, l), err := { s.err with stale := s.err.stale + 1#64 } }

/-- What has not left of an agent's accesses through a line loses its translation. -/
def Acc.forget (agent l : Nat) (a : Acc) : Acc :=
  if a.agent = agent ∧ a.through l = true ∧ a.arrived = none then { a with again := true, path := [] } else a
def State.forgetPath (s : State) (agent l : Nat) : State :=
  { s with
    loads := s.loads.map (fun (p : Nat × PLoad) => (p.1, { p.2 with acc := p.2.acc.forget agent l }))
    writes := s.writes.map (fun (p : Nat × PWrite) => (p.1, { p.2 with acc := p.2.acc.forget agent l })) }

/-- The home counts an acknowledgement and forgets the agent; with the last the write performs. An acknowledgement that a dead agent owed
is dropped. -/
def State.ackFrom (s : State) (agent l : Nat) : State :=
  if (s.line l).inval.contains agent then
    (((s.forgetPath agent l).modLine l (fun x => { x with inval := x.inval.filter (fun a => a != agent) })).disenrol agent l).drain l
  else s.dropLate agent l

/-! ### Walks -/

/-- An agent that exists: a translation agent of Table 11.6. -/
def agentNamed (agent : Nat) : Bool := decide (agent < 1200 + Config.numClusters) || decide (1300 ≤ agent ∧ agent < 1316)
/-- An agent is an export cache. -/
def isExport (agent : Nat) : Bool := decide (1300 ≤ agent)

/-- The walk of an agent can be completed now. -/
def State.mayWalk (s : State) (agent fn va : Nat) : Bool :=
  agentNamed agent && decide (fn < Config.numFns) && decide (va < (if isExport agent then 2 ^ 47 else 2 ^ 55)) &&
    !s.retired.contains agent && (match (s.lookup agent fn (isExport agent) va).1 with | .error .wait => false | _ => true)

/-! ### Agents that stop answering (R385) -/

/-- Where an agent is. -/
inductive AgentPlace where
  | core (c : Nat)
  | bobbin (k : Nat)
  | port

def agentPlace (agent : Nat) : AgentPlace :=
  if agent < 1200 then .core (agent % 400)
  else if agent < 1300 then .bobbin (agent - 1200)
  else if agent < 2000 then .port
  else if agent < 2400 then .core (agent - 2000)
  else .bobbin (agent - 2400)

/-- Every task resident on a core ends with a class. -/
def State.endTasksOn (s : State) (core cls : Nat) : State :=
  let on := s.wgs.filter (fun p => p.2.core == core && !p.2.ended)
  (dedup' (on.map (fun p => p.2.launch))).foldl (fun t l =>
    let g := match on.find? (fun p => p.2.launch == l) with | some p => p.2.g | none => 0
    t.taskFault l { cls := cls, core := some core, wg := BitVec.ofNat 32 g }) s

/-- The unit that a retired agent takes out of service. -/
def agentUnit (agent : Nat) : Retiree :=
  match agentPlace agent with
  | .core c => .core c
  | .bobbin k => .bobbin k
  | .port => .port (agent - agExport 0)

/-- What a dead agent owes the homes: acknowledgements, and the return of lines that its L1 owns. -/
def State.owedBy (s : State) (agent : Nat) : List (Nat × Nat) :=
  (s.lines.filter (fun p => p.2.inval.contains agent || p.2.owner.map agL1 == some agent)).map (fun p => (agent, p.1))

/-- An agent loses what it holds: translations and their registrations, leases, acknowledgements due; lines that its L1 owned are
poisoned. What it owed may still come, and is dropped then (R386). -/
def State.stripAgent (s : State) (agent : Nat) : State :=
  let strip := fun (p : Nat × Line) => ((p.1, { p.2 with
      inval := p.2.inval.filter (fun a => a != agent),
      owner := (if p.2.owner.map agL1 = some agent then none else p.2.owner) }) : Nat × Line)
  let s1 := { s with
    tlb := s.tlb.filter (fun t => t.agent != agent),
    late := s.late ++ s.owedBy agent,
    lines := s.lines.map strip }
  let s1 := (tkeys s1.filters).foldl (fun t f =>
    if agentCluster agent = f % Config.numClusters then t.disenrol agent (f / Config.numClusters) else t) s1
  let owned := (s.lines.filter (fun p => p.2.owner.map agL1 == some agent)).map Prod.fst
  let s2 := owned.foldl State.poisonLine s1
  match agentPlace agent with
  | .core c => if agent = agL1 c then s2.modCore c (fun y => { y with l1 := [] }) else s2
  | _ => s2

/-- The tasks on a dead agent's core end; a Bobbin core's invocation is aborted without counting. -/
def State.endAtAgent (s : State) (agent : Nat) : State :=
  match agentPlace agent with
  | .core c => s.endTasksOn c 0x15
  | .bobbin k => s.endInvocation k
  | .port => s

/-- The self-test of a reset agent: the device says whether it passes; one that fails is retired at the next boot.
DESIGN CHOICE (assumption 69). -/
def State.testAgent (s : State) (agent : Nat) : State :=
  let (k, s1) := s.choose 2
  if k = 0 then s1 else { s1 with boot := { s1.boot with retire := s1.boot.retire ++ [agentUnit agent] } }

/-- The events queued at a Bobbin core take their default actions. -/
def State.emptyQueue (s : State) (k : Nat) : State :=
  (s.bob k).queue.foldl State.defaultAction (s.modBob k (fun b => { b with queue := [] }))

/-- An agent is retired at once: its unit takes no further work, and a Bobbin core's events take their default actions (R385). -/
def State.retireAgent (s : State) (agent : Nat) : State :=
  let s1 := { s with retired := s.retired ++ [agent], boot := { s.boot with retire := s.boot.retire ++ [agentUnit agent] } }
  match agentPlace agent with
  | .bobbin k => s1.emptyQueue k
  | _ => s1

/-- The scrub that follows the declaration of a dead agent: its incarnation advances; at 255 it is retired instead. -/
def State.scrubAgent (s : State) (agent : Nat) : State :=
  let n := tgetD s.incs agent 0
  let s1 := (s.stripAgent agent).endAtAgent agent
  let s2 := if n < 255 then ({ s1 with incs := tset s1.incs agent (n + 1) }).testAgent agent
    else s1.retireAgent agent
  (tkeys s2.lines).foldl State.drain s2

/-- The L1 of a dead agent that still owes the return of a line. -/
def State.lateReturn (s : State) (l : Nat) : Option Nat :=
  (s.late.find? (fun q => q.2 == l && decide (agL1 0 ≤ q.1 ∧ q.1 < agBobCore 0))).map Prod.fst

/-- The owner returns the line; a return that a dead L1 owed is dropped (R386). -/
def State.ownerReturns (s : State) (l : Nat) : State :=
  if (s.line l).owner.isSome then (s.modLine l (fun x => { x with owner := none })).drain l
  else match s.lateReturn l with
    | some a => s.dropLate a l
    | none => s

/-- An owner has not returned the line 10 µs after its lease's end. -/
def State.ownerLost (s : State) (l : Nat) : Option Nat :=
  let x := s.line l
  match x.owner with
  | some c => if 10064 ≤ (s.now - x.ownedAt).toNat then some c else none
  | none => none

/-! ### Remote requests (R145, R322) -/

/-- Bytes and needs of a remote operation, and the size its operands must have. -/
def remoteNeed (op : RemoteOp) : Nat × Need :=
  match op with
  | .read n => (n, needR)
  | .write bs _ => (bs.length, needW)
  | .red _ _ bs _ => (bs.length, needRW)
  | .rmw opc _ _ => (if 10 ≤ opc then 8 else 4, needRW)
  | .cas w _ _ => (if w then 8 else 4, needRW)
  | .sigdec _ => (8, needRW)

/-- A request as an instruction or a copy of the other device can have made it: inside the window, inside a line, an atomic of a size and
alignment of its own. -/
def remoteOk (rq : RemoteReq) : Bool :=
  let n := (remoteNeed rq.op).1
  decide (rq.off < 2 ^ 47) && decide (1 ≤ n) && rq.off / 64 == (rq.off + n - 1) / 64 &&
    (match rq.op with
     | .read _ => true
     | .write _ _ => true
     | .red _ tag _ _ => decide (1 ≤ tag ∧ tag ≤ 5) && (n == 2 || n == 4) && rq.off % n == 0
     | .rmw opc _ _ => decide (opc < 14) && rq.off % n == 0
     | _ => rq.off % n == 0)

/-- What a request becomes at its line. -/
def remoteKind (op : RemoteOp) : WrKind :=
  match op with
  | .read _ => .store []
  | .write bs bad => if bad then .copyUnit 0 0 bs true else .store bs
  | .red max tag bs bad => .copyRed 0 0 ⟨max, tag⟩ bs bad
  | .rmw opc v n => .rmw opc v none 0 n
  | .cas w c v => .cas w c v none 0
  | .sigdec x => .sigdec x none

/-- The Bride links in service: Link 0 in reduced service, and in full service those that training has brought up (R402, Table 15.5). -/
def Boot.linksUp (b : Boot) : List Nat := if b.service = 2 then insertNat b.links 0 else [0]
/-- The port at which a request arrives: any link in service whose export cache is, the pod's own choice (R385). -/
def State.inPort (s : State) : Option Nat × State :=
  match s.boot.linksUp.filter (fun p => !s.retired.contains (agExport p)) with
  | [] => (none, s)
  | [p] => (some p, s)
  | ps => let (k, t) := s.choose ps.length; (some (ps.getD k 0), t)

/-- A request arrives: it is refused, or goes to its home on this device. None while its walk waits, or with no port to arrive at.
DESIGN CHOICE (assumption 71). -/
def State.remoteArrives (s : State) (dev fn : Nat) (rq : RemoteReq) : Option State :=
  let (n, need) := remoteNeed rq.op
  match s.inPort with
  | (none, _) => none
  | (some port, s0) =>
  match s0.exportAccess port fn dev rq.off need with
  | (.error .wait, _) => none
  | (.error _, s1) => some (s1.emit (.remoteReply dev false false []))
  | (.ok t, s1) =>
    let (id, s2) := s1.newId
    let acc : Acc :=
      { id := id, th := none, core := 0, fn := fn, launch := 0, pc := 0#64, va := rq.off, tgt := t.tgt, n := n, ord := .relaxed,
        agent := t.agent, inc := tgetD s1.incs t.agent 0, path := t.path, reply := some dev }
    some (match rq.op with
      | .read _ => { s2 with loads := tset s2.loads id { acc := acc, dst := none, sext := false, tag := 0 } }
      | op => { s2 with writes := tset s2.writes id { acc := acc, kind := remoteKind op } })

/-! ### The meanings -/

/-- LOAD_RETURN (R175, R141, R143). -/
def execLoadReturn (id : Nat) (s : State) : Host.Outcome State Fault Refusal :=
  runEvent "LOAD_RETURN" (fun t => t.mayReturn id) (fun t => t.loadReturns id) s
/-- READ_LEASE_REQUEST (R141, R142). -/
def execReadLeaseRequest (core line : Nat) (s : State) : Host.Outcome State Fault Refusal :=
  runEvent "READ_LEASE_REQUEST" (fun t => t.mayLease core line) (fun t => t.grantLease core line) s
/-- WRITE_PERFORM (R139, R143). -/
def execWritePerform (id : Nat) (s : State) : Host.Outcome State Fault Refusal :=
  runEvent "WRITE_PERFORM" (fun t => t.mayPerform id) (fun t => t.writePerforms id) s
/-- LEASE_WAIT_END (R143). -/
def execLeaseWaitEnd (line : Nat) (s : State) : Host.Outcome State Fault Refusal :=
  runEvent "LEASE_WAIT_END" (fun t => t.headReady line) (fun t => t.drain line) s
/-- OWNERSHIP_GRANT (R146): the predictor's choice is whether this event happens. -/
def execOwnershipGrant (core line : Nat) (s : State) : Host.Outcome State Fault Refusal :=
  runEvent "OWNERSHIP_GRANT" (fun t => t.mayOwn core line)
    (fun t => t.grantOwner core line) s
/-- OWNERSHIP_RETURN (R146, R386). -/
def execOwnershipReturn (line : Nat) (s : State) : Host.Outcome State Fault Refusal :=
  runEvent "OWNERSHIP_RETURN" (fun t => (t.line line).owner.isSome || (t.lateReturn line).isSome)
    (fun t => t.ownerReturns line) s
/-- OWNERSHIP_RETURN_TIMEOUT (R385, Table 14.10). -/
def execOwnershipReturnTimeout (line : Nat) (s : State) : Host.Outcome State Fault Refusal :=
  runEvent "OWNERSHIP_RETURN_TIMEOUT" (fun t => (t.ownerLost line).isSome)
    (fun t => match t.ownerLost line with | some c => t.scrubAgent (agL1 c) | none => t) s
/-- FAR_ATOMIC_ACK (R147). -/
def execFarAtomicAck (line : Nat) (s : State) : Host.Outcome State Fault Refusal :=
  runEvent "FAR_ATOMIC_ACK" (fun t => decide ((t.line line).far ≠ 0))
    (fun t => (t.modLine line (fun x => { x with far := 0 })).drain line) s
/-- PAGE_WALK (R165, R304 to R308, R310, R312): a walk registers its agent for every line it reads, though it fail. -/
def execPageWalk (agent fn va : Nat) (s : State) : Host.Outcome State Fault Refusal :=
  runEvent "PAGE_WALK" (fun t => t.mayWalk agent fn va) (fun t => (t.lookup agent fn (isExport agent) va).2) s
/-- TRANSLATION_INVALIDATION (R166, R167). -/
def execTranslationInvalidation (agent line : Nat) (s : State) : Host.Outcome State Fault Refusal :=
  runEvent "TRANSLATION_INVALIDATION" (fun t => t.mayInvalidateAt agent line) (fun t => t.dropPath agent line) s
/-- INVALIDATION_ACK (R166). -/
def execInvalidationAck (agent line : Nat) (s : State) : Host.Outcome State Fault Refusal :=
  runEvent "INVALIDATION_ACK" (fun t => t.mayAck agent line) (fun t => t.ackFrom agent line) s
/-- INVALIDATION_ACK_TIMEOUT (R385, Table 14.10). -/
def execInvalidationAckTimeout (line agent : Nat) (s : State) : Host.Outcome State Fault Refusal :=
  runEvent "INVALIDATION_ACK_TIMEOUT"
    (fun t => (t.line line).inval.contains agent && decide (agent < agFront) &&
      decide (100000 ≤ (t.now - (t.line line).invAt).toNat))
    (fun t => t.scrubAgent agent) s
/-- REMOTE_REQUEST (R322, R323). -/
def execRemoteRequest (dev fn : Nat) (rq : RemoteReq) (s : State) : Host.Outcome State Fault Refusal :=
  runEvent "REMOTE_REQUEST"
    (fun t => decide (dev < 256 ∧ dev ≠ t.podid) && remoteOk rq && (t.remoteArrives dev fn rq).isSome)
    (fun t => (t.remoteArrives dev fn rq).getD t) s

end Sys2Proof.Machine
end

