-- ==== Sys2Proof/Machine/Shake.lean ====
section
/-! DEFINITION. SHAKE256 (R400, R401): the extendable-output function of FIPS 202 with a capacity of 512 bits. Its numbers are those of
that standard, to which the spec refers by name (assumption 90). -/

namespace Sys2Proof.Machine

/-- Rotates a lane left. -/
def rotL (x : W64) (n : Nat) : W64 := x.rotateLeft n

/-- Lane (x, y) of a state of 25 lanes. -/
def lane (a : List W64) (x y : Nat) : W64 := a.getD (x % 5 + 5 * (y % 5)) 0#64

/-- A state from its lanes. -/
def lanes (f : Nat → Nat → W64) : List W64 := (upTo 25).map (fun i => f (i % 5) (i / 5))

/-- Rotation of lane (x, y) in the second step of a round. -/
def rotOffsets : List Nat :=
  [0, 1, 62, 28, 27, 36, 44, 6, 55, 20, 3, 10, 43, 25, 39, 41, 45, 15, 21, 8, 18, 2, 61, 56, 14]

/-- Round constants. -/
def roundConsts : List W64 :=
  [0x0000000000000001#64, 0x0000000000008082#64, 0x800000000000808A#64, 0x8000000080008000#64, 0x000000000000808B#64,
   0x0000000080000001#64, 0x8000000080008081#64, 0x8000000000008009#64, 0x000000000000008A#64, 0x0000000000000088#64,
   0x0000000080008009#64, 0x000000008000000A#64, 0x000000008000808B#64, 0x800000000000008B#64, 0x8000000000008089#64,
   0x8000000000008003#64, 0x8000000000008002#64, 0x8000000000000080#64, 0x000000000000800A#64, 0x800000008000000A#64,
   0x8000000080008081#64, 0x8000000000008080#64, 0x0000000080000001#64, 0x8000000080008008#64]

/-- One round: column parity, rotation and transposition of lanes, the non-linear step, the constant. -/
def keccakRound (a : List W64) (rc : W64) : List W64 :=
  let c := (upTo 5).map (fun x => lane a x 0 ^^^ lane a x 1 ^^^ lane a x 2 ^^^ lane a x 3 ^^^ lane a x 4)
  let d := (upTo 5).map (fun x => c.getD ((x + 4) % 5) 0#64 ^^^ rotL (c.getD ((x + 1) % 5) 0#64) 1)
  let t := lanes (fun x y => rotL (lane a x y ^^^ d.getD x 0#64) (rotOffsets.getD (x + 5 * y) 0))
  -- lane (x, y) goes to (y, 2x + 3y); so lane (u, v) comes from (u + 3v, u)
  let b := lanes (fun u v => lane t (u + 3 * v) u)
  let e := lanes (fun x y => lane b x y ^^^ (~~~ lane b (x + 1) y &&& lane b (x + 2) y))
  e.set 0 (e.getD 0 0#64 ^^^ rc)

def keccak (a : List W64) : List W64 := roundConsts.foldl keccakRound a

/-- Bytes of a block. -/
def shakeRate : Nat := 136

/-- Absorbs one block. -/
def absorb (a : List W64) (blk : List Byte) : List W64 :=
  keccak ((upTo 25).map (fun i => if i < 17 then a.getD i 0#64 ^^^ BitVec.ofNat 64 (recVal blk (8 * i) 8) else a.getD i 0#64))

/-- Cuts bytes into blocks of the rate. -/
def blocksOf (bs : List Byte) (n : Nat) : List (List Byte) := (upTo n).map (fun i => (bs.drop (shakeRate * i)).take shakeRate)

/-- The message with its suffix and padding. -/
def shakePad (m : List Byte) : List Byte :=
  let n := m.length / shakeRate + 1
  let body := m ++ [0x1F#8] ++ zeroBytes (shakeRate * n - m.length - 1)
  body.set (shakeRate * n - 1) (body.getD (shakeRate * n - 1) 0#8 ||| 0x80#8)

/-- The bytes of the first 17 lanes. -/
def squeeze (a : List W64) : List Byte := (a.take 17).flatMap (fun x => leBytes 8 x.toNat)

/-- Output of `k` blocks. -/
def squeezes : Nat → List W64 → List Byte
  | 0, _ => []
  | k + 1, a => squeeze a ++ squeezes k (keccak a)

/-- SHAKE256 with an output of `n` bytes. PRESUMED (assumption 90). -/
def shake256 (m : List Byte) (n : Nat) : List Byte :=
  let p := shakePad m
  let a := (blocksOf p (p.length / shakeRate)).foldl absorb (List.replicate 25 0#64)
  (squeezes (n / shakeRate + 1) a).take n

end Sys2Proof.Machine
end

