-- ==== Sys2Proof/Machine/Ed448.lean ====
section
/-! DEFINITION. Pure Ed448 with an empty context (R400, R401): the signature scheme of RFC 8032, to which the spec refers by name
(assumption 90). Numbers are residues modulo the field prime; points are projective. -/

namespace Sys2Proof.Machine

/-- The field prime, 2^448 − 2^224 − 1. -/
def edP : Nat := 2 ^ 448 - 2 ^ 224 - 1
/-- The order of the base point. -/
def edL : Nat := 2 ^ 446 - 13818066809895115352007386748515426880336692474882178609894547503885
/-- The curve constant −39081. -/
def edD : Nat := edP - 39081
/-- The base point. -/
def edBx : Nat :=
  224580040295924300187604334099896036246789641632564134246125461686950415467406032909029192869357953282578032075146446173674602635247710
def edBy : Nat :=
  298819210078481492676017930443930673437544040154080242095928241372331506189835876003536878655418784733982303233503462500531545062832660

def fadd (a b : Nat) : Nat := (a + b) % edP
def fsub (a b : Nat) : Nat := (a + (edP - b % edP)) % edP
def fmul (a b : Nat) : Nat := a * b % edP

/-- Powers by squaring: the `n` low bits of the exponent. -/
def fpowGo : Nat → Nat → Nat → Nat → Nat
  | 0, _, _, r => r
  | n + 1, b, e, r => fpowGo n (fmul b b) (e / 2) (if e % 2 = 1 then fmul r b else r)
def fpow (b e : Nat) : Nat := fpowGo 448 b e 1
def finv (a : Nat) : Nat := fpow a (edP - 2)

/-- A point in projective coordinates. -/
structure EdPt where
  x : Nat
  y : Nat
  z : Nat
deriving DecidableEq, Repr

def edZero : EdPt := ⟨0, 1, 1⟩
def edBase : EdPt := ⟨edBx, edBy, 1⟩

/-- Addition of points; the formula is complete. -/
def edAdd (p q : EdPt) : EdPt :=
  let a := fmul p.z q.z
  let b := fmul a a
  let c := fmul p.x q.x
  let d := fmul p.y q.y
  let e := fmul edD (fmul c d)
  let f := fsub b e
  let g := fadd b e
  let h := fmul (fadd p.x p.y) (fadd q.x q.y)
  ⟨fmul (fmul a f) (fsub (fsub h c) d), fmul (fmul a g) (fsub d c), fmul f g⟩

/-- A multiple of a point: the `n` low bits of the scalar. -/
def edMulGo : Nat → EdPt → Nat → EdPt → EdPt
  | 0, _, _, r => r
  | n + 1, p, k, r => edMulGo n (edAdd p p) (k / 2) (if k % 2 = 1 then edAdd r p else r)
def edMul (k : Nat) (p : EdPt) : EdPt := edMulGo 456 p k edZero

/-- Equality of points. -/
def edEq (p q : EdPt) : Bool := fmul p.x q.z == fmul q.x p.z && fmul p.y q.z == fmul q.y p.z

/-- The 57 bytes of a point. -/
def edEncode (p : EdPt) : List Byte :=
  let i := finv p.z
  leBytes 57 (fmul p.y i + (if fmul p.x i % 2 = 1 then 2 ^ 455 else 0))

/-- The point that 57 bytes encode. -/
def edDecode (bs : List Byte) : Option EdPt :=
  let v := leVal bs
  let sign := v / 2 ^ 455 % 2
  let y := v % 2 ^ 455
  if bs.length ≠ 57 ∨ edP ≤ y then none
  else
    let u := fsub (fmul y y) 1
    let w := fsub (fmul edD (fmul y y)) 1
    let u3w := fmul (fmul u (fmul u u)) w
    let x := fmul u3w (fpow (fmul (fmul u3w (fmul u u)) (fmul w w)) ((edP - 3) / 4))
    if fmul w (fmul x x) ≠ u then none
    else if x = 0 ∧ sign = 1 then none
    else some ⟨if x % 2 = sign then x else edP - x, y, 1⟩

/-- The hash of the scheme: its prefix, no flag, an empty context. -/
def edHash (bs : List Byte) : Nat :=
  leVal (shake256 ([0x53#8, 0x69#8, 0x67#8, 0x45#8, 0x64#8, 0x34#8, 0x34#8, 0x38#8, 0#8, 0#8] ++ bs) 114)

/-- Whether a signature of 114 bytes verifies: the group equation multiplied by the cofactor. -/
def edVerify (key msg sig : List Byte) : Bool :=
  let r := sig.take 57
  let n := leVal (sig.drop 57)
  match edDecode key, edDecode r with
  | some a, some p =>
    let k := edHash (r ++ key ++ msg) % edL
    decide (sig.length = 114 ∧ n < edL) && edEq (edMul (4 * n) edBase) (edAdd (edMul 4 p) (edMul 4 (edMul k a)))
  | _, _ => false

/-- The secret scalar and prefix of a 57-byte key. -/
def edSecret (sk : List Byte) : Nat × List Byte :=
  let h := shake256 sk 114
  let v := leVal (h.take 56)
  (v - v % 4 - v / 2 ^ 447 % 2 * 2 ^ 447 + 2 ^ 447, h.drop 57)

/-- The signature of a message under a 57-byte secret key. -/
def edSign (sk msg : List Byte) : List Byte :=
  let (a, prefix_) := edSecret sk
  let key := edEncode (edMul a edBase)
  let r := edHash (prefix_ ++ msg) % edL
  let rp := edEncode (edMul r edBase)
  let k := edHash (rp ++ key ++ msg) % edL
  rp ++ leBytes 57 ((r + k * a) % edL)

end Sys2Proof.Machine
end

