-- ==== Sys2Proof/Machine/Boot.lean ====
section
/-! DEFINITION. Reset, boot, service, clock, attestation, and the checks that run beside the work (R9, R19, R392 to R403). -/

namespace Sys2Proof.Machine

/-! ### Reset and firmware (R18, R9, R400, R402) -/

/-- The column of its die that a core stands in (R8). -/
def dieColumn (c : Nat) : Nat := 10 * (2 * (coreY c / 10) + coreX c / 10) + coreX c % 10

/-- Boot retires a unit: a core's place goes to its column's spare, or stays disabled when the spare is used (R9); a Bobbin core or a
port takes no further part. -/
def State.retireUnit (s : State) (u : Retiree) : State :=
  match u with
  | .core c =>
    let b := s.boot
    if b.disabled.contains c then s
    else if b.spent.contains (dieColumn c) then { s with boot := { b with disabled := insertNat b.disabled c } }
    else { s with boot := { b with spent := insertNat b.spent (dieColumn c) } }
  | .bobbin k => { s with retired := insertNat s.retired (agBobCore k) }
  | .port p => { s with retired := insertNat s.retired (agExport p) }
  | .controller i => { s with boot := { s.boot with offCtls := insertNat s.boot.offCtls i } }

/-- The units that the next boot retires, each once: those named, and cores whose array was reported as failing (R135). -/
def State.retirees (s : State) : List Retiree :=
  dedup' (s.boot.retire ++ (s.cores.filter (fun p => p.2.failing)).map (fun p => Retiree.core p.1))

/-- Bobbin cores and ports that earlier boots have retired. -/
def State.lostUnits (s : State) : List Nat :=
  s.retired.filter (fun a => match agentPlace a with | .core _ => false | _ => true)

/-- Device reset: every part takes its reset value, memory keeps its bytes, and boot retires the units that are due (R9). The model's
own fields go on. DEDUCED (assumption 89). -/
def State.deviceReset (s : State) : State :=
  s.retirees.foldl State.retireUnit
    { State.reset with
      agenda := s.agenda, fresh := s.fresh, nextId := s.nextId, mem := s.mem, pois := s.pois, out := s.out, retired := s.lostUnits,
      boot := { disabled := s.boot.disabled, spent := s.boot.spent, offCtls := s.boot.offCtls } }

/-- The first step of R400 that an image fails, 0 when it passes all three. -/
def fwStep (i : FwImage) : Nat :=
  if i.key.length ≠ 57 ∨ shake256 i.key 64 ≠ Config.fusedKeyDigest then 1
  else if edVerify i.key (shake256 i.body 64) i.sig = false then 2
  else if i.version < Config.fusedMinVersion then 3
  else 0

/-- A load of an image: it goes into the firmware region, at a place of the device's own; SERVICE, FIMG and FSTEP are cleared, then the
image is checked; its digest is recorded (R401). DESIGN CHOICE (assumption 120). -/
def State.loadImage (s : State) (i : FwImage) : State :=
  let a := Config.firmwareAt i.row % 0xC000000000
  let b := { s.boot with
    service := 0, fimg := 0, fstep := 0, fw := tset s.boot.fw i.row (a, i.body.length), measures := terase s.boot.measures i.row }
  let n := fwStep i
  { s.put a i.body with boot := if n = 0 then { b with measures := tset b.measures i.row (shake256 i.body 64) }
                   else { b with service := 3, fimg := i.row, fstep := n } }

/-- Every image of Table 15.4 has been verified. -/
def Boot.verified (b : Boot) : Bool := (upTo 5).all (fun i => (tget? b.measures i).isSome)

/-- The sensors read what they read: free values (R404). DESIGN CHOICE (assumption 94). -/
def State.sense (s : State) : State :=
  let (a, s1) := s.free
  let w (i : Nat) : Nat := fieldN a.toNat (16 * i) 16
  { s1 with boot := { s1.boot with pwr := w 0, tinlet := w 1, tjmax := w 2, flow := w 3 } }

/-! ### Clock, shutdown (R19, R402, R403) -/

/-- The highest clock of the present service. -/
def Boot.topClock (b : Boot) : Nat := if b.service = 2 then Config.fullClock else Config.reducedClock
/-- The package exceeds its power limit, or its hottest junction has reached 95 °C (R20, R403). -/
def Boot.strained (b : Boot) : Bool := decide (5000 < b.pwr) || decide (950 ≤ b.tjmax)
/-- The hottest junction has reached 110 °C (R403). -/
def Boot.overheated (b : Boot) : Bool := decide (1100 ≤ b.tjmax)
/-- A clock step that stays within bounds; the clock does not rise while the package is strained, and no step takes it below 25 MHz.
DESIGN CHOICE (assumption 142). -/
def Boot.mayStep (b : Boot) (up : Bool) : Bool :=
  (b.service == 1 || b.service == 2) && (if up then decide (b.cclk + 25 ≤ b.topClock) && !b.strained else decide (50 ≤ b.cclk))

/-- The device stops every clock and keeps no state; no record is written and no interrupt raised. DEDUCED (assumption 92). -/
def State.shutDown (s : State) : State :=
  { State.reset with agenda := s.agenda, fresh := s.fresh, nextId := s.nextId, out := s.out, boot := { off := true } }

/-! ### Attestation (R401) -/

/-- BOOTST (Table 15.6); a count of disabled cores above 255 shows modulo 256. DESIGN CHOICE (assumption 141). -/
def Boot.word (b : Boot) : Nat := b.service + 4 * b.fimg + 32 * b.fstep + 256 * (b.disabled.length % 256)

/-- The first 400 bytes of a report. -/
def reportBody (b : Boot) (fn : Nat) (nonce : List Byte) : List Byte :=
  nonce ++ leBytes 4 Config.sysArch.toNat ++ leBytes 4 b.word ++ (upTo 5).flatMap (fun i => tgetD b.measures i (zeroBytes 64)) ++
    leBytes 4 fn ++ zeroBytes 4

/-- The report: its body and the signature by the device identity key over the body's digest. -/
def attestation (b : Boot) (fn : Nat) (nonce : List Byte) : List Byte :=
  let r := reportBody b fn nonce
  r ++ edSign Config.identitySecret (shake256 r 64)

/-- The sensors are read; a strained package lowers its clock by a step, and an overheated one stops (R20, R403). -/
def State.senses (s : State) : State :=
  let t := s.sense
  if t.boot.overheated then t.shutDown
  else if t.boot.strained && t.boot.mayStep false then { t with boot := { t.boot with cclk := t.boot.cclk - 25 } }
  else t

/-! ### Scrub, self-test, links (R392 to R394, R399) -/

/-- Places of Table 15.1. -/
def placeHbm : Nat := 4
def placeTier2 : Nat := 5
def placeLinks : Nat := 7
def placeGaps : Nat := 10

/-- UNIT of an error record for a line of HBM: its stack (R14, Table 15.3). -/
def stackName (l : Nat) : W32 := BitVec.ofNat 32 (Config.stackOf (l / 16) % 12)
/-- The write that a scrub makes of a line, as it would arrive at the line's home now. -/
def State.scrubWrite (s : State) (l : Nat) : PWrite :=
  { acc := { devAcc s.nextId 0 (64 * l) 64 with arrived := some s.nextId }, kind := .store [] }
/-- A scrub write can take place at a line of HBM, in the order of any write at its home: no write waits there, the line takes one, and no
sharer of a table line has to be invalidated. -/
def State.mayScrub (s : State) (l : Nat) : Bool :=
  hbmLine l && (s.waitingAt l).isEmpty && s.lineTakes l (s.scrubWrite l) && !s.mustInvalidate l (s.scrubWrite l)

/-- No copy of a line stands above its memory. -/
def State.bareLine (s : State) (l : Nat) : Bool := !(s.line l).present && !(s.line l).msc

/-- The patrol scrub reads a line: it poisons one whose error it cannot correct; of another it may have corrected an error.
DESIGN CHOICE (assumption 95). -/
def State.scrubLine (s : State) (l : Nat) (bad : Bool) : State :=
  if bad then (s.poisonLine l).errorRecord placeHbm .scrubPoison none (stackName l) (64 * l) 0#64
  else
    let (k, s1) := s.choose 2
    if k = 0 then s1 else s1.errorRecord placeHbm .corrected none (stackName l) (64 * l) 0#64

/-- The cores whose tasks a failing unit ends. A tag controller stands on a base die and serves all. -/
def unitCores : UnitName → List Nat
  | .core c => [c]
  | .clusterUnit k => coresOf k
  | .controller _ => []

def unitNamed : UnitName → Bool
  | .core c => decide (c < Config.numCores)
  | .clusterUnit k => decide (k < Config.numClusters)
  | .controller i => decide (i < 4)

/-- The time within which a fault of a gap unit is detected, in ns (R393). -/
def gapWindow : Nat := 20000000

/-- Start of the window of R393: when the fault began, at most 20 ms before detection. -/
def State.windowStart (s : State) (u : UnitName) : W64 :=
  BitVec.ofNat 64 (max (s.now.toNat - gapWindow)
    (match s.boot.gaps.find? (fun p => p.1 == u) with | some p => p.2.toNat | none => 0))

/-- What the next boot retires for a failing unit. -/
def retireesOf (u : UnitName) : List Retiree :=
  match u with
  | .controller i => [.controller i]
  | _ => (unitCores u).map Retiree.core

/-- A unit fails its self-test: it is taken out of service (R394). -/
def State.unitFails (s : State) (u : UnitName) : State :=
  let ends := s.wgs.any (fun p => (unitCores u).contains p.2.core && !p.2.ended)
  let s1 := (unitCores u).foldl (fun t c => (t.endTasksOn c clsPoison).modCore c (fun y => { y with failing := true })) s
  let s2 := { s1 with boot := { s1.boot with
    retire := s1.boot.retire ++ retireesOf u, gaps := s1.boot.gaps.filter (fun p => p.1 != u) } }
  let (v, s3) := s2.free
  -- the spec gives a cluster unit no core of its own: its first core; a controller has none: a free value
  let name := match (unitCores u) with | c :: _ => sysCore c | [] => lo32 v
  s3.errorRecord placeGaps .retired none name 0 (s.windowStart u) ends

/-- The self-test finds every fault of a gap unit within 20 ms (R393, R394). -/
def State.detectGaps (s : State) : State :=
  s.boot.gaps.foldl (fun t p => if gapWindow ≤ (t.now - p.2).toNat then t.unitFails p.1 else t) s

/-- A slot of the self-test that a unit passes changes no visible state; the pass counts towards full service (R394, R402). -/
def State.unitPasses (s : State) (u : UnitName) : State :=
  { s with boot := { s.boot with tested := if s.boot.tested.contains u then s.boot.tested else s.boot.tested ++ [u] } }

/-- Every unit that a complete self-test pass covers. -/
def testedUnits : List UnitName :=
  (upTo Config.numCores).map UnitName.core ++ (upTo Config.numClusters).map UnitName.clusterUnit ++ (upTo 4).map UnitName.controller

/-- Link training has ended on every Bride link, HBM is trained at full rate, and one complete self-test pass has been made (R402).
DEDUCED (assumption 121). -/
def Boot.mayServeFully (b : Boot) : Bool :=
  b.service == 1 && (upTo 16).all b.ended.contains && b.hbmTrained && testedUnits.all b.tested.contains

/-- A place behind a Bride link, the host port or a CXL port, to which accesses go over a checked link. -/
def Target.overLink (t : Target) : Bool :=
  match t with
  | .pod _ _ => true
  | .glob pa _ => (match regionOf pa with | some .host | some .tier2 => true | _ => false)
  | _ => false

/-- A load that its link cannot deliver: its task ends with poison (R183, R392). -/
def State.loadLost (s : State) (p : PLoad) : State :=
  (({ s with loads := terase s.loads p.acc.id } : State).release p.acc p.dst p.acc.n).podFails p.acc 2

/-- A store, an atomic or a copy's write that its link cannot deliver: its task ends with poison. -/
def State.writeLost (s : State) (w : PWrite) : State :=
  let t := { s with writes := terase s.writes w.acc.id }
  match w.kind with
  | .copyUnit y _ _ _ | .copyRed y _ _ _ _ | .copySig y => t.copyLost y w.acc 2
  | _ => (t.release w.acc w.kind.dst.1 w.kind.dst.2).podFails w.acc 2

/-- A write that a copy makes. -/
def PWrite.ofCopy (w : PWrite) : Bool :=
  match w.kind with
  | .copyUnit y _ _ _ => y != 0
  | .copyRed _ _ _ _ _ | .copySig _ => true
  | _ => false

/-- A unit of a copy reads from a place behind a link. -/
def State.unitOverLink (s : State) (c : Copy) (u : CUnit) : Bool :=
  c.checked && !u.sent && u.srcs.any (fun q => match q.src with
    | .va a => (match (s.access (agAhead c.core) c.fn (s.residency c.launch) a q.n needR).1 with
      | .ok t => t.tgt.overLink
      | .error _ => false)
    | _ => false)

/-- What may come of an access that a failing link leaves undelivered: of a thread's load or write, of a copy's write, or of what a copy's
unit reads, which it then reads poisoned. -/
def State.linkLosses (s : State) : List State :=
  ((tvals s.loads).filter (fun p => p.acc.th.isSome && p.acc.tgt.overLink)).map s.loadLost ++
    ((tvals s.writes).filter (fun w => (w.acc.th.isSome || w.ofCopy) && w.acc.tgt.overLink)).map s.writeLost ++
    s.copies.flatMap (fun p => (p.2.units.filter (fun u => s.unitOverLink p.2 u.2)).map (fun u =>
      { s with copies := tmod s.copies p.1 (fun c => { c with units := tmod c.units u.1 (fun v => { v with bad := true }) }) }))

/-- A flit with a CRC error is retried; after 16 failed retries the link retrains, and an access may stay undelivered (R183). The record
names the link by a value the device chooses, as it does whether an access stays undelivered, and which.
DESIGN CHOICE (assumption 96). -/
def State.linkRetries (s : State) (place fails : Nat) : State :=
  let (v, s1) := s.free
  let s2 := s1.errorRecord place .corrected none (lo32 v) 0 0#64
  if fails < 16 ∨ place ≠ placeLinks then s2
  else
    let (k, s3) := s2.choose (s2.linkLosses.length + 1)
    (s3.linkLosses[k]?).getD s3

/-! ### The meanings -/

/-- DEVICE_RESET (R18, R9). -/
def execDeviceReset (s : State) : Host.Outcome State Fault Refusal :=
  runEvent "DEVICE_RESET" (fun _ => true) (fun t => t.deviceReset) s
/-- FIRMWARE_IMAGE_LOAD (R400): the boot ROM accepts images until the device enters service. DEDUCED (assumption 93). -/
def execFirmwareImageLoad (img : FwImage) (s : State) : Host.Outcome State Fault Refusal :=
  runEvent "FIRMWARE_IMAGE_LOAD" (fun t => decide (img.row < 5) && (t.boot.service == 0 || t.boot.service == 3)) (fun t => t.loadImage img) s
/-- REDUCED_SERVICE_ENTRY (R402). -/
def execReducedServiceEntry (s : State) : Host.Outcome State Fault Refusal :=
  runEvent "REDUCED_SERVICE_ENTRY" (fun t => t.boot.service == 0 && t.boot.verified)
    (fun t => { t with boot := { t.boot with service := 1, cclk := Config.reducedClock } }) s
/-- FULL_SERVICE_ENTRY (R402): training and a complete self-test pass have ended. -/
def execFullServiceEntry (s : State) : Host.Outcome State Fault Refusal :=
  runEvent "FULL_SERVICE_ENTRY" (fun t => t.boot.mayServeFully) (fun t => { t with boot := { t.boot with service := 2 } }) s
/-- CLOCK_STEP (R19, R402). -/
def execClockStep (up : Bool) (s : State) : Host.Outcome State Fault Refusal :=
  runEvent "CLOCK_STEP" (fun t => t.boot.mayStep up)
    (fun t => ({ t with boot := { t.boot with cclk := if up then t.boot.cclk + 25 else t.boot.cclk - 25 } }).senses) s
/-- THERMAL_SHUTDOWN (R403). -/
def execThermalShutdown (s : State) : Host.Outcome State Fault Refusal :=
  runEvent "THERMAL_SHUTDOWN" (fun t => t.boot.overheated) (fun t => t.shutDown) s
/-- ATTESTATION_REQUEST (R401). -/
def execAttestationRequest (fn : Nat) (nonce : List Byte) (s : State) : Host.Outcome State Fault Refusal :=
  runEvent "ATTESTATION_REQUEST" (fun t => decide (fn < Config.numFns ∧ nonce.length = 64) && t.boot.verified)
    (fun t => t.emit (.report fn (attestation t.boot fn nonce))) s
/-- PATROL_SCRUB (R399). -/
def execPatrolScrub (line : Nat) (uncorrectable : Bool) (s : State) : Host.Outcome State Fault Refusal :=
  runEvent "PATROL_SCRUB" (fun t => t.mayScrub line && (!uncorrectable || t.bareLine line)) (fun t => t.scrubLine line uncorrectable) s
/-- SELF_TEST (R394): a slot that passes changes no visible state. -/
def execSelfTest (u : UnitName) (pass : Bool) (s : State) : Host.Outcome State Fault Refusal :=
  runEvent "SELF_TEST" (fun _ => unitNamed u) (fun t => if pass then t.unitPasses u else t.unitFails u) s
/-- LINK_RETRY (R392). -/
def execLinkRetry (place fails : Nat) (s : State) : Host.Outcome State Fault Refusal :=
  runEvent "LINK_RETRY" (fun _ => (place == placeTier2 || place == placeLinks) && decide (0 < fails))
    (fun t => t.linkRetries place fails) s

end Sys2Proof.Machine
end

