-- ==== Sys2Proof/Machine/Alu.lean ====
section
/-! DEFINITION. The common frame of the instructions that compute on thread registers (R41, R36, R77): per-lane evaluation, the choice of
a trap cause, the write of results, the zeroing under ZM. -/

namespace Sys2Proof.Machine

/-- What one lane computes: the registers of D with their tag, predicates, sticky flags and the generator's new state. -/
structure LaneOut where
  vals   : List W32 := []
  tag    : Nat := 0
  preds  : List (Nat × Bool) := []
  flags  : Sticky := 0#5
  seed   : Option W32 := none
deriving DecidableEq, Repr

/-- A lane of an executing group: its context, its thread index and the thread. -/
structure Lane where
  x   : Ctx
  tid : Nat
  th  : Thread

def Lane.src (l : Lane) (f : Fld) : W32 := Machine.src l.x.w l.th (laneOf l.tid) f
def Lane.srcTag (l : Lane) (f : Fld) : Nat := Machine.srcTag l.x.w l.th (laneOf l.tid) f
def Lane.pair (l : Lane) (signed : Bool) (f : Fld) : W64 := srcPair l.x.w l.th signed f
/-- `Require` on `n` registers (Table 2.7). -/
def Lane.req (l : Lane) (f : Fld) (n : Nat) (set : Nat → Bool) : Bool := tagOk l.th f n set
def Lane.a (l : Lane) : W32 := l.src l.x.w.a
def Lane.b (l : Lane) : W32 := l.src l.x.w.b
def Lane.c (l : Lane) : W32 := l.src l.x.w.c
/-- What a rounding step of the lane reads (R65, R54, R67). -/
def Lane.rctx (l : Lane) : RCtx := rCtx l.x.sg l.x.w l.th l.x.wg.ovf
/-- The generator and an empty set of flags. -/
def Lane.rst (l : Lane) : RSt := { seed := l.th.srseed, flags := 0#5 }

/-- An instruction of the frame: its effect in an active lane, the tag of its result (also under ZM), how many registers D
names, and the predicates it writes. -/
structure AluDef where
  eval  : Lane → Except LaneFault LaneOut
  ztag  : Lane → Nat
  width : Nat := 1
  preds : List Nat := []

/-- The effect with the check of R63: a tag that no register may take faults, unless nothing is written.
DEDUCED (assumption 109). -/
def AluDef.lane (d : AluDef) (l : Lane) : Except LaneFault LaneOut :=
  match d.eval l with
  | .error e => .error e
  | .ok o => if l.x.w.d ≠ fNull ∧ o.vals ≠ [] ∧ badTag l.x.wg.fmt o.tag = true then .error .format else .ok o

/-- Writes D, discarding at the null destination (R36). -/
def writeD (w : TWord) (th : Thread) (vs : List W32) (tag : Nat) : Thread :=
  if w.d = fNull then th else th.setRegs w.d.toNat vs tag

/-- A thread after the effect. -/
def LaneOut.apply (o : LaneOut) (w : TWord) (th : Thread) : Thread :=
  let t := writeD w th o.vals o.tag
  let t := o.preds.foldl (fun t p => t.setPred p.1 p.2) t
  let t := t.sticky o.flags
  match o.seed with
  | some x => { t with srseed := x }
  | none => t

/-- A thread whose guard is false (R36, R77): with ZM its destination is zeroed, unless the tag may not be written. -/
def AluDef.zero (d : AluDef) (l : Lane) : Thread :=
  if wordZM l.x.sg l.x.w then
    let t := if d.width = 0 ∨ badTag l.x.wg.fmt (d.ztag l) = true then l.th
             else writeD l.x.w l.th (List.replicate d.width 0#32) (d.ztag l)
    d.preds.foldl (fun t p => t.setPred p false) t
  else l.th

/-- A thread after the instruction. -/
def AluDef.thread (d : AluDef) (x : Ctx) (tid : Nat) (th : Thread) : Thread :=
  let l : Lane := ⟨x, tid, th⟩
  if th.guard x.w then
    (match d.lane l with
     | .ok o => o.apply x.w th
     | .error _ => th)
  else d.zero l

/-- The cause that an active lane raises, if any. -/
def AluDef.fault (d : AluDef) (x : Ctx) (p : Nat × Thread) : Option LaneFault :=
  match d.lane ⟨x, p.1, p.2⟩ with
  | .ok _ => none
  | .error e => some e

/-- The body of an instruction of the frame (R41, R37). -/
def aluBody (d : AluDef) (x : Ctx) (s : State) : Res :=
  match x.causes (d.fault x) with
  | some t => .trap t
  | none => .ok (x.update s (d.thread x))

/-- An instruction whose effect is `f` once the sources carry the tags that `reqs` names, with the result tag `tag`. -/
def plainAlu (width : Nat) (reqs : Lane → Bool) (tag : Lane → Nat) (f : Lane → List W32) : AluDef :=
  { eval := fun l => if reqs l then .ok { vals := f l, tag := tag l } else .error .format, ztag := tag, width := width }

/-- An instruction that writes the predicate D (R77). -/
def predAlu (d : Fld) (reqs : Lane → Bool) (f : Lane → Bool × Sticky) : AluDef :=
  { eval := fun l => if reqs l then .ok { preds := [(d.toNat, (f l).1)], flags := (f l).2 } else .error .format,
    ztag := fun _ => 0, width := 0, preds := [d.toNat] }

end Sys2Proof.Machine
end

