-- ==== Sys2Proof/Machine/Tasks.lean ====
section
/-! DEFINITION. Tasks of a Tatting graph: when the task of a workgroup completes, and what its completion does (R288, R296). -/

namespace Sys2Proof.Machine

/-- Numbers of the accesses that the threads of a workgroup have outstanding: the completion of a task is a release of them. -/
def State.outstanding (s : State) (wid : Nat) : List Nat :=
  let mine (a : Acc) : Bool := match a.th with | some r => r.wg == wid | none => false
  (s.loads.filter (fun p => mine p.2.acc)).map Prod.fst ++ (s.writes.filter (fun p => mine p.2.acc)).map Prod.fst ++
    (s.picots.filter (fun p => mine p.2.acc)).map Prod.fst

/-- The address of PEND of task `i` of a launch (Table 10.6). -/
def Launch.pendVa (l : Launch) (i : Nat) : Nat := recVal l.packet 40 8 + 64 * i + 32

/-- The places of PEND of several tasks: none while a translation has to wait. A task whose record cannot be written loses its
decrement. -/
def State.pendPlaces (s : State) (l : Launch) : List Nat → Option (List (Nat × Acced))
  | [] => some []
  | i :: is =>
    match s.pendPlaces l is with
    | none => none
    | some ps =>
      match s.plainAccess l.fn (l.pendVa i) needRW with
      | .ok t => some ((i, t) :: ps)
      | .error .wait => none
      | .error _ => some ps

/-- Sends the decrement of PEND of a task to its home, after the accesses of the completing workgroup. -/
def State.sendPend (after : List Nat) (l fn : Nat) (s : State) (q : Nat × Acced) : State :=
  let (id, s1) := (s.sawPath fn q.2.path).newId
  { s1 with writes := tset s1.writes id { acc := { frontAcc id fn q.2 4 with after := after }, kind := .pend l q.1 } }

/-- The threads of a workgroup that wait for a task end, and the workgroup with them. -/
def Wg.endIdle (w : Wg) : Wg :=
  let v := (upTo w.nthr).foldl (fun v i => if (v.thread i).st = .tdone then v.modThread i (fun t => { t with st := .ended }) else v) w
  { v with ended := (upTo v.nthr).all (fun i => (v.thread i).st == .ended) }

/-- Every idle workgroup of a graph whose sink has completed ends (R288). -/
def State.endIdle (s : State) (l : Nat) : State :=
  { s with wgs := s.wgs.map (fun p => (p.1, if p.2.launch = l ∧ p.2.kind = .tatting ∧ p.2.task = none then p.2.endIdle else p.2)) }

/-- Every thread of the workgroup has executed `tdone` for its task or has ended. -/
def Wg.taskOver (w : Wg) : Bool := (upTo w.nthr).all (fun i => (w.thread i).st == .tdone || (w.thread i).st == .ended)

/-- Completes the task of a workgroup once its threads are done with it (R296); none while a translation has to wait. -/
def State.taskSettle (s : State) (wid : Nat) : Option State :=
  match s.wg? wid with
  | none => some s
  | some w =>
    match w.task, s.launch? w.launch with
    | some i, some l =>
      if w.taskOver then
        let t := tgetD l.tasks i { pc := 0#64, tx := 0, ty := 0, succ := [], sink := false }
        match s.pendPlaces l (if l.ending then [] else t.succ) with
        | none => none
        | some ps =>
          let s1 := ps.foldl (State.sendPend (s.outstanding wid) w.launch w.fn) (s.setWg wid { w with task := none })
          let s2 := if t.sink then s1.modLaunch w.launch (fun x => { x with sinkDone := true, ready := [] }) else s1
          some (if l.sinkDone || t.sink then s2.endIdle w.launch else s2)
      else some s
    | _, _ => some s

end Sys2Proof.Machine
end

