-- ==== Sys2Proof/Machine/Control.lean ====
section
/-! DEFINITION. Control instructions, class 0x7 (R240 to R242, R260 to R270). -/

namespace Sys2Proof.Machine

/-! ### Splitting a group (R240) -/

/-- A part of a group after a branch: its threads, its program counter, and whether it branched. -/
structure Part where
  tids : List Nat
  pc   : W64
  took : Bool
deriving DecidableEq, Repr

/-- The record of a part: a branch ends the line (R26). DEDUCED (assumption 5). -/
def Part.record (p : Part) (g : Group) : Group :=
  { g with tids := p.tids, pc := p.pc, begun := if p.took then none else g.begun, stall := none }

/-- Adds a group formed by a split: the same stamp, ready, in the active set while it has a free place. -/
def State.addPart (s : State) (g : Group) (p : Part) : State :=
  let (id, s1) := s.newId
  s1.setGroup id (s.readied { p.record g with
    rstart := p.pc, buf := [], wait := .ready, place := s1.newPlace g.core g.quad, activeAt := s.cycles, lastIssue := s.cycles })

/-- Sends the parts of a group to their program counters. The first part keeps the record; several parts make a region
boundary of the branch. -/
def Ctx.splitTo (x : Ctx) (s : State) (parts : List Part) : Res :=
  match parts with
  | [] => .ok s
  | [p] => .jump (s.modGroup x.gid (fun g => p.record g))
  | p :: ps => x.boundary s p.pc (fun t => .jump (ps.foldl (fun u q => u.addPart x.g q) (t.modGroup x.gid (fun g => p.record g))))

/-- The live threads that do not branch. -/
def Ctx.stays (x : Ctx) : List Part :=
  let ts := (x.threads.filter (fun p => !p.2.guard x.w)).map Prod.fst
  if ts.isEmpty then [] else [⟨ts, x.next, false⟩]

/-! ### Targets (R25, R261) -/

/-- The target program counter of a relative branch. -/
def relTarget (pc : W64) (ext : W32) : W64 :=
  let n : W64 := (ext.extractLsb' 3 29).signExtend 64
  (pcLine pc + 64#64 * n) + (ext.extractLsb' 0 3).zeroExtend 64

/-- What the check of a target answers: enter it; its TGT bit is clear; the fetch of its line faults or waits. -/
inductive TgtRes where
  | enter
  | clear
  | fault (cls sub : Nat)
  | wait
deriving DecidableEq, Repr

/-- Fetches a target line and checks the TGT bit of the slot (R25). -/
def Ctx.tgtCheck (x : Ctx) (s : State) (t : W64) : TgtRes × State :=
  match s.codeLine x.g x.wg (pcLine t).toNat with
  | (.ok l, s1) => (if bitN (recVal l.2 0 4) (7 + pcSlot t) then .enter else .clear, s1)
  | (.error (.fault c k), s1) => (.fault c k, s1)
  | (.error .wait, s1) => (.wait, s1)

/-- A task-ending fault of the fetch of a target line: it names the branch and the line. -/
def Ctx.tgtFault (x : Ctx) (t : W64) (tid cls sub : Nat) : FaultInfo := x.accFault tid (pcLine t).toNat cls sub

/-- The trap of a bad relative target, R37 item 2. -/
def badTarget : TrapInfo := { cls := clsTarget }

/-- Some thread of the group has a write of its guard still to come. -/
def Ctx.guardOpen (x : Ctx) : Bool := x.threads.any (fun p => p.2.guardOpen x.w)

/-- R37 item 2 for a relative branch: a malformed target always; the TGT bit when some thread branches, once the guards are known.
DEDUCED (assumption 14). -/
def relPre (x : Ctx) (s : State) : Option Res :=
  if x.w.a ≠ fLit then none
  else
    let t := relTarget x.g.pc x.w.ext
    if pcBad t then some (.trap badTarget)
    else if x.guardOpen then some (.stall (.keys (x.awaited [])))
    else match x.active with
      | [] => none
      | p :: _ =>
        match x.tgtCheck s t with
        | (.enter, _) => none
        | (.clear, _) => some (.trap badTarget)
        | (.fault c k, s1) =>
          if encTrap x.sg x.w (x.enc s) ≠ none then none
          else if x.blocked [] then some (.stall (.keys (x.awaited [])))
          else some (.fault (x.tgtFault t p.1 c k) s1)
        | (.wait, _) => some .stall

/-- The targets that threads name in a register pair, each once, in the order of the lowest lane that names it. -/
def pairTargets (x : Ctx) : List W64 := dedup' (x.active.map (fun p => srcPair x.w p.2 false x.w.a))

/-- Checks the distinct targets in turn. -/
def Ctx.checkTargets (x : Ctx) : State → List W64 → List (W64 × TgtRes) × State
  | s, [] => ([], s)
  | s, t :: ts =>
    let r := if pcBad t then (.clear, s) else x.tgtCheck s t
    let u := x.checkTargets r.2 ts
    ((t, r.1) :: u.1, u.2)

/-- The threads that name one of the targets. -/
def Ctx.naming (x : Ctx) (ts : List W64) : List Nat :=
  (x.active.filter (fun p => ts.contains (srcPair x.w p.2 false x.w.a))).map Prod.fst

/-- Branches to the targets that the threads' pairs name, `wr` having been done first (R262, R263): the part of the lowest lane
that branches keeps the record (assumption 5). DEDUCED (assumption 17). -/
def pairBranch (wr : Ctx → State → State) (x : Ctx) (s : State) : Res :=
  match x.causes (fun p => if tagOk p.2 x.w.a 2 tINT then none else some .format) with
  | some t => .trap t
  | none =>
    let r := x.checkTargets s (pairTargets x)
    let bad := (r.1.filter (fun q => q.2 == .clear)).map Prod.fst
    if r.1.any (fun q => q.2 == .wait) then .stall
    else if !bad.isEmpty then .trap { cls := clsTarget, own := some ((x.naming bad).map (fun i => (i, 0))) }
    else match r.1.find? (fun q => q.2 != .enter) with
      | some (t, .fault c k) => .fault (x.tgtFault t ((x.naming [t]).headD 0) c k) r.2
      | _ =>
        let ps : List Part := (pairTargets x).map (fun t => ⟨x.naming [t], t, true⟩)
        if ps.isEmpty then .ok s else x.splitTo (wr x r.2) (ps ++ x.stays)

/-- Branches to the relative target. `first`: the threads that stay keep the record (`bra`); otherwise the branching part
does. -/
def relBranch (stayFirst : Bool) (wr : Ctx → State → State) (x : Ctx) (s : State) : Res :=
  let t := relTarget x.g.pc x.w.ext
  let took := x.active.map Prod.fst
  if took.isEmpty then .ok s
  else
    let b : Part := ⟨took, t, true⟩
    x.splitTo (wr x (x.tgtCheck s t).2) (if stayFirst then x.stays ++ [b] else b :: x.stays)

/-- Writes the return program counter of a `call` (R263). -/
def writeReturn (x : Ctx) (s : State) : State :=
  x.updateActive s (fun _ th => th.setRegs x.w.d.toNat (pairOf x.next) 2)

/-! ### Bins (R241, R242) -/

/-- Key of bin `i` of a quadrant in the core's table. -/
def binKey (quad i : Nat) : Nat := 16 * quad + i

/-- The bin of a quadrant that a key files into: the one that holds the key, else the lowest-numbered free one. -/
def Core.binFor (c : Core) (quad wg : Nat) (pc : W64) : Option Nat :=
  match (upTo 16).find? (fun i => match tget? c.bins (binKey quad i) with
      | some b => b.wg == wg && b.pc == pc
      | none => false) with
  | some i => some (binKey quad i)
  | none => ((upTo 16).find? (fun i => (tget? c.bins (binKey quad i)).isNone)).map (binKey quad)

/-- The heads of the non-empty lane queues of a bin, by rising lane. -/
def Bin.heads (b : Bin) : List BinEnt := (upTo 32).filterMap (fun l => b.ents.find? (fun e => laneOf e.tid == l))

/-- Draws the heads of the non-empty lane queues as a fresh group (R242): ready, in the pending set, with the filing time of
its oldest entry as stamp. -/
def State.draw (s : State) (core quad key : Nat) : State :=
  match tget? (s.core core).bins key with
  | none => s
  | some b =>
    let hs := b.heads
    let rest := b.ents.filter (fun e => !hs.contains e)
    let (id, s1) := s.newId
    let stamp := hs.foldl (fun t e => if e.time.ult t then e.time else t) (match hs with | [] => s.now | e :: _ => e.time)
    let s2 := s1.modCore core (fun c => { c with
      bins := if rest.isEmpty then terase c.bins key else tset c.bins key { b with ents := rest }, drew := tset c.drew key s.cycles })
    let s3 := s2.modWg b.wg (fun w => hs.foldl (fun v e => v.modThread e.tid (fun t => { t with st := .live })) w)
    s3.setGroup id (s.readied
      { core := core, wg := b.wg, quad := quad, tids := hs.map (·.tid), pc := b.pc, rstart := b.pc, stamp := stamp,
        place := s3.pendingPlace core quad, activeAt := s.cycles, lastIssue := s.cycles })

/-- Every lane queue of the bin is non-empty. -/
def Bin.full (b : Bin) : Bool := decide (b.heads.length = 32)

/-- A bin has made its draw of the present cycle (R242). -/
def State.hasDrawn (s : State) (core key : Nat) : Bool := tget? (s.core core).drew key == some s.cycles

/-- Makes the full draw of a bin if its queues allow one, its workgroup is not halted and it has made no draw in the cycle. -/
def State.fullDraw (s : State) (core quad key : Nat) : State :=
  match tget? (s.core core).bins key with
  | some b =>
    if b.full && !s.hasDrawn core key && (match s.wg? b.wg with | some w => w.held.isNone | none => false) then s.draw core quad key else s
  | none => s

/-- The full draws that are due: of the bins that could not make theirs in the cycle that filled them. -/
def State.fullDraws (s : State) : State :=
  s.cores.foldl (fun t c => c.2.bins.foldl (fun u b => u.fullDraw c.1 (b.1 / 16) b.1) t) s

/-- The group loses threads; without any left it ceases to exist (R240). -/
def State.loseThreads (s : State) (gid : Nat) (ts : List Nat) : State :=
  match s.group? gid with
  | some g =>
    let left := g.tids.filter (fun i => !ts.contains i)
    if left.isEmpty then s.dropGroup gid else s.setGroup gid { g with tids := left }
  | none => s

/-- `reform` (R264). -/
def reformBody (x : Ctx) (s : State) : Res :=
  x.boundary s x.next (fun t =>
    let go (u : State) : State := u.modGroup x.gid (fun g => { g with pc := x.next })
    let filed := x.active.map Prod.fst
    if filed.isEmpty then .jump (go t)
    else match (t.core x.g.core).binFor x.g.quad x.wid x.next with
      | none => .jump (go t)
      | some key =>
        let es := filed.map (fun i => ({ tid := i, cyc := s.cycles, thr := x.wg.rfage, time := s.now } : BinEnt))
        let t1 := t.modCore x.g.core (fun c =>
          let old := match tget? c.bins key with | some b => b.ents | none => []
          { c with bins := tset c.bins key { wg := x.wid, pc := x.next, ents := old ++ es } })
        let t2 := x.updateActive t1 (fun _ th => { th with st := .binned })
        let t2 := t2.count x.g.core x.wg.fn 9 filed.length
        .jump (((go t2).loseThreads x.gid filed).fullDraw x.g.core x.g.quad key))

/-! ### Waiting -/

/-- The flags that the executing threads have outstanding on this instruction. -/
def Ctx.waitFlags (x : Ctx) : List (Nat × Nat) :=
  match x.flag with
  | some f => x.active.map (fun p => (p.1, f))
  | none => []

/-- Increments the flag of every executing thread (R27). -/
def Ctx.raiseFlags (x : Ctx) (s : State) : State := x.updateActive s (fun _ th => th.flagUp x.flag)

/-- Completes flags of threads of a workgroup. -/
def State.lowerFlags (s : State) (wid : Nat) (fs : List (Nat × Nat)) : State :=
  s.modWg wid (fun w => fs.foldl (fun v p => v.modThread p.1 (fun th => th.flagDec p.2)) w)

/-- `yield` (R265). -/
def yieldBody (x : Ctx) (s : State) : Res :=
  x.boundary s x.next (fun t =>
    if x.active.isEmpty then .ok t
    else .ok ((t.park x.gid .ready).modGroup x.gid (fun g => { g with stamp := s.now, sub := 0, yielded := true })))

/-- The time that `sleep` asks for (R267). -/
def sleepTime (x : Ctx) : Nat := x.active.foldl (fun m p => max m (min (x.src p x.w.a).toNat 16777215)) 0

def sleepBody (x : Ctx) (s : State) : Res :=
  if sleepTime x = 0 then yieldBody x s
  else x.boundary s x.next (fun t =>
    .ok ((x.raiseFlags t).park x.gid (.sleep (s.now + BitVec.ofNat 64 (sleepTime x)) x.waitFlags)))

/-- A boundary with no other effect. -/
def regionBody (x : Ctx) (s : State) : Res := x.boundary s x.next .ok

/-! ### Ending threads -/

/-- Marks threads of a workgroup as ended; the workgroup ends with its last thread (R269). -/
def State.endThreads (s : State) (wid : Nat) (ts : List Nat) : State :=
  s.modWg wid (fun w =>
    let v := ts.foldl (fun v i => v.modThread i (fun th => { th with st := .ended })) w
    { v with ended := (upTo v.nthr).all (fun i => (v.thread i).st == .ended) })

/-- `exit` (R269); a Tatting workgroup whose last thread ends completes its task (R296). -/
def exitBody (x : Ctx) (s : State) : Res :=
  let ts := x.active.map Prod.fst
  x.boundary s x.next (fun t =>
    match (t.endThreads x.wid ts).taskSettle x.wid with
    | some u => .jump ((u.modGroup x.gid (fun g => { g with pc := x.next })).loseThreads x.gid ts)
    | none => .stall)

/-! ### Software traps (R270) -/

/-- A trap that every executing thread raises. -/
def softTrap (cls sub : Nat) (x : Ctx) (s : State) : Res :=
  if x.active.isEmpty then regionBody x s
  else .trap { cls := cls, sub := sub, own := some (x.active.map (fun p => (p.1, 0))) }

def trapBody (x : Ctx) (s : State) : Res := softTrap clsSoft x.w.md.toNat x s
def bkptBody (x : Ctx) (s : State) : Res :=
  if (s.fnb x.wg.fn).fault.dbgen then softTrap clsBreak 0 x s else regionBody x s

/-! ### The meanings (`poll` stands with the loads) -/

def noWrite (_ : Ctx) (s : State) : State := s

/-- `nop` (R43). -/
def execNop (w : TWord) (s : State) : Host.Outcome State Fault Refusal := runThrum (sigNop w) w [] (fun _ t => .ok t) s
def execBra (w : TWord) (s : State) : Host.Outcome State Fault Refusal :=
  runThrumWith (sigBra w) w [] relPre (relBranch true noWrite) s
def execBrx (w : TWord) (s : State) : Host.Outcome State Fault Refusal := runThrum (sigBrx w) w [] (pairBranch noWrite) s
def execCall (w : TWord) (s : State) : Host.Outcome State Fault Refusal :=
  runThrumWith (sigCall w) w [] relPre (relBranch false writeReturn) s
def execCallInd (w : TWord) (s : State) : Host.Outcome State Fault Refusal :=
  runThrum (sigCallInd w) w [] (pairBranch writeReturn) s
def execRet (w : TWord) (s : State) : Host.Outcome State Fault Refusal := runThrum (sigRet w) w [] (pairBranch noWrite) s
def execReform (w : TWord) (s : State) : Host.Outcome State Fault Refusal := runThrum (sigReform w) w [] reformBody s
def execYield (w : TWord) (s : State) : Host.Outcome State Fault Refusal := runThrum (sigYield w) w [] yieldBody s
def execSleep (w : TWord) (s : State) : Host.Outcome State Fault Refusal := runThrum (sigSleep w) w [] sleepBody s
def execRegion (w : TWord) (s : State) : Host.Outcome State Fault Refusal := runThrum (sigRegion w) w [] regionBody s
def execExit (w : TWord) (s : State) : Host.Outcome State Fault Refusal := runThrum (sigExit w) w [] exitBody s
def execTrap (w : TWord) (s : State) : Host.Outcome State Fault Refusal := runThrum (sigTrap w) w [] trapBody s
def execBkpt (w : TWord) (s : State) : Host.Outcome State Fault Refusal := runThrum (sigBkpt w) w [] bkptBody s

end Sys2Proof.Machine
end

