-- ==== Sys2Proof/Machine/LoadStore.lean ====
section
/-! DEFINITION. Loads, stores, hints, atomics and fences (R171 to R183), and `poll` (R266). -/

namespace Sys2Proof.Machine

/-! ### Operand forms -/

/-- ORD of `ld`, `st`, `lds` and `sts` (Table 7.2). -/
def ordOf (n : Nat) : Ord :=
  match n with
  | 0 => .plain
  | 1 => .relaxed
  | 2 => .acquire
  | 3 => .release
  | 4 => .seqCst
  | _ => .acqRel
/-- ORD of an atomic: 0 and 1 both mean relaxed (R178). -/
def atomOrd (n : Nat) : Ord := if n = 0 then .relaxed else ordOf n
/-- Plain or relaxed. -/
def Ord.weak (o : Ord) : Bool := o == .plain || o == .relaxed

/-- Whether an access is to the scratchpad, and W (R171, R174). -/
structure Mode where
  scr  : Bool
  wide : Bool
deriving DecidableEq, Repr

/-- The address or offset of a thread's access (R171, R174). -/
def Ctx.addr (x : Ctx) (m : Mode) (p : Nat × Thread) : Nat :=
  if m.scr then scrOffset x.w p.2 (laneOf p.1) else (effAddr x.w p.2 (laneOf p.1) m.wide).toNat

/-- The tag checks and the alignment check of an access of `n` bytes; `more` is a further tag check. -/
def Ctx.accCause (x : Ctx) (m : Mode) (n : Nat) (more : Nat × Thread → Bool) (p : Nat × Thread) : Option LaneFault :=
  if !addrTagsOk x.w p.2 m.wide || !more p then some .format
  else if x.addr m p % n ≠ 0 then some (.align (x.addr m p))
  else none

/-- A thread's access with its translation. -/
structure Ready where
  tid  : Nat
  th   : Thread
  addr : Nat
  acc  : Acced
deriving DecidableEq, Repr

/-- Why the accesses of an instruction do not go out: the fault of a thread, or a wait. -/
inductive ReadyErr where
  | fault (tid addr cls sub : Nat)
  | wait
deriving DecidableEq, Repr

/-- Translates and checks one access (R173, R174); a walk registers its agent though it fail (R165). -/
def Ctx.reach1 (x : Ctx) (s : State) (m : Mode) (n : Nat) (need : Need) (p : Nat × Thread) :
    Except (ReadyErr × State) (Ready × State) :=
  let a := x.addr m p
  if m.scr then
    (if x.wg.ssize < a + n then .error (.fault p.1 a clsPerm 0, s)
     else .ok (⟨p.1, p.2, a, { tgt := .scr x.g.core (x.wg.sbase + a), agent := agTlb x.g.core, path := [], mt := 0 }⟩, s))
  else match s.access (agTlb x.g.core) x.wg.fn (x.ranges s) a n need with
    | (.ok t, s1) => .ok (⟨p.1, p.2, a, t⟩, s1)
    | (.error (.fault c k), s1) => .error (.fault p.1 a c k, s1)
    | (.error .wait, s1) => .error (.wait, s1)

/-- Translates and checks the accesses of the threads in turn. -/
def Ctx.reach (x : Ctx) (m : Mode) (n : Nat) (need : Need) :
    State → List (Nat × Thread) → Except (ReadyErr × State) (List Ready × State)
  | s, [] => .ok ([], s)
  | s, p :: ps =>
    match x.reach1 s m n need p with
    | .error e => .error e
    | .ok (r, s1) =>
      match x.reach m n need s1 ps with
      | .error e => .error e
      | .ok (rs, s2) => .ok (r :: rs, s2)

/-- The answer to an access that does not go out; `strong`: the region has been committed before it, and the next begins with it. -/
def Ctx.unready (x : Ctx) (strong : Bool) (e : ReadyErr × State) : Res :=
  match e.1 with
  | .fault tid a c k => .fault (x.accFault tid a c k) e.2
  | .wait => if strong then .hold e.2 .other else .wait e.2

/-- Whether some access performs at the device-register window. DESIGN CHOICE (assumption 103). -/
def anyDev (rs : List Ready) : Bool := rs.any (fun r => r.acc.isDev)
/-- Whether some access has memory type 3 (Table 12.4). -/
def anyIO (rs : List Ready) : Bool := rs.any (fun r => r.acc.mt == 3)

/-- The walk to an address, which registers its agent though it fail or wait (R165). -/
def Ctx.walked (x : Ctx) (s : State) (a : Nat) : State := (s.access (agTlb x.g.core) x.wg.fn (x.ranges s) a 1 needR).2

/-- The pending access that a thread's access becomes. -/
def Ctx.toAcc (x : Ctx) (s : State) (id n : Nat) (ord : Ord) (r : Ready) : Acc :=
  { id := id, th := some (x.ref r.tid), core := x.g.core, fn := x.wg.fn, launch := x.wg.launch, pc := x.g.pc, va := r.addr,
    tgt := r.acc.tgt, n := n, ord := ord, agent := r.acc.agent, inc := tgetD s.incs r.acc.agent 0, path := r.acc.path,
    flag := x.flag,
    range := s.tagFor x.wg.fn r.addr r.acc }

/-- The accesses that the executing threads make, checked in the order of R173; `strong` makes a boundary of the instruction
before its accesses go out, and so does memory type 3 (R332). `atTarget`: an access to the device-register window is first put to its
target (R183). DESIGN CHOICE (assumption 118). -/
def Ctx.accesses (x : Ctx) (s : State) (m : Mode) (n : Nat) (need : Need) (strong atTarget : Bool)
    (go : List Ready → State → Res) : Res :=
  let run (t : State) : Res :=
    match x.reach m n need t x.active with
    | .error e => x.unready strong e
    | .ok (rs, t1) =>
      if anyDev rs && !atTarget then .refuse .deviceWindow
      else if anyIO rs && !strong then x.boundary t1 x.next (go rs)
      else go rs t1
  if strong then x.boundary s x.next run else run s

/-- The threads whose guard is false (R36, R77): with ZM their destination of `k` registers is zeroed with the tag the
instruction would give, unless no instruction may write that tag. -/
def Ctx.zeroOthers (x : Ctx) (k : Nat) (tag : Nat × Thread → Nat) (s : State) : State :=
  if wordZM x.sg x.w then
    x.update s (fun i th =>
      if th.guard x.w || badTag x.wg.fmt (tag (i, th)) then th else writeD x.w th (List.replicate k 0#32) (tag (i, th)))
  else s

/-! ### Loads (R175) -/

/-- The destination register, none for the null destination. -/
def destOf (f : Fld) : Option Nat := if f = fNull then none else some f.toNat

/-- Registers the load of one thread. -/
def Ctx.startLoad (x : Ctx) (n : Nat) (ord : Ord) (sext : Bool) (tag : Nat) (poll : Option Nat) (s : State) (r : Ready) : State :=
  let (id, s1) := s.newId
  let p : PLoad := { acc := x.toAcc s id n ord r, dst := destOf x.w.d, sext := sext, tag := tag, poll := poll }
  let s2 := { s1 with loads := tset s1.loads id p }
  s2.modThread (x.ref r.tid) (fun th =>
    (match destOf x.w.d with
     | some d => th.pendIncs d (regsOf n)
     | none => th).flagUp x.flag)

/-- The NT hint: the line gets its lowest retention priority (Table 7.2). -/
def lowLines (nt : Bool) (s : State) (rs : List Ready) : State :=
  if nt then
    rs.foldl (fun t r => match r.acc.tgt with
      | .glob pa _ => t.modLine (pa / 64) (fun l => { l with low := true })
      | _ => t) s
  else s

/-- `ld` and `lds`. -/
def loadBody (scr : Bool) (x : Ctx) (s : State) : Res :=
  let sz := mdF x.w 0 3
  let n := szBytes sz
  let m : Mode := { scr := scr, wide := !scr && mdB x.w 6 }
  let ord := ordOf (mdF x.w 3 3)
  match x.causes (x.accCause m n (fun _ => !badTag x.wg.fmt x.w.c.toNat)) with
  | some t => .trap t
  | none => x.accesses s m n needR (!ord.weak) false (fun rs t =>
      .ok (x.zeroOthers (regsOf n) (fun _ => x.w.c.toNat)
        (rs.foldl (x.startLoad n ord (sz == 5 || sz == 6) x.w.c.toNat none) (lowLines (mdB x.w 7) t rs))))

/-- `poll` (R266): acquire loads, after which the group waits in the pending set. -/
def pollBody (x : Ctx) (s : State) : Res :=
  let m : Mode := { scr := false, wide := mdB x.w 6 }
  match x.causes (x.accCause m 4 (fun _ => true)) with
  | some t => .trap t
  | none => x.accesses s m 4 needR true false (fun rs t =>
      let u := rs.foldl (x.startLoad 4 .acquire false 2 (some x.gid)) t
      if rs.isEmpty then .ok u else .ok (u.park x.gid (.poll rs.length (16 * 2 ^ mdF x.w 0 4) none [])))

/-! ### Stores (R176, R333) -/

/-- The `n` bytes of the datum C. -/
def Ctx.datum (x : Ctx) (n : Nat) (p : Nat × Thread) : List Byte :=
  if n ≤ 4 then leBytes n (x.src p x.w.c).toNat
  else (srcWide x.w p.2 x.w.c (n / 4)).flatMap (fun v => leBytes 4 v.toNat)

/-- The issue of a store drops the core's own L1 copy of its line (R144); with NT the line gets its lowest priority. -/
def State.noteStore (s : State) (core fn : Nat) (nt : Bool) (a : Nat) : State :=
  match s.storePlace core fn a with
  | some (.glob pa _, _) =>
    let s1 := s.modCore core (fun c => { c with l1 := terase c.l1 (l1Key fn (pa / 64)) })
    if nt then s1.modLine (pa / 64) (fun l => { l with low := true }) else s1
  | _ => s

/-- One thread's store enters the group's buffer. -/
def Ctx.bufferOne (x : Ctx) (scr relaxed : Bool) (n : Nat) (m : Mode) (s : State) (p : Nat × Thread) : State :=
  let (id, s1) := s.newId
  let b : BufStore :=
    { id := id, tid := p.1, scr := scr, addr := x.addr m p, bytes := x.datum n p, pc := x.g.pc, relaxed := relaxed }
  let s2 := s1.modGroup x.gid (fun g => { g with buf := g.buf ++ [b] })
  if scr then s2 else s2.noteStore x.g.core x.wg.fn (mdB x.w 7) (x.addr m p)

/-- The buffer lines that the store names. -/
def Ctx.storeLines (x : Ctx) (m : Mode) : List (Bool × Nat) := x.active.map (fun p => (m.scr, x.addr m p / 64))

/-- The store needs a 65th line of the buffer (R333). -/
def Ctx.overfull (x : Ctx) (m : Mode) : Bool :=
  decide (Config.storeLines < (dedup' (x.g.buf.map BufStore.line ++ x.storeLines m)).length)

/-- Sends one thread's write on its way. -/
def Ctx.startWrite (x : Ctx) (n : Nat) (ord : Ord) (kind : Ready → WrKind) (s : State) (r : Ready) : State :=
  let (id, s1) := s.newId
  let w : PWrite := { acc := x.toAcc s id n ord r, kind := kind r }
  let s2 := { s1 with writes := tset s1.writes id w }
  let s3 := (match r.acc.tgt with
    | .glob pa _ => s2.modCore x.g.core (fun c => { c with l1 := terase c.l1 (l1Key x.wg.fn (pa / 64)) })
    | _ => s2)
  s3.modThread (x.ref r.tid) (fun th =>
    (match w.kind.dst with
     | (some d, k) => th.pendIncs d (regsOf k)
     | (none, _) => th).flagUp x.flag)

/-- Whether some thread's store has memory type 3. -/
def Ctx.storesIO (x : Ctx) (s : State) (m : Mode) : Bool :=
  !m.scr && x.active.any (fun p =>
    match s.storePlace x.g.core x.wg.fn (x.addr m p) with
    | some (_, mt) => mt == 3
    | none => false)

/-- The walks that the accesses of the threads make, which register their agent though they wait (R165). -/
def Ctx.walks (x : Ctx) (m : Mode) (s : State) : State := x.active.foldl (fun t p => x.walked t (x.addr m p)) s
/-- Some thread's access waits for its walk. -/
def Ctx.walkWaits (x : Ctx) (m : Mode) (s : State) : Bool :=
  !m.scr && x.active.any (fun p => match (s.access (agTlb x.g.core) x.wg.fn (x.ranges s) (x.addr m p) 1 needR).1 with
    | .error .wait => true
    | _ => false)

/-- The instruction as one that holds no flag: it completes at the end of its issue cycles (R29). -/
def Ctx.flagless (x : Ctx) : Ctx := { x with w := { x.w with fe := false } }

/-- `st` and `sts`. A plain or relaxed store to I/O memory enters no buffer, and completes for its flag at the end of its issue cycles
(R29). DEDUCED (assumption 140). -/
def storeBody (scr : Bool) (x : Ctx) (s : State) : Res :=
  let n := szBytes (mdF x.w 0 3)
  let m : Mode := { scr := scr, wide := !scr && mdB x.w 6 }
  let ord := ordOf (mdF x.w 3 3)
  let send (y : Ctx) : Res := x.accesses s m n needW true false (fun rs t =>
    .ok (rs.foldl (y.startWrite n ord (fun r => .store (x.datum n (r.tid, r.th)))) (lowLines (mdB x.w 7) t rs)))
  match x.causes (x.accCause m n (fun _ => true)) with
  | some t => .trap t
  | none =>
    if !ord.weak then send x
    else if x.walkWaits m s then .wait (x.walks m s)
    else if x.storesIO s m then send x.flagless
    else match (if scr then x.active.find? (fun p => decide (x.wg.ssize < x.addr m p + n)) else none) with
      | some p => .fault (x.accFault p.1 (x.addr m p) clsPerm 0) s
      | none =>
        let go (t : State) : Res := .ok (x.active.foldl (x.bufferOne scr (ord == .relaxed) n m) t)
        if x.overfull m then x.boundary s x.g.pc go else go s

/-! ### Hints (R177) -/

/-- The physical line that a hint acts on, with its memory type: none when the hint is dropped; and the state after its walk. -/
def Ctx.hintLine (x : Ctx) (s : State) (p : Nat × Thread) : Option (Nat × Nat) × State :=
  match s.access (agTlb x.g.core) x.wg.fn (x.ranges s) (effAddr x.w p.2 (laneOf p.1) (mdB x.w 6)).toNat 1 needR with
  | (.ok t, s1) =>
    ((match t.tgt with
      | .glob pa mt => if t.isDev || s1.isPois (pa / 64 * 64) 64 then none else some (pa / 64, mt)
      | _ => none), s1)
  | (_, s1) => (none, s1)

/-- The prefetch request of one thread: a read that no thread waits for. With LVL 0 it takes a lease of a tracked line into the L1; with
LVL 1 it goes to the home slice and takes none; with LVL 2 it brings the line to the memory-side cache. -/
def Ctx.prefetch (x : Ctx) (s : State) (p : Nat × Thread) : State :=
  match x.hintLine s p with
  | (none, s1) => s1
  | (some (l, mt), s1) =>
    let lvl := mdF x.w 0 2
    if lvl = 0 ∧ mt ≠ 0 then s1
    else
      let (id, s2) := s1.newId
      let a := (effAddr x.w p.2 (laneOf p.1) (mdB x.w 6)).toNat
      let acc : Acc :=
        { id := id, th := none, core := x.g.core, fn := x.wg.fn, launch := x.wg.launch, pc := x.g.pc, va := a / 64 * 64,
          tgt := .glob (64 * l) (if lvl = 0 then mt else homeMt mt), n := 64, ord := .plain, agent := agTlb x.g.core,
          inc := tgetD s.incs (agTlb x.g.core) 0, range := if lvl = 2 ∨ mt = 3 then none else s.tagOf x.wg.fn a }
      { s2 with loads := tset s2.loads id { acc := acc, dst := none, sext := false, tag := 0, msc := lvl = 2 } }

/-- The eviction hint of one thread. -/
def Ctx.evict (x : Ctx) (s : State) (p : Nat × Thread) : State :=
  match x.hintLine s p with
  | (none, s1) => s1
  | (some (l, _), s1) =>
    if mdF x.w 0 2 = 0 then s1.modCore x.g.core (fun c => { c with l1 := terase c.l1 (l1Key x.wg.fn l) })
    else s1.modLine l (fun y => { y with low := true })

def hintBody (one : Ctx → State → Nat × Thread → State) (x : Ctx) (s : State) : Res :=
  match x.causes (fun p => if addrTagsOk x.w p.2 (mdB x.w 6) then none else some .format) with
  | some t => .trap t
  | none =>
    let m : Mode := { scr := false, wide := mdB x.w 6 }
    if x.walkWaits m s then .wait (x.walks m s) else .ok (x.active.foldl (one x) s)

/-! ### Atomics (R178 to R181) -/

/-- The tag set that C must carry (Table 7.4). -/
def atomReq (opc : Nat) : Nat → Bool := if opc = 8 ∨ opc = 11 then tAny else if opc = 9 then tIs 3 else tINT
/-- Registers of C. -/
def atomRegs (opc : Nat) : Nat := if 10 ≤ opc then 2 else 1
/-- The result tag (Table 7.4). -/
def atomTag (opc own : Nat) : Nat :=
  if opc = 4 ∨ opc = 5 then 1 else if opc = 6 ∨ opc = 7 ∨ opc = 12 ∨ opc = 13 then 2 else if opc = 9 then 3 else own
/-- The operand C of a thread. -/
def Ctx.atomVal (x : Ctx) (p : Nat × Thread) (opc : Nat) : W64 :=
  if 10 ≤ opc then srcPair x.w p.2 false x.w.c else (x.src p x.w.c).zeroExtend 64

/-- What a target says to a read-modify-write on an I/O page (R183): the spec does not say which targets support which
operations. DESIGN CHOICE (assumption 27). -/
def ioAtomicOk (s : State) : Bool := Config.choice s.fresh % 2 == 0

/-- The accesses of a read-modify-write. -/
def Ctx.rmw (x : Ctx) (s : State) (m : Mode) (n : Nat) (go : List Ready → State → Res) : Res :=
  x.accesses s m n needRW true true (fun rs t =>
    match rs.find? (fun r => r.acc.mt == 3) with
    | none => go rs t
    | some r =>
      let t1 := { t with fresh := t.fresh + 1 }
      if ioAtomicOk t then (if anyDev rs then .refuse .deviceWindow else go rs t1) else .fault (x.accFault r.tid r.addr clsPerm 0) t1)

/-- `atom`, `atomn` and `atoms`. DESIGN CHOICE (assumption 119). -/
def atomBody (scr noReturn : Bool) (x : Ctx) (s : State) : Res :=
  let opc := mdF x.w 0 4
  let n := opcBytes opc
  let m : Mode := { scr := scr, wide := !scr && mdB x.w 7 }
  let own (p : Nat × Thread) : Nat := srcTag x.w p.2 (laneOf p.1) x.w.c
  match x.causes (x.accCause m n (fun p =>
      tagOk p.2 x.w.c (atomRegs opc) (atomReq opc) &&
        (x.w.d == fNull || !badTag x.wg.fmt (atomTag opc (own p))))) with
  | some t => .trap t
  | none => x.rmw s m n (fun rs t =>
      .ok (x.zeroOthers (atomRegs opc) (fun p => atomTag opc (own p))
        (rs.foldl (x.startWrite n (atomOrd (mdF x.w 4 3)) (fun r =>
          .rmw opc (x.atomVal (r.tid, r.th) opc) (destOf x.w.d) (atomTag opc (own (r.tid, r.th))) noReturn)) t)))

/-- The compare and the new value of `cas` and `cass` (R181). -/
def casParts (wide : Bool) (x : Ctx) (p : Nat × Thread) : W64 × W64 :=
  match srcWide x.w p.2 x.w.c (if wide then 4 else 2) with
  | [a, b, c, d] => (b ++ a, d ++ c)
  | [a, b] => (a.zeroExtend 64, b.zeroExtend 64)
  | _ => (0#64, 0#64)

/-- `cas` and `cass`. DESIGN CHOICE (assumption 119). -/
def casBody (scr : Bool) (x : Ctx) (s : State) : Res :=
  let wide := mdB x.w 0
  let n := if wide then 8 else 4
  let m : Mode := { scr := scr, wide := !scr && mdB x.w 7 }
  let own (p : Nat × Thread) : Nat := srcTag x.w p.2 (laneOf p.1) x.w.c
  match x.causes (x.accCause m n (fun p => x.w.d == fNull || !badTag x.wg.fmt (own p))) with
  | some t => .trap t
  | none => x.rmw s m n (fun rs t =>
      .ok (x.zeroOthers (if wide then 2 else 1) own
        (rs.foldl (x.startWrite n (atomOrd (mdF x.w 4 3)) (fun r =>
          let v := casParts wide x (r.tid, r.th)
          .cas wide v.1 v.2 (destOf x.w.d) (own (r.tid, r.th)))) t)))

/-! ### Fences (R182, Table 6.6) -/

/-- No earlier read of the thread is unsatisfied. -/
def State.readsDone (s : State) (r : ThRef) : Bool := !(s.accessesOf r).any (·.read)
/-- Every earlier access of the thread has performed. -/
def State.accessesDone (s : State) (r : ThRef) : Bool := (s.accessesOf r).isEmpty
/-- Every earlier access and query of the thread has been made: what an instruction that is a release itself waits for.
DEDUCED (assumption 128). -/
def State.allDone (s : State) (r : ThRef) : Bool :=
  (s.pendingOf r).isEmpty

/-- Waits, with the region committed, until `done` holds of every executing thread. -/
def Ctx.waitDone (x : Ctx) (s : State) (done : State → ThRef → Bool) (k : State → Res) : Res :=
  x.boundary s x.g.pc (fun t =>
    if x.active.all (fun p => done t (x.ref p.1)) then k (t.modGroup x.gid (fun g => { g with rstart := x.next }))
    else .hold t .other)

/-- `fence.rel`: it completes at once for a thread with nothing earlier outstanding; else later writes honour it. -/
def Ctx.fenceRel (x : Ctx) (s : State) : State :=
  x.active.foldl (fun t p =>
    let r := x.ref p.1
    if (t.accessesOf r).isEmpty then t
    else
      let (id, t1) := t.newId
      ({ t1 with fences := tset t1.fences id { id := id, th := r, flag := x.flag } }).modThread r (fun th => th.flagUp x.flag)) s

/-- `fence`. -/
def fenceBody (x : Ctx) (s : State) : Res :=
  match mdF x.w 0 2 with
  | 1 => x.waitDone s State.readsDone .ok
  | 2 => x.boundary s x.next (fun t => .ok (x.fenceRel t))
  | _ => x.waitDone s State.accessesDone .ok

/-! ### The meanings -/

def execLd (w : TWord) (s : State) : Host.Outcome State Fault Refusal := runThrum (sigLd w) w [] (loadBody false) s
def execLds (w : TWord) (s : State) : Host.Outcome State Fault Refusal := runThrum (sigLds w) w [] (loadBody true) s
def execSt (w : TWord) (s : State) : Host.Outcome State Fault Refusal := runThrum (sigSt w) w [] (storeBody false) s
def execSts (w : TWord) (s : State) : Host.Outcome State Fault Refusal := runThrum (sigSts w) w [] (storeBody true) s
def execPf (w : TWord) (s : State) : Host.Outcome State Fault Refusal := runThrum (sigPf w) w [] (hintBody Ctx.prefetch) s
def execEvict (w : TWord) (s : State) : Host.Outcome State Fault Refusal := runThrum (sigEvict w) w [] (hintBody Ctx.evict) s
def execAtom (w : TWord) (s : State) : Host.Outcome State Fault Refusal := runThrum (sigAtom w) w [] (atomBody false false) s
def execAtomn (w : TWord) (s : State) : Host.Outcome State Fault Refusal := runThrum (sigAtomn w) w [] (atomBody false true) s
def execCas (w : TWord) (s : State) : Host.Outcome State Fault Refusal := runThrum (sigCas w) w [] (casBody false) s
def execAtoms (w : TWord) (s : State) : Host.Outcome State Fault Refusal := runThrum (sigAtoms w) w [] (atomBody true false) s
def execCass (w : TWord) (s : State) : Host.Outcome State Fault Refusal := runThrum (sigCass w) w [] (casBody true) s
def execFence (w : TWord) (s : State) : Host.Outcome State Fault Refusal := runThrum (sigFence w) w [] fenceBody s
def execPoll (w : TWord) (s : State) : Host.Outcome State Fault Refusal := runThrum (sigPoll w) w [] pollBody s

end Sys2Proof.Machine
end

