-- ==== Sys2Proof/Machine/Copy.lean ====
section
/-! DEFINITION. The copy engine: `acp` and `rcp` (R190, R191), tensor records and boxes (R192 to R200), the check of a copy (R186) and
the landing of its writes (R187 to R189). -/

namespace Sys2Proof.Machine

/-! ### Plans -/

/-- What a thread's copy is to do, worked out at issue. -/
structure CopyPlan where
  units  : List CUnit := []
  red    : Option RedOp := none
  picot  : Option Nat := none
  peers  : List (Nat × Nat × Nat) := []
  signal : Option Nat := none
  /-- A destination peer did not exist (R187). -/
  part   : Bool := false
deriving DecidableEq, Repr

/-- What planning answers: a plan; a cause that the thread raises; a memory fault of the record's read; a wait. -/
inductive PlanRes where
  | ok (p : CopyPlan)
  | cause (f : LaneFault)
  | fault (addr cls sub : Nat)
  | wait
deriving DecidableEq, Repr

/-- The first that fails of a list of alignment requirements: value and multiple. -/
def misaligned (l : List (Nat × Nat)) : Option LaneFault :=
  (l.find? (fun q => q.1 % q.2 != 0)).map (fun q => .align q.1)

/-- The offset that a picot operand E names (R184). -/
def Ctx.picotOff (x : Ctx) (p : Nat × Thread) : Option Nat :=
  let e := wordE x.sg x.w
  if e = fZero then none else some (x.src p e).toNat

/-- The tag check of E. -/
def eTagOk (x : Ctx) (th : Thread) (n : Nat) : Bool :=
  let e := wordE x.sg x.w
  e == fZero || tagOk th e n tINT

/-- The core at a position of a launch's rectangle. -/
def State.launchCore (s : State) (l lx ly : Nat) : Option Nat :=
  (s.launch? l).map (fun x => let r := pktRect x.packet; coreAt (r.ox + lx) (r.oy + ly))

/-- The peer of the issuing workgroup at a launch position (R187): one that stands on the core of its position (R383), or, at its own
position, itself. DEDUCED (assumption 100). -/
def State.peerAt (s : State) (wid : Nat) (w : Wg) (lx ly : Nat) : Option (Nat × Wg) :=
  if lx = w.lx ∧ ly = w.ly then some (wid, w)
  else s.wgs.find? (fun q => q.2.launch == w.launch && q.2.wgl == w.wgl && q.2.lx == lx && q.2.ly == ly &&
    s.launchCore w.launch lx ly == some q.2.core && !s.wgGone q.1 q.2)

/-- A destination allocation: its position in the sub-rectangle, and the peer there. -/
structure Peer where
  pos : Nat
  wg  : Option (Nat × Wg)

/-- The destination of bytes at an offset of a peer's allocation, stamped with the allocation's generation. -/
def Peer.dst (q : Peer) (off : Nat) : Option CDst :=
  q.wg.map (fun v => .peer q.pos v.2.core (some v.1) v.2.gen v.2.sbase off)

def Peer.entry (q : Peer) : Option (Nat × Nat × Nat) := q.wg.map (fun v => (q.pos, v.2.core, v.1))

/-- The issuing workgroup as its own only destination. -/
def Ctx.selfPeer (x : Ctx) : Peer := ⟨0, some (x.wid, x.wg)⟩

/-- The units that write `n` bytes with sources `srcs` at an offset of every peer that exists. -/
def toPeers (ps : List Peer) (off n : Nat) (srcs : List CPiece) : List CUnit :=
  ps.filterMap (fun q => (q.dst off).map (fun d => { srcs := srcs, dst := d, n := n, chunk := some off }))

/-! ### `acp` and `rcp` -/

/-- The 16-byte units of a plain copy of `len` bytes. -/
def plainUnits (len : Nat) (src : Nat → CSrc) (dst : Nat → Option CDst) : List CUnit :=
  (upTo (len / 16)).filterMap (fun i => (dst (16 * i)).map (fun d => { srcs := [⟨src (16 * i), 16⟩], dst := d, n := 16 }))

/-- Plans an `acp` (R190). DEDUCED (assumption 18). -/
def planAcp (x : Ctx) (p : Nat × Thread) (_ : State) : PlanRes :=
  let dir := mdF x.w 0 2
  let len := (x.src p x.w.c).toNat
  let tags := tagOk p.2 x.w.a (if dir = 0 then 1 else 2) tINT && tagOk p.2 x.w.b (if dir = 1 then 1 else 2) tINT &&
    tagOk p.2 x.w.c 1 tINT && eTagOk x p.2 1
  let a := if dir = 0 then (x.src p x.w.a).toNat else (srcPair x.w p.2 false x.w.a).toNat
  let b := if dir = 1 then (x.src p x.w.b).toNat else (srcPair x.w p.2 false x.w.b).toNat
  let pic := x.picotOff p
  if !tags then .cause .format
  else if 1048576 < len then .cause .operand
  else match misaligned ([(a, 16), (b, 16)] ++ (match pic with | some o => [(o, 16)] | none => [])) with
    | some f => .cause f
    | none =>
      if len % 16 ≠ 0 then .cause (.align a)
      else
        let src (i : Nat) : CSrc := if dir = 1 then .scr (b + i) else .va (b + i)
        let dst (i : Nat) : Option CDst := if dir = 0 then x.selfPeer.dst (a + i) else some (.va (a + i))
        .ok { units := plainUnits len src dst, picot := pic,
              peers := if dir = 0 then [(0, x.g.core, x.wid)] else [] }

/-- Plans an `rcp` (R191). -/
def planRcp (x : Ctx) (p : Nat × Thread) (_ : State) : PlanRes :=
  let len := (x.src p x.w.c).toNat
  let tags := tagOk p.2 x.w.a 2 tINT && tagOk p.2 x.w.b 2 tINT && tagOk p.2 x.w.c 1 tINT && eTagOk x p.2 2
  let a := (srcPair x.w p.2 false x.w.a).toNat
  let b := (srcPair x.w p.2 false x.w.b).toNat
  let e := wordE x.sg x.w
  let sgn : Option Nat := if e = fZero then none else some (srcPair x.w p.2 false e).toNat
  if !tags then .cause .format
  else if 1048576 < len then .cause .operand
  else match misaligned ([(a, 16), (b, 16)] ++ (match sgn with | some o => [(o, 8)] | none => [])) with
    | some f => .cause f
    | none =>
      if len % 16 ≠ 0 then .cause (.align a)
      else .ok { units := plainUnits len (fun i => .va (b + i)) (fun i => some (.va (a + i))), signal := sgn }

/-! ### Tensor records (R192 to R195) -/

/-- A tensor record (Table 7.7): dimension lists have five entries, strides in bytes with that of dimension 0 left out. -/
structure Tensor where
  base  : Nat
  size  : List Nat
  strd  : List Nat
  box   : List Nat
  fmt   : Nat
  side  : Nat
  bs    : Bool
  swz   : Nat
  rank  : Nat
  pdim  : Nat
  podt  : Bool
  fill  : Nat
  soff  : Nat
  pdev0 : Nat
  plog  : Nat
deriving DecidableEq, Repr

def tensorOf (r : List Byte) : Tensor :=
  let b50 := recVal r 50 1
  let b51 := recVal r 51 1
  { base := recVal r 0 8, size := (upTo 5).map (fun i => recVal r (8 + 4 * i) 4),
    strd := (upTo 4).map (fun i => 16 * recVal r (28 + 4 * i) 4), box := (upTo 5).map (fun i => recVal r (44 + i) 1 + 1),
    fmt := fieldN (recVal r 49 1) 0 6, side := if bitN b50 7 then 32 else 16, bs := bitN b50 6, swz := fieldN b50 3 3,
    rank := fieldN b50 0 3, pdim := fieldN b51 1 3, podt := bitN b51 0, fill := recVal r 52 4, soff := recVal r 56 4,
    pdev0 := recVal r 60 1, plog := recVal r 61 1 }

def Tensor.x (t : Tensor) (i : Nat) : Nat := t.box.getD i 1
def Tensor.sz (t : Tensor) (i : Nat) : Nat := t.size.getD i 1

/-- A floating format of byte or nibble class (R194): not untyped, not 7, 8 or 9; a loaded scaled-integer format counts as one
(R125). -/
def blockTag (fmt : Tab W32) (t : Nat) : Bool := t != 0 && t != 7 && t != 8 && t != 9 && decide (tagBits fmt t ≤ 8)

/-- Breaches of Table 7.7 in the record itself. DEDUCED (assumption 19). -/
def badTensor (fmt : Tab W32) (r : List Byte) : Bool :=
  let t := tensorOf r
  t.base % 16 != 0 || decide (2 ^ 56 ≤ t.base) || (t.podt && decide (2 ^ 47 ≤ t.base)) ||
    t.size.any (· == 0) || (spanN t.rank (5 - t.rank)).any (fun i => t.sz i != 1 || t.x i != 1) ||
    decide (65535 < t.sz 3 ∨ 65535 < t.sz 4) || fieldN (recVal r 49 1) 6 2 != 0 || t.fmt == 14 || t.fmt == 15 ||
    (decide (16 ≤ t.fmt) && (tget? fmt t.fmt).isNone) || decide (4 ≤ t.swz) || t.rank == 0 || decide (5 < t.rank) ||
    fieldN (recVal r 51 1) 4 4 != 0 || decide (t.rank ≤ t.pdim) || (!t.bs && t.soff != 0) ||
    (!t.podt && (t.pdev0 != 0 || t.plog != 0)) || decide (31 < t.plog) || recVal r 62 2 != 0

/-- Bits of an element. -/
def Tensor.bits (fmt : Tab W32) (t : Tensor) : Nat := tagBits fmt t.fmt

/-- Bytes of `k` elements. -/
def elemBytes (bits k : Nat) : Nat := k * bits / 8

/-- Coordinates from the quad B (R193). -/
def boxCoords (ws : List W32) : List Int :=
  let w3 : W32 := ws.getD 3 0#32
  [(ws.getD 0 0#32).toInt, (ws.getD 1 0#32).toInt, (ws.getD 2 0#32).toInt, (w3.extractLsb' 0 16).toInt,
   (w3.extractLsb' 16 16).toInt]

/-- Elements of the box. -/
def Tensor.elems (t : Tensor) : Nat := t.box.foldl (· * ·) 1
/-- `S0`, the bytes of the box image (R193). -/
def Tensor.s0 (fmt : Tab W32) (t : Tensor) : Nat := elemBytes (t.bits fmt) t.elems
/-- Blocks of a matrix slice, and slices, of the box with BS = 1 (R194). -/
def Tensor.boxCols (t : Tensor) : Nat := t.x 0 / t.side
def Tensor.boxRows (t : Tensor) : Nat := t.x 1 / t.side
def Tensor.scaleBytes (t : Tensor) : Nat := if t.bs then t.boxCols * t.boxRows * (t.x 2 * t.x 3 * t.x 4) else 0
/-- `S`, the bytes of the copied image: box image, padding to 16 bytes, scale image. -/
def Tensor.total (fmt : Tab W32) (t : Tensor) : Nat := t.s0 fmt + t.scaleBytes

/-- Pod devices that in-bounds coordinates reach (R195): whether some is above 255. -/
def Tensor.podHigh (t : Tensor) (c : List Int) : Bool :=
  t.podt &&
    (let lo := c.getD t.pdim 0
     (upTo (t.x t.pdim)).any (fun b =>
      let k := lo + (b : Int)
      decide (0 ≤ k ∧ k < (t.sz t.pdim : Int)) && decide (255 < t.pdev0 + k.toNat / 2 ^ t.plog)))

/-- Breaches that the coordinates and the box make (R193 to R195). -/
def badBox (fmt : Tab W32) (t : Tensor) (c : List Int) : Bool :=
  let nib := t.bits fmt == 4
  let odd (v : Int) : Bool := v % 2 != 0
  (nib && (t.sz 0 % 2 != 0 || t.x 0 % 2 != 0 || odd (c.getD 0 0))) ||
    (spanN t.rank (5 - t.rank)).any (fun i => c.getD i 0 != 0) ||
    (t.swz != 0 && elemBytes (t.bits fmt) (t.x 0) % 128 != 0) || t.s0 fmt % 16 != 0 ||
    (t.bs && (!blockTag fmt t.fmt || decide (t.rank < 2) || t.x 0 % t.side != 0 || t.x 1 % t.side != 0 ||
      c.getD 0 0 % (t.side : Int) != 0 || c.getD 1 0 % (t.side : Int) != 0)) ||
    t.podHigh c

/-- The indices of box element number `k` in the five dimensions. -/
def Tensor.index (t : Tensor) (k : Nat) : List Nat :=
  let k1 := k / t.x 0
  let k2 := k1 / t.x 1
  let k3 := k2 / t.x 2
  [k % t.x 0, k1 % t.x 1, k2 % t.x 2, k3 % t.x 3, k3 / t.x 3]

/-- Tensor coordinates of a box element; none when one lies outside its dimension. -/
def Tensor.coord (t : Tensor) (c : List Int) (idx : List Nat) : Option (List Nat) :=
  let ks := (upTo 5).map (fun i => c.getD i 0 + (idx.getD i 0 : Int))
  if (upTo 5).all (fun i => decide (0 ≤ ks.getD i 0 ∧ ks.getD i 0 < (t.sz i : Int))) then some (ks.map Int.toNat) else none

/-- The pod-window address of an offset on a device (Table 6.1). DESIGN CHOICE (assumption 126). -/
def podAddr (dev off : Nat) : Nat := 2 ^ 55 + dev * 2 ^ 47 + off % 2 ^ 47

/-- The address of the element at in-bounds coordinates (R193, R195), modulo 2^64. DESIGN CHOICE (assumption 145). -/
def Tensor.addrOf (fmt : Tab W32) (t : Tensor) (k : List Nat) : Nat :=
  let at_ (k : List Nat) : Nat := t.base + elemBytes (t.bits fmt) (k.getD 0 0) +
    (upTo 4).foldl (fun a i => a + k.getD (i + 1) 0 * t.strd.getD i 0) 0
  if t.podt then
    let v := k.getD t.pdim 0
    podAddr (t.pdev0 + v / 2 ^ t.plog) (at_ (k.set t.pdim (v % 2 ^ t.plog)))
  else at_ k % 2 ^ 64

/-- The address of byte `o` of the box image before swizzling; none when its element is out of bounds. -/
def Tensor.byteAddr (fmt : Tab W32) (t : Tensor) (c : List Int) (o : Nat) : Option Nat :=
  let b := t.bits fmt
  let k := o * 8 / b
  (t.coord c (t.index k)).map (fun q => t.addrOf fmt q + (if 8 ≤ b then o % (b / 8) else 0))

/-- Byte `o` of the box image holds this byte of FILL when its element is out of bounds (R193). -/
def Tensor.fillByte (fmt : Tab W32) (t : Tensor) (o : Nat) : Byte :=
  let b := t.bits fmt
  if b = 4 then BitVec.ofNat 8 (t.fill % 16 * 17) else BitVec.ofNat 8 (t.fill / 256 ^ (o % (b / 8)))

/-- The place of image byte `o` under the swizzle (R193). -/
def Tensor.swizzle (t : Tensor) (o : Nat) : Nat :=
  if t.swz = 0 then o
  else
    let row := o / 128
    let chunk := o / 16 % 8
    o - 16 * chunk + 16 * (chunk ^^^ (row % 2 ^ t.swz))

/-- The address of the scale of block `j` of the scale image (R194); none when the block lies wholly out of bounds.
DEDUCED (assumption 20). -/
def Tensor.scaleAddr (t : Tensor) (c : List Int) (j : Nat) : Option Nat :=
  let col := j % t.boxCols
  let row := j / t.boxCols % t.boxRows
  let sl := j / (t.boxCols * t.boxRows)
  let idx := [col * t.side, row * t.side, sl % t.x 2, sl / t.x 2 % t.x 3, sl / t.x 2 / t.x 3]
  (t.coord c idx).map (fun k0 =>
    let at_ := k0.getD t.pdim 0
    let k := if t.podt then k0.set t.pdim (at_ % 2 ^ t.plog) else k0
    let ceil (n : Nat) : Nat := (n + t.side - 1) / t.side
    let mat := (k.getD 4 0 * t.sz 3 + k.getD 3 0) * t.sz 2 + k.getD 2 0
    let off := t.base + 64 * t.soff + mat * (ceil (t.sz 1) * ceil (t.sz 0)) + k.getD 1 0 / t.side * ceil (t.sz 0) + k.getD 0 0 / t.side
    if t.podt then podAddr (t.pdev0 + at_ / 2 ^ t.plog) off else off % 2 ^ 64)

/-- Joins source bytes into pieces: consecutive addresses inside one 64-byte line, consecutive offsets, or literal bytes. -/
def joinPieces : List CSrc → List CPiece
  | [] => []
  | b :: bs =>
    match b, joinPieces bs with
    | .va a, ⟨.va a', n⟩ :: ps =>
      if a + 1 = a' ∧ a / 64 = (a' + n - 1) / 64 then ⟨.va a, n + 1⟩ :: ps else ⟨.va a, 1⟩ :: ⟨.va a', n⟩ :: ps
    | .scr a, ⟨.scr a', n⟩ :: ps => if a + 1 = a' then ⟨.scr a, n + 1⟩ :: ps else ⟨.scr a, 1⟩ :: ⟨.scr a', n⟩ :: ps
    | .lit x, ⟨.lit y, n⟩ :: ps => ⟨.lit (x ++ y), n + 1⟩ :: ps
    | c, ps => ⟨c, 1⟩ :: ps

/-- The source of byte `o` of the copied image, the scale image included. -/
def Tensor.loadByte (fmt : Tab W32) (t : Tensor) (c : List Int) (o : Nat) : CSrc :=
  if o < t.s0 fmt then
    (match t.byteAddr fmt c o with
     | some a => .va a
     | none => .lit [t.fillByte fmt o])
  else match t.scaleAddr c (o - t.s0 fmt) with
    | some a => .va a
    | none => .lit [0#8]

/-- The chunks of at most 16 bytes of the copied image: place within the image and sources. -/
def Tensor.loadChunks (fmt : Tab W32) (t : Tensor) (c : List Int) : List (Nat × List CPiece × Nat) :=
  (upTo ((t.total fmt + 15) / 16)).map (fun i =>
    let n := min 16 (t.total fmt - 16 * i)
    let srcs := joinPieces ((spanN (16 * i) n).map (t.loadByte fmt c))
    (if 16 * i < t.s0 fmt then t.swizzle (16 * i) else 16 * i, srcs, n))

/-- Groups the bytes of a store into units: consecutive addresses inside one aligned 16 bytes (R189). -/
def joinStores : List (CSrc × Nat) → List CUnit
  | [] => []
  | (b, a) :: bs =>
    match joinStores bs with
    | u :: us =>
      let one : CUnit := { srcs := [⟨b, 1⟩], dst := .va a, n := 1 }
      (match u.dst with
       | .va a' =>
         if a + 1 = a' ∧ a / 16 = (a' + u.n - 1) / 16 then
           let v : CUnit := { u with dst := .va a, n := u.n + 1 }
           (match b, u.srcs with
            | .scr o, ⟨.scr o', k⟩ :: qs =>
              if o + 1 = o' then { v with srcs := ⟨.scr o, k + 1⟩ :: qs } :: us else { v with srcs := ⟨b, 1⟩ :: u.srcs } :: us
            | _, ps => { v with srcs := ⟨b, 1⟩ :: ps } :: us)
         else one :: u :: us
       | _ => one :: u :: us)
    | [] => [{ srcs := [⟨b, 1⟩], dst := .va a, n := 1 }]

/-- The bytes that `tst` writes: in-bounds elements, and the scales of blocks not wholly out of bounds (R199). -/
def Tensor.storeBytes (fmt : Tab W32) (t : Tensor) (c : List Int) (off : Nat) : List (CSrc × Nat) :=
  (upTo (t.s0 fmt)).filterMap (fun o => (t.byteAddr fmt c o).map (fun a => (.scr (off + t.swizzle o), a))) ++
    (upTo t.scaleBytes).filterMap (fun j => (t.scaleAddr c j).map (fun a => (.scr (off + t.s0 fmt + j), a)))

/-- The element reductions of `trst`. -/
def Tensor.redUnits (fmt : Tab W32) (t : Tensor) (c : List Int) (off : Nat) : List CUnit :=
  let e := t.bits fmt / 8
  (upTo t.elems).filterMap (fun k =>
    (t.byteAddr fmt c (e * k)).map (fun a =>
      { srcs := [⟨.scr (off + t.swizzle (e * k)), e⟩], dst := .red a, n := e }))

/-- Which tensor instruction is planned. -/
inductive TKind where
  | tcp | tmc | tsf | tst | trst
deriving DecidableEq, Repr

/-- The peers of the sub-rectangle of R197, by rising position; none when it is not wholly inside the launch rectangle. -/
def Ctx.subRect (x : Ctx) (s : State) : Option (List Peer) :=
  let lw := 2 ^ mdF x.w 0 3
  let lh := 2 ^ mdF x.w 3 3
  let x0 := x.wg.lx / lw * lw
  let y0 := x.wg.ly / lh * lh
  if x.wg.lw < x0 + lw ∨ x.wg.lh < y0 + lh then none
  else some ((upTo (lw * lh)).map (fun i => ⟨i, s.peerAt x.wid x.wg (x0 + i % lw) (y0 + i / lw)⟩))

/-- The position of the issuing core in its sub-rectangle. -/
def Ctx.subPos (x : Ctx) : Nat :=
  x.wg.lx % 2 ^ mdF x.w 0 3 + 2 ^ mdF x.w 0 3 * (x.wg.ly % 2 ^ mdF x.w 3 3)

/-- The units of a tensor instruction whose record and coordinates are sound; none for a further breach (R198, R200). -/
def Ctx.boxPlan (x : Ctx) (k : TKind) (t : Tensor) (c : List Int) (off : Nat) (pic : Option Nat) (ps : List Peer) :
    Option CopyPlan :=
  let fmt := x.wg.fmt
  let load (chunks : List (Nat × List CPiece × Nat)) : CopyPlan :=
    { units := chunks.flatMap (fun q => toPeers ps (off + q.1) q.2.2 q.2.1), picot := pic,
      peers := ps.filterMap Peer.entry, part := ps.any (fun q => q.wg.isNone) }
  match k with
  | .tcp | .tmc => some (load (t.loadChunks fmt c))
  | .tsf =>
    let n := ps.length
    let tot := t.total fmt
    if tot % (16 * n) ≠ 0 then none
    else
      let lo := x.subPos * (tot / n)
      some (load ((t.loadChunks fmt c).filter (fun q => decide (lo ≤ q.1 ∧ q.1 < lo + tot / n))))
  | .tst => some { units := joinStores (t.storeBytes fmt c off) }
  | .trst =>
    if t.bs || !decide (1 ≤ t.fmt ∧ t.fmt ≤ 5) then none
    else some { units := t.redUnits fmt c off, red := some ⟨mdB x.w 0, t.fmt⟩ }

/-- A thread's read of a record as a pending access. -/
def Ctx.recordAcc (x : Ctx) (s : State) (tid a n : Nat) (t : Acced) : Acc :=
  x.toAcc s s.nextId n .plain { tid := tid, th := {}, addr := a, acc := t }

/-- What becomes of the read of a record of another device, as of `podAnswer`: delivered (0), refused (1), undeliverable (2), delivered
poisoned (3). -/
def State.podRecord (s : State) (a : Nat) : Nat := (Config.podByte s.fresh (2 ^ 64 + a)).toNat % 4

/-- The bytes of a record for a thread: what memory holds under the thread's own stores, once the orders of Table 6.5 let it be
read (R159, R144). DESIGN CHOICE (assumption 125). -/
def Ctx.readRecord (x : Ctx) (s : State) (tid a n : Nat) : Except AccErr (List Byte) :=
  match s.access (agTlb x.g.core) x.wg.fn (x.ranges s) a n needR with
  | (.error e, _) => .error e
  | (.ok t, s1) =>
    let acc := x.recordAcc s1 tid a n t
    if !s1.ordOk ⟨acc, true, false, false⟩ then .error .wait
    else if s1.ownSupply acc then .ok (s1.readNow acc)
    else if s1.heldBack acc then .error .wait
    else match t.tgt with
      | .glob pa _ =>
        if s1.readWaits (pa / 64) acc.atCore then .error .wait
        else if s1.isPois pa n then .error (.fault clsPoison 0)
        else .ok (s1.readNow acc)
      | _ =>
        if s1.podRecord a = 0 then .ok (s1.underOwn acc ((upTo n).map (fun i => Config.podByte s1.fresh (a + i))))
        else .error (.fault (if s1.podRecord a = 1 then clsPerm else clsPoison) 0)

/-- A table, record or node that an instruction has read comes to its home slice, or is asked of the other device of the pod (R322); not
where the thread's own stores supply it. -/
def Ctx.sawBytes (x : Ctx) (s : State) (tid a n : Nat) : State :=
  match s.access (agTlb x.g.core) x.wg.fn (x.ranges s) a n needR with
  | (.ok t, s1) =>
    let acc := x.recordAcc s1 tid a n t
    if s1.ownSupply acc then s1
    else match t.tgt with
      | .glob pa mt => s1.touch x.wg.fn (pa / 64) mt
      | .pod _ _ =>
        let u := s1.free.2.askPod acc (.read n)
        if s1.podRecord a = 2 then u.podLost x.wg.fn else u
      | _ => s1
  | (_, s1) => s1
/-- The address of a thread's tensor record. -/
def Ctx.recordAt (x : Ctx) (p : Nat × Thread) : Nat := (srcPair x.w p.2 false x.w.c).toNat
/-- The tensor records that the executing threads have read, and the walks to them. -/
def Ctx.sawRecords (x : Ctx) (s : State) : State := x.active.foldl (fun t p => x.sawBytes t p.1 (x.recordAt p) 64) s
def Ctx.metRecords (x : Ctx) (s : State) : State := x.active.foldl (fun t p => x.walked t (x.recordAt p)) s

/-- Plans a tensor instruction. -/
def planTensor (k : TKind) (x : Ctx) (p : Nat × Thread) (s : State) : PlanRes :=
  let store := k == .tst || k == .trst
  let tags := tagOk p.2 x.w.a 1 tINT && tagOk p.2 x.w.b 4 tINT && tagOk p.2 x.w.c 2 tINT && (store || eTagOk x p.2 1)
  let off := (x.src p x.w.a).toNat
  let ra := (srcPair x.w p.2 false x.w.c).toNat
  let pic := if store then none else x.picotOff p
  let peers := (match k with | .tmc | .tsf => x.subRect s | _ => some [x.selfPeer])
  if !tags then .cause .format
  else match peers with
    | none => .cause .operand
    | some ps =>
      match misaligned ([(off, 16), (ra, 64)] ++ (match pic with | some o => [(o, 16)] | none => [])) with
      | some f => .cause f
      | none =>
        match x.readRecord s p.1 ra 64 with
        | .error .wait => .wait
        | .error (.fault c sub) => .fault ra c sub
        | .ok r =>
          let t := tensorOf r
          let c := boxCoords (srcWide x.w p.2 x.w.b 4)
          if badTensor x.wg.fmt r || badBox x.wg.fmt t c then .cause .record
          else match x.boxPlan k t c off pic ps with
            | some q => .ok q
            | none => .cause .record

/-! ### Issue (R184) -/

/-- Numbers the units of a copy. -/
def numberUnits (us : List CUnit) : Tab CUnit := (upTo us.length).zip us

/-- The batch that a thread's copy joins or opens (R158), with the state after it. -/
def Ctx.joinBatch (x : Ctx) (s : State) (tid : Nat) : Nat × State :=
  let r := x.ref tid
  let d := x.w.d.toNat
  let fl := match x.flag with | some f => [f] | none => []
  let open_ := (tget? (s.thread r).tokens d).bind (fun b => (tget? s.batches b).map (fun y => (b, y)))
  match open_ with
  | some (b, y) => (b, { s with batches := tset s.batches b { y with joins := y.joins + 1, flags := y.flags ++ fl } })
  | none =>
    let (b, s1) := s.newId
    let y : Batch := { th := r, reg := d, joins := 1, done := 0, flags := fl }
    let s2 := { s1 with batches := tset s1.batches b y }
    (b, s2.modThread r (fun th => ({ th with tokens := tset th.tokens d b } : Thread).pendInc d))

/-- Issues one thread's copy. A copy without units or signal completes at once (R186). -/
def Ctx.startCopy (x : Ctx) (s : State) (q : Nat × CopyPlan) : State :=
  let (b, s1) := x.joinBatch s q.1
  let s2 := s1.modThread (x.ref q.1) (fun th => th.flagUp x.flag)
  let s3 := { s2 with batches := tmod s2.batches b (fun y => { y with part := y.part || q.2.part }) }
  if q.2.units.isEmpty && q.2.signal.isNone then
    { s3 with batches := tmod s3.batches b (fun y => { y with done := y.done + 1 }) }
  else
    let (id, s4) := s3.newId
    let c : Copy :=
      { id := id, th := x.ref q.1, core := x.g.core, fn := x.wg.fn, launch := x.wg.launch, pc := x.g.pc,
        units := numberUnits q.2.units, red := q.2.red, picot := q.2.picot, peers := q.2.peers, signal := q.2.signal,
        batch := b }
    { s4 with copies := tset s4.copies id c }

/-- The engine has room for the copies of every executing thread (R184). -/
def Ctx.copyRoom (x : Ctx) (s : State) : Bool :=
  decide ((s.copies.filter (fun p => p.2.core == x.g.core)).length + x.active.length ≤ Config.copyQueue)

/-- Issues the copies of the executing threads: causes in the order of R37, the faults of reading a record before its
record-format fault, the room of the engine, the region boundary, then the copies. -/
def copyBody (plan : Ctx → Nat × Thread → State → PlanRes) (x : Ctx) (s : State) (tensor : Bool := false) : Res :=
  let rs := x.active.map (fun p => (p.1, plan x p s))
  let early := rs.filterMap (fun q => match q.2 with
    | .cause .record => none
    | .cause f => some (q.1, f)
    | _ => none)
  let late := rs.filterMap (fun q => match q.2 with
    | .cause .record => some (q.1, LaneFault.record)
    | _ => none)
  match pickTrap early with
  | some t => .trap t
  | none =>
    match rs.findSome? (fun q => match q.2 with | .fault a c k => some (q.1, a, c, k) | _ => none) with
    | some (i, a, c, k) => .fault (x.accFault i a c k) (x.sawRecords s)
    | none =>
      if rs.any (fun q => q.2 == .wait) then .wait (x.metRecords s)
      else match pickTrap late with
        | some t => .trapIn t (x.sawRecords s)
        | none =>
          if !x.active.isEmpty && !x.copyRoom s then .stall .copyQueue
          else x.boundary s x.next (fun t =>
            .ok (x.zeroOthers 1 (fun _ => 2)
              ((rs.filterMap (fun q => match q.2 with | .ok c => some (q.1, c) | _ => none)).foldl x.startCopy
                (if tensor then x.sawRecords t else t))))

/-! ### The check (R186) -/

/-- The global source bytes of a copy, as address and length, by rising address. -/
def Copy.sources (c : Copy) : List (Nat × Nat) :=
  (c.units.flatMap (fun u => u.2.srcs.filterMap (fun q => match q.src with | .va a => some (a, q.n) | _ => none))).mergeSort
    (fun a b => decide (a.1 ≤ b.1))

/-- Its scratchpad source bytes. -/
def Copy.scratch (c : Copy) : List (Nat × Nat) :=
  (c.units.flatMap (fun u => u.2.srcs.filterMap (fun q => match q.src with | .scr a => some (a, q.n) | _ => none))).mergeSort
    (fun a b => decide (a.1 ≤ b.1))

/-- Its global destinations, by rising address. -/
def Copy.globals (c : Copy) : List (Nat × Nat) :=
  (c.units.filterMap (fun u => match u.2.dst with | .va a => some (a, u.2.n) | .red a => some (a, u.2.n) | _ => none)).mergeSort
    (fun a b => decide (a.1 ≤ b.1))

/-- Offset ranges in the allocation at a position: destinations and picot, by rising offset. -/
def Copy.ranges (c : Copy) (pos : Nat) : List (Nat × Nat) :=
  (c.units.filterMap (fun u => match u.2.dst with | .peer q _ _ _ _ o => if q = pos then some (o, u.2.n) else none | _ => none) ++
    (match c.picot with | some o => [(o, 16)] | none => [])).mergeSort (fun a b => decide (a.1 ≤ b.1))

/-- What a step of the check answers. -/
inductive ChkRes where
  | ok
  | refuse (r : Refused)
  | wait
  | device
deriving DecidableEq, Repr


/-- Translates and checks one global range through the walk-ahead cache; another device's export table refuses or not as it
stands, which nothing here constrains. -/
def State.chkGlobal (s : State) (c : Copy) (need : Need) (a n : Nat) : ChkRes × State :=
  match s.access (agAhead c.core) c.fn (s.residency c.launch) a n need with
  | (.ok t, s1) =>
    (match t.tgt with
     | .pod _ _ =>
       let (k, s2) := s1.choose 2
       (if k = 0 then .ok else .refuse ⟨clsPerm, 0, a, c.core⟩, s2)
     | _ => (if t.isDev then .device else .ok, s1))
  | (.error (.fault k sub), s1) => (.refuse ⟨k, sub, a, c.core⟩, s1)
  | (.error .wait, s1) => (.wait, s1)

/-- Goes on with a check after what came before it: a range in the device-register window refuses nothing, but stays noted. -/
def ChkRes.andThen (r : ChkRes × State) (k : State → ChkRes × State) : ChkRes × State :=
  match r with
  | (.ok, s) => k s
  | (.device, s) => (match k s with
    | (.ok, t) => (.device, t)
    | q => q)
  | q => q

/-- Checks ranges in turn. -/
def State.chkAll (c : Copy) (need : Need) : State → List (Nat × Nat) → ChkRes × State
  | s, [] => (.ok, s)
  | s, (a, n) :: rs => ChkRes.andThen (s.chkGlobal c need a n) (fun s1 => s1.chkAll c need rs)

/-- Checks scratchpad ranges against an allocation of `size` bytes on `core`. -/
def chkScr (core size : Nat) (rs : List (Nat × Nat)) : ChkRes :=
  match rs.find? (fun q => decide (size < q.1 + q.2)) with
  | some q => .refuse ⟨clsPerm, 0, max q.1 size, core⟩
  | none => .ok

/-- A destination peer takes registrations: it is still there and is not being saved (R376). -/
def State.peerOk (s : State) (wid : Nat) : Bool :=
  match s.wg? wid with
  | some w => w.accepts
  | none => false

/-- The checks of the destination allocations, in rising position. -/
def State.chkPeers (s : State) (c : Copy) : List (Nat × Nat × Nat) → ChkRes
  | [] => .ok
  | (pos, core, wid) :: ps =>
    match s.wg? wid with
    | some w =>
      if w.accepts then
        (match chkScr core w.ssize (c.ranges pos) with
         | .ok => s.chkPeers c ps
         | r => r)
      else s.chkPeers c ps
    | none => s.chkPeers c ps

/-- The whole check of a copy. DEDUCED (assumption 29). DESIGN CHOICE (assumption 124). -/
def State.chkCopy (s : State) (c : Copy) : ChkRes × State :=
  let own := match s.wg? c.th.wg with | some w => w.ssize | none => 0
  ChkRes.andThen (s.chkAll c needR c.sources) (fun s1 =>
    ChkRes.andThen (chkScr c.core own c.scratch, s1) (fun s2 =>
      ChkRes.andThen (s2.chkAll c (if c.red.isSome then needRW else needW) c.globals) (fun s3 =>
        ChkRes.andThen (s3.chkPeers c c.peers, s3) (fun s4 =>
          match c.signal with
          | some a => s4.chkGlobal c needW a 8
          | none => (.ok, s4)))))

/-- Registers the bytes of a checked copy with its destination allocations; writes to a peer that takes none are skipped and
PART is set (R187, R376). -/
def State.register (s : State) (id : Nat) (c : Copy) : State :=
  let skip (u : CUnit) : Bool := match u.dst with
    | .peer _ _ (some w) _ _ _ => !s.peerOk w
    | .peer _ _ none _ _ _ => true
    | _ => false
  let kept := c.units.filter (fun u => !skip u.2)
  let s1 := kept.foldl (fun t u => match u.2.dst with
    | .peer _ _ (some w) _ _ _ => t.modWg w (fun v => { v with regBytes := v.regBytes + u.2.n })
    | _ => t) s
  let s2 := { s1 with copies := tset s1.copies id { c with units := kept, checked := true } }
  let s3 := if c.units.any (fun u => skip u.2) then s2.markBatch id true false else s2
  if kept.isEmpty && c.signal.isNone then s3.copyDone id else s3

/-- What the check leads to. -/
def State.checkCopy (s : State) (id : Nat) : State :=
  match tget? s.copies id with
  | none => s
  | some c =>
    match s.chkCopy c with
    | (.ok, s1) => s1.register id c
    | (.refuse r, s1) => (s1.copyFails id).taskFault c.launch (c.fault s r)
    | (_, s1) => s1

/-! ### Landing (R187 to R189, R200) -/

/-- The bytes of a source piece with their poison; or the refusal of a translation that has changed under the copy; or a
wait. -/
inductive PieceRes where
  | ok (bytes : List Byte) (bad : Bool) (s : State)
  | refuse (r : Refused) (s : State)
  | wait
deriving DecidableEq, Repr

/-- The pending access of a copy's write. -/
def Copy.acc (c : Copy) (s : State) (id va n : Nat) (t : Acced) : Acc :=
  { id := id, th := none, core := c.core, fn := c.fn, launch := c.launch, pc := c.pc, va := va, tgt := t.tgt, n := n,
    ord := .relaxed, agent := t.agent, inc := tgetD s.incs t.agent 0, path := t.path }

/-- Whether the issuing thread's own earlier write to these bytes, or update of a picot there, has still to perform (R153, R159). -/
def State.ownEarlier (s : State) (c : Copy) (id : Nat) (t : Target) (n : Nat) : Bool :=
  let hits (a : Acc) : Bool := a.th == some c.th && decide (a.id < id) && a.tgt.overlap a.n t n
  s.writes.any (fun w => hits w.2.acc) || s.picots.any (fun w => hits w.2.acc)

/-- Reads one piece; one that waits in the order of its line is read there. -/
def State.readPiece (s : State) (id : Nat) (c : Copy) (q : CPiece) : PieceRes :=
  match q.src with
  | .lit bs => .ok bs false s
  | .home _ _ _ => .wait
  | .scr o =>
    let base := match s.wg? c.th.wg with | some w => w.sbase | none => 0
    if s.ownEarlier c id (.scr c.core (base + o)) q.n then .wait
    else .ok (s.scrRead c.core (base + o) q.n) (s.scrIsPois c.core (base + o) q.n) s
  | .va a =>
    match s.access (agAhead c.core) c.fn (s.residency c.launch) a q.n needR with
    | (.error .wait, _) => .wait
    | (.error (.fault k sub), s1) => .refuse ⟨k, sub, a, c.core⟩ s1
    | (.ok t, s1) =>
      (match t.tgt with
       | .pod _ _ =>
         if s.ownEarlier c id t.tgt q.n then .wait
         else
           let (k, v, s2) := (s1.askPod (c.acc s1 0 a q.n t) (.read q.n)).podAnswer q.n true
           if k = 1 then .refuse ⟨clsPerm, 0, a, c.core⟩ s2
           else .ok (leBytes q.n v) (k != 0) (if k = 2 then s2.podLost c.fn else s2)
       | _ =>
         let l := t.tgt.base / 64
         if s1.readWaits l none || s.ownEarlier c id t.tgt q.n || s.tagMiss c.fn a t then .wait
         else .ok (s1.tgtRead t.tgt q.n) (s1.tgtPois t.tgt q.n) (s1.touch c.fn l t.mt))

/-- Reads the pieces of a unit. -/
def State.readPieces (id : Nat) (c : Copy) : State → List CPiece → PieceRes
  | s, [] => .ok [] false s
  | s, q :: qs =>
    match s.readPiece id c q with
    | .ok bs bad s1 =>
      (match s1.readPieces id c qs with
       | .ok cs bad' s2 => .ok (bs ++ cs) (bad || bad') s2
       | r => r)
    | r => r

/-- Sends a copy's write to its home. -/
def State.sendUnit (s : State) (c : Copy) (va n : Nat) (need : Need) (kind : WrKind) : PieceRes :=
  match s.access (agAhead c.core) c.fn (s.residency c.launch) va n need with
  | (.error .wait, _) => .wait
  | (.error (.fault k sub), s1) => .refuse ⟨k, sub, va, c.core⟩ s1
  | (.ok t, s1) =>
    if s.tagMiss c.fn va t then .wait
    else
      let (i, s2) := s1.newId
      let w : PWrite := { acc := c.acc s2 i va n t, kind := kind }
      .ok [] false ({ s2 with writes := tset s2.writes i w }.arrive w)

/-- The bytes that a unit has read stand for the whole image's piece: the units that write it to other peers take them (R197). -/
def State.shareChunk (s : State) (id : Nat) (u : CUnit) (bs : List Byte) (bad : Bool) : State :=
  match u.chunk with
  | none => s
  | some k =>
    { s with copies := tmod s.copies id (fun c => { c with units := c.units.map (fun (q : Nat × CUnit) =>
      (q.1, if q.2.chunk = some k then { q.2 with srcs := [⟨.lit bs, bs.length⟩], bad := bad } else q.2)) }) }


/-- The current generation of an area of a core's scratchpad (R187). -/
def Core.genAt (c : Core) (off : Nat) : Nat := tgetD c.blkGen (off / 1024) 0

/-- A unit arrives at a destination bank: it is written, and its bytes go to the picot, or it is dropped when its stamp is stale. Its
bytes leave the allocation's count once the picot has counted them, or at once where there is none (R376). -/
def State.landScratch (s : State) (id k : Nat) (c : Copy) (core : Nat) (wid : Nat) (gen base off : Nat) (bs : List Byte)
    (bad : Bool) : State :=
  let s1 := s.modWg wid (fun w => { w with regBytes := w.regBytes - bs.length })
  if (s.core core).genAt (base + off) = gen then
    let s3 := (match c.picot with
      | some o =>
        let (i, t) := (s.scrPut core (base + off) bs bad).newId
        let a : Acc :=
          { id := i, th := none, core := core, fn := c.fn, launch := c.launch, pc := c.pc, va := o,
            tgt := .scr core (base + o), n := 16, ord := .relaxed }
        { t with picots := tset t.picots i { acc := a, act := .bytes bs.length (some wid) (some gen) } }
      | none => s1.scrPut core (base + off) bs bad)
    (s3.markBatch id false bad).unitDone id k
  else (s1.markBatch id true false).unitDone id k

/-- Whether requests of the copy's function are held back by its core's mesh port (R342). -/
def State.copyHeld (s : State) (c : Copy) : Bool := (s.core c.core).portHeld.contains c.fn || s.aheadAtPort c.core c.fn c.id

/-- An acquire that the issuer made before the copy has still to be satisfied: what happens before it happens before the copy's reads
(R152, R153, R159). -/
def State.acquiring (s : State) (c : Copy) : Bool :=
  (s.accessesOf c.th).any (fun e => decide (e.acc.id < c.id) && e.read && e.acc.ord.acq)

/-! ### Turns of two tenants (R330) -/

/-- Whose turn it is among the functions with work: the one whose turn lasts, else the next in rotation. -/
def turnOf (t : Nat × Nat) (limit : Nat → Nat) (fns : List Nat) : Option Nat :=
  if fns.contains t.1 && decide (t.2 < limit t.1) then some t.1
  else match fns.filter (fun f => decide (t.1 < f)) with
    | f :: fs => some (fs.foldl min f)
    | [] => (match fns with
      | f :: fs => some (fs.foldl min f)
      | [] => none)

/-- The turn after a function has done `n` more. -/
def takeTurn (t : Nat × Nat) (limit : Nat → Nat) (f n : Nat) : Nat × Nat :=
  if t.1 = f ∧ t.2 < limit f then (f, t.2 + n) else (f, n)

/-- Bytes of a function's turn of the copy engine: 4 KiB times its weight; a weight of 0 acts as 1. -/
def State.copyTurn (s : State) (f : Nat) : Nat := 4096 * max 1 (s.fnb f).ten.cw

/-- The engine has moved bytes of a copy: its function's turn has passed by them, and the copy has taken its turn at the port (R342). -/
def State.engineMoved (s : State) (id : Nat) (c : Copy) (n : Nat) : State :=
  { (s.passBefore c.th c.id).modCore c.core (fun x => { x with cpTurn := takeTurn x.cpTurn s.copyTurn c.fn n }) with
    copies := tmod s.copies id (fun y => { y with turn := false }) }

/-- A copy has units that its engine could move. -/
def State.copyBusy (s : State) (c : Copy) : Bool :=
  c.checked && c.held == 0 && !s.copyHeld c && !s.acquiring c && c.units.any (fun u => !u.2.sent)

/-- The copy engine of a core serves the function now; one tenant's copies are divided by nothing. -/
def State.copyServes (s : State) (core fn : Nat) : Bool :=
  turnOf (s.core core).cpTurn s.copyTurn
    (((tvals s.copies).filter (fun c => c.core == core && s.copyBusy c)).map (·.fn)) == some fn

/-! ### Reads that wait at their line (R316) -/

/-- Changes the first piece that `f` changes. -/
def changeFirst {α : Type} (f : CPiece → Option (CPiece × α)) : List CPiece → Option (List CPiece × α)
  | [] => none
  | q :: qs =>
    match f q with
    | some (p, a) => some (p :: qs, a)
    | none => (changeFirst f qs).map (fun r => (q :: r.1, r.2))

/-- A read queued at a line is made, once the line takes reads and no write came before it: its bytes, with their poison and line. -/
def State.takePiece (s : State) (q : CPiece) : Option (CPiece × Bool × Nat × Nat) :=
  match q.src with
  | .home pa mt t =>
    if s.readWaits (pa / 64) none || s.writesBefore (pa / 64) t then none
    else some ({ q with src := .lit (s.read pa q.n) }, s.isPois pa q.n, pa / 64, mt)
  | _ => none

/-- A read reaches a line that holds reads up, and takes its place in the line's order. DEDUCED (assumption 138). -/
def State.queuePiece (s : State) (id : Nat) (c : Copy) (q : CPiece) : Option (CPiece × State) :=
  match q.src with
  | .va a =>
    (match s.access (agAhead c.core) c.fn (s.residency c.launch) a q.n needR with
     | (.ok t, s1) =>
       (match t.tgt with
        | .glob pa mt =>
          if (s1.line (pa / 64)).queues && !s1.ownEarlier c id t.tgt q.n && !s1.tagMiss c.fn a t then
            let (k, s2) := s1.newId
            some ({ q with src := .home pa mt k }, s2)
          else none
        | _ => none)
     | _ => none)
  | _ => none

/-- Updates a unit of a copy. -/
def State.modUnit (s : State) (id k : Nat) (f : CUnit → CUnit) : State :=
  { s with copies := tmod s.copies id (fun c => { c with units := tmod c.units k f }) }

/-- One piece of a unit is read in its turn at its line. -/
def State.takeRead (s : State) (id k : Nat) (c : Copy) (u : CUnit) : Option State :=
  (changeFirst s.takePiece u.srcs).map (fun r =>
    let t := ((s.passBefore c.th c.id).touch c.fn r.2.2.1 r.2.2.2).modUnit id k (fun u => { u with srcs := r.1, bad := u.bad || r.2.1 })
    t.drainLine r.2.2.1 (t.writes.length + 1))
/-- One piece of a unit is queued at its line. -/
def State.queueRead (s : State) (id k : Nat) (c : Copy) (u : CUnit) : Option State :=
  (changeFirst (s.queuePiece id c) u.srcs).map (fun r => (r.2.passBefore c.th c.id).modUnit id k (fun u => { u with srcs := r.1 }))

/-- One unit lands, or a read of it takes its place at its line or is made there; none while something makes it wait. -/
def State.landUnit (s : State) (id k : Nat) : Option State :=
  match tget? s.copies id with
  | none => none
  | some c =>
    match tget? c.units k with
    | none => none
    | some u =>
      match s.takeRead id k c u with
      | some t => some t
      | none =>
      if !c.checked || u.sent || c.held != 0 || s.copyHeld c || s.acquiring c || !s.copyServes c.core c.fn then none
      else match s.queueRead id k c u with
      | some t => some t
      | none =>
        let refuse (r : Refused) (t : State) : State := (t.copyFails id).taskFault c.launch (c.fault t r)
        match s.readPieces id c u.srcs with
        | .wait => none
        | .refuse r s1 => some (refuse r s1)
        | .ok bs bad0 s1 =>
          let bad := bad0 || u.bad
          let s2 := (((s1.count c.core c.fn 6 u.n).actOf c.launch .copy u.n).shareChunk id u bs bad).engineMoved id c u.n
          let send (va : Nat) (need : Need) (kind : WrKind) : Option State :=
            (match (s2.modUnit id k (fun u => { u with sent := true })).sendUnit c va u.n need kind with
             | .ok _ _ t => some t
             | .refuse r t => some (refuse r t)
             | .wait => none)
          match u.dst with
          | .peer _ core (some wid) gen base off => some (s2.landScratch id k c core wid gen base off bs bad)
          | .peer _ _ none _ _ _ => some ((s2.markBatch id true false).unitDone id k)
          | .va a => send a needW (.copyUnit id k bs bad)
          | .red a => send a needRW (.copyRed id k (c.red.getD ⟨false, 2⟩) bs bad)

/-- The decrement of an `rcp`'s signal goes to its home once every unit has performed (R191). -/
def State.sendSignal (s : State) (id : Nat) : Option State :=
  match tget? s.copies id with
  | none => none
  | some c =>
    match c.signal with
    | none => none
    | some a =>
      if !c.checked || !c.units.isEmpty || c.sigSent || s.copyHeld c || s.acquiring c then none
      else match ({ s.passBefore c.th c.id with copies := tset s.copies id { c with sigSent := true } }).sendUnit c a 8 needW (.copySig id) with
        | .ok _ _ t => some t
        | .refuse r t => some ((t.copyFails id).taskFault c.launch (c.fault t r))
        | .wait => none

/-- The token status word (Table 7.6). -/
def Batch.word (b : Batch) : W32 :=
  BitVec.ofNat 32 (2 ^ 31 + (if b.part then 2 ^ 30 else 0) + (if b.pois then 2 ^ 29 else 0) + min b.joins 65535)

/-- A batch closes: its token is written with tag U32, and the flags of its copies complete (R158, R185). -/
def State.closeBatch (s : State) (id : Nat) : State :=
  match tget? s.batches id with
  | none => s
  | some b =>
    { s with batches := terase s.batches id }.modThread b.th (fun th =>
      b.flags.foldl (fun t f => t.flagDec f)
        (({ th with tokens := terase th.tokens b.reg }.setReg b.reg b.word 2).pendDec b.reg))

/-! ### The meanings -/

def execAcp (w : TWord) (s : State) : Host.Outcome State Fault Refusal := runThrum (sigAcp w) w [] (copyBody planAcp) s
def execTcp (w : TWord) (s : State) : Host.Outcome State Fault Refusal :=
  runThrum (sigTcp w) w [] (fun x t => copyBody (planTensor .tcp) x t true) s
def execTmc (w : TWord) (s : State) : Host.Outcome State Fault Refusal :=
  runThrum (sigTmc w) w [] (fun x t => copyBody (planTensor .tmc) x t true) s
def execTsf (w : TWord) (s : State) : Host.Outcome State Fault Refusal :=
  runThrum (sigTsf w) w [] (fun x t => copyBody (planTensor .tsf) x t true) s
def execTst (w : TWord) (s : State) : Host.Outcome State Fault Refusal :=
  runThrum (sigTst w) w [] (fun x t => copyBody (planTensor .tst) x t true) s
def execTrst (w : TWord) (s : State) : Host.Outcome State Fault Refusal :=
  runThrum (sigTrst w) w [] (fun x t => copyBody (planTensor .trst) x t true) s
def execRcp (w : TWord) (s : State) : Host.Outcome State Fault Refusal := runThrum (sigRcp w) w [] (copyBody planRcp) s

/-- COPY_CHECK (R186). -/
def execCopyCheck (id : Nat) (s : State) : Host.Outcome State Fault Refusal :=
  match tget? s.copies id with
  | some c =>
    if (s.chkCopy c).1 = .device then .refused .deviceWindow
    else runEvent "COPY_CHECK" (fun t => match tget? t.copies id with
      | some c => !c.checked && decide ((t.chkCopy c).1 ≠ .wait)
      | none => false) (fun t => t.checkCopy id) s
  | none => runEvent "COPY_CHECK" (fun _ => false) (fun t => t) s
/-- COPY_WRITE_LAND (R187). -/
def execCopyWriteLand (id k : Nat) (s : State) : Host.Outcome State Fault Refusal :=
  runEvent "COPY_WRITE_LAND" (fun t => (t.landUnit id k).isSome) (fun t => (t.landUnit id k).getD t) s
/-- BATCH_CLOSE (R158). -/
def execBatchClose (id : Nat) (s : State) : Host.Outcome State Fault Refusal :=
  runEvent "BATCH_CLOSE" (fun t => match tget? t.batches id with | some b => decide (b.joins ≤ b.done) | none => false)
    (fun t => t.closeBatch id) s
/-- RCP_SIGNAL_DECREMENT (R191). -/
def execRcpSignalDecrement (id : Nat) (s : State) : Host.Outcome State Fault Refusal :=
  runEvent "RCP_SIGNAL_DECREMENT" (fun t => (t.sendSignal id).isSome) (fun t => (t.sendSignal id).getD t) s

end Sys2Proof.Machine
end

