-- ==== Sys2Proof/Machine/Handlers.lean ====
section
/-! DEFINITION. Events for Bobbin cores, their invocations and messages, and the enabling of handlers (R347 to R353, R360, R361, R364,
R385). -/

namespace Sys2Proof.Machine

/-! ### Enabling handlers (R347, R348) -/

/-- A budget within its limits. -/
def budgetOk (n : Nat) : Bool := decide (64 ≤ n ∧ n ≤ 4096)
/-- An entry that is not valid, or lies inside the window. -/
def HandRegs.entryOk (h : HandRegs) (kind : Nat) : Bool :=
  !(h.entry kind).getLsbD 0 || decide ((h.entry kind &&& ~~~ 1#32).toNat < 65536 * h.hsize.toNat)
/-- A range that is unused, or aligned and below 2^55. -/
def HRange.ok (g : HRange) : Bool :=
  budgetOk g.budget &&
    (g.len == 0#32 || (decide (g.base.toNat % 65536 = 0) && decide (g.base.toNat + g.bytes ≤ 2 ^ 55)))

/-- The checks of a write of 1 to EN. DEDUCED (assumption 81). -/
def HandRegs.enableOk (h : HandRegs) : Bool :=
  decide (h.hbase.toNat % 65536 = 0 ∧ h.hbase.toNat < 2 ^ 55) && decide (1 ≤ h.hsize.toNat ∧ h.hsize.toNat ≤ 16384) &&
    budgetOk h.mbudget && (upTo 8).all (fun i => (tgetD h.ranges i {}).ok) && (upTo 4).all h.entryOk && h.rsv.isEmpty

/-- A write of 1 to EN. -/
def State.enableHandlers (s : State) (fn : Nat) : State :=
  s.modHand fn (fun h => if h.enableOk then { h with en := true, dis := false, abort := 0#32 } else h)

/-- An invocation of the function is queued or running. -/
def State.handBusy (s : State) (fn : Nat) : Bool :=
  s.bobs.any (fun p => p.2.queue.any (fun e => e.fn == fn) || (match p.2.run with | some r => r.ev.fn == fn | none => false))
/-- The word at offset 0x00 of the handler block: EN, DIS and BUSY (Table 13.3). -/
def State.handStatus (s : State) (fn : Nat) : W32 :=
  let h := (s.fnb fn).hand
  BitVec.ofNat 32 ((if h.en then 1 else 0) + (if h.dis then 2 else 0) + (if s.handBusy fn then 4 else 0))

/-- A write of 0 to EN. -/
def State.disableHandlers (s : State) (fn : Nat) : State := (s.modHand fn (fun h => { h with en := false })).discardAll fn

/-! ### Events at a home slice (R349, R351) -/

/-- The Bobbin core of the home slice of a line. -/
def homeBob (line : Nat) : Nat := Config.homeHash line % Config.numClusters

/-- A tagged request that misses: its physical line, its function, range, virtual line, and kind; and the state with its translation
made. -/
structure Miss where
  line : Nat
  fn   : Nat
  range : Nat
  va   : Nat
  wr   : Bool
  pf   : Bool
  st   : State

/-- The line is neither in its slice nor on its way, and no FILL or EVICT of it is pending (R351). DEDUCED (assumption 101). -/
def State.absent (s : State) (l : Nat) : Bool :=
  !(s.line l).present && !(s.line l).fetching && decide ((s.line l).pendEv = 0) && !s.homeWaits l none

/-- A pending access that misses. -/
def State.accMiss (s : State) (a : Acc) (wr pf : Bool) : Option Miss :=
  match a.range, a.tgt with
  | some r, .glob pa _ =>
    if s.absent (pa / 64) && decide (a.held = 0) && !s.heldBack a && !s.staleAcc a then
      some ⟨pa / 64, a.fn, r, a.va / 64 * 64, wr, pf, s⟩
    else none
  | _, _ => none

/-- The places that a copy has still to access: virtual address and whether it writes. -/
def Copy.places (c : Copy) : List (Nat × Bool) :=
  (tvals c.units).flatMap (fun u =>
    if u.sent then []
    else u.srcs.filterMap (fun q => match q.src with | .va a => some (a, false) | _ => none) ++
      (match u.dst with | .va a => [(a, true)] | .red a => [(a, true)] | _ => [])) ++
    (match c.signal with | some a => if c.units.isEmpty && !c.sigSent then [(a, true)] else [] | none => [])

/-- A place of a copy that misses. -/
def State.copyMiss (s : State) (c : Copy) (q : Nat × Bool) : Option Miss :=
  match s.access (agAhead c.core) c.fn (s.residency c.launch) q.1 1 (if q.2 then needW else needR) with
  | (.ok t, s1) =>
    (match s.tagFor c.fn q.1 t, t.tgt with
     | some r, .glob pa _ => if s1.absent (pa / 64) then some ⟨pa / 64, c.fn, r, q.1 / 64 * 64, q.2, false, s1⟩ else none
     | _, _ => none)
  | _ => none

/-- An access with a translation that has not reached its home. -/
def Acc.unsent (a : Acc) : Bool := !a.again && a.arrived.isNone

/-- The miss of a pending load, write or copy. -/
def State.missOf (s : State) (id : Nat) : Option Miss :=
  match tget? s.loads id, tget? s.writes id, tget? s.copies id with
  | some p, _, _ =>
    if p.acc.unsent && s.ordOk ⟨p.acc, true, false, false⟩ && !s.l1Answers p.acc && !s.ownSupply p.acc then
      s.accMiss p.acc false (p.acc.th.isNone && !p.unit) else none
  | _, some w, _ =>
    if w.acc.unsent && s.ordOk ⟨w.acc, w.kind.reads, true, false⟩ && s.allGone w.acc.after then s.accMiss w.acc true false else none
  | _, _, some c =>
    if c.checked && decide (c.held = 0) && !s.copyHeld c then c.places.findSome? (s.copyMiss c) else none
  | _, _, _ => none

/-- One more invocation for a request to wait for. -/
def State.holdReq (s : State) (id : Nat) : State :=
  { s with
    loads := tmod s.loads id (fun p => { p with acc := { p.acc with held := p.acc.held + 1 } })
    writes := tmod s.writes id (fun p => { p with acc := { p.acc with held := p.acc.held + 1 } })
    copies := tmod s.copies id (fun c => { c with held := c.held + 1 }) }

/-- Whether a range of a function names an event. -/
def State.evmHas (s : State) (fn range bit : Nat) : Bool := bitN (tgetD (s.fnb fn).hand.ranges range {}).evm bit

/-- A request misses: the miss service starts, and MISS is raised where the range names it. DEDUCED (assumption 80). -/
def State.missStarts (m : Miss) (id : Nat) : State :=
  let s1 := m.st.modLine m.line (fun x => { x with
    fetching := true, tag := some (m.fn, m.range, m.va), reqWr := m.wr, reqPf := m.pf })
  if s1.evmHas m.fn m.range 0 then
    (s1.holdReq id).raiseEvent (homeBob m.line)
      { kind := 0, fn := m.fn, range := m.range, va := m.va, wr := m.wr, pf := m.pf, line := m.line, waits := [id] }
  else s1

/-- The line of a miss arrives: FILL is raised where the range names it, else the line is installed. -/
def State.fillArrives (s0 : State) (l : Nat) : State :=
  let x := s0.line l
  let s := s0.fetchIn (match x.tag with | some (f, _, _) => f | none => 0) l
  match x.tag with
  | some (f, r, va) =>
    if s.evmHas f r 1 then
      (s.modLine l (fun y => { y with fetching := false, pendEv := y.pendEv + 1 })).raiseEvent (homeBob l)
        { kind := 1, fn := f, range := r, va := va, wr := x.reqWr, pf := x.reqPf, line := l }
    else s.modLine l (fun y => { y.enter with fetching := false })
  | none => s.modLine l (fun y => { y.enter with fetching := false })

/-- The slice may evict the line: nothing is in progress there. DEDUCED (assumption 82). -/
def State.mayEvict (s : State) (l : Nat) : Bool :=
  let x := s.line l
  x.present && !x.fetching && !x.evicting && x.owner.isNone && decide (x.expiry ≤ s.now) && decide (x.far = 0) &&
    decide (x.pendEv = 0) && x.block.isNone && x.await.isNone && x.invFor.isNone && (s.waitingAt l).isEmpty

/-- The slice chooses to evict a line: EVICT is raised where it keeps a tag whose range names it. -/
def State.evicts (s : State) (l : Nat) : State :=
  let ev (f r va : Nat) : BEvent := { kind := 2, fn := f, range := r, va := va, line := l }
  match (s.line l).tag with
  | some (f, r, va) =>
    if s.evmHas f r 2 then
      (s.modLine l (fun y => { y with evicting := true, pendEv := y.pendEv + 1 })).raiseEvent (homeBob l) (ev f r va)
    else s.defaultAction (ev f r va)
  | none => s.defaultAction (ev 0 0 0)

/-! ### Messages (R364) -/

/-- A message that has been sent arrives: a posted one is complete; the event carries the sender. -/
def State.msgArrives (s : State) (m : PMsg) : State :=
  let ev : BEvent :=
    { kind := 3, fn := m.fn, range := 0, va := 0, msg := m.dst.map (fun _ => m.id), sender := sysCore m.core,
      stid := BitVec.ofNat 32 m.th.tid, bytes := m.bytes, reply := m.dst.isSome }
  let s1 := match m.dst with
    | some _ => { s with msgs := tset s.msgs m.id { m with st := .queued } }
    | none => { s with msgs := terase s.msgs m.id }.modThread m.th (fun th => th.flagDown m.flag)
  s1.raiseEvent m.cluster ev

/-- The invocation that answers a message is still running: its end happens before the sender has the reply (R170). -/
def State.answering (s : State) (id : Nat) : Bool :=
  s.bobs.any (fun p => match p.2.run with | some r => r.ev.msg == some id | none => false)

/-- The reply of a message, once there is one and its invocation has ended. -/
def State.replyOf (s : State) (m : PMsg) : Option (List Byte) :=
  match m.st with
  | .replied bs => if s.answering m.id then none else some bs
  | _ => none

/-- The reply is written to the sender's quad. -/
def State.msgReply (s : State) (m : PMsg) (bs : List Byte) : State :=
  { s with msgs := terase s.msgs m.id }.modThread m.th (fun th =>
    (match m.dst with
     | some d => (th.setRegs d ((upTo 4).map (fun j => BitVec.ofNat 32 (recVal bs (4 * j) 4))) 2).pendDecs d 4
     | none => th).flagDown m.flag)

/-! ### Invocations (R350, R352, R360) -/

/-- 16 bytes of a line as buffer 0 holds them: the spec does not say what a handler sees of a poisoned unit, whose bytes are free. -/
def State.startUnit (s : State) (a : Nat) : List Byte × State :=
  if s.isPois a 16 then
    let (v, s1) := s.free
    let (u, s2) := s1.free
    (leBytes 8 v.toNat ++ leBytes 8 u.toNat, s2)
  else (s.read a 16, s)
def State.startLine (s : State) (l : Nat) : List Byte × State :=
  (upTo 4).foldl (fun (q : List Byte × State) k => let r := q.2.startUnit (64 * l + 16 * k); (q.1 ++ r.1, r.2)) ([], s)

/-- Buffer 0 at the start of an invocation (Table 13.4). -/
def State.startBuf (s : State) (ev : BEvent) : List Byte × State :=
  match ev.kind with
  | 0 => (zeroBytes 64, s)
  | 3 => (ev.bytes ++ zeroBytes 32, s)
  | _ => s.startLine ev.line

/-- a1, a2 and a3 (Table 13.4). -/
def BEvent.args (ev : BEvent) : W32 × W32 × W32 :=
  if ev.kind = 3 then (ev.sender, ev.stid, if ev.reply then 1#32 else 0#32)
  else
    (BitVec.ofNat 32 ev.va, BitVec.ofNat 32 (ev.va / 2 ^ 32),
      if ev.kind = 2 then 0#32 else BitVec.ofNat 32 ((if ev.wr then 1 else 0) + (if ev.pf then 2 else 0)))

/-- Budget of an event's invocation. -/
def HandRegs.budgetOf (h : HandRegs) (ev : BEvent) : Nat := if ev.kind = 3 then h.mbudget else (tgetD h.ranges ev.range {}).budget

/-- The event at the head of an idle core's queue starts its invocation. -/
def State.startInvocation (s : State) (k : Nat) : State :=
  match (s.bob k).queue with
  | [] => s
  | ev :: rest =>
    let h := (s.fnb ev.fn).hand
    let (buf, s0) := s.startBuf ev
    let (id, s1) := s0.newId
    let (a1, a2, a3) := ev.args
    let w := eventWord ev k
    (s1.modHand ev.fn (fun h => { h with invoc := satInc h.invoc })).modBob k (fun b =>
      { b with
        regs := [(2, 0xFFFFF000#32), (10, w), (11, a1), (12, a2), (13, a3)]
        pc := h.entry ev.kind &&& ~~~ 1#32
        scratch := []
        bufs := [(0, { bytes := buf })]
        queue := rest
        run := some { id := id, ev := ev, word := w, left := h.budgetOf ev } })

/-- An idle core in service with an event queued. -/
def State.mayStart (s : State) (k : Nat) : Bool :=
  (s.bob k).run.isNone && !(s.bob k).queue.isEmpty && !s.bobRetired k

/-- The budget of the running invocation has run out, at an instruction boundary; it does not wait for what a migration keeps queued
(R418). -/
def State.budgetOut (s : State) (k : Nat) : Bool :=
  match (s.bob k).run with
  | some r => decide (r.left = 0) && r.ends.isNone && !s.bobOpen k
  | none => false

/-- Bobbin cycles in 10 µs (Table 1.5, Table 15.5). DEDUCED (assumption 83). -/
def State.overrunCycles (s : State) : Nat := if s.boot.service = 1 then 5000 else 11250

/-- The invocation has run 10 µs past its budget. -/
def State.overran (s : State) (k : Nat) : Bool :=
  match (s.bob k).run with
  | some r => decide (s.overrunCycles ≤ r.past)
  | none => false

/-- A Bobbin core is declared dead (R385, R386): its writes that have not reached a home are dropped, and it is scrubbed.
DEDUCED (assumption 84). -/
def State.bobbinDies (s : State) (k : Nat) : State :=
  let late := s.writes.filter (fun p => p.2.acc.th.isNone && p.2.acc.agent == agBob k && p.2.acc.arrived.isNone)
  (late.foldl (fun t p => t.dropWrite p.2) s).scrubAgent (agBobCore k)

/-! ### The meanings -/

/-- HANDLER_ENABLE (R348). -/
def execHandlerEnable (fn : Nat) (s : State) : Host.Outcome State Fault Refusal :=
  runEvent "HANDLER_ENABLE" (fun _ => decide (fn < Config.numFns)) (fun t => t.enableHandlers fn) s
/-- HANDLER_DISABLE (R348). -/
def execHandlerDisable (fn : Nat) (s : State) : Host.Outcome State Fault Refusal :=
  runEvent "HANDLER_DISABLE" (fun _ => decide (fn < Config.numFns)) (fun t => t.disableHandlers fn) s
/-- MISS_EVENT (R349). -/
def execMissEvent (id : Nat) (s : State) : Host.Outcome State Fault Refusal :=
  runEvent "MISS_EVENT" (fun t => (t.missOf id).isSome)
    (fun t => match t.missOf id with | some m => State.missStarts m id | none => t) s
/-- FILL_EVENT (R349). -/
def execFillEvent (line : Nat) (s : State) : Host.Outcome State Fault Refusal :=
  runEvent "FILL_EVENT" (fun t => (t.line line).fetching) (fun t => t.fillArrives line) s
/-- EVICT_EVENT (R349). -/
def execEvictEvent (line : Nat) (s : State) : Host.Outcome State Fault Refusal :=
  runEvent "EVICT_EVENT" (fun t => t.mayEvict line) (fun t => t.evicts line) s
/-- MSG_EVENT (R364). -/
def execMsgEvent (id : Nat) (s : State) : Host.Outcome State Fault Refusal :=
  runEvent "MSG_EVENT" (fun t => match tget? t.msgs id with | some m => m.st == .sent | none => false)
    (fun t => match tget? t.msgs id with | some m => t.msgArrives m | none => t) s
/-- INVOCATION_START (R350, R352). -/
def execInvocationStart (k : Nat) (s : State) : Host.Outcome State Fault Refusal :=
  runEvent "INVOCATION_START" (fun t => t.mayStart k) (fun t => t.startInvocation k) s
/-- BUDGET_EXHAUSTED (R360, R361). -/
def execBudgetExhausted (k : Nat) (s : State) : Host.Outcome State Fault Refusal :=
  runEvent "BUDGET_EXHAUSTED" (fun t => t.budgetOut k) (fun t => t.abortInvocation k abBudget) s
/-- BMSG_REPLY (R364). -/
def execBmsgReply (id : Nat) (s : State) : Host.Outcome State Fault Refusal :=
  runEvent "BMSG_REPLY" (fun t => match tget? t.msgs id with | some m => (t.replyOf m).isSome | none => false)
    (fun t => match tget? t.msgs id with | some m => (match t.replyOf m with | some bs => t.msgReply m bs | none => t) | none => t) s
/-- BOBBIN_OVERRUN (R385). -/
def execBobbinOverrun (k : Nat) (s : State) : Host.Outcome State Fault Refusal :=
  runEvent "BOBBIN_OVERRUN" (fun t => t.overran k) (fun t => t.bobbinDies k) s

end Sys2Proof.Machine
end

