-- ==== Sys2Proof/Machine/IntAlu.lean ====
section
/-! DEFINITION. Integer arithmetic, class 0x0 (R80 to R82). -/

namespace Sys2Proof.Machine

/-- U (MOD bit 0): the unsigned form. -/
def fU (w : TWord) : Bool := mdB w 0
/-- SAT (MOD bit 1). -/
def fSat (w : TWord) : Bool := mdB w 1
/-- The result tag of class 0x0: U32 or I32 (R80). -/
def intTag (w : TWord) : Nat := if fU w then 2 else 1
/-- A source read as an integer in the signedness of U. -/
def Lane.int (l : Lane) (v : W32) : Int := intOf (!fU l.x.w) v
/-- A source pair read as an integer in the signedness of U. -/
def Lane.intPair (l : Lane) (f : Fld) : Int := intOf (!fU l.x.w) (l.pair (!fU l.x.w) f)

/-- Trunc32, SatS or SatU of an exact value (R80). -/
def narrow32 (w : TWord) (v : Int) : W32 :=
  trunc32 (if fSat w then (if fU w then satU v 32 else satS v 32) else v)
/-- The same at 64 bits. -/
def narrow64 (w : TWord) (v : Int) : W64 :=
  trunc64 (if fSat w then (if fU w then satU v 64 else satS v 64) else v)

def reqA (l : Lane) : Bool := l.req l.x.w.a 1 tINT
def reqAB (l : Lane) : Bool := reqA l && l.req l.x.w.b 1 tINT
def reqABC (l : Lane) : Bool := reqAB l && l.req l.x.w.c 1 tINT

/-- An instruction of class 0x0 with one 32-bit result, `f` its exact effect. -/
def intDef (w : TWord) (reqs : Lane → Bool) (f : Lane → Int) : AluDef :=
  plainAlu 1 reqs (fun _ => intTag w) (fun l => [narrow32 w (f l)])

def addDef (w : TWord) : AluDef := intDef w reqAB (fun l => l.int l.a + l.int l.b)
def subDef (w : TWord) : AluDef := intDef w reqAB (fun l => l.int l.a - l.int l.b)
def mulDef (w : TWord) : AluDef := intDef w reqAB (fun l => l.int l.a * l.int l.b)
def mulhiDef (w : TWord) : AluDef :=
  plainAlu 1 reqAB (fun _ => intTag w) (fun l => [hi32 (trunc64 (l.int l.a * l.int l.b))])
def madDef (w : TWord) : AluDef := intDef w reqABC (fun l => l.int l.a * l.int l.b + l.int l.c)
def mulwDef (w : TWord) : AluDef :=
  plainAlu 2 reqAB (fun _ => intTag w) (fun l => pairOf (trunc64 (l.int l.a * l.int l.b)))
def madwDef (w : TWord) : AluDef :=
  plainAlu 2 (fun l => reqAB l && l.req l.x.w.c 2 tINT) (fun _ => intTag w)
    (fun l => pairOf (narrow64 w (l.int l.a * l.int l.b + l.intPair w.c)))
def minDef (w : TWord) : AluDef :=
  plainAlu 1 reqAB (fun _ => intTag w) (fun l => [if l.int l.b < l.int l.a then l.b else l.a])
def maxDef (w : TWord) : AluDef :=
  plainAlu 1 reqAB (fun _ => intTag w) (fun l => [if l.int l.a < l.int l.b then l.b else l.a])
def absDef (w : TWord) : AluDef :=
  plainAlu 1 reqA (fun _ => 1) (fun l => [trunc32 (if fSat w then satS l.a.toInt.natAbs 32 else l.a.toInt.natAbs)])
def negDef (w : TWord) : AluDef := intDef w reqA (fun l => -(l.int l.a))

/-- The carry predicates of `addc` and `subc`: CO, CI, CIN (R81). -/
def fCO (w : TWord) : Nat := mdF w 5 3
def fCI (w : TWord) : Nat := mdF w 2 3

/-- `addc`, and `subc` with B inverted (R81). -/
def carryDef (w : TWord) (inv : Bool) : AluDef :=
  let sum (l : Lane) : Nat :=
    l.a.toNat + (if inv then ~~~ l.b else l.b).toNat + (if l.th.pred (fCI w) != mdB w 1 then 1 else 0)
  { eval := fun l =>
      if reqAB l then .ok { vals := [BitVec.ofNat 32 (sum l)], tag := 2, preds := [(fCO w, decide (2 ^ 32 ≤ sum l))] }
      else .error .format
    ztag := fun _ => 2, width := 1, preds := [fCO w] }
def addcDef (w : TWord) : AluDef := carryDef w false
def subcDef (w : TWord) : AluDef := carryDef w true

/-- The conditions of `cmp` (R82). -/
def cmpCond (cc : Nat) (a b : Int) : Bool :=
  match cc with
  | 0 => decide (a = b)
  | 1 => decide (a ≠ b)
  | 2 => decide (a < b)
  | 3 => decide (a ≤ b)
  | 4 => decide (b < a)
  | _ => decide (b ≤ a)

def cmpDef (w : TWord) : AluDef := predAlu w.d reqAB (fun l => (cmpCond (mdF w 2 3) (l.int l.a) (l.int l.b), 0#5))

/-- The tag that `mov` and `sel` give: TAG when T is 1, else the copied tag (R87). -/
def movTag (w : TWord) (copied : Nat) : Nat := if mdB w 6 then mdF w 0 6 else copied

/-- A TAG that names an empty entry faults even when nothing is written (R87, R63). -/
def emptyTag (l : Lane) (t : Nat) : Bool := badTag l.x.wg.fmt t

/-- `sel` (R82). -/
def selDef (w : TWord) : AluDef :=
  let f (l : Lane) : Fld := if l.th.pred w.c.toNat != mdB w 7 then w.a else w.b
  { eval := fun l =>
      if mdB w 6 && emptyTag l (mdF w 0 6) then .error .format
      else .ok { vals := [l.src (f l)], tag := movTag w (l.srcTag (f l)) }
    ztag := fun l => movTag w (l.srcTag (f l)) }

/-! ### The meanings -/

/-- Scoreboard keys of `addc` and `subc`: the carry predicates. -/
def carryKeys (w : TWord) : List Nat := extraKeys [fCO w, fCI w]

def execAdd (w : TWord) (s : State) : Host.Outcome State Fault Refusal := runThrum (sigAdd w) w [] (aluBody (addDef w)) s
def execSub (w : TWord) (s : State) : Host.Outcome State Fault Refusal := runThrum (sigSub w) w [] (aluBody (subDef w)) s
def execMul (w : TWord) (s : State) : Host.Outcome State Fault Refusal := runThrum (sigMul w) w [] (aluBody (mulDef w)) s
def execMulhi (w : TWord) (s : State) : Host.Outcome State Fault Refusal :=
  runThrum (sigMulhi w) w [] (aluBody (mulhiDef w)) s
def execMad (w : TWord) (s : State) : Host.Outcome State Fault Refusal := runThrum (sigMad w) w [] (aluBody (madDef w)) s
def execMulw (w : TWord) (s : State) : Host.Outcome State Fault Refusal := runThrum (sigMulw w) w [] (aluBody (mulwDef w)) s
def execMadw (w : TWord) (s : State) : Host.Outcome State Fault Refusal := runThrum (sigMadw w) w [] (aluBody (madwDef w)) s
def execAddc (w : TWord) (s : State) : Host.Outcome State Fault Refusal :=
  runThrum (sigAddc w) w (carryKeys w) (aluBody (addcDef w)) s
def execSubc (w : TWord) (s : State) : Host.Outcome State Fault Refusal :=
  runThrum (sigSubc w) w (carryKeys w) (aluBody (subcDef w)) s
def execMin (w : TWord) (s : State) : Host.Outcome State Fault Refusal := runThrum (sigMin w) w [] (aluBody (minDef w)) s
def execMax (w : TWord) (s : State) : Host.Outcome State Fault Refusal := runThrum (sigMax w) w [] (aluBody (maxDef w)) s
def execAbs (w : TWord) (s : State) : Host.Outcome State Fault Refusal := runThrum (sigAbs w) w [] (aluBody (absDef w)) s
def execNeg (w : TWord) (s : State) : Host.Outcome State Fault Refusal := runThrum (sigNeg w) w [] (aluBody (negDef w)) s
def execCmp (w : TWord) (s : State) : Host.Outcome State Fault Refusal := runThrum (sigCmp w) w [] (aluBody (cmpDef w)) s
def execSel (w : TWord) (s : State) : Host.Outcome State Fault Refusal := runThrum (sigSel w) w [] (aluBody (selDef w)) s

end Sys2Proof.Machine
end

