-- ==== Sys2Proof/Machine/LogicAlu.lean ====
section
/-! DEFINITION. Logic and bits, class 0x1 (R83 to R88). -/

namespace Sys2Proof.Machine

def noReq (_ : Lane) : Bool := true
/-- The copied tag of A. -/
def tagA (l : Lane) : Nat := l.srcTag l.x.w.a
/-- The copied tag of B. -/
def tagB (l : Lane) : Nat := l.srcTag l.x.w.b

/-- A logic instruction with the result tag copied from A. -/
def logicDef (f : Lane → W32) : AluDef := plainAlu 1 noReq tagA (fun l => [f l])
/-- A bit-counting instruction with result tag U32. -/
def countDef (f : Lane → Nat) : AluDef := plainAlu 1 noReq (fun _ => 2) (fun l => [BitVec.ofNat 32 (f l)])

def andDef : AluDef := logicDef (fun l => l.a &&& l.b)
def orDef : AluDef := logicDef (fun l => l.a ||| l.b)
def xorDef : AluDef := logicDef (fun l => l.a ^^^ l.b)
def notDef : AluDef := logicDef (fun l => ~~~ l.a)

/-- Bit of the truth table T8 (R84). -/
def truth (w : TWord) (a b c : Bool) : Bool :=
  w.md.getLsbD ((if a then 4 else 0) + (if b then 2 else 0) + (if c then 1 else 0))
def lop3Def (w : TWord) : AluDef :=
  logicDef (fun l => BitVec.ofNat 32 (ofBits 32 (fun i => truth w (l.a.getLsbD i) (l.b.getLsbD i) (l.c.getLsbD i))))

/-- The shift amount: mod 32 when WRAP (R85). -/
def shAmt (w : TWord) (b : W32) : Nat := if mdB w 1 then b.toNat % 32 else b.toNat
def shlDef (w : TWord) : AluDef :=
  logicDef (fun l => if 32 ≤ shAmt w l.b then 0#32 else l.a <<< shAmt w l.b)
def shrDef (w : TWord) : AluDef :=
  logicDef (fun l =>
    if mdB w 0 then l.a.sshiftRight (min (shAmt w l.b) 31)
    else if 32 ≤ shAmt w l.b then 0#32 else l.a >>> shAmt w l.b)
def fshDef (w : TWord) : AluDef :=
  logicDef (fun l =>
    let n := if mdB w 1 then l.c.toNat % 32 else min l.c.toNat 32
    let v : W64 := l.b ++ l.a
    lo32 (if mdB w 0 then v >>> (32 - n) else v >>> n))

/-- Position and length of a bit field: bits 7:0 and 15:8 (R86). -/
def bfPos (x : W32) : Nat := fieldN x.toNat 0 8
def bfLen (x : W32) : Nat := fieldN x.toNat 8 8
/-- Width of the field that stands inside the register. -/
def bfWidth (x : W32) : Nat := min (bfPos x + bfLen x) 32 - bfPos x
def bfeDef (w : TWord) : AluDef :=
  plainAlu 1 noReq (fun _ => if mdB w 0 then 1 else 2) (fun l =>
    if bfLen l.b = 0 ∨ 32 ≤ bfPos l.b then [0#32]
    else
      let n := bfWidth l.b
      let v := fieldN l.a.toNat (bfPos l.b) n
      [trunc32 (if mdB w 0 && v.testBit (n - 1) then (v : Int) - 2 ^ n else v)])
def bfiDef : AluDef :=
  plainAlu 1 noReq tagB (fun l =>
    if bfLen l.c = 0 ∨ 32 ≤ bfPos l.c then [l.b]
    else
      let m : W32 := BitVec.ofNat 32 ((2 ^ bfWidth l.c - 1) * 2 ^ bfPos l.c)
      [(l.b &&& ~~~ m) ||| ((l.a <<< bfPos l.c) &&& m)])

def popcDef : AluDef := countDef (fun l => popcount l.a)
def clzDef : AluDef := countDef (fun l => leadZeros l.a)
def ctzDef : AluDef := countDef (fun l => trailZeros l.a)
def brevDef : AluDef := logicDef (fun l => BitVec.ofNat 32 (ofBits 32 (fun i => l.a.getLsbD (31 - i))))

/-- `mov` (R87). -/
def movDef (w : TWord) : AluDef :=
  { eval := fun l =>
      if mdB w 6 && emptyTag l (mdF w 0 6) then .error .format
      else .ok { vals := [l.a], tag := movTag w (tagA l) }
    ztag := fun l => movTag w (tagA l) }

/-- `plop` (R84). -/
def plopDef (w : TWord) : AluDef :=
  predAlu w.d noReq (fun l => (truth w (l.th.pred w.a.toNat) (l.th.pred w.b.toNat) (l.th.pred w.c.toNat), 0#5))

/-- `p2r` (R88). -/
def p2rDef : AluDef := countDef (fun l => ofBits 8 (fun i => l.th.pred i))

/-- The predicates that `r2p` writes (R88). -/
def r2pMask (w : TWord) : List Nat := (upTo 7).filter (fun i => mdB w i)
def r2pDef (w : TWord) : AluDef :=
  { eval := fun l => .ok { preds := (r2pMask w).map (fun i => (i, l.a.getLsbD i)) }
    ztag := fun _ => 0, width := 0, preds := r2pMask w }

/-! ### The meanings -/

def execAnd (w : TWord) (s : State) : Host.Outcome State Fault Refusal := runThrum (sigAnd w) w [] (aluBody andDef) s
def execOr (w : TWord) (s : State) : Host.Outcome State Fault Refusal := runThrum (sigOr w) w [] (aluBody orDef) s
def execXor (w : TWord) (s : State) : Host.Outcome State Fault Refusal := runThrum (sigXor w) w [] (aluBody xorDef) s
def execNot (w : TWord) (s : State) : Host.Outcome State Fault Refusal := runThrum (sigNot w) w [] (aluBody notDef) s
def execLop3 (w : TWord) (s : State) : Host.Outcome State Fault Refusal := runThrum (sigLop3 w) w [] (aluBody (lop3Def w)) s
def execShl (w : TWord) (s : State) : Host.Outcome State Fault Refusal := runThrum (sigShl w) w [] (aluBody (shlDef w)) s
def execShr (w : TWord) (s : State) : Host.Outcome State Fault Refusal := runThrum (sigShr w) w [] (aluBody (shrDef w)) s
def execFsh (w : TWord) (s : State) : Host.Outcome State Fault Refusal := runThrum (sigFsh w) w [] (aluBody (fshDef w)) s
def execBfe (w : TWord) (s : State) : Host.Outcome State Fault Refusal := runThrum (sigBfe w) w [] (aluBody (bfeDef w)) s
def execBfi (w : TWord) (s : State) : Host.Outcome State Fault Refusal := runThrum (sigBfi w) w [] (aluBody bfiDef) s
def execPopc (w : TWord) (s : State) : Host.Outcome State Fault Refusal := runThrum (sigPopc w) w [] (aluBody popcDef) s
def execClz (w : TWord) (s : State) : Host.Outcome State Fault Refusal := runThrum (sigClz w) w [] (aluBody clzDef) s
def execCtz (w : TWord) (s : State) : Host.Outcome State Fault Refusal := runThrum (sigCtz w) w [] (aluBody ctzDef) s
def execBrev (w : TWord) (s : State) : Host.Outcome State Fault Refusal := runThrum (sigBrev w) w [] (aluBody brevDef) s
def execMov (w : TWord) (s : State) : Host.Outcome State Fault Refusal := runThrum (sigMov w) w [] (aluBody (movDef w)) s
def execPlop (w : TWord) (s : State) : Host.Outcome State Fault Refusal := runThrum (sigPlop w) w [] (aluBody (plopDef w)) s
def execP2r (w : TWord) (s : State) : Host.Outcome State Fault Refusal :=
  runThrum (sigP2r w) w (extraKeys (upTo 7)) (aluBody p2rDef) s
def execR2p (w : TWord) (s : State) : Host.Outcome State Fault Refusal :=
  runThrum (sigR2p w) w (extraKeys (r2pMask w)) (aluBody (r2pDef w)) s

end Sys2Proof.Machine
end

