-- ==== Sys2Proof/Machine/SpecialFn.lean ====
section
/-! DEFINITION. The exact functions of R95 as fixed-point approximations with `fxP` fraction bits (assumption 12), and their
results with the special cases of Table 4.6. -/

namespace Sys2Proof

/-- Fraction bits of the fixed-point approximations. -/
def fxP : Nat := 512

/-- Σ over k < n of ±z^(2k+1) / (2k+1), at `fxP` bits: the inverse tangent when `alt`, the inverse hyperbolic tangent otherwise.
`t` is the power, `z2` the square of z, both at `fxP` bits. -/
def atanGo (alt : Bool) (z2 : Nat) : Nat → Nat → Nat → Int → Int
  | 0, _, _, acc => acc
  | n + 1, k, t, acc =>
    let term : Int := (t / (2 * k + 1) : Nat)
    atanGo alt z2 n (k + 1) (t * z2 / 2 ^ fxP) (if alt && k % 2 == 1 then acc - term else acc + term)

/-- The inverse tangent (`alt`) or inverse hyperbolic tangent of num / den, at `fxP` bits. -/
def atanFx (alt : Bool) (num den terms : Nat) : Int :=
  let z := num * 2 ^ fxP / den
  atanGo alt (z * z / 2 ^ fxP) terms 0 z 0

/-- π at `fxP` bits: 16 atan(1/5) − 4 atan(1/239). -/
def piFx : Nat := (16 * atanFx true 1 5 120 - 4 * atanFx true 1 239 40).toNat
/-- ln 2 at `fxP` bits: 2 atanh(1/3). -/
def ln2Fx : Nat := (2 * atanFx false 1 3 170).toNat

/-- Σ over k of r^k / k! in steps: `t` is the last term at `fxP` bits. -/
def expGo (r : Nat) : Nat → Nat → Nat → Nat → Nat
  | 0, _, _, acc => acc
  | n + 1, k, t, acc => let t' := t * r / 2 ^ fxP / k; expGo r n (k + 1) t' (acc + t')

/-- The sine or cosine series: from the term `t` of degree `k − 1` on, signs alternating. -/
def trigGo (r2 : Nat) : Nat → Nat → Nat → Bool → Int → Int
  | 0, _, _, _, acc => acc
  | n + 1, k, t, neg, acc =>
    let t' := t * r2 / 2 ^ fxP / (k * (k + 1))
    trigGo r2 n (k + 2) t' (!neg) (if neg then acc - t' else acc + t')

/-- sin r for 0 ≤ r < 2 at `fxP` bits. -/
def sinFx (r : Nat) : Int := trigGo (r * r / 2 ^ fxP) 60 2 r true r
/-- cos r for 0 ≤ r < 2 at `fxP` bits. -/
def cosFx (r : Nat) : Int := trigGo (r * r / 2 ^ fxP) 60 1 (2 ^ fxP) true (2 ^ fxP : Nat)

/-- A fixed-point number as a value known not to lie on its grid. -/
def exFx (v : Int) : Ex := .fin (decide (v < 0)) v.natAbs (-(fxP : Int)) true

/-- 2^x for a finite x of magnitude below 2^9 that is no integer. -/
def exExp2 (s : Bool) (m : Nat) (e : Int) : Ex :=
  let a : Int := (if 0 ≤ e + fxP then m * 2 ^ (e + fxP).toNat else m / 2 ^ (-(e + fxP)).toNat : Nat)
  let v := if s then -a else a
  let n := v.fdiv (2 ^ fxP)
  let f := (v - n * 2 ^ fxP).toNat
  let r := f * ln2Fx / 2 ^ fxP
  .fin false (expGo r 110 1 (2 ^ fxP) (2 ^ fxP)) (n - fxP) true

/-- log2 of the positive value m · 2^e that is no power of two. -/
def exLog2 (m : Nat) (e : Int) : Ex :=
  let k := Nat.log2 m
  let ln := 2 * atanFx false (m - 2 ^ k) (m + 2 ^ k) 170
  exFx ((e + k) * 2 ^ fxP + ln * 2 ^ fxP / (ln2Fx : Int))

/-- The quadrant of m · 2^e (its multiple of π/2, modulo 4) and the remainder, at `fxP` bits. -/
def reduceFx (m : Nat) (e : Int) : Nat × Nat :=
  let x := if 0 ≤ e + fxP then m * 2 ^ (e + fxP).toNat else m / 2 ^ (-(e + fxP)).toNat
  let half := piFx / 2
  ((x / half) % 4, x % half)

/-- sin (or cos) of ±m · 2^e, non-zero. -/
def exTrig (cos s : Bool) (m : Nat) (e : Int) : Ex :=
  let (q0, r) := reduceFx m e
  let q := if cos then (q0 + 1) % 4 else q0
  let v := if q % 2 = 0 then sinFx r else cosFx r
  let v1 := if 2 ≤ q then -v else v
  exFx (if s && !cos then -v1 else v1)

/-- Which special function. -/
inductive SpecialOp where
  | rcp | rsqrt | sqrt | exp2 | log2 | sin | cos
deriving DecidableEq, Repr

/-- Rounds the exact value of one of the five functions without a mode: RNE with subnormals kept, then flushed; of the flags,
only UF on the flush of a non-zero result (R95). -/
def roundPlain (c : RCtx) (r : RSt) (x : Ex) : Nat × RSt :=
  let code := (roundFlt f32F 3 false { c with rm := 1 } { r with flags := 0#5 } x).1
  let mag := code % 2 ^ 31
  if c.ftz && mag != 0 && decide (mag < 2 ^ 23) then (code - mag, r.set stUF) else (code, r)

/-- The result of a special function on a prepared source (R95, Table 4.6). DESIGN CHOICE
(assumption 114). DEDUCED (assumption 12). -/
def specialFn (op : SpecialOp) (c : RCtx) (r : RSt) (x : Ex) : Nat × RSt :=
  let rnd := fun (y : Ex) => roundFlt f32F 3 c.ftz c r y
  let r0 := r.setIf x.isSNaN stNV
  -- a result that Table 4.6 gives outright calls no Round and takes no generator step
  let fixed := fun (code : Nat) (k : Sticky) => (code, r0.set k)
  let inf : Bool → Nat := fun s => f32F.infCode s
  let nan := f32F.canonNaN false
  match x with
  | .nan s p => fixed (f32F.nanCode s p) 0#5
  | .inf s =>
    match op with
    | .rcp => fixed (f32F.signBit s) 0#5
    | .sqrt => if s then fixed nan stNV else fixed (inf false) 0#5
    | .rsqrt => if s then fixed nan stNV else fixed 0 0#5
    | .exp2 => if s then fixed 0 0#5 else fixed (inf false) 0#5
    | .log2 => if s then fixed nan stNV else fixed (inf false) 0#5
    | .sin | .cos => fixed nan stNV
  | .fin s m e _ =>
    if m = 0 then
      match op with
      | .rcp | .rsqrt => fixed (inf s) stDZ
      | .sqrt | .sin => fixed (f32F.signBit s) 0#5
      | .exp2 | .cos => fixed 0x3F800000 0#5
      | .log2 => fixed (inf true) stDZ
    else
      match op with
      | .rcp => rnd (exRecip s m e)
      | .sqrt => if s then fixed nan stNV else rnd (exSqrt m e)
      | .rsqrt => if s then fixed nan stNV else roundPlain c r (exRsqrt m e)
      | .exp2 =>
        let big := decide (8 ≤ lg m e)
        let v : Int := if 0 ≤ e then m * 2 ^ e.toNat else (m / 2 ^ (-e).toNat : Nat)
        let whole := decide (0 ≤ e) || m % 2 ^ (-e).toNat == 0
        if !s && (big || decide (128 ≤ v)) then
          ((roundFlt f32F 3 false { c with rm := 1 } r (.fin false 1 200 false)).1, r.set stOF)
        else if s && (big || decide (150 ≤ v)) then (0, r.set stUF)
        else roundPlain c r (if whole then .fin false 1 (if s then -v else v) false else exExp2 s m e)
      | .log2 =>
        if s then fixed nan stNV
        else if m = 2 ^ Nat.log2 m then roundPlain c r (exInt (lg m e))
        else roundPlain c r (exLog2 m e)
      | .sin => roundPlain c r (exTrig false s m e)
      | .cos => roundPlain c r (exTrig true s m e)

end Sys2Proof
end

