-- ==== Sys2Proof/Machine/FpAlu.lean ====
section
/-! DEFINITION. Floating point: FP32 (R89 to R91), conversions and tags (R92 to R94), special functions (R95), packed and narrow
arithmetic (R96 to R98), FP64 (R99, R100). -/

namespace Sys2Proof.Machine

/-! ### Preparation and the operations on one element -/

/-- A source code prepared by R75: ABS, NEG, then flushing. -/
def prepare (f : FltFmt) (flush abs neg : Bool) (x : Nat) : Nat :=
  let sb := 2 ^ (f.e + f.m)
  let y := if abs then x % sb else x % (2 * sb)
  let z := if neg then (if sb ≤ y then y - sb else y + sb) else y
  let mag := z % sb
  if flush && mag != 0 && decide (mag < 2 ^ f.m) then z - mag else z

/-- The arithmetic operations. -/
inductive FpOp where
  | add | sub | mul | fma
deriving DecidableEq, Repr

/-- Saturation of R89: +0 for a NaN or a value not above zero, 1.0 above one. -/
def saturate (f : FltFmt) (code : Nat) : Nat :=
  let v := f.val code
  let one : Nat := f.bias.toNat * 2 ^ f.m
  if v.isNaN || v.isZero || v.sign then 0 else if exLt (f.val one) v then one else code

/-- The effect of `fadd`, `fsub`, `fmul`, `ffma` on prepared codes (R89). -/
def fpArith (f : FltFmt) (t : Nat) (flush : Bool) (op : FpOp) (sat : Bool) (c : RCtx) (r : RSt) (a b d : Nat) : Nat × RSt :=
  let x := f.val a
  let y := f.val b
  let z := f.val d
  let xs := match op with | .fma => [x, y, z] | _ => [x, y]
  let rdn := c.rm == 4
  let r1 := r.setIf (xs.any (·.isSNaN)) stNV
  let r2 := r1.setIf (op == .fma && !x.isNaN && !y.isNaN && (exMul x y).isNone) stNV
  let res : Nat × RSt :=
    match firstNaN xs with
    | some (.nan s p) => (f.nanCode s p, r2)
    | _ =>
      let v : Option Ex := (match op with
        | .add => exAdd rdn x y
        | .sub => exAdd rdn x (exNeg y)
        | .mul => exMul x y
        | .fma => (exMul x y).bind (fun p => exAdd rdn p z))
      match v with
      | none => (f.canonNaN false, r2.set stNV)
      | some v => roundFlt f t flush c r2 v
  if sat then (saturate f res.1, res.2) else res

/-- Sets the quiet bit of a NaN's code. -/
def quietCode (f : FltFmt) (x : Nat) : Nat := x ||| 2 ^ (f.m - 1)

/-- Whether code `a` is less than `b` as a number, −0 below +0. -/
def codeLt (f : FltFmt) (a b : Nat) : Bool :=
  exLt (f.val a) (f.val b) || (!exLt (f.val b) (f.val a) && (f.val a).sign && !(f.val b).sign)

/-- `fmin` and `fmax` on prepared codes (R90). -/
def fpMinMax (f : FltFmt) (big num : Bool) (a b : Nat) : Nat × Sticky :=
  let x := f.val a
  let y := f.val b
  let k := if x.isSNaN || y.isSNaN then stNV else 0#5
  let pick := if big then (if codeLt f a b then b else a) else (if codeLt f b a then b else a)
  (if num then
     (if x.isNaN && y.isNaN then quietCode f a else if x.isNaN then b else if y.isNaN then a else pick)
   else if x.isNaN then quietCode f a else if y.isNaN then quietCode f b else pick, k)

/-- The compare conditions of Table 4.4. -/
def fpCond (cc : Nat) (x y : Ex) : Bool :=
  let ord := !x.isNaN && !y.isNaN
  match cc with
  | 0 => ord && exEq x y
  | 1 => !ord || !exEq x y
  | 2 => ord && exLt x y
  | 3 => ord && !exLt y x
  | 4 => ord && exLt y x
  | 5 => ord && !exLt x y
  | 6 => ord
  | _ => !ord

/-- `fcmp` on prepared codes: quiet (R91). -/
def fpCompare (f : FltFmt) (cc a b : Nat) : Bool × Sticky :=
  (fpCond cc (f.val a) (f.val b), if (f.val a).isSNaN || (f.val b).isSNaN then stNV else 0#5)

/-! ### FP32, class 0x2 -/

/-- NEG and ABS bits of A, B and C (R89). -/
def negBit (w : TWord) (i : Nat) : Bool := mdB w i
def absBit (w : TWord) (i : Nat) : Bool := mdB w (3 + i)
/-- SAT or NUM (R89). -/
def fSatNum (w : TWord) : Bool := mdB w 6

/-- FTZ of the lane's thread (R54). -/
def Lane.ftz (l : Lane) : Bool := l.rctx.ftz
/-- FTZ64 of the lane's thread. -/
def Lane.ftz64 (l : Lane) : Bool := l.rctx.ftz64
/-- Source `i` (0 A, 1 B, 2 C) of class 0x2, prepared. -/
def Lane.f32 (l : Lane) (i : Nat) (f : Fld) : Nat :=
  prepare f32F l.ftz (absBit l.x.w i) (negBit l.x.w i) (l.src f).toNat

def isF32 : Nat → Bool := tIs 3
def reqF (l : Lane) : Bool := l.req l.x.w.a 1 isF32 && l.req l.x.w.b 1 isF32
def reqF3 (l : Lane) : Bool := reqF l && l.req l.x.w.c 1 isF32

/-- A lane's result with its rounding state. -/
def roundOut (vals : List W32) (tag : Nat) (r : RSt) : LaneOut := { vals := vals, tag := tag, flags := r.flags, seed := some r.seed }

/-- An instruction that rounds. -/
def roundAlu (width : Nat) (reqs : Lane → Bool) (tag : Nat) (f : Lane → List W32 × RSt) : AluDef :=
  { eval := fun l => if reqs l then .ok (roundOut (f l).1 tag (f l).2) else .error .format, ztag := fun _ => tag, width := width }

def f32Arith (op : FpOp) (w : TWord) : AluDef :=
  roundAlu 1 (match op with | .fma => reqF3 | _ => reqF) 3 (fun l =>
    let z := fpArith f32F 3 l.ftz op (fSatNum w) l.rctx l.rst (l.f32 0 w.a) (l.f32 1 w.b) (l.f32 2 w.c)
    ([BitVec.ofNat 32 z.1], z.2))
def faddDef (w : TWord) : AluDef := f32Arith .add w
def fsubDef (w : TWord) : AluDef := f32Arith .sub w
def fmulDef (w : TWord) : AluDef := f32Arith .mul w
def ffmaDef (w : TWord) : AluDef := f32Arith .fma w

/-- An instruction that sets sticky flags without rounding. -/
def flagAlu (width : Nat) (reqs : Lane → Bool) (tag : Nat) (f : Lane → List W32 × Sticky) : AluDef :=
  { eval := fun l => if reqs l then .ok { vals := (f l).1, tag := tag, flags := (f l).2 } else .error .format
    ztag := fun _ => tag, width := width }

def f32MinMax (big : Bool) (w : TWord) : AluDef :=
  flagAlu 1 reqF 3 (fun l =>
    let z := fpMinMax f32F big (fSatNum w) (l.f32 0 w.a) (l.f32 1 w.b)
    ([BitVec.ofNat 32 z.1], z.2))
def fminDef (w : TWord) : AluDef := f32MinMax false w
def fmaxDef (w : TWord) : AluDef := f32MinMax true w
def fcmpDef (w : TWord) : AluDef :=
  predAlu w.d reqF (fun l => fpCompare f32F w.c.toNat (l.f32 0 w.a) (l.f32 1 w.b))

/-! ### Conversions and tags, class 0x3 -/

/-- Tag of a `cvt` kind (Table 4.5). -/
def cvtTag (k : Nat) : Nat := if k = 0 then 1 else if k = 1 then 2 else if k = 2 then 3 else if k ≤ 4 then 4 else 5
/-- Source tags that a `cvt` kind allows. -/
def cvtSet (k : Nat) : Nat → Bool := if k ≤ 1 then tINT else tIs (cvtTag k)
/-- Whether the kind is the upper element. -/
def cvtHigh (k : Nat) : Bool := k == 4 || k == 6
/-- Floating format of a `cvt` kind from 2 up. -/
def cvtFlt (k : Nat) : FltFmt := if k = 2 then f32F else if k ≤ 4 then f16F else bf16F

/-- The value of a `cvt` source, flushed by R54. -/
def cvtVal (k : Nat) (ftz : Bool) (x : W32) : Ex :=
  if k = 0 then exInt x.toInt
  else if k = 1 then exInt x.toNat
  else
    let bits := if k = 2 then x.toNat else if cvtHigh k then x.toNat / 2 ^ 16 else x.toNat % 2 ^ 16
    (cvtFlt k).val (prepare (cvtFlt k) ftz false false bits)

/-- Integer rounding of R69 to I32 or U32. -/
def roundInt32 (signed : Bool) (c : RCtx) (r : RSt) (x : Ex) : W32 × RSt :=
  let z := roundIntTo (sintLo signed 32) (sintHi signed 32) 0 c r x
  (trunc32 z.1, z.2)

/-- `cvt` (R92). -/
def cvtDef (w : TWord) : AluDef :=
  let dk := mdF w 0 4
  let sk := mdF w 4 4
  { eval := fun l =>
      if !(l.req w.a 1 (cvtSet sk) && (decide (dk ≤ 2) || l.req w.c 1 (tIs (cvtTag dk)))) then .error .format
      else
        let x := cvtVal sk l.ftz l.a
        let r0 := l.rst.setIf x.isSNaN stNV
        if dk ≤ 1 then
          let z := roundInt32 (dk == 0) l.rctx r0 x
          .ok (roundOut [z.1] (cvtTag dk) z.2)
        else
          let z := roundFlt (cvtFlt dk) (cvtTag dk) l.ftz l.rctx r0 x
          if dk = 2 then .ok (roundOut [BitVec.ofNat 32 z.1] 3 z.2)
          else
            let old := if w.c = fZero then 0 else l.c.toNat
            let v := if cvtHigh dk then old % 2 ^ 16 + z.1 * 2 ^ 16 else old / 2 ^ 16 * 2 ^ 16 + z.1
            .ok (roundOut [BitVec.ofNat 32 v] (cvtTag dk) z.2)
    ztag := fun _ => cvtTag dk }

/-- Rounds the elements in order, threading the generator and the flags. -/
def roundEach (g : RSt → Nat → Nat × RSt) : RSt → List Nat → List Nat × RSt
  | r, [] => ([], r)
  | r, x :: xs =>
    let z := g r x
    let rest := roundEach g z.2 xs
    (z.1 :: rest.1, rest.2)

/-- Packs elements of `k` bits, the first lowest. -/
def packBits (k : Nat) : List Nat → Nat
  | [] => 0
  | x :: xs => x % 2 ^ k + 2 ^ k * packBits k xs

/-- `cvtn.pack` (R93). -/
def cvtnPackDef (w : TWord) : AluDef :=
  let t := mdF w 0 6
  { eval := fun l =>
      let n := if tagBits l.x.wg.fmt t = 4 then 8 else 4
      match fmtOfTag l.x.wg.fmt t with
      | none => .error .format
      | some f =>
        if !(l.req w.a 4 isF32 && (n == 4 || l.req w.b 4 isF32)) then .error .format
        else
          let xs := (srcWide w l.th w.a 4 ++ (if n = 8 then srcWide w l.th w.b 4 else [])).map
            (fun v => prepare f32F l.ftz false false v.toNat)
          let z := roundEach (fun r v =>
            let x := f32F.val v
            roundTo f t false l.rctx (r.setIf x.isSNaN stNV) x) l.rst xs
          .ok (roundOut [BitVec.ofNat 32 (packBits (32 / n) z.1)] t z.2)
    ztag := fun _ => t }

/-- A NaN becomes the canonical one of its sign. -/
def canonSign : Ex → Ex
  | .nan s _ => .nan s quietBit
  | x => x

/-- `cvtn.unpack` (R93). -/
def cvtnUnpackDef (w : TWord) : AluDef :=
  let t := mdF w 0 6
  { eval := fun l =>
      let k := if tagBits l.x.wg.fmt t = 4 then 4 else 8
      match fmtOfTag l.x.wg.fmt t with
      | none => .error .format
      | some f =>
        if !l.req w.a 1 (tIs t) then .error .format
        else
          let first := if mdB w 6 then 4 else 0
          let xs := (upTo 4).map (fun j => fieldN l.a.toNat (k * (first + j)) k)
          let z := roundEach (fun r v =>
            let x := f.val v
            roundFlt f32F 3 false l.rctx (r.setIf x.isSNaN stNV) (canonSign x)) l.rst xs
          .ok (roundOut (z.1.map (BitVec.ofNat 32)) 3 z.2)
    ztag := fun _ => 3, width := 4 }

/-- `settag` (R94). -/
def settagDef (w : TWord) : AluDef :=
  { eval := fun l => if emptyTag l (mdF w 0 6) then .error .format else .ok { vals := [l.a], tag := mdF w 0 6 }
    ztag := fun _ => mdF w 0 6 }
/-- `gettag` (R94). -/
def gettagDef : AluDef := countDef tagA

/-! ### Special functions (R95) -/

def specialDef (op : SpecialOp) (w : TWord) : AluDef :=
  roundAlu 1 (fun l => l.req w.a 1 isF32) 3 (fun l =>
    let z := specialFn op l.rctx l.rst (f32F.val (l.f32 0 w.a))
    ([BitVec.ofNat 32 z.1], z.2))

/-! ### Packed arithmetic, class 0x4 -/

/-- FMT of R96: the format and tag that MOD bit 0 selects. -/
def packFmt (w : TWord) : FltFmt := if mdB w 0 then bf16F else f16F
def packTag (w : TWord) : Nat := if mdB w 0 then 5 else 4
/-- Element `e` of a packed source, prepared; its NEG bit is MOD bit 1 + i. -/
def Lane.half (l : Lane) (i : Nat) (f : Fld) (e : Nat) : Nat :=
  prepare (packFmt l.x.w) l.ftz false (mdB l.x.w (1 + i)) (fieldN (l.src f).toNat (16 * e) 16)

def reqP (l : Lane) : Bool := l.req l.x.w.a 1 (tIs (packTag l.x.w)) && l.req l.x.w.b 1 (tIs (packTag l.x.w))
def reqP3 (l : Lane) : Bool := reqP l && l.req l.x.w.c 1 (tIs (packTag l.x.w))

def halfArith (op : FpOp) (w : TWord) : AluDef :=
  roundAlu 1 (match op with | .fma => reqP3 | _ => reqP) (packTag w) (fun l =>
    let z := roundEach (fun r e =>
      fpArith (packFmt w) (packTag w) l.ftz op (mdB w 4) l.rctx r (l.half 0 w.a e) (l.half 1 w.b e) (l.half 2 w.c e))
      l.rst [0, 1]
    ([BitVec.ofNat 32 (packBits 16 z.1)], z.2))
def halfMinMax (big : Bool) (w : TWord) : AluDef :=
  flagAlu 1 reqP (packTag w) (fun l =>
    let z (e : Nat) := fpMinMax (packFmt w) big (mdB w 4) (l.half 0 w.a e) (l.half 1 w.b e)
    ([BitVec.ofNat 32 (packBits 16 [(z 0).1, (z 1).1])], (z 0).2 ||| (z 1).2))

/-- `dp4a` (R97). -/
def dp4aDef (w : TWord) : AluDef :=
  let elt (sg : Bool) (x : W32) (i : Nat) : Int := intOf sg (x.extractLsb' (8 * i) 8)
  plainAlu 1 (fun l => l.req w.a 1 (tIs (if mdB w 0 then 7 else 8)) && l.req w.b 1 (tIs (if mdB w 1 then 7 else 8)) &&
      l.req w.c 1 tINT) (fun _ => 1) (fun l =>
    let s := (upTo 4).foldl (fun t i => t + elt (mdB w 0) l.a i * elt (mdB w 1) l.b i) l.c.toInt
    [trunc32 (if mdB w 2 then satS s 32 else s)])

/-- `dp2bf` (R98): one rounding of the exact sum; NaNs in the order A0, A1, B0, B1, C. -/
def dp2bfDef (w : TWord) : AluDef :=
  roundAlu 1 (fun l => l.req w.a 1 (tIs 5) && l.req w.b 1 (tIs 5) && l.req w.c 1 isF32) 3 (fun l =>
    let h (i : Nat) (f : Fld) (e : Nat) : Ex :=
      bf16F.val (prepare bf16F l.ftz false (mdB w (1 + i)) (fieldN (l.src f).toNat (16 * e) 16))
    let c := f32F.val (prepare f32F l.ftz false (mdB w 3) l.c.toNat)
    let a0 := h 0 w.a 0
    let a1 := h 0 w.a 1
    let b0 := h 1 w.b 0
    let b1 := h 1 w.b 1
    let xs := [a0, a1, b0, b1, c]
    let bad (x y : Ex) : Bool := !x.isNaN && !y.isNaN && (exMul x y).isNone
    let r := (l.rst.setIf (xs.any (·.isSNaN)) stNV).setIf (bad a0 b0 || bad a1 b1) stNV
    match firstNaN xs with
    | some (.nan s p) => ([BitVec.ofNat 32 (f32F.nanCode s p)], r)
    | _ =>
      let v : Option Ex := (exMul a0 b0).bind (fun p => (exMul a1 b1).bind (fun q => exSum (l.rctx.rm == 4) [p, q, c]))
      match v with
      | none => ([BitVec.ofNat 32 (f32F.canonNaN false)], r.set stNV)
      | some v =>
        let z := roundFlt f32F 3 l.ftz l.rctx r v
        ([BitVec.ofNat 32 z.1], z.2))

/-! ### FP64, class 0x5 -/

/-- The FP64 code that an FP32 literal widens to (R76). -/
def widen32 (x : W32) : Nat :=
  (roundFlt f64F 6 false ⟨1, false, false, 0#128⟩ ⟨1#32, 0#5⟩ (f32F.val x.toNat)).1

/-- Source `i` of class 0x5, prepared. -/
def Lane.f64 (l : Lane) (i : Nat) (f : Fld) : Nat :=
  let raw := if f = fLit then widen32 l.x.w.ext else (l.pair false f).toNat
  prepare f64F l.ftz64 (absBit l.x.w i) (negBit l.x.w i) raw

def isF64 : Nat → Bool := tIs 6
def reqD (l : Lane) : Bool := l.req l.x.w.a 2 isF64 && l.req l.x.w.b 2 isF64
def reqD3 (l : Lane) : Bool := reqD l && l.req l.x.w.c 2 isF64

/-- A signalling FP32 literal stays signalling when it widens: the literal's own quiet bit decides NV (R75, R76). -/
def litSNaN (l : Lane) (fs : List Fld) : Bool := fs.any (fun f => f == fLit && (f32F.val l.x.w.ext.toNat).isSNaN)

def f64Arith (op : FpOp) (w : TWord) : AluDef :=
  roundAlu 2 (match op with | .fma => reqD3 | _ => reqD) 6 (fun l =>
    let r := l.rst.setIf (litSNaN l [w.a, w.b, w.c]) stNV
    let z := fpArith f64F 6 l.ftz64 op (fSatNum w) l.rctx r (l.f64 0 w.a) (l.f64 1 w.b) (l.f64 2 w.c)
    (pairOf (BitVec.ofNat 64 z.1), z.2))
def f64MinMax (big : Bool) (w : TWord) : AluDef :=
  flagAlu 2 reqD 6 (fun l =>
    let z := fpMinMax f64F big (fSatNum w) (l.f64 0 w.a) (l.f64 1 w.b)
    (pairOf (BitVec.ofNat 64 z.1), if litSNaN l [w.a, w.b] then z.2 ||| stNV else z.2))
def dcmpDef (w : TWord) : AluDef :=
  predAlu w.d reqD (fun l =>
    let z := fpCompare f64F w.c.toNat (l.f64 0 w.a) (l.f64 1 w.b)
    (z.1, if litSNaN l [w.a, w.b] then z.2 ||| stNV else z.2))

/-- `dcvt` (R100). DEDUCED (assumption 115). -/
def dcvtDef (w : TWord) : AluDef :=
  let dk := mdF w 0 4
  let sk := mdF w 4 4
  let tag (k : Nat) : Nat := if k = 7 then 6 else cvtTag k
  { eval := fun l =>
      if !l.req w.a (if sk = 7 then 2 else 1) (if sk = 7 then isF64 else cvtSet sk) then .error .format
      else
        let raw := if w.a = fLit then widen32 w.ext else (l.pair false w.a).toNat
        let x := if sk = 7 then f64F.val (prepare f64F l.ftz64 false false raw) else cvtVal sk false l.a
        let r0 := l.rst.setIf (x.isSNaN || (sk == 7 && litSNaN l [w.a])) stNV
        if dk = 7 then
          let z := roundFlt f64F 6 l.ftz64 l.rctx r0 x
          .ok (roundOut (pairOf (BitVec.ofNat 64 z.1)) 6 z.2)
        else if dk = 2 then
          let z := roundFlt f32F 3 false l.rctx r0 x
          .ok (roundOut [BitVec.ofNat 32 z.1] 3 z.2)
        else
          let z := roundInt32 (dk == 0) l.rctx r0 x
          .ok (roundOut [z.1] (cvtTag dk) z.2)
    ztag := fun _ => tag dk, width := if dk = 7 then 2 else 1 }

/-! ### The meanings -/

def execFadd (w : TWord) (s : State) : Host.Outcome State Fault Refusal :=
  runThrum (sigFadd w) w [] (aluBody (faddDef w)) s
def execFsub (w : TWord) (s : State) : Host.Outcome State Fault Refusal :=
  runThrum (sigFsub w) w [] (aluBody (fsubDef w)) s
def execFmul (w : TWord) (s : State) : Host.Outcome State Fault Refusal :=
  runThrum (sigFmul w) w [] (aluBody (fmulDef w)) s
def execFfma (w : TWord) (s : State) : Host.Outcome State Fault Refusal :=
  runThrum (sigFfma w) w [] (aluBody (ffmaDef w)) s
def execFmin (w : TWord) (s : State) : Host.Outcome State Fault Refusal :=
  runThrum (sigFmin w) w [] (aluBody (fminDef w)) s
def execFmax (w : TWord) (s : State) : Host.Outcome State Fault Refusal :=
  runThrum (sigFmax w) w [] (aluBody (fmaxDef w)) s
def execFcmp (w : TWord) (s : State) : Host.Outcome State Fault Refusal :=
  runThrum (sigFcmp w) w [] (aluBody (fcmpDef w)) s
def execCvt (w : TWord) (s : State) : Host.Outcome State Fault Refusal :=
  runThrum (sigCvt w) w [] (aluBody (cvtDef w)) s
def execCvtnPack (w : TWord) (s : State) : Host.Outcome State Fault Refusal :=
  runThrum (sigCvtnPack w) w [] (aluBody (cvtnPackDef w)) s
def execCvtnUnpack (w : TWord) (s : State) : Host.Outcome State Fault Refusal :=
  runThrum (sigCvtnUnpack w) w [] (aluBody (cvtnUnpackDef w)) s
def execSettag (w : TWord) (s : State) : Host.Outcome State Fault Refusal :=
  runThrum (sigSettag w) w [] (aluBody (settagDef w)) s
def execGettag (w : TWord) (s : State) : Host.Outcome State Fault Refusal :=
  runThrum (sigGettag w) w [] (aluBody gettagDef) s
def execFrcp (w : TWord) (s : State) : Host.Outcome State Fault Refusal :=
  runThrum (sigFrcp w) w [] (aluBody (specialDef .rcp w)) s
def execFrsqrt (w : TWord) (s : State) : Host.Outcome State Fault Refusal :=
  runThrum (sigFrsqrt w) w [] (aluBody (specialDef .rsqrt w)) s
def execFsqrt (w : TWord) (s : State) : Host.Outcome State Fault Refusal :=
  runThrum (sigFsqrt w) w [] (aluBody (specialDef .sqrt w)) s
def execFexp2 (w : TWord) (s : State) : Host.Outcome State Fault Refusal :=
  runThrum (sigFexp2 w) w [] (aluBody (specialDef .exp2 w)) s
def execFlog2 (w : TWord) (s : State) : Host.Outcome State Fault Refusal :=
  runThrum (sigFlog2 w) w [] (aluBody (specialDef .log2 w)) s
def execFsin (w : TWord) (s : State) : Host.Outcome State Fault Refusal :=
  runThrum (sigFsin w) w [] (aluBody (specialDef .sin w)) s
def execFcos (w : TWord) (s : State) : Host.Outcome State Fault Refusal :=
  runThrum (sigFcos w) w [] (aluBody (specialDef .cos w)) s
def execHadd2 (w : TWord) (s : State) : Host.Outcome State Fault Refusal :=
  runThrum (sigHadd2 w) w [] (aluBody (halfArith .add w)) s
def execHsub2 (w : TWord) (s : State) : Host.Outcome State Fault Refusal :=
  runThrum (sigHsub2 w) w [] (aluBody (halfArith .sub w)) s
def execHmul2 (w : TWord) (s : State) : Host.Outcome State Fault Refusal :=
  runThrum (sigHmul2 w) w [] (aluBody (halfArith .mul w)) s
def execHfma2 (w : TWord) (s : State) : Host.Outcome State Fault Refusal :=
  runThrum (sigHfma2 w) w [] (aluBody (halfArith .fma w)) s
def execHmin2 (w : TWord) (s : State) : Host.Outcome State Fault Refusal :=
  runThrum (sigHmin2 w) w [] (aluBody (halfMinMax false w)) s
def execHmax2 (w : TWord) (s : State) : Host.Outcome State Fault Refusal :=
  runThrum (sigHmax2 w) w [] (aluBody (halfMinMax true w)) s
def execDp4a (w : TWord) (s : State) : Host.Outcome State Fault Refusal :=
  runThrum (sigDp4a w) w [] (aluBody (dp4aDef w)) s
def execDp2bf (w : TWord) (s : State) : Host.Outcome State Fault Refusal :=
  runThrum (sigDp2bf w) w [] (aluBody (dp2bfDef w)) s
def execDadd (w : TWord) (s : State) : Host.Outcome State Fault Refusal :=
  runThrum (sigDadd w) w [] (aluBody (f64Arith .add w)) s
def execDsub (w : TWord) (s : State) : Host.Outcome State Fault Refusal :=
  runThrum (sigDsub w) w [] (aluBody (f64Arith .sub w)) s
def execDmul (w : TWord) (s : State) : Host.Outcome State Fault Refusal :=
  runThrum (sigDmul w) w [] (aluBody (f64Arith .mul w)) s
def execDfma (w : TWord) (s : State) : Host.Outcome State Fault Refusal :=
  runThrum (sigDfma w) w [] (aluBody (f64Arith .fma w)) s
def execDmin (w : TWord) (s : State) : Host.Outcome State Fault Refusal :=
  runThrum (sigDmin w) w [] (aluBody (f64MinMax false w)) s
def execDmax (w : TWord) (s : State) : Host.Outcome State Fault Refusal :=
  runThrum (sigDmax w) w [] (aluBody (f64MinMax true w)) s
def execDcmp (w : TWord) (s : State) : Host.Outcome State Fault Refusal :=
  runThrum (sigDcmp w) w [] (aluBody (dcmpDef w)) s
def execDcvt (w : TWord) (s : State) : Host.Outcome State Fault Refusal :=
  runThrum (sigDcvt w) w [] (aluBody (dcvtDef w)) s

end Sys2Proof.Machine
end

