-- ==== Sys2Proof/Machine/Picot.lean ====
section
/-! DEFINITION. Picots (R162 to R164) and their instructions (R201 to R204). -/

namespace Sys2Proof.Machine

/-! ### The fields of a picot and its step (Table 6.7, R163) -/

/-- A picot. -/
structure Picot where
  ph    : Bool
  ovr   : Bool
  arr   : Nat
  byt   : W32
  arrld : Nat
  bytld : W32
  /-- The reserved bits of words 0 and 2, kept as they stand. -/
  rsv0  : Nat
  rsv2  : Nat
deriving DecidableEq, Repr

def picotOf (bs : List Byte) : Picot :=
  let w0 := recVal bs 0 4
  let w2 := recVal bs 8 4
  { ph := bitN w0 31, ovr := bitN w0 30, arr := fieldN w0 0 12, byt := BitVec.ofNat 32 (recVal bs 4 4), arrld := fieldN w2 0 12,
    bytld := BitVec.ofNat 32 (recVal bs 12 4), rsv0 := fieldN w0 12 18, rsv2 := fieldN w2 12 20 }

def Picot.bytes (p : Picot) : List Byte :=
  leBytes 4 ((if p.ph then 2 ^ 31 else 0) + (if p.ovr then 2 ^ 30 else 0) + p.rsv0 * 2 ^ 12 + p.arr) ++ leBytes 4 p.byt.toNat ++
    leBytes 4 (p.rsv2 * 2 ^ 12 + p.arrld) ++ leBytes 4 p.bytld.toNat

/-- One step: `a` arrivals, `b` completed bytes, `x` bytes that arrivals add (R163). -/
def Picot.step (p : Picot) (a b : Nat) (x : W32) : Picot :=
  let n := min a p.arr
  let p1 : Picot := { p with arr := p.arr - n, byt := p.byt + x - BitVec.ofNat 32 b }
  let a1 := a - n
  if p1.arr = 0 ∧ p1.byt = 0#32 then
    let m := min a1 p1.arrld
    { p1 with ph := !p1.ph, arr := p1.arrld - m, byt := p1.bytld, ovr := p1.ovr || decide (m < a1) }
  else { p1 with ovr := p1.ovr || decide (0 < a1) }

/-- `pinit` (R202). -/
def picotInit (arr : Nat) (byt : W32) : Picot :=
  { ph := false, ovr := false, arr := arr, byt := byt, arrld := arr, bytld := byt, rsv0 := 0, rsv2 := 0 }

/-- The picot at a place of a core's scratchpad. -/
def State.picotAt (s : State) (core addr : Nat) : Picot := picotOf (s.scrRead core addr 16)

/-- A pending update has reached its bank: every earlier access of its thread that must precede it has performed (R164). -/
def State.picotReady (s : State) (p : PPicot) : Bool := s.ordOk ⟨p.acc, true, true, false⟩

/-- The updates that reach a picot in one cycle. DESIGN CHOICE (assumption 116). -/
def State.picotBatch (s : State) (core addr : Nat) : List PPicot :=
  (tvals s.picots).filter (fun p => p.acc.tgt == .scr core addr && s.picotReady p)

/-- The picot advances again with no further update (R163): both counts stand at zero. -/
def Picot.again (p : Picot) : Bool := p.arr == 0 && p.byt == 0#32

/-- The `pinit` of the batch that stands (R202), chosen by the device. -/
def chosenInit (ps : List PPicot) (k : Nat) : Option Picot :=
  let is := ps.filterMap (fun p => match p.act with | .init a b => some (picotInit a b) | _ => none)
  if is.isEmpty then none else is[k % is.length]?

/-- Arrivals, completed bytes and added bytes of a batch; bytes stamped for an earlier owner of the area, whose generation is now `gen`,
count for nothing (R161, R187). -/
def batchSum (gen : Nat) (ps : List PPicot) : Nat × Nat × W32 :=
  ps.foldl (fun t p => match p.act with
    | .init _ _ => t
    | .arrive x _ => (t.1 + 1, t.2.1, t.2.2 + x)
    | .bytes n _ g => if g.getD gen = gen then (t.1, t.2.1 + n, t.2.2) else t) (0, 0, 0#32)

/-- Whether anything of a batch still belongs to the present owner of the area. -/
def batchLives (gen : Nat) (ps : List PPicot) : Bool :=
  ps.any (fun p => match p.act with
    | .bytes _ _ g => g.getD gen == gen
    | _ => true)

/-- A group whose `pwait` has seen the phase it waits for goes on (R204). -/
def State.wakePwait (s : State) (core addr : Nat) (ph : Bool) : State :=
  s.groups.foldl (fun t q =>
    match q.2.wait with
    | .pwait ps fl =>
      if q.2.core = core then
        let left := ps.filter (fun r => !(r.1 == addr && r.2 != ph))
        if left.isEmpty then
          (t.lowerFlags q.2.wg fl).modGroup q.1 (fun g => { g with wait := .ready, readyAt := s.cycles, rstart := g.pc })
        else t.modGroup q.1 (fun g => { g with wait := .pwait left fl })
      else t
    | _ => t) s

/-- Every `pwait` looks at its picots again: a phase follows whatever is written to a picot (R162, R204). -/
def State.wakePwaits (s : State) : State :=
  s.groups.foldl (fun t q =>
    match q.2.wait with
    | .pwait ps _ => ps.foldl (fun u r => u.wakePwait q.2.core r.1 (s.picotAt q.2.core r.1).ph) t
    | _ => t) s

/-- Completes the updates of a step: D takes the phase at the start of the step (R201), registered bytes have been counted (R376). -/
def State.finishPicots (s : State) (ps : List PPicot) (ph0 : Bool) : State :=
  ps.foldl (fun t p =>
    let t1 := { t with picots := terase t.picots p.acc.id }
    let t2 := (match p.act with
      | .arrive _ d => t1.deliver { p.acc with n := 4 } d (if ph0 then 1 else 0) 2
      | .bytes n (some w) _ => t1.modWg w (fun v => { v with regBytes := v.regBytes - n })
      | _ => t1.release p.acc none 0)
    match p.acc.th with
    | some r => t2.settleFences r
    | none => t2) s

/-- Has the picot step again in a later cycle, with nothing added. -/
def State.stepAgain (s : State) (core addr : Nat) : State :=
  let (id, s1) := s.newId
  let acc : Acc :=
    { id := id, th := none, core := core, fn := 0, launch := 0, pc := 0#64, va := 0, tgt := .scr core addr, n := 16, ord := .plain }
  { s1 with picots := tset s1.picots id { acc := acc, act := .bytes 0 none (some ((s.core core).genAt addr)) } }

/-- One step of a picot's bank. DEDUCED (assumption 26). -/
def State.picotStep (s : State) (core addr : Nat) : State :=
  let ps := s.picotBatch core addr
  let (k, s1) := (ps.foldl (fun t p => t.passQueries p.acc) s).choose (ps.length + 1)
  let ini := chosenInit ps k
  let old := s.picotAt core addr
  let p0 := ini.getD old
  let gen := (s.core core).genAt addr
  let (a, b, x) := batchSum gen ps
  let p1 := p0.step a b x
  let bad := ini.isNone && s.scrIsPois core addr 16
  if batchLives gen ps then
    let s2 := ((s1.scrPut core addr p1.bytes bad).finishPicots ps old.ph).wakePwait core addr p1.ph
    if p1.ph ≠ p0.ph ∧ p1.again = true then s2.stepAgain core addr else s2
  else s1.finishPicots ps old.ph

/-! ### Instructions -/

/-- The offset of a thread's picot operand. -/
def Ctx.picot (x : Ctx) (p : Nat × Thread) : Nat := (x.src p x.w.a).toNat

/-- The causes of a picot instruction: tags, alignment, and those of `more`. -/
def Ctx.picotCause (x : Ctx) (fs : List Fld) (more : Nat × Thread → Option LaneFault) (p : Nat × Thread) : Option LaneFault :=
  if !fs.all (fun f => tagOk p.2 f 1 tINT) then some .format
  else if x.picot p % 16 ≠ 0 then some (.align (x.picot p))
  else more p

/-- The thread whose picot lies outside the allocation (R201). -/
def Ctx.picotOut (x : Ctx) : Option (Nat × Thread) := x.active.find? (fun p => decide (x.wg.ssize < x.picot p + 16))

/-- The checks that every picot instruction makes. -/
def picotBody (fs : List Fld) (more : Ctx → Nat × Thread → Option LaneFault) (go : Ctx → State → Res) (x : Ctx) (s : State) :
    Res :=
  match x.causes (x.picotCause fs (more x)) with
  | some t => .trap t
  | none =>
    match x.picotOut with
    | some p => .fault (x.accFault p.1 (x.picot p) clsPerm 0) s
    | none => go x s

/-- Sends one thread's update to the bank. -/
def Ctx.sendPicot (x : Ctx) (ord : Ord) (act : Nat × Thread → PicotAct) (s : State) (p : Nat × Thread) : State :=
  let (id, s1) := s.newId
  let acc : Acc :=
    { id := id, th := some (x.ref p.1), core := x.g.core, fn := x.wg.fn, launch := x.wg.launch, pc := x.g.pc, va := x.picot p,
      tgt := .scr x.g.core (x.wg.sbase + x.picot p), n := 16, ord := ord, flag := x.flag }
  let s2 := { s1 with picots := tset s1.picots id { acc := acc, act := act p } }
  s2.modThread (x.ref p.1) (fun th =>
    (match act p with
     | .arrive _ (some d) => th.pendInc d
     | _ => th).flagUp x.flag)

/-- `pinit` (R202). -/
def badInit (x : Ctx) (p : Nat × Thread) : Option LaneFault :=
  let b := (x.src p x.w.b).toNat
  let c := (x.src p x.w.c).toNat
  if 4095 < b ∨ 2 ^ 31 ≤ c ∨ (b = 0 ∧ c = 0) then some .record else none

def pinitGo (x : Ctx) (s : State) : Res :=
  x.boundary s x.next (fun t => .ok (x.active.foldl (x.sendPicot .relaxed (fun p =>
    .init (x.src p x.w.b).toNat (x.src p x.w.c))) t))

/-- `parr` and `parrb` (R203): each is a release. -/
def parrGo (withBytes : Bool) (x : Ctx) (s : State) : Res :=
  x.boundary s x.next (fun t => .ok (x.zeroOthers 1 (fun _ => 2) (x.active.foldl (x.sendPicot .release (fun p =>
    .arrive (if withBytes then x.src p x.w.b else 0#32) (destOf x.w.d))) t)))

/-- The thread's own earlier accesses to the picot's bytes have performed. -/
def Ctx.picotClear (x : Ctx) (t : State) (r : ThRef) : Bool :=
  x.active.all (fun p => decide (x.ref p.1 ≠ r) ||
    !(t.pendingOf r).any (fun e => e.write && e.acc.tgt.overlap e.acc.n (.scr x.g.core (x.wg.sbase + x.picot p)) 16))

/-- The phase that a thread sees, and the one it waits to leave. -/
def Ctx.phase (x : Ctx) (s : State) (p : Nat × Thread) : Bool := (s.picotAt x.g.core (x.wg.sbase + x.picot p)).ph
def Ctx.leaves (x : Ctx) (p : Nat × Thread) : Bool := (x.src p x.w.b).getLsbD 0

/-- `pwait` (R204). A group that waits keeps the `pwait` as its region's start until it returns (R377). -/
def pwaitGo (x : Ctx) (s : State) : Res :=
  x.waitDone s x.picotClear (fun t =>
    let left := x.active.filter (fun p => x.phase t p == x.leaves p)
    if left.isEmpty then .ok t
    else
      let ps := left.map (fun p => (x.wg.sbase + x.picot p, x.leaves p))
      .ok (((x.raiseFlags t).park x.gid (.pwait ps x.waitFlags)).modGroup x.gid (fun g => { g with rstart := x.g.pc })))

/-- `ptest` (R204, R77). -/
def ptestGo (x : Ctx) (s : State) : Res :=
  x.waitDone s x.picotClear (fun t =>
    .ok (x.update t (fun i th =>
      if th.guard x.w then th.setPred x.w.d.toNat (x.phase t (i, th) != x.leaves (i, th))
      else if wordZM x.sg x.w then th.setPred x.w.d.toNat false else th)))

/-! ### The meanings -/

def noMore (_ : Ctx) (_ : Nat × Thread) : Option LaneFault := none

def execPinit (w : TWord) (s : State) : Host.Outcome State Fault Refusal :=
  runThrum (sigPinit w) w [] (picotBody [w.a, w.b, w.c] badInit pinitGo) s
def execParr (w : TWord) (s : State) : Host.Outcome State Fault Refusal :=
  runThrum (sigParr w) w [] (picotBody [w.a] noMore (parrGo false)) s
def execParrb (w : TWord) (s : State) : Host.Outcome State Fault Refusal :=
  runThrum (sigParrb w) w [] (picotBody [w.a, w.b] noMore (parrGo true)) s
def execPwait (w : TWord) (s : State) : Host.Outcome State Fault Refusal :=
  runThrum (sigPwait w) w [] (picotBody [w.a, w.b] noMore pwaitGo) s
def execPtest (w : TWord) (s : State) : Host.Outcome State Fault Refusal :=
  runThrum (sigPtest w) w [] (picotBody [w.a, w.b] noMore ptestGo) s

/-- PICOT_STEP (R163): updates have reached the bank. -/
def execPicotStep (core addr : Nat) (s : State) : Host.Outcome State Fault Refusal :=
  runEvent "PICOT_STEP" (fun t => !(t.picotBatch core addr).isEmpty)
    (fun t => t.picotStep core addr) s

end Sys2Proof.Machine
end

