-- ==== Sys2Proof/Machine/Matrix.lean ====
section
/-! DEFINITION. The matrix array: convergence registers and signatures (R107 to R117), what each operation computes (R125 to R135), and
the events by which operations start and complete. -/

namespace Sys2Proof.Machine

/-! ### Classes, planes and ranges -/

/-- Depth Kp of a plane of a width class of `bits` bits (Table 5.1). -/
def planeDepth (bits : Nat) : Nat := if bits = 16 then 128 else if bits = 8 then 256 else 512
/-- Bytes of a plane image, and of an activation row. -/
def planeBytes : Nat := 32768
def actBytes : Nat := 256

/-- A row-range word: first row and count, and whether it breaks its limits or the allocation (R122). -/
structure Rows where
  row0 : Nat
  cnt  : Nat
  bad  : Bool
deriving DecidableEq, Repr

def rowsOf (w : W32) (nrows : Nat) : Rows :=
  let v := w.toNat
  let r := fieldN v 0 10
  let c := fieldN v 16 9 + 1
  { row0 := r, cnt := c, bad := fieldN v 25 7 != 0 || fieldN v 10 6 != 0 || decide (nrows < r + c) }

/-- A row of a workgroup. -/
def Wg.row (w : Wg) (i : Nat) : Row := tgetD w.rows i {}
def Wg.setRow (w : Wg) (i : Nat) (r : Row) : Wg := { w with rows := tset w.rows i r }
/-- A convergence register. -/
def Wg.creg (w : Wg) (i : Nat) : Conv := tgetD w.conv i {}

/-- The block side that B32 gives. -/
def blockSide (b32 : Bool) : Nat := if b32 then 32 else 16
/-- Scale bytes of a grid of rows by columns of elements. -/
def gridBytes (rows cols side : Nat) : Nat := ((rows + side - 1) / side) * (cols / side)

/-! ### What a signature names -/

/-- The scratchpad ranges of an operation: offset and length. -/
def SigBuf.scr (b : SigBuf) (fmt : Tab W32) : List (Nat × Nat) :=
  let t := fieldN b.md.toNat 0 6
  let bits := tagBits fmt t
  let bs := b.md.getLsbD 6
  let side := blockSide (b.md.getLsbD 7)
  let m := (rowsOf b.vb 0).cnt
  match b.op with
  | 0x2C2 => [(b.va.toNat, planeBytes)] ++ (if bs then [(b.vb.toNat, gridBytes (planeDepth bits) 128 side)] else [])
  | 0x2C3 => [(b.va.toNat, 8192), (b.vb.toNat, 1280)]
  | 0x2C5 => [(b.va.toNat, actBytes * m)] ++ (if bs then [(b.vc.toNat, gridBytes m (planeDepth bits) side)] else [])
  | 0x2C6 => [(b.va.toNat, m * (128 * bits / 8))] ++ (if b.c = fZero then [] else [(b.vc.toNat, 16)])
  | 0x2C8 => [(b.va.toNat, 512 * m)]
  | _ => []

/-- The alignments an operation requires of its offsets. -/
def SigBuf.aligns (b : SigBuf) : List (Nat × Nat) :=
  match b.op with
  | 0x2C2 => [(b.va.toNat, 64)]
  | 0x2C3 => [(b.va.toNat, 64), (b.vb.toNat, 64)]
  | 0x2C5 => [(b.va.toNat, 256)]
  | 0x2C6 => [(b.va.toNat, 64)] ++ (if b.c = fZero then [] else [(b.vc.toNat, 16)])
  | 0x2C8 => [(b.va.toNat, 64)]
  | _ => []

/-- The row range of an operation. -/
def SigBuf.rows (b : SigBuf) (nrows : Nat) : Option Rows :=
  match b.op with
  | 0x2C5 | 0x2C6 | 0x2C8 => some (rowsOf b.vb nrows)
  | 0x2C7 => some (rowsOf b.va nrows)
  | _ => none

/-- Whether the operation's MOD holds a TAG. -/
def SigBuf.tag? (b : SigBuf) : Option Nat :=
  match b.op with
  | 0x2C2 | 0x2C5 | 0x2C6 => some (fieldN b.md.toNat 0 6)
  | _ => none

/-- A source value of a signature: zero for a field that the instruction does not use. -/
def Ctx.sigVal (x : Ctx) (p : Nat × Thread) (k : SKind) (f : Fld) : W32 :=
  match k with
  | .src => x.src p f
  | _ => 0#32

/-- The signature of a thread (R107, R109). DEDUCED (assumption 21). -/
def Ctx.signature (x : Ctx) (op : Nat) (p : Nat × Thread) : SigBuf :=
  { op := op, md := x.w.md, a := x.w.a, b := x.w.b, c := x.w.c, e := wordE x.sg x.w, rm := wordRM x.sg x.w,
    va := x.sigVal p x.sg.a x.w.a, vb := x.sigVal p x.sg.b x.w.b, vc := x.sigVal p x.sg.c x.w.c,
    ve := x.sigVal p x.sg.e (wordE x.sg x.w) }

/-- The tag check of a field that the signature uses (R121). -/
def sigTagOk (th : Thread) (k : SKind) (f : Fld) (set : Nat → Bool) : Bool :=
  match k with
  | .src => tagOk th f 1 set
  | _ => true

/-- The causes of a thread before MISMATCH (R114). -/
def Ctx.sigCause (x : Ctx) (op : Nat) (p : Nat × Thread) : Option LaneFault :=
  let b := x.signature op p
  let tags := sigTagOk p.2 x.sg.a x.w.a tINT && sigTagOk p.2 x.sg.b x.w.b tINT && sigTagOk p.2 x.sg.c x.w.c tINT &&
    sigTagOk p.2 x.sg.e (wordE x.sg x.w) (tIs 3) &&
    (match b.tag? with | some t => !(decide (16 ≤ t) && (tget? x.wg.fmt t).isNone) | none => true)
  if !tags then some .format
  else match misaligned b.aligns with
    | some f => some f
    | none =>
      if !(x.wg.creg x.w.d.toNat).arm then some (.conv 1)
      else if (b.scr x.wg.fmt).any (fun r => decide (x.wg.ssize < r.1 + r.2)) ||
          (match b.rows x.wg.nrows with | some r => r.bad | none => false) then some (.conv 5)
      else none

/-! ### The checks at issue (R110) -/

/-- What later operations find: the two planes' settings and the row tags as they will stand. -/
structure Ahead where
  act  : Plane
  sh   : Plane
  tags : Tab Nat
deriving DecidableEq, Repr

/-- The settings that an operation leaves for those behind it. -/
def Ahead.after (a : Ahead) (b : SigBuf) : Ahead :=
  let setTags (r : Rows) (t : Nat) : Ahead := { a with tags := (spanN r.row0 r.cnt).foldl (fun m i => tset m i t) a.tags }
  match b.op with
  | 0x2C2 => { a with sh := { present := true, tag := fieldN b.md.toNat 0 6, bs := b.md.getLsbD 6, b32 := b.md.getLsbD 7 } }
  | 0x2C3 => { a with sh := { present := true, tag := 5 } }
  | 0x2C4 => { a with act := a.sh, sh := a.act }
  | 0x2C7 => setTags (rowsOf b.va 0) (if b.md.getLsbD 0 then 1 else 3)
  | 0x2C8 => if b.md.getLsbD 7 then setTags (rowsOf b.vb 0) (fieldN b.md.toNat 0 6) else a
  | _ => a

/-- What an operation of workgroup `wid` will find behind the operations `q`: planes are shared by the tenant's workgroups
(R118), rows are each workgroup's own. -/
def aheadOf (c : Core) (fn wid : Nat) (w : Wg) (q : List ArrOp) : Ahead :=
  let (p, r) := c.planes fn
  q.foldl (fun a o =>
    if o.fn = fn then
      let n := a.after o.sig
      if o.wg = wid then n else { n with tags := a.tags }
    else a) { act := p, sh := r, tags := w.rows.map (fun x => (x.1, x.2.tag)) }

def Ahead.rowTag (a : Ahead) (i : Nat) : Nat := tgetD a.tags i 3

/-- The integer array tags. -/
def isIntTag (t : Nat) : Bool := t == 7 || t == 8 || t == 9

/-- The fields of an epilogue record (Table 5.7). -/
structure Epi where
  relu : Bool
  bi   : Bool
  cv   : Bool
  rv   : Bool
  rvOff : Nat
  cvOff : Nat
  biOff : Nat
  rsv  : Bool
deriving DecidableEq, Repr

def epiOf (r : List Byte) : Epi :=
  let w := recVal r 0 4
  { relu := bitN w 3, bi := bitN w 2, cv := bitN w 1, rv := bitN w 0, rvOff := recVal r 4 4, cvOff := recVal r 8 4,
    biOff := recVal r 12 4, rsv := fieldN w 4 28 != 0 }

/-- The vectors of an epilogue: offset and bytes. -/
def Epi.vecs (e : Epi) (m : Nat) : List (Nat × Nat) :=
  (if e.rv then [(e.rvOff, 4 * m)] else []) ++ (if e.cv then [(e.cvOff, 512)] else []) ++ (if e.bi then [(e.biOff, 512)] else [])

/-- A reserved field, or an offset given for an absent vector (R132). -/
def Epi.bad (e : Epi) : Bool := e.rsv || (!e.rv && e.rvOff != 0) || (!e.cv && e.cvOff != 0) || (!e.bi && e.biOff != 0)

/-- The check that an operation fails at issue, if any: the cause its completing thread raises. -/
def issueCause (a : Ahead) (w : Wg) (epi : List Byte) (b : SigBuf) : Option LaneFault :=
  match b.op with
  | 0x2C5 =>
    let t := fieldN b.md.toNat 0 6
    let r := rowsOf b.vb w.nrows
    if !a.act.present then some (.conv 6)
    else if tagBits w.fmt t ≠ tagBits w.fmt a.act.tag ∨ b.md.getLsbD 6 ≠ a.act.bs ∨ b.md.getLsbD 7 ≠ a.act.b32 then some .format
    else
      let want := if isIntTag t && isIntTag a.act.tag then 1 else 3
      if (spanN r.row0 r.cnt).all (fun i => a.rowTag i == want) then none else some .format
  | 0x2C6 =>
    let r := rowsOf b.vb w.nrows
    let e := epiOf epi
    if !(spanN r.row0 r.cnt).all (fun i => a.rowTag i == 1 || a.rowTag i == 3) then some .format
    else if b.c = fZero then none
    else match misaligned ((e.vecs r.cnt).map (fun v => (v.1, 4))) with
      | some f => some f
      | none =>
        if (e.vecs r.cnt).any (fun v => decide (w.ssize < v.1 + v.2)) then some (.conv 5)
        else if e.bad then some .record else none
  | _ => none

/-! ### Counting the signatures of a group (R108 to R110) -/

/-- The state of a count: the register, the operations issued so far, the mismatching threads, the failed check. -/
structure Count where
  conv : Conv
  ops  : List (SigBuf × List Byte × Nat × List (Nat × Option Nat)) := []
  mism : List Nat := []
  fail : Option (Nat × LaneFault) := none

/-- Counts one signature. -/
def countOne (ahead : List (SigBuf × List Byte × Nat × List (Nat × Option Nat)) → Ahead) (w : Wg) (epi : SigBuf → List Byte)
    (flag : Option Nat) (c : Count) (tid : Nat) (b : SigBuf) : Count :=
  let differs := match c.conv.buf with
    | some o => o != b
    | none => false
  if c.fail.isSome then c
  else if differs then { c with mism := c.mism ++ [tid] }
  else
    let sg := c.conv.signers ++ [(tid, flag)]
    if 1 < c.conv.pend then { c with conv := { c.conv with pend := c.conv.pend - 1, buf := some b, signers := sg } }
    else match issueCause (ahead c.ops) w (epi b) b with
      | some f => { c with fail := some (tid, f) }
      | none => { c with
          conv := { c.conv with pend := c.conv.count, buf := none, signers := [] }
          ops := c.ops ++ [(b, epi b, tid, sg)] }

/-- The array operation that an issue puts in the queue. -/
def Ctx.arrOp (x : Ctx) (id : Nat) (q : SigBuf × List Byte × Nat × List (Nat × Option Nat)) : ArrOp :=
  { id := id, wg := x.wid, fn := x.wg.fn, sig := q.1, fmt := x.wg.fmt, ovf := x.wg.ovf, epi := q.2.1, signers := q.2.2.2,
    tid := q.2.2.1, pc := x.g.pc }

/-- The epilogue record that a signature names, as it stands. -/
def Ctx.epiAt (x : Ctx) (s : State) (b : SigBuf) : List Byte :=
  if b.op = 0x2C6 ∧ b.c ≠ fZero then s.scrRead x.g.core (x.wg.sbase + b.vc.toNat) 16 else zeroBytes 16

/-- Another group of the function on the core has a signature under way: it has issued operations, and the check of its later ones
holds only while no other enters the queue (R110). -/
def State.signing (s : State) (core fn gid : Nat) : Bool :=
  s.groups.any (fun p => p.1 != gid && p.2.core == core && !p.2.signed.isEmpty &&
    (match s.wg? p.2.wg with | some w => w.fn == fn | none => false))

/-- A halt of the workgroup has been requested: no further signature of it is counted (R116). -/
def State.haltAsked (s : State) (wid : Nat) : Bool := s.halts.any (fun r => match r with | .wgs ids _ => ids.contains wid)

/-- Puts an operation that issues into the core's queue. -/
def Ctx.putOp (x : Ctx) (s : State) (q : SigBuf × List Byte × Nat × List (Nat × Option Nat)) : State :=
  let (id, s1) := s.newId
  s1.modCore x.g.core (fun y => { y with opq := y.opq ++ [x.arrOp id q] })

/-- The longest run of the threads left to count that completes no more operations than the queue has entries free. -/
def signNow {α : Type} (ops : List α → Nat) (free : Nat) (todo : List α) : List α :=
  if ops todo ≤ free then todo
  else todo.take (((upTo todo.length).find? (fun n => ops (todo.take n) == free)).getD 0)

/-- A signature (R108 to R115): every executing thread counts, in lane order, and each operation issues when its count completes; the
group waits, with the threads before it counted, while the queue has no entry for the next. DEDUCED (assumption 112). -/
def signBody (op : Nat) (x : Ctx) (s : State) : Res :=
  match (if x.g.signed.isEmpty then x.causes (x.sigCause op) else none) with
  | some t => .trap t
  | none =>
    if x.active.isEmpty then regionBody x s
    else if s.signing x.g.core x.wg.fn x.gid || s.haltAsked x.wid then .stall
    else
      let k := x.w.d.toNat
      let start : Count := { conv := x.wg.creg k }
      let core := s.core x.g.core
      let run (t : State) (ps : List (Nat × Thread)) : Count :=
        let ahead (ops : List (SigBuf × List Byte × Nat × List (Nat × Option Nat))) : Ahead :=
          aheadOf core x.wg.fn x.wid x.wg (core.opq ++ ops.map (x.arrOp 0))
        ps.foldl (fun c p => countOne ahead x.wg (x.epiAt t) x.flag c p.1 (x.signature op p)) start
      let todo := x.active.filter (fun p => !x.g.signed.contains p.1)
      let c0 := run s todo
      let mism := c0.mism.map (fun i => (i, LaneFault.conv 2))
      let tids := c0.ops.flatMap (fun q => q.2.2.2.map Prod.fst) ++ (if c0.fail.isSome then c0.conv.signers.map Prod.fst else [])
      match pickTrap mism with
      | some t => .trap t
      | none =>
        let now := signNow (fun ps => (run s ps).ops.length) (core.arrayFree x.wg.fn) todo
        if now.isEmpty then .stall .arrayQueue
        else x.boundary s x.g.pc (fun t =>
          -- the epilogue record is read at issue, after the signers' scratchpad writes (R112, R132)
          if op = 0x2C6 ∧ x.w.c ≠ fZero ∧ t.signerPending x.wid (tids ++ x.g.tids) t.nextId = true then .hold t .other
          else
            match (run t todo).fail with
            | some (i, f) => .trap { cls := f.cls, sub := f.sub, own := some [(i, f.addr)] }
            | none =>
              let c := run t now
              if c.ops.any (fun q => op == 0x2C6 && x.w.c != fZero && t.scrIsPois x.g.core (x.wg.sbase + q.1.vc.toNat) 16) then
                .fault (x.accFault ((c.ops.headD (x.signature op (0, {}), [], 0, [])).2.2.1)
                  ((c.ops.headD (x.signature op (0, {}), [], 0, [])).1.vc.toNat) clsPoison 0) t
              else
                let t1 := c.ops.foldl x.putOp (if op = 0x2C6 ∧ x.w.c ≠ fZero then t.passSigners x.wid (tids ++ x.g.tids) t.nextId else t)
                let t2 := t1.modWg x.wid (fun v => { v with conv := tset v.conv k c.conv })
                let t3 := x.update t2 (fun i th => if now.any (fun p => p.1 == i) then th.flagUp x.flag else th)
                if now.length = todo.length then .ok (t3.modGroup x.gid (fun g => { g with rstart := x.next, signed := [] }))
                else .hold (t3.modGroup x.gid (fun g => { g with signed := g.signed ++ now.map Prod.fst })) .arrayQueue)

/-- `cinit` (R123). -/
def cinitCause (x : Ctx) (p : Nat × Thread) : Option LaneFault :=
  let a := (x.src p x.w.a).toNat
  if !tagOk p.2 x.w.a 1 tINT then some .format
  else if (x.wg.creg x.w.d.toNat).buf.isSome then some (.conv 4)
  else if a = 0 ∨ 2048 < a ∨ x.wg.nthr < a then some (.conv 3)
  else none

def cinitBody (x : Ctx) (s : State) : Res :=
  match x.causes (cinitCause x) with
  | some t => .trap t
  | none => .ok (x.active.foldl (fun t p =>
      let a := (x.src p x.w.a).toNat
      t.modWg x.wid (fun v => { v with conv := tset v.conv x.w.d.toNat { arm := true, pend := a, count := a } })) s)

/-! ### What the operations compute -/

/-- What the array's arithmetic changes: its generator and the conditions it raises (Table 5.4). -/
abbrev MSt := RSt

/-- Rounding to FP32 under RNE with IEEE overflow. -/
def ieeeCtx : RCtx := ⟨1, false, false, 1#128⟩

/-- An FP32 operation of the array: every NaN result is 0x7FC0_0000. DEDUCED (assumption 110). -/
def arr32 (op : FpOp) (r : MSt) (a b : Nat) : Nat × MSt :=
  let z := fpArith f32F 0 false op false ieeeCtx r a b 0
  (if (f32F.val z.1).isNaN then 0x7FC00000 else z.1, z.2)

/-- RNE32 of an exact value. -/
def rne32 (r : MSt) (x : Ex) : Nat × MSt :=
  let z := roundFlt f32F 0 false ieeeCtx r x
  (if (f32F.val z.1).isNaN then 0x7FC00000 else z.1, z.2)

/-- Element `i` of containers of `bits` bits from byte `a`. -/
def codeAt (m : List Host.Cell) (a bits i : Nat) : Nat :=
  if bits = 16 then cval m (a + 2 * i) 2
  else if bits = 8 then (cget m (a + i)).toNat
  else fieldN (cget m (a + i / 2)).toNat (4 * (i % 2)) 4

/-- The value of a code of a tag, by Val. -/
def valOf (fmt : Tab W32) (t code : Nat) : Ex := ((fmtOfTag fmt t).getD (.flt f32F)).val code

/-- PartSum (R130): NaN and NV for a NaN factor, 0 × ∞ or opposite infinities; else the exact sum, rounded once. -/
def partSum (r : MSt) (ps : List (Ex × Ex)) : Nat × MSt :=
  let prods := ps.map (fun q => if q.1.isNaN || q.2.isNaN then none else exMul q.1 q.2)
  if prods.any Option.isNone then (0x7FC00000, r.set stNV)
  else match exSum false (prods.filterMap id) with
    | some x => rne32 r x
    | none => (0x7FC00000, r.set stNV)

/-- The dimensions of a stream. -/
structure Stream where
  fmt   : Tab W32
  tag   : Nat
  plane : Plane
  bits  : Nat
  side  : Nat
  /-- K-elements of a part. -/
  part  : Nat
  mem   : List Host.Cell
  acts  : Nat
  scales : Nat
deriving DecidableEq, Repr

def Stream.kp (q : Stream) : Nat := planeDepth q.bits
/-- a(m, k) and w(k, n). -/
def Stream.actCode (q : Stream) (m k : Nat) : Nat := codeAt q.mem (q.acts + actBytes * m) q.bits k
def Stream.wCode (q : Stream) (k n : Nat) : Nat := codeAt q.plane.image (k * (planeBytes / q.kp)) q.bits n
def Stream.a (q : Stream) (m k : Nat) : Ex := valOf q.fmt q.tag (q.actCode m k)
def Stream.w (q : Stream) (k n : Nat) : Ex := valOf q.fmt q.plane.tag (q.wCode k n)
/-- sA(m, j) and sB(j, n) as FP32 codes: E4M3 scales widened exactly (R71). -/
def e4m3To32 (c : Nat) : Nat := (rne32 ⟨1#32, 0#5⟩ (e4m3F.val c)).1
def Stream.sA (q : Stream) (m j : Nat) : Nat :=
  e4m3To32 (cget q.mem (q.scales + (m / q.side) * (q.kp / q.side) + j * q.part / q.side)).toNat
def Stream.sB (q : Stream) (j n : Nat) : Nat :=
  e4m3To32 (cget q.plane.scales ((j * q.part / q.side) * (128 / q.side) + n / q.side)).toNat

/-- One element of a row in floating mode (R129). -/
def Stream.element (q : Stream) (m n : Nat) (acc : Nat) (r : MSt) : Nat × MSt :=
  (upTo (q.kp / q.part)).foldl (fun st j =>
    let t := partSum st.2 ((spanN (j * q.part) q.part).map (fun k => (q.a m k, q.w k n)))
    let u := if q.plane.bs then
        let sc := arr32 .mul t.2 (q.sA m j) (q.sB j n)
        arr32 .mul sc.2 t.1 sc.1
      else t
    arr32 .add u.2 st.1 u.1) (acc, r)

/-- A code as an integer (R131). -/
def intCode (t code : Nat) : Int :=
  if t = 7 then (BitVec.ofNat 8 code).toInt else if t = 9 then (BitVec.ofNat 4 code).toInt else (code % 256 : Nat)

/-- One element of a row in integer mode: the order of the parts does not matter. -/
def Stream.intElement (q : Stream) (m n : Nat) (acc : W32) : W32 :=
  (upTo (q.kp / 32)).foldl (fun a j =>
    a + trunc32 ((spanN (32 * j) 32).foldl (fun x k => x + intCode q.tag (q.actCode m k) * intCode q.plane.tag (q.wCode k n)) 0))
    acc

/-- A row after a stream row, with the conditions it raises. -/
def Stream.row (q : Stream) (m : Nat) (z : Row) (r : MSt) : Row × MSt :=
  if isIntTag q.tag && isIntTag q.plane.tag then
    ({ z with vals := (upTo 128).map (fun n => (n, q.intElement m n (tgetD z.vals n 0#32))) }, r)
  else
    let e := (upTo 128).foldl (fun (st : Tab W32 × MSt) n =>
      let y := q.element m n (tgetD z.vals n 0#32).toNat st.2
      (st.1 ++ [(n, BitVec.ofNat 32 y.1)], y.2)) ([], r)
    ({ z with vals := e.1 }, e.2)

/-- The image of BF16 weights that `mldq` expands; a NaN scale is propagated quieted (R126, R72, R55). -/
def mldqImage (m : List Host.Cell) (a b : Nat) (ovf : BitVec 128) : List Byte :=
  (upTo 128).flatMap (fun k => (upTo 128).flatMap (fun n =>
    let g := k / 32
    let q := codeAt m (a + 64 * k) 4 n
    let sc := bf16F.val (cval m (b + 2 * (128 * g + n)) 2)
    let z := codeAt m (b + 1024) 4 (128 * g + n)
    let v : Ex := exInt ((q : Int) - (z : Int))
    let x := (match firstNaN [sc] with
      | some (.nan sg p) => bf16F.nanCode sg p
      | _ => (match exMul v sc with
        | some p => (roundFlt bf16F 5 false ⟨1, false, false, ovf⟩ ⟨1#32, 0#5⟩ p).1
        | none => bf16F.canonNaN false))
    leBytes 2 x))

/-- One element of a drain before conversion (R133): none when the row's bits are copied as they stand. -/
def drainValue (e : Epi) (tag rowTag : Nat) (scale : Option Nat) (rv cv bias : Nat) (z : W32) (r : MSt) : Option Nat × MSt :=
  if rowTag = 1 ∧ tag = 1 ∧ !e.rv ∧ !e.cv ∧ !e.bi ∧ !e.relu ∧ scale.isNone then (none, r)
  else
    let x0 := if rowTag = 1 then rne32 r (exInt z.toInt) else (z.toNat, r)
    let x1 := if e.rv then arr32 .mul x0.2 x0.1 rv else x0
    let x2 := if e.cv then arr32 .mul x1.2 x1.1 cv else x1
    let x3 := (match scale with
      | some y => arr32 .mul x2.2 x2.1 y
      | none => x2)
    let x4 := if e.bi then arr32 .add x3.2 x3.1 bias else x3
    let v := f32F.val x4.1
    (some (if e.relu && !v.isNaN && v.sign then 0 else x4.1), x4.2)

/-- The converted code of one element, and the generator and conditions after it; a signalling NaN sets NV (R55, R133). -/
def drainCode (o : ArrOp) (e : Epi) (rowTag : Nat) (rv cv bias : Nat) (z : W32) (r : MSt) : Nat × MSt :=
  let tag := fieldN o.sig.md.toNat 0 6
  let scale := if o.sig.e = fZero then none else some o.sig.ve.toNat
  let x := drainValue e tag rowTag scale rv cv bias z r
  match x.1 with
  | none => (z.toNat, x.2)
  | some v =>
    roundTo ((fmtOfTag o.fmt tag).getD (.flt f32F)) tag false
      ⟨if o.sig.rm = 0 then 1 else o.sig.rm, false, false, o.ovf⟩ (x.2.setIf (f32F.val v).isSNaN stNV) (f32F.val v)

/-- Packs codes into containers of `bits` bits (R61, R132). -/
def packCodes (bits : Nat) : List Nat → List Byte
  | [] => []
  | [c] => leBytes (if bits = 4 then 1 else bits / 8) c
  | c :: d :: cs =>
    if bits = 4 then BitVec.ofNat 8 (c % 16 + 16 * (d % 16)) :: packCodes bits cs
    else leBytes (bits / 8) c ++ leBytes (bits / 8) d ++ packCodes bits cs

/-- One row of a drain: its bytes and the generator and conditions after it. -/
def drainRow (o : ArrOp) (mem : List Host.Cell) (base m : Nat) (z : Row) (r : MSt) : List Byte × MSt :=
  let e := epiOf o.epi
  let f (off i : Nat) : Nat := cval mem (base + off + 4 * i) 4
  let cs := (upTo 128).foldl (fun (st : List Nat × MSt) n =>
    let y := drainCode o e z.tag (f e.rvOff m) (f e.cvOff n) (f e.biOff n) (tgetD z.vals n 0#32) st.2
    (st.1 ++ [y.1], y.2)) ([], r)
  (packCodes (tagBits o.fmt (fieldN o.sig.md.toNat 0 6)) cs.1, cs.2)

/-! ### Running an operation -/

/-- The rows that an operation reads. -/
def ArrOp.reads (o : ArrOp) : List Nat :=
  match o.sig.op with
  | 0x2C5 | 0x2C6 => let r := rowsOf o.sig.vb 0; spanN r.row0 r.cnt
  | 0x2C8 => if o.sig.md.getLsbD 7 then [] else (let r := rowsOf o.sig.vb 0; spanN r.row0 r.cnt)
  | _ => []

/-- The scratchpad ranges that an operation reads. -/
def ArrOp.scrReads (o : ArrOp) : List (Nat × Nat) :=
  match o.sig.op with
  | 0x2C2 | 0x2C3 | 0x2C5 => o.sig.scr o.fmt
  | 0x2C6 => (epiOf o.epi).vecs (rowsOf o.sig.vb 0).cnt
  | 0x2C8 => if o.sig.md.getLsbD 7 then o.sig.scr o.fmt else []
  | _ => []

/-- Whether an operation writes scratchpad. -/
def ArrOp.writesScr (o : ArrOp) : Bool := o.sig.op == 0x2C6 || (o.sig.op == 0x2C8 && !o.sig.md.getLsbD 7)
/-- Whether it runs on the load path (R111). -/
def ArrOp.isLoad (o : ArrOp) : Bool := o.sig.op == 0x2C2 || o.sig.op == 0x2C3

/-- Whether an operation may run while an earlier one has not completed (R111): the two are on different paths, neither is an
exchange of planes, and the earlier has started; a join waits for all. -/
def mayPass (o e : ArrOp) : Bool :=
  e.sig.op == 0x2C1 ||
    (o.sig.op != 0x2C4 && e.sig.op != 0x2C4 && o.sig.op != 0x2C1 && o.isLoad != e.isLoad && !o.writesScr && !e.writesScr)

/-- The operations of the same function ahead of operation `id`. -/
def Core.aheadOps (c : Core) (fn id : Nat) : List ArrOp := (c.opq.takeWhile (fun o => o.id != id)).filter (fun o => o.fn == fn)

/-- Whether an operation may start: its tenant holds the array, those ahead let it pass, and its signers' earlier scratchpad
writes have performed (R111, R112). -/
def State.canStart (s : State) (c : Core) (o : ArrOp) : Bool :=
  !o.running && c.holdsArray o.fn && (c.aheadOps o.fn o.id).all (mayPass o) &&
    !s.signerPending o.wg (o.signers.map Prod.fst) o.id

/-- The operation that starts next. -/
def State.nextOp (s : State) (core : Nat) : Option ArrOp := (s.core core).opq.find? (s.canStart (s.core core))

/-- Updates an operation of the queue. -/
def Core.modOp (c : Core) (id : Nat) (f : ArrOp → ArrOp) : Core :=
  { c with opq := c.opq.map (fun o => if o.id = id then f o else o) }

/-- Core cycles that an operation takes once started (Table 5.8). -/
def ArrOp.cycles (o : ArrOp) : Nat :=
  match o.sig.op with
  | 0x2C2 | 0x2C3 => 128
  | 0x2C5 => (rowsOf o.sig.vb 0).cnt + 1 + 4 * min 8 o.miss.length
  | 0x2C6 | 0x2C8 => (rowsOf o.sig.vb 0).cnt + 1
  | 0x2C7 => ((rowsOf o.sig.va 0).cnt + 3) / 4
  | _ => 1

/-- An operation starts; `mis` names the rows of a stream whose checksum will mismatch (R135). -/
def State.startOp (s : State) (core : Nat) (mis : List (Nat × Bool)) : State :=
  match s.nextOp core with
  | some o =>
    let p := { o with running := true, miss := mis }
    let till := s.cycles + p.cycles
    (s.passSigners o.wg (o.signers.map Prod.fst) o.id).modCore core (fun c =>
      { c.modOp o.id (fun _ => { p with busy := till - max s.cycles c.busyTo }) with busyTo := max till c.busyTo })
  | none => s

/-- Whether the mismatches named fit an operation: only a stream has any, only rows it has, each once. -/
def missOk (o : ArrOp) (mis : List (Nat × Bool)) : Bool :=
  mis.isEmpty || (o.sig.op == 0x2C5 && mis.all (fun q => decide (q.1 < (rowsOf o.sig.vb 0).cnt)) &&
    decide (mis.map Prod.fst).Nodup)

/-- What the mismatch of a row leads to: the retries of a stream number at most 8 (R135). -/
inductive RowFate where
  | clean | corrected | poisoned
deriving DecidableEq, Repr

def rowFate (mis : List (Nat × Bool)) (m : Nat) : RowFate :=
  match mis.find? (fun q => q.1 == m) with
  | none => .clean
  | some (_, again) =>
    if again || decide (8 ≤ (mis.filter (fun q => decide (q.1 < m))).length) then .poisoned else .corrected

/-- Adds conditions to `sys.mstat`. -/
def addMstat (w : Wg) (x : W32) : Wg := { w with mstat := w.mstat ||| x }

/-- The effect of an operation on its core and workgroup: planes, rows, scratchpad, `sys.mstat`, `sys.mseed`; an `mdrain`
reads its row, column and bias vectors as they stood before it. DEDUCED (assumption 23). DESIGN CHOICE (assumption 143). -/
def runOp (c : Core) (w : Wg) (o : ArrOp) : Core × Wg :=
  let b := o.sig
  let tag := fieldN b.md.toNat 0 6
  let off (v : W32) : Nat := w.sbase + v.toNat
  let (act, sh) := c.planes o.fn
  let cells (a n : Nat) : List Host.Cell := cwrite [] 0 (cread c.scr a n)
  match b.op with
  | 0x2C2 =>
    let bs := b.md.getLsbD 6
    let n := gridBytes (planeDepth (tagBits o.fmt tag)) 128 (blockSide (b.md.getLsbD 7))
    let p : Plane :=
      { present := true, tag := tag, bs := bs, b32 := b.md.getLsbD 7, image := cells (off b.va) planeBytes,
        scales := if bs then cells (off b.vb) n else [] }
    (c.setPlanes o.fn (act, p), w)
  | 0x2C3 =>
    let p : Plane := { present := true, tag := 5, image := cwrite [] 0 (mldqImage c.scr (off b.va) (off b.vb) o.ovf) }
    (c.setPlanes o.fn (act, p), w)
  | 0x2C4 => (c.setPlanes o.fn (sh, act), w)
  | 0x2C5 =>
    let r := rowsOf b.vb w.nrows
    let side := blockSide (b.md.getLsbD 7)
    let q : Stream :=
      { fmt := o.fmt, tag := tag, plane := act, bits := tagBits o.fmt tag, side := side,
        part := if b.md.getLsbD 6 && side == 16 then 16 else 32, mem := c.scr, acts := off b.va, scales := off b.vc }
    (c, (upTo r.cnt).foldl (fun v m =>
      let y := q.row m (v.row (r.row0 + m)) ⟨1#32, 0#5⟩
      let v1 := addMstat v ((y.2.flags &&& (stNV ||| stOF)).zeroExtend 32)
      match rowFate o.miss m with
      | .clean => v1.setRow (r.row0 + m) y.1
      | .corrected => (addMstat v1 0x20#32).setRow (r.row0 + m) y.1
      | .poisoned => v1.setRow (r.row0 + m) { y.1 with pois := true }) w)
  | 0x2C6 =>
    let r := rowsOf b.vb w.nrows
    let bytes := 128 * tagBits o.fmt tag / 8
    (upTo r.cnt).foldl (fun (st : Core × Wg) m =>
      let z := st.2.row (r.row0 + m)
      let y := drainRow o c.scr w.sbase m z ⟨st.2.mseed, 0#5⟩
      let v1 := { addMstat st.2 (y.2.flags.zeroExtend 32) with mseed := y.2.seed }
      let v2 := if b.md.getLsbD 6 then v1.setRow (r.row0 + m) { tag := z.tag } else v1
      let a := off b.va + bytes * m
      ({ st.1 with scr := cwrite st.1.scr a y.1, scrPois := poisWrite st.1.scrPois 16 a y.1.length false }, v2)) (c, w)
  | 0x2C7 =>
    let r := rowsOf b.va w.nrows
    (c, (spanN r.row0 r.cnt).foldl (fun v i => v.setRow i { tag := if b.md.getLsbD 0 then 1 else 3 }) w)
  | 0x2C8 =>
    let r := rowsOf b.vb w.nrows
    if b.md.getLsbD 7 then
      (c, (upTo r.cnt).foldl (fun v i =>
        v.setRow (r.row0 + i)
          { vals := (upTo 128).map (fun n => (n, BitVec.ofNat 32 (cval c.scr (off b.va + 512 * i + 4 * n) 4))), tag := tag }) w)
    else
      ((upTo r.cnt).foldl (fun (k : Core) i =>
        let bs := (upTo 128).flatMap (fun n => leBytes 4 (tgetD (w.row (r.row0 + i)).vals n 0#32).toNat)
        let a := off b.va + 512 * i
        { k with scr := cwrite k.scr a bs, scrPois := poisWrite k.scrPois 16 a bs.length false }) c, w)
  | _ => (c, w)

/-- The poisoned place that an operation reads: a row, or a scratchpad byte (R135, R395). -/
def State.opPoison (s : State) (core : Nat) (w : Wg) (o : ArrOp) : Option Nat :=
  if o.reads.any (fun i => (w.row i).pois) then some 0
  else (o.scrReads.find? (fun r => s.scrIsPois core (w.sbase + r.1) r.2)).map Prod.fst

/-- The signers' flags complete (R113). -/
def State.opFlags (s : State) (o : ArrOp) : State :=
  s.lowerFlags o.wg (o.signers.filterMap (fun q => q.2.map (fun f => (q.1, f))))

/-- The reports of a stream's mismatches (R135): a corrected error for each row that the retry mended, records POISONED and
RETIRED for a failing array. DESIGN CHOICE (assumption 24). -/
def State.reportMiss (s : State) (core fn : Nat) (o : ArrOp) : State :=
  o.miss.foldl (fun t q =>
    match rowFate o.miss q.1 with
    | .corrected => t.errorRecord 8 .corrected (some fn) (sysCore core) 0 0#64
    | .poisoned =>
      ((t.errorRecord 8 .poisoned (some fn) (sysCore core) 0 0#64).errorRecord 8 .retired none (sysCore core) 0 0#64).modCore core
        (fun c => { c with failing := true })
    | .clean => t) s

/-- An operation completes: its effect is made, its signers' flags fall, it leaves the queue. One that meets poison ends the task and has
no effect. DESIGN CHOICE (assumption 144). -/
def State.completeOp (s : State) (core id : Nat) : State :=
  match (s.core core).opq.find? (fun o => o.id == id) with
  | none => s
  | some o =>
    let drop (t : State) : State := t.modCore core (fun c => { c with opq := c.opq.filter (fun p => p.id != id) })
    match s.wg? o.wg with
    | none => drop s
    | some w =>
      match s.opPoison core w o with
      | some a =>
        (((drop s).count core o.fn 5 o.busy).act w.fn w.queue .array o.cycles).taskFault w.launch
          { cls := clsPoison, pc := o.pc, addr := a, core := some core, wg := BitVec.ofNat 32 w.g, tid := o.tid }
      | none =>
        let (c, v) := runOp (s.core core) w o
        ((drop ((((s.setCore core c).setWg o.wg v).opFlags o).reportMiss core o.fn o)).count core o.fn 5 o.busy).act w.fn w.queue .array o.cycles

/-- A running operation may complete: those ahead have, except where they let it pass. -/
def State.canComplete (s : State) (core id : Nat) : Bool :=
  match (s.core core).opq.find? (fun o => o.id == id) with
  | some o => o.running && ((s.core core).aheadOps o.fn id).all (mayPass o)
  | none => false

/-! ### The meanings -/

def execCinit (w : TWord) (s : State) : Host.Outcome State Fault Refusal := runThrum (sigCinit w) w [] cinitBody s
def execMjoin (w : TWord) (s : State) : Host.Outcome State Fault Refusal := runThrum (sigMjoin w) w [] (signBody 0x2C1) s
def execMld (w : TWord) (s : State) : Host.Outcome State Fault Refusal := runThrum (sigMld w) w [] (signBody 0x2C2) s
def execMldq (w : TWord) (s : State) : Host.Outcome State Fault Refusal := runThrum (sigMldq w) w [] (signBody 0x2C3) s
def execMswap (w : TWord) (s : State) : Host.Outcome State Fault Refusal := runThrum (sigMswap w) w [] (signBody 0x2C4) s
def execMstream (w : TWord) (s : State) : Host.Outcome State Fault Refusal := runThrum (sigMstream w) w [] (signBody 0x2C5) s
def execMdrain (w : TWord) (s : State) : Host.Outcome State Fault Refusal := runThrum (sigMdrain w) w [] (signBody 0x2C6) s
def execMzero (w : TWord) (s : State) : Host.Outcome State Fault Refusal := runThrum (sigMzero w) w [] (signBody 0x2C7) s
def execMrowSt (w : TWord) (s : State) : Host.Outcome State Fault Refusal := runThrum (sigMrowSt w) w [] (signBody 0x2C8) s
def execMrowLd (w : TWord) (s : State) : Host.Outcome State Fault Refusal := runThrum (sigMrowLd w) w [] (signBody 0x2C8) s

/-- ARRAY_OPERATION_START (R111, R135). -/
def execArrayOperationStart (core : Nat) (mismatch : List (Nat × Bool)) (s : State) : Host.Outcome State Fault Refusal :=
  runEvent "ARRAY_OPERATION_START" (fun t => match t.nextOp core with | some o => missOk o mismatch | none => false)
    (fun t => t.startOp core mismatch) s
/-- ARRAY_OPERATION_COMPLETE (R113). -/
def execArrayOperationComplete (core id : Nat) (s : State) : Host.Outcome State Fault Refusal :=
  runEvent "ARRAY_OPERATION_COMPLETE" (fun t => t.canComplete core id) (fun t => t.completeOp core id) s

end Sys2Proof.Machine
end

