-- ==== Sys2Proof/Machine/Device.lean ====
section
/-! DEFINITION. What the device does beside its instructions and the events of the table: firmware's system agent (R42), evictions of the
memory-side cache (R340), sensors (R404), training (R402), and the faults that strike the places of Table 15.1 (R392, R393, R397). -/

namespace Sys2Proof.Machine

/-! ### Places of Table 15.1 -/

def placeWords : Nat := 1
def placeCaches : Nat := 2
def placeSlices : Nat := 3
def placeMesh : Nat := 6
def placeMultipliers : Nat := 9

/-- A fault that its check masks: corrected, resent, dropped and refetched, or executed again. -/
def State.masked (s : State) (place : Nat) (fn : Option Nat) (unit : W32) (pa : Nat) : State :=
  s.errorRecord place .corrected fn unit pa 0#64

/-- A fault that ends the task of a group that meets it, with poison (R392, R395). -/
def State.strikesGroup (s : State) (place : Nat) (k : ErrKind) (g : Group) (w : Wg) : State :=
  (s.errorRecord place k (some w.fn) (sysCore g.core) 0 0#64).taskFault w.launch
    { cls := clsPoison, pc := g.pc, core := some g.core, wg := BitVec.ofNat 32 w.g, tid := g.tids.headD 0 }

/-- A fault of a group's registers or multipliers: masked, or its task ends. -/
def State.groupStruck (s : State) (place : Nat) (k : ErrKind) (gid : Nat) (hard : Bool) : State :=
  match s.group? gid with
  | none => s
  | some g => (match s.wg? g.wg with
    | none => s
    | some w => if hard then s.strikesGroup place k g w else s.masked place (some w.fn) (sysCore g.core) 0)

/-- A line in a slice or the memory-side cache is struck: a clean copy is fetched again from below, a dirty one is poisoned at its home and
written back poisoned (R397). -/
def State.sliceStruck (s : State) (l : Nat) (hard : Bool) : State :=
  let pa := 64 * l
  match (s.line l).dirty with
  | some f =>
    if hard then
      let s1 := s.poisonLine l
      let s2 := (if hbmLine l then s1.burst f l true else s1).modLine l (fun x => { x with dirty := none })
      s2.errorRecord placeSlices .poisoned none (stackName l) pa 0#64
    else s.masked placeSlices none (stackName l) pa
  | none => s.masked placeSlices none (stackName l) pa

/-- What a fault does at the place that it strikes (Table 15.1): an L1 that has written a line it owns holds the dirty copy, which is
poisoned at its home and returned (R146, R397). UNIT names the core of the place, or the stack of the line; for the base
dies it is a free value. -/
def State.struck (s0 : State) (f : Struck) (hard : Bool) : State :=
  let (v, s) := s0.free
  match f with
  | .reg gid => s.groupStruck placeWords .poisoned gid hard
  | .scratch c off =>
    if hard then
      (s.modCore c (fun x => { x with scrPois := insertNat x.scrPois (off / 16) })).errorRecord placeWords .poisoned none (sysCore c) 0 0#64
    else s.masked placeWords none (sysCore c) 0
  | .row i r =>
    (match s.wg? i with
     | none => s
     | some w =>
       if hard then
         (s.modWg i (fun y => y.setRow r { y.row r with pois := true })).errorRecord placeWords .poisoned (some w.fn) (sysCore w.core) 0 0#64
       else s.masked placeWords (some w.fn) (sysCore w.core) 0)
  | .l1 c l =>
    if hard ∧ (s.line l).owner = some c ∧ (s.line l).ownDirty = true then
      ((s.poisonLine l).ownerReturns l).errorRecord placeCaches .poisoned none (sysCore c) (64 * l) 0#64
    else (if hard then s.modCore c (fun x => { x with l1 := x.l1.filter (fun p => p.1 / 64 != l) }) else s).masked placeCaches none (sysCore c)
      (64 * l)
  | .tlb i => (if hard then { s with tlb := s.tlb.eraseIdx i } else s).masked placeCaches none (lo32 v) 0
  | .dir _ | .filter _ => s.masked placeCaches none (lo32 v) 0
  | .slice l => s.sliceStruck l hard
  | .tagEntry c pos =>
    if hard then
      (s.modCtl c (fun k => { k with ents := tmod k.ents pos (fun e => { e with pois := true }) })).errorRecord placeSlices .poisoned none
        (lo32 v) 0 0#64
    else s.masked placeSlices none (lo32 v) 0
  | .bobMem k =>
    if hard then (s.errorRecord placeSlices .poisoned none (lo32 v) 0 0#64).abortInvocation k abPoison
    else s.masked placeSlices none (lo32 v) 0
  | .hbm l =>
    if hard then (s.poisonLine l).errorRecord placeHbm .poisoned none (stackName l) (64 * l) 0#64
    else s.masked placeHbm none (stackName l) (64 * l)
  | .tier2 l =>
    if hard then (s.poisonLine l).errorRecord placeTier2 .poisoned none (lo32 v) (64 * l) 0#64
    else s.masked placeTier2 none (lo32 v) (64 * l)
  | .flit c => s.masked placeMesh none (sysCore c) 0
  | .residue gid => s.groupStruck placeMultipliers .taskEnded gid hard

/-- The place exists, and what is struck there is read there: a line of HBM or the second tier is read when no copy of it lies above. -/
def State.mayStrike (s : State) (f : Struck) : Bool :=
  match f with
  | .reg gid | .residue gid => (s.group? gid).isSome
  | .scratch c off => decide (c < Config.numCores ∧ off < Config.maxScratch)
  | .row i r => (match s.wg? i with | some w => decide (r < w.nrows) | none => false)
  | .l1 c _ => decide (c < Config.numCores)
  | .dir k => (tget? s.dirs k).isSome
  | .filter k => (tget? s.filters k).isSome
  | .tlb i => decide (i < s.tlb.length)
  | .slice l => (s.line l).present || (s.line l).msc
  | .tagEntry c pos => decide (c < 4) && (tget? (s.ctl c).ents pos).isSome
  | .bobMem k => decide (k < Config.numClusters)
  | .hbm l => hbmLine l && s.bareLine l
  | .tier2 l => (match regionOf (64 * l) with | some .tier2 => true | _ => false) && s.bareLine l
  | .flit c => decide (c < Config.numCores)

/-! ### Gap units (R393) -/

/-- A unit has an undetected fault, no older than the window of R393. -/
def State.gapOpen (s : State) (p : UnitName → Bool) : Bool :=
  s.boot.gaps.any (fun q => p q.1 && decide ((s.now - q.2).toNat ≤ gapWindow))

/-- A unit with an undetected fault that can corrupt what a core computes. -/
def State.gapAt (s : State) (core : Nat) : Bool := s.gapOpen (fun u => (unitCores u).contains core)

/-- A place of a copy's unit, as a failing address generator gives it. -/
def CDst.moved (v : Nat) : CDst → CDst
  | .va _ => .va v
  | .red _ => .red v
  | .peer pos core wg gen base _ => .peer pos core wg gen base v
def CPiece.moved (v : Nat) (q : CPiece) : CPiece :=
  match q.src with
  | .va _ => { q with src := .va v }
  | .scr _ => { q with src := .scr (v % Config.maxScratch) }
  | _ => q

/-- The addresses of a unit of a copy come from a failing generator: free values (R393). -/
def State.gapCopy (s : State) (id k : Nat) : State :=
  match tget? s.copies id with
  | some c =>
    if s.gapAt c.core then
      let (a, s1) := s.free
      let (b, s2) := s1.free
      { s2 with copies := tmod s2.copies id (fun c => { c with units := tmod c.units k (fun u =>
          if u.sent then u else { u with srcs := u.srcs.map (CPiece.moved a.toNat), dst := u.dst.moved b.toNat }) }) }
    else s
  | none => s

/-- The results of a `rast` or `trav` come from a failing datapath: free values. -/
def State.gapUnit (s : State) (id : Nat) : State :=
  match tget? s.rts id with
  | some r =>
    if s.gapAt r.core then
      let (v, s1) := s.free
      { s1 with rts := tset s1.rts id { r with vals := r.vals.map (fun q => (lo32 v ^^^ q.1, q.2)) } }
    else s
  | none => s

/-- A failing tag controller takes an entry for another key: a free value. -/
def State.gapEntry (s : State) (ctl pos : Nat) : State :=
  if s.gapOpen (fun u => match u with | .controller i => i == ctl | _ => false) then
    let (v, s1) := s.free
    s1.modCtl ctl (fun c => { c with ents := tmod c.ents pos (fun e => { e with key := v }) })
  else s

/-- A result of a failing unit: the device promises nothing about its value. -/
def State.gapCorrupt (s : State) (gid tid reg : Nat) : State :=
  match s.group? gid with
  | none => s
  | some g =>
    let (v, s1) := s.free
    if s.gapAt g.core && g.tids.contains tid then s1.modThread ⟨g.wg, tid⟩ (fun th => th.setReg reg (lo32 v) (th.reg reg).t.toNat) else s

/-! ### The device acts -/

/-- Firmware starts a group of the physical function at the privileged level (R42; file 18, the system agent).
DEDUCED (assumption 97). -/
def State.raisePriv (s : State) (gid : Nat) : State :=
  match s.group? gid with
  | none => s
  | some g => (match s.wg? g.wg with
    | some w => if w.fn = 0 ∧ g.wait ≠ .trapped then s.setGroup gid { g with priv := true } else s
    | none => s)

/-- The memory-side cache evicts a line that the slice does not hold. -/
def State.mscDrops (s : State) (l : Nat) : State :=
  if (s.line l).msc && !(s.line l).present && decide ((s.line l).far = 0) then s.mscEvicts l else s

/-- What the device does of its own. DESIGN CHOICE (assumption 123). -/
def State.deviceAct (s : State) (d : DevAct) : State :=
  match d with
  | .raisePriv gid => s.raisePriv gid
  | .mscEvict l => s.mscDrops l
  | .senses => s.senses
  | .hbmTrained => { s with boot := { s.boot with hbmTrained := true } }
  | .linkTrains k up =>
    if 16 ≤ k then s
    else { s with boot := { s.boot with
      ended := insertNat s.boot.ended k, links := if up then insertNat s.boot.links k else eraseNat s.boot.links k } }
  | .gapBegins u =>
    if unitNamed u && !s.boot.gaps.any (fun p => p.1 == u) then { s with boot := { s.boot with gaps := s.boot.gaps ++ [(u, s.now)] } } else s
  | .gapCorrupts gid tid reg => s.gapCorrupt gid tid reg
  | .gapCopies id k => s.gapCopy id k
  | .gapUnits id => s.gapUnit id
  | .gapEntries ctl pos => s.gapEntry ctl pos
  | .strike f hard => if s.mayStrike f then s.struck f hard else s

end Sys2Proof.Machine
end

