-- ==== Sys2Proof/Machine/FrontEnd.lean ====
section
/-! DEFINITION. The front end: notifies, ring entries, completions, the residency lease (R273 to R276, R283, R290, R291, R422). -/

namespace Sys2Proof.Machine

/-! ### Notifies (R273, R274) -/

/-- A notify: entries up to the value become available, or it is refused and counted. -/
def State.notify (s : State) (fn q : Nat) (v : W32) : State :=
  let x := s.queue fn q
  if !x.en || x.type == 1 || decide (x.size < (v - x.qrd).toNat) then s.qerr fn q
  else if x.ahead v ≤ x.avail then s
  else s.setQueue fn q { x with qnotify := v, devEnd := v }

/-- The host's earlier posted writes have performed (R274). -/
def State.hostSettled (s : State) : Bool :=
  !s.writes.any (fun w => w.2.acc.th.isNone && w.2.acc.agent == 0 && w.2.acc.fn == 0 && w.2.acc.launch == 0)

/-! ### Completions (Table 10.7, R290, R291) -/

/-- STATUS of a completion record. -/
def csOk : Nat := 0
def csRefused : Nat := 1
def csRecord : Nat := 2
def csResidency : Nat := 3
def csEntry : Nat := 4
def csFault : Nat := 5
def csKilled : Nat := 6

/-- Where a signal object is (R290), for an access that needs the given permissions. -/
def State.signalTarget (s : State) (fn a : Nat) (need : Need) : Except AccErr Acced :=
  if 2 ^ 56 ≤ a then .error (.fault clsTrans 4)
  else if 2 ^ 55 ≤ a then
    (if fieldN a 47 8 = s.podid then
      (s.exportAccess s.ownPort fn (fieldN a 47 8) (fieldN a 0 47) need).1
     else .ok { tgt := .pod (fieldN a 47 8) (fieldN a 0 47), agent := agFront, path := [], mt := 2 })
  else s.plainAccess fn a need

/-- The walk that such an access makes, though it fail: charged to the function, or registered for the export cache (R165, R340). -/
def State.signalWalk (s : State) (fn a : Nat) (need : Need) : State :=
  if 2 ^ 55 ≤ a then
    (if a < 2 ^ 56 ∧ fieldN a 47 8 = s.podid then (s.exportAccess s.ownPort fn (fieldN a 47 8) (fieldN a 0 47) need).2 else s)
  else s.walked fn a

/-- Which of the completion steps 2 to 4 are taken. -/
structure Steps where
  crec : Bool := true
  sig  : Bool := true
  irq  : Bool := true
deriving DecidableEq, Repr

/-- Writes the completion record: the write's number, if one is made; none while the translation waits.
DEDUCED (assumption 46). -/
def State.writeCrec (s : State) (fn : Nat) (pk : List Byte) (status nchild : Nat) : Option (List Nat × State) :=
  let a := pktCrec pk
  if a = 0 ∨ a % 16 ≠ 0 then some ([], s)
  else match s.plainAccess fn a needW with
    | .ok t =>
      some ([s.nextId], s.frontWrite fn t (leBytes 4 status ++ leBytes 4 nchild ++ leBytes 8 s.now.toNat))
    | .error .wait => none
    | .error _ => some ([], s.walked fn a)

/-- Decrements the signal after the writes `after`. -/
def State.writeSig (s : State) (fn : Nat) (pk : List Byte) (after : List Nat) : Option (List Nat × State) :=
  let a := pktSig pk
  if a = 0 ∨ a % 8 ≠ 0 then some ([], s)
  else match s.signalTarget fn a needRW with
    | .ok t =>
      let (id, s1) := (s.signalWalk fn a needRW).newId
      some ([id], { s1 with
        writes := tset s1.writes id
          { acc := { frontAcc id fn t 8 with agent := t.agent, inc := tgetD s1.incs t.agent 0, after := after }, kind := .sigdec 1#32 none } })
    | .error .wait => none
    | .error _ => some ([], s.signalWalk fn a needRW)

/-- Completion steps 2 to 4 in their order (R291): the interrupt follows the last write. Answers the writes sent. -/
def State.completeSteps (s : State) (fn q : Nat) (pk : List Byte) (status nchild : Nat) (st : Steps) :
    Option (List Nat × State) :=
  match (if st.crec then s.writeCrec fn pk status nchild else some ([], s)) with
  | none => none
  | some (a, s1) =>
    match (if st.sig then s1.writeSig fn pk a else some ([], s1)) with
    | none => none
    | some (b, s2) =>
      let ids := a ++ b
      if st.irq && pktIrq pk then
        (match ids.getLast? with
         | some i => some (ids, { s2 with
             writes := tmod s2.writes i (fun w => { w with acc := { w.acc with irq := some (fn, q) } }) })
         | none => some (ids, s2.emit (.queueIrq fn q)))
      else some (ids, s2)

/-- QRD passes the entry at the head (R273). -/
def State.advance (s : State) (fn q : Nat) : State :=
  s.modQueue fn q (fun x => { x with qrd := x.qrd + 1#32, head := none, waiting := none })

/-- A packet that fails: completion with its status, QERR, and QRD passes it; a WAIT takes steps 2 and 4 only (R275). -/
def State.failPacket (s : State) (fn q : Nat) (pk : List Byte) (status : Nat) : Option State :=
  (s.completeSteps fn q pk status 0 { sig := decide (pktKind pk ≠ 4) }).map (fun r => (r.2.qerr fn q).advance fn q)

/-- DONE, once a destroyed queue has no launch left (R301). -/
def State.settleDestroy (s : State) (fn q : Nat) : State :=
  let x := s.queue fn q
  if x.destroying ≠ 0 ∧ s.launches.any (fun p => p.2.fn == fn && p.2.queue == q) = false then
    s.setQueue fn q { x with done := true, destroying := 0 }
  else s

/-- A launch whose packet fails before it starts leaves the machine. -/
def State.failLaunch (s : State) (l : Nat) (status : Nat) : Option State :=
  match s.launch? l with
  | none => some s
  | some x =>
    (({ s with launches := terase s.launches l }).failPacket x.fn x.queue x.packet status).map (fun (t : State) => t.settleDestroy x.fn x.queue)

/-! ### Ring entries (R274 to R276, R422) -/

/-- A packet that can never be placed (R280): a core of its rectangle takes no launch, or its needs exceed an empty core.
DEDUCED (assumption 37). -/
def State.neverFits (s : State) (l : Launch) : Bool :=
  (pktRect l.packet).cores.any s.coreShut || !(l.needs.times (pktWgpc l.packet)).within Config.poolBytes

/-- The launch that a packet at the head of its queue makes, as the read of its structures finds it. -/
def State.readLaunch (s : State) (fn q : Nat) (qrd : W32) (pk : List Byte) : Got Launch :=
  let k := pktLKind pk
  match s.readLrec fn (pktLrec pk) (k == .gang) false,
        (if k = .gang then s.roleTable fn (pktAux pk) else .ok []),
        (if k = .tatting then s.taskGraph fn (pktAux pk) (pktTasks pk) else .ok []) with
  | .wait, _, _ => .wait
  | _, .wait, _ => .wait
  | _, _, .wait => .wait
  | .ok r, .ok roles, .ok tasks =>
    .ok { fn := fn, queue := q, qidx := qrd, kind := k, packet := pk, lrec := r.bytes, fmts := r.fmts, ranges := r.ranges,
          roles := roles, tasks := tasks, depth := pktDepth pk }
  | _, _, _ => .bad

/-- The front end takes a launch packet in: it fails, or is at the head of its queue. -/
def State.takeLaunch (s : State) (fn q : Nat) (qrd : W32) (pk : List Byte) : Option State :=
  match s.readLaunch fn q qrd pk with
  | .wait => none
  | .bad => (s.sawLaunch fn pk).failPacket fn q pk csRecord
  | .ok l =>
    let (id, s1) := (s.sawLaunch fn pk).newId
    some ((s1.setLaunch id l).modQueue fn q (fun x => { x with head := some id }))

/-- The front end reads the next available ring entry; none while a read waits. -/
def State.readEntry (s0 : State) (fn q : Nat) : Option State :=
  let x := s0.queue fn q
  let s := s0.frontSaw fn (x.entryVa x.qrd.toNat) 64
  match s0.frontRead fn (x.entryVa x.qrd.toNat) 64 with
  | .wait => none
  | .unreadable => some ((s.qerr fn q).advance fn q)
  | .bytes pk =>
    if pktBad (x.type == 0) pk then s.failPacket fn q pk csRecord
    else match pktLKind pk with
      | .nop => (s.completeSteps fn q pk csOk 0 {}).map (fun r => r.2.advance fn q)
      | .wait => some (s.setQueue fn q { x with waiting := some pk })
      | _ => s.takeLaunch fn q x.qrd pk

/-- The function is being frozen or is frozen (R382). -/
def State.stopped (s : State) (fn : Nat) : Bool := (s.fnb fn).fault.freezing || (s.fnb fn).fault.thawing

/-- The front end may read the next entry of a packet queue. -/
def State.mayRead (s : State) (fn q : Nat) : Bool :=
  let x := s.queue fn q
  x.en && decide (x.type ≤ 1) && decide (0 < x.avail) && x.head.isNone && x.waiting.isNone && !s.stopped fn

/-! ### WAIT packets (R275) -/

/-- The signal of a WAIT has fallen to its threshold: what follows; none while it has not, or its read waits.
DEDUCED (assumption 44). -/
def State.waitOver (s : State) (fn q : Nat) : Option State :=
  match (s.queue fn q).waiting with
  | none => none
  | some pk =>
    let done (t : State) (v : W64) : Option State :=
      if v.toInt ≤ (pktVal pk).toInt then
        (t.completeSteps fn q pk csOk 0 { sig := false }).map (fun r => r.2.advance fn q)
      else none
    match s.signalTarget fn (pktSig pk) needR with
    | .ok t =>
      (match t.tgt with
       | .glob pa _ =>
         if s.readWaits (pa / 64) none || s.isPois pa 8 then none
         else done ((s.signalWalk fn (pktSig pk) needR).touch fn (pa / 64) t.mt) (BitVec.ofNat 64 (s.readVal pa 8))
       | .pod d off => let (v, u) := s.free; done (u.emit (.podRequest d s.podid fn ⟨off, .read 8⟩)) v
       | .scr _ _ => none)
    | .error _ => none

/-! ### Residency leases (R283) -/

/-- The pages of a range: `k` pages from an address. -/
def State.pagesHeld (s : State) (fn : Nat) (g : Range) : Nat → Nat → Except AccErr Unit
  | 0, _ => .ok ()
  | k + 1, a =>
    match s.plainAccess fn a { r := g.r, w := g.w } with
    | .error e => .error e
    | .ok _ => s.pagesHeld fn g k (a + 65536)

/-- What a lease request answers: granted, refused, or waiting for a walk. -/
inductive Lease where
  | granted | refused | wait
deriving DecidableEq, Repr

/-- Checks every page of every range. -/
def State.lease (s : State) (fn : Nat) : List Range → Lease
  | [] => .granted
  | g :: gs =>
    match s.pagesHeld fn g (g.len / 65536) g.base with
    | .ok _ => s.lease fn gs
    | .error .wait => .wait
    | .error _ => .refused

/-- The walks of every page of every range have been made (R340). -/
def State.sawRanges (s : State) (fn : Nat) (gs : List Range) : State :=
  gs.foldl (fun t g => (upTo (g.len / 65536)).foldl (fun u i => u.walked fn (g.base + 65536 * i)) t) s

/-- The residency step of a packet; none while a walk waits. -/
def State.leaseStep (s : State) (l : Nat) : Option State :=
  match s.launch? l with
  | none => none
  | some x =>
    match s.lease x.fn x.ranges with
    | .granted => some ((s.sawRanges x.fn x.ranges).setLaunch l { x with phase := .ready })
    | .refused => (s.sawRanges x.fn x.ranges).failLaunch l csResidency
    | .wait => none

/-! ### The meanings -/

/-- QNOTIFY_WRITE (R273). -/
def execQnotifyWrite (fn q : Nat) (val : W32) (s : State) : Host.Outcome State Fault Refusal :=
  runEvent "QNOTIFY_WRITE" (fun t => decide (fn < Config.numFns ∧ q < queuesOf fn) && t.hostSettled) (fun t => t.notify fn q val) s
/-- RING_ENTRY_READ (R274). -/
def execRingEntryRead (fn q : Nat) (s : State) : Host.Outcome State Fault Refusal :=
  runEvent "RING_ENTRY_READ" (fun t => t.mayRead fn q && (t.readEntry fn q).isSome) (fun t => (t.readEntry fn q).getD t) s
/-- WAIT_PACKET_SATISFIED (R275). -/
def execWaitPacketSatisfied (fn q : Nat) (s : State) : Host.Outcome State Fault Refusal :=
  runEvent "WAIT_PACKET_SATISFIED" (fun t => (t.queue fn q).en && !t.stopped fn && (t.waitOver fn q).isSome)
    (fun t => (t.waitOver fn q).getD t) s
/-- RESIDENCY_LEASE_GRANT (R283). -/
def execResidencyLeaseGrant (l : Nat) (s : State) : Host.Outcome State Fault Refusal :=
  runEvent "RESIDENCY_LEASE_GRANT"
    (fun t => (match t.launch? l with | some x => x.phase == .residency | none => false) && (t.leaseStep l).isSome)
    (fun t => (t.leaseStep l).getD t) s

end Sys2Proof.Machine
end

