-- ==== Sys2Proof/Machine/Leaf.lean ====
section
/-! DEFINITION. Dispatch: choosing a packet, reservation, commit, cancel (R278 to R280, R337, R338), freed resources, the start of tasks
(R288), the completion of launches (R291) and the move of deferred packets (R293). -/

namespace Sys2Proof.Machine

/-! ### Choosing a packet (R279, R280) -/

/-- The clusters and the cores on one cluster that a launch's rectangle covers. -/
def Launch.clusters (l : Launch) : List Nat := (pktRect l.packet).clusters
def Launch.coresAt (l : Launch) (k : Nat) : List Nat := (pktRect l.packet).cores.filter (fun c => clusterOf c == k)
/-- PRIO of a launch's queue. -/
def State.prioOf (s : State) (l : Launch) : Nat := (s.queue l.fn l.queue).prio

/-- At most four reservations are in progress, on clusters that no other touches. -/
def State.roomToReserve (s : State) (l : Launch) : Bool :=
  let rs := (tvals s.launches).filter Launch.inProgress
  decide (rs.length < 4) && !rs.any (fun r => r.clusters.any l.clusters.contains)

/-- BARRIER: every earlier packet of the queue has completed. -/
def State.barrierOk (s : State) (id : Nat) (l : Launch) : Bool :=
  !pktBarrier l.packet ||
    !s.launches.any (fun p => p.1 != id && p.2.fn == l.fn && p.2.queue == l.queue && p.2.kind != .pool)

/-- A packet that has waited 100 µs keeps packets of no higher PRIO off its rectangle (R280). DEDUCED (assumption 43). -/
def State.starvedOut (s : State) (id : Nat) (l : Launch) : Bool :=
  s.launches.any (fun p => p.1 != id && p.2.starved && decide (s.prioOf l ≤ s.prioOf p.2) &&
    (pktRect p.2.packet).overlaps (pktRect l.packet))

/-- A displaced workgroup of the function waits: it re-enters before any other workgroup starts (R339). -/
def State.displacedWait (s : State) (fn : Nat) : Bool := (s.fnb fn).images.any (fun i => i.cause == 1)

/-- A head packet that may begin reservation now. -/
def State.eligible (s : State) (id : Nat) (l : Launch) : Bool :=
  let x := s.queue l.fn l.queue
  l.phase == .ready && !l.blocked && x.en && x.head == some id && !x.exhausted && !s.stopped l.fn && s.barrierOk id l &&
    s.roomToReserve l && !s.starvedOut id l && !s.displacedWait l.fn

/-- The choice of the scheduler: highest PRIO first, queues of one level in rotation (R279). -/
def State.chosen (s : State) (id : Nat) (l : Launch) : Bool :=
  let at_ (y : Launch) : Nat := (s.queue y.fn y.queue).served
  s.eligible id l && s.launches.all (fun p => !s.eligible p.1 p.2 || decide (s.prioOf p.2 < s.prioOf l) ||
    (s.prioOf p.2 == s.prioOf l && decide (at_ l ≤ at_ p.2)))

/-! ### Send permits (R278) -/

/-- Permits for leaf `k` that the scheduler still holds of its 8: each commit or cancel that the leaf has not taken in holds one. DEDUCED
(assumption 136). -/
def State.permitsTo (s : State) (k : Nat) : Nat :=
  8 - ((tvals s.launches).filter (fun l => l.toCommit.contains k)).length - ((tvals s.launches).filter (fun l => l.toCancel.contains k)).length
/-- Permits for the scheduler that leaf `k` still holds of its 8: each answer that has not been heard holds one. DEDUCED
(assumption 136). -/
def State.permitsFrom (s : State) (k : Nat) : Nat :=
  8 - ((tvals s.launches).filter (fun l => (l.yes.contains k || l.no.contains k) && !l.heard.contains k)).length
/-- The scheduler can send to every leaf of a list. -/
def State.canSend (s : State) (ks : List Nat) : Bool := ks.all (fun k => decide (0 < s.permitsTo k))

/-! ### Reservation (R280, R337, R338) -/

/-- A leaf can answer yes: the launch may use its cluster, and each of its cores in the rectangle has room. -/
def State.leafCan (s : State) (l : Launch) (k : Nat) : Bool :=
  s.mayUse l k && (l.coresAt k).all (fun c => s.fits c l.fn (l.needs.times (pktWgpc l.packet)))

/-- Workgroups of a list that no halt has been requested for to save them. -/
def State.unsaved (s : State) (ids : List Nat) : List Nat :=
  ids.filter (fun i => match s.wg? i with
    | some w => (match w.held with | some (.saving _) => false | _ => true) &&
        !s.halts.any (fun h => match h with | .wgs js (.saving _) => js.contains i | _ => false)
    | none => false)

/-- Requests that the borrowers of a cluster be halted and saved (R338). -/
def State.reclaim (s : State) (k : Nat) : State :=
  match s.unsaved (s.borrowers k) with
  | [] => s
  | ids => { s with halts := s.halts ++ [.wgs ids (.saving 1)] }

/-- A leaf's answer: yes, with the resources held; or no, with the packet waiting for freed resources. -/
def State.leafAnswer (s : State) (id : Nat) (l : Launch) (k : Nat) : State :=
  if s.leafCan l k then s.setLaunch id { l with yes := l.yes ++ [k], heldOn := l.heldOn ++ l.coresAt k }
  else s.setLaunch id { l with no := l.no ++ [k], blocked := true, waitSince := some (l.waitSince.getD s.now) }

/-- The scheduler asks a leaf; a home function's leaf with borrowers in the way reclaims the cluster first. -/
def State.ask (s : State) (id : Nat) (l : Launch) (k : Nat) : State :=
  let first := l.phase == .ready
  let l1 := if first then
      { l with phase := .reserving, asked := [k], yes := [], no := [], heard := [], heldOn := [], toCommit := [], toCancel := [],
               askedAt := s.now }
    else { l with asked := l.asked ++ [k] }
  let s0 := if first then { s with nextId := s.nextId + 1 }.modQueue l.fn l.queue (fun x => { x with served := s.nextId }) else s
  let s1 := s0.setLaunch id l1
  if !s.leafCan l k && s.isHome l.fn k && !(s.borrowers k).isEmpty then s1.reclaim k else s1.leafAnswer id l1 k

/-- The scheduler begins the reservation of a packet that can never be placed: it fails at once (R280). -/
def State.refuseNow (s : State) (id : Nat) (l : Launch) : Option State :=
  if l.phase = .ready ∧ s.neverFits l = true then s.failLaunch id csRefused else none

/-- A leaf may be asked. -/
def State.mayAsk (s : State) (id k : Nat) : Bool :=
  match s.launch? id with
  | some l => l.clusters.contains k && decide (0 < s.permitsTo k) && decide (0 < s.permitsFrom k) &&
      (s.chosen id l || (l.phase == .reserving && !l.asked.contains k && l.toCancel.isEmpty))
  | none => false

/-- A leaf's answer has been made, or can be now. -/
def State.mayHear (s : State) (id k : Nat) : Bool :=
  match s.launch? id with
  | some l => l.phase == .reserving && l.asked.contains k && !l.heard.contains k && l.toCancel.isEmpty && s.canSend l.clusters &&
      (l.yes.contains k || l.no.contains k || s.leafCan l k || (s.borrowers k).isEmpty)
  | none => false

/-- An answer reaches the scheduler: a no cancels, the last yes commits. -/
def State.hear (s : State) (id k : Nat) : State :=
  match s.launch? id with
  | none => s
  | some l0 =>
    let s1 := if l0.yes.contains k || l0.no.contains k then s else s.leafAnswer id l0 k
    match s1.launch? id with
    | none => s1
    | some l1 =>
      let l := { l1 with heard := l1.heard ++ [k] }
      if l.no.contains k then s1.setLaunch id { l with toCancel := l.asked }
      else if l.clusters.all l.heard.contains then
        (if s1.starvedOut id l || s1.displacedWait l.fn || (s1.queue l.fn l.queue).exhausted then s1.setLaunch id { l with toCancel := l.asked }
         else s1.setLaunch id { l with phase := .committing, toCommit := l.clusters, starved := false, waitSince := none })
      else s1.setLaunch id l

/-- A reservation stands unanswered after 2 µs. -/
def State.timedOut (s : State) (id : Nat) : Bool :=
  match s.launch? id with
  | some l => l.phase == .reserving && l.toCancel.isEmpty && s.canSend l.asked && decide (2000 ≤ (s.now - l.askedAt).toNat) &&
      !l.clusters.all l.heard.contains
  | none => false

/-- An uncommitted launch is abandoned with its place at the head. -/
def State.abandon (s : State) (id : Nat) : State :=
  match s.launch? id with
  | none => s
  | some l =>
    (({ s with launches := terase s.launches id }).modQueue l.fn l.queue (fun x =>
      if x.head = some id then { x with head := none } else x)).settleDestroy l.fn l.queue

/-- A leaf takes a cancel in: it holds nothing for the packet any more. With the last of them the packet is ready to be tried
again, or abandoned when its queue is no longer enabled (R301). -/
def State.cancelAt (s : State) (id k : Nat) : State :=
  match s.launch? id with
  | none => s
  | some l =>
    let l1 := { l with toCancel := l.toCancel.filter (fun j => j != k), heldOn := l.heldOn.filter (fun c => clusterOf c != k) }
    if l1.toCancel.isEmpty then
      (if (s.queue l.fn l.queue).en && (s.queue l.fn l.queue).destroying == 0 then
        s.setLaunch id { l1 with phase := .ready, asked := [], yes := [], no := [], heard := [], heldOn := [] }
       else s.abandon id)
    else s.setLaunch id l1

/-! ### Commit (R280, R282) -/

/-- The line of an entry program counter, fetched for a launch on a core, and its TGT bit (R25). -/
def State.entryCheck (s : State) (core : Nat) (l : Launch) (pc : W64) : TgtRes × State :=
  if pcBad pc then (.clear, s)
  else match s.access (agTlb core) l.fn (some l.ranges) (pcLine pc).toNat 64 needX with
    | (.error (.fault c k), s1) => (.fault c k, s1)
    | (.error .wait, s1) => (.wait, s1)
    | (.ok t, s1) =>
      match t.tgt with
      | .glob pa _ =>
        if s1.readWaits (pa / 64) (some core) || (s1.fetchHeld core l.fn (pa / 64) false).1 then (.wait, s1)
        else if s1.isPois pa 64 then (.fault clsPoison 0, s1)
        else (if bitN (s1.readVal pa 4) (7 + pcSlot pc) then .enter else .clear, s1.touch l.fn (pa / 64) t.mt)
      | _ => (.fault clsTrans 4, s1)

/-- Checks entries in turn: the first that is not entered, with the state after the fetches. -/
def State.entriesCheck (core : Nat) (l : Launch) : State → List W64 → Option (W64 × TgtRes) × State
  | s, [] => (none, s)
  | s, pc :: pcs =>
    match s.entryCheck core l pc with
    | (.enter, s1) => State.entriesCheck core l s1 pcs
    | (r, s1) => (some (pc, r), s1)

/-- The tasks of a list whose PEND is 0 now (R287): none while the place of one cannot be read yet. -/
def State.rootsOf (s : State) (l : Launch) : List Nat → Option (List Nat)
  | [] => some []
  | i :: is =>
    match s.plainAccess l.fn (l.pendVa i) needR with
    | .ok t =>
      if s.readWaits (t.tgt.base / 64) none then none
      else (s.rootsOf l is).map (fun rs => if s.readVal t.tgt.base 4 = 0 then i :: rs else rs)
    | .error .wait => none
    | .error _ => s.rootsOf l is

/-- PEND of every task has been read (R340). -/
def State.sawPends (s : State) (l : Launch) : State := (tkeys l.tasks).foldl (fun t i => t.frontSaw l.fn (l.pendVa i) 4) s
/-- The roots of a launch's graph. -/
def State.roots (s : State) (l : Launch) : Option (List Nat) := s.rootsOf l (tkeys l.tasks)

/-- The launch as killed: TASK_END is due (R301). -/
def Launch.kill (l : Launch) : Launch := { l with ending := true, killed := true }

/-- The last leaf has committed: QRD advances; the launch of a queue under kill is killed (R301). -/
def State.committed (s : State) (id : Nat) (l : Launch) : State :=
  let l1 := { l with phase := .running, toCommit := [], heldOn := [] }
  (s.setLaunch id (if (s.queue l.fn l.queue).destroying = 2 then l1.kill else l1)).advance l.fn l.queue

/-- The entry fetch raised a task-ending fault: the launch ends with status FAULT. -/
def State.entryFault (s : State) (id core : Nat) (l : Launch) (pc : W64) (cls sub : Nat) : State :=
  (s.committed id l).taskFault id { cls := cls, sub := sub, pc := pc, addr := (pcLine pc).toNat, core := some core }

/-- A leaf starts its workgroups. -/
def State.startLeaf (s : State) (id : Nat) (l : Launch) (k : Nat) : State :=
  let s1 := (l.spots k).foldl (fun t p => t.startWg id l p) s
  let l1 := { l with toCommit := l.toCommit.filter (fun j => j != k), heldOn := l.heldOn.filter (fun c => clusterOf c != k) }
  if l1.toCommit.isEmpty then s1.committed id l1 else s1.setLaunch id l1

/-- A leaf takes a commit in; the first of them checks the entry. None while the fetch of the entry line waits, or a core has no
generation for a new area (R187). -/
def State.commitAt (s : State) (id k : Nat) : Option State :=
  match s.launch? id with
  | none => none
  | some l =>
    let core := (l.coresAt k).headD 0
    if !(l.coresAt k).all s.genFree then none
    else if l.checked then some (s.startLeaf id l k)
    else match State.entriesCheck core l s (if l.kind = .tatting then [] else l.entries) with
      | (none, s1) =>
        if l.kind = .tatting then
          (s1.roots l).map (fun rs => (s1.sawPends l).startLeaf id { l with checked := true, ready := rs } k)
        else some (s1.startLeaf id { l with checked := true, ready := [] } k)
      | (some (_, .wait), _) => none
      | (some (pc, .fault c b), s1) => some (s1.entryFault id core l pc c b)
      | (some _, s1) => (s1.failLaunch id csEntry).map State.unblock

/-! ### Freed resources and starvation (R280) -/

/-- The workgroups on a cluster that have ended with nothing outstanding. -/
def State.freeable (s : State) (k : Nat) : List Nat :=
  ((s.wgsAt k).filter (fun p => p.2.ended && s.wgQuiet p.1)).map Prod.fst

/-- A packet has waited 100 µs for resources. -/
def State.hasStarved (s : State) (id : Nat) : Bool :=
  match s.launch? id with
  | some l => !l.starved && (match l.waitSince with | some t => decide (100000 ≤ (s.now - t).toNat) | none => false)
  | none => false

/-! ### Tasks (R288) -/

/-- The preferred workgroups of a task are those on the core (TX mod W, TY mod H). -/
def Task.prefers (t : Task) (w : Wg) : Bool := t.tx % w.lw == w.lx && t.ty % w.lh == w.ly

/-- An idle workgroup may take a ready task. -/
def State.mayDispatch (s : State) (core wid i : Nat) : Bool :=
  match s.wg? wid with
  | some w =>
    (match s.launch? w.launch with
     | some l =>
       let ts := l.ready.filterMap (fun j => (tget? l.tasks j).map (fun t => (j, t)))
       w.core == core && w.kind == .tatting && w.task.isNone && !w.ended && w.held.isNone && !l.ending && !l.sinkDone &&
         !l.debug && !s.stopped w.fn && ts.any (fun p => p.1 == i && (p.2.prefers w || !ts.any (fun q => q.2.prefers w)))
     | none => false)
  | none => false

/-- The threads of a workgroup begin a task at its program counter, v0.d holding the record's address. -/
def State.beginTask (s : State) (wid : Nat) (w : Wg) (l : Launch) (i : Nat) (t : Task) : State :=
  let a : W64 := BitVec.ofNat 64 (pktAux l.packet + 64 * i)
  let go (th : Thread) : Thread := if th.st = .tdone then { th with st := .live }.setRegs 0 (pairOf a) 2 else th
  ((s.setWg wid { w with task := some i, threads := w.threads.map (fun (p : Nat × Thread) => (p.1, go p.2)) }).modLaunch w.launch (fun x =>
    { x with ready := x.ready.filter (fun j => j != i) })).startGroups wid (fun _ => t.pc)

/-- Gives a task to a workgroup after the check of its entry (R25); none while the fetch waits. DEDUCED (assumption 45). -/
def State.dispatchTask (s : State) (wid i : Nat) : Option State :=
  match s.wg? wid with
  | none => none
  | some w =>
    match s.launch? w.launch with
    | none => none
    | some l =>
      match tget? l.tasks i with
      | none => none
      | some t =>
        match s.entryCheck w.core l t.pc with
        | (.enter, s1) => some (s1.beginTask wid w l i t)
        | (.wait, _) => none
        | (.clear, s1) => some (s1.modLaunch w.launch (fun x => { x with ending := true, status := csEntry }))
        | (.fault c b, s1) =>
          some (s1.taskFault w.launch
            { cls := c, sub := b, pc := t.pc, addr := (pcLine t.pc).toNat, core := some w.core, wg := BitVec.ofNat 32 w.g })

/-! ### Completion (R291) and deferred packets (R293) -/

/-- Every workgroup of a launch has ended, every operation has completed and every store has performed. -/
def State.launchQuiet (s : State) (id : Nat) : Bool :=
  s.wgs.all (fun p => p.2.launch != id || (p.2.ended && s.wgQuiet p.1)) &&
    !s.loads.any (fun p => p.2.acc.launch == id) && !s.writes.any (fun p => p.2.acc.launch == id) &&
    !s.writes.any (fun p => match p.2.kind with | .pend l _ => l == id | _ => false) &&
    !s.fns.any (fun f => !(s.imagesOf f.1 id).isEmpty)

/-- A launch may complete. -/
def State.mayComplete (s : State) (id : Nat) : Bool :=
  match s.launch? id with
  | some l => l.phase == .running && (!l.ending || l.endDone) && (l.kind != .tatting || l.sinkDone || l.ending) && s.launchQuiet id
  | none => false

/-- A launch completes: steps 2 to 4 of R291, its deferred packets to follow the writes; a pool workgroup completes nothing. DEDUCED
(assumption 127). -/
def State.complete (s : State) (id : Nat) : Option State :=
  match s.launch? id with
  | none => none
  | some l =>
    let gone (ids : List Nat) (t : State) : State :=
      ({ t with
        launches := terase t.launches id,
        deferred := t.deferred.map (fun (p : Nat × Deferred) => (p.1, if p.2.parent = id then { p.2 with after := ids } else p.2)) }).settleDestroy
          l.fn l.queue
    if l.kind = .pool then some (gone [] s)
    else (s.completeSteps l.fn l.queue l.packet l.status l.nchild { sig := decide (l.status ≠ csKilled) && !l.nosig }).map (fun r => gone r.1 r.2)

/-- A deferred packet may move: its parent has completed, those before it have moved. -/
def State.mayMove (s : State) (id : Nat) : Bool :=
  match tget? s.deferred id with
  | some d => (s.launch? d.parent).isNone && d.after.all (fun i => (tget? s.writes i).isNone) &&
      !s.deferred.any (fun p => decide (p.1 < id) && (p.2.ins == d.ins || p.2.thread == d.thread))
  | none => false

/-- A deferred packet moves into its ring, or is discarded and counted; none while the ring is full. -/
def State.moveDeferred (s : State) (id : Nat) : Option State :=
  match tget? s.deferred id with
  | none => none
  | some d =>
    let pop (t : State) : State := { t with deferred := terase t.deferred id }
    match s.ringPut 1 d.fn d.queue d.image with
    | .ok t => some (pop t)
    | .cannot => some (pop (s.ringRefused 1 d.fn d.queue))
    | _ => none

/-! ### The meanings -/

/-- RESERVATION (R280). -/
def execReservation (l leaf : Nat) (s : State) : Host.Outcome State Fault Refusal :=
  runEvent "RESERVATION"
    (fun t => t.mayAsk l leaf &&
      (match t.launch? l with | some x => !(x.phase == .ready && t.neverFits x) || (t.refuseNow l x).isSome | none => false))
    (fun t => match t.launch? l with | some x => (t.refuseNow l x).getD (t.ask l x leaf) | none => t) s
/-- RESERVATION_ANSWER (R280). -/
def execReservationAnswer (l leaf : Nat) (s : State) : Host.Outcome State Fault Refusal :=
  runEvent "RESERVATION_ANSWER" (fun t => t.mayHear l leaf) (fun t => t.hear l leaf) s
/-- RESERVATION_TIMEOUT (R280). -/
def execReservationTimeout (l : Nat) (s : State) : Host.Outcome State Fault Refusal :=
  runEvent "RESERVATION_TIMEOUT" (fun t => t.timedOut l)
    (fun t => t.modLaunch l (fun x => { x with toCancel := x.asked })) s
/-- COMMIT (R280, R282). -/
def execCommit (l leaf : Nat) (s : State) : Host.Outcome State Fault Refusal :=
  runEvent "COMMIT"
    (fun t => (match t.launch? l with
        | some x => x.phase == .committing && x.toCommit.contains leaf && !t.displacedWait x.fn
        | none => false) &&
      (t.commitAt l leaf).isSome)
    (fun t => (t.commitAt l leaf).getD t) s
/-- CANCEL (R280). -/
def execCancel (l leaf : Nat) (s : State) : Host.Outcome State Fault Refusal :=
  runEvent "CANCEL" (fun t => match t.launch? l with | some x => x.phase == .reserving && x.toCancel.contains leaf | none => false)
    (fun t => t.cancelAt l leaf) s
/-- RESOURCES_FREED (R280). -/
def execResourcesFreed (leaf : Nat) (s : State) : Host.Outcome State Fault Refusal :=
  runEvent "RESOURCES_FREED" (fun t => !(t.freeable leaf).isEmpty) (fun t => ((t.freeable leaf).foldl State.removeWg t).unblock) s
/-- RESERVATION_STARVATION (R280). -/
def execReservationStarvation (l : Nat) (s : State) : Host.Outcome State Fault Refusal :=
  runEvent "RESERVATION_STARVATION" (fun t => t.hasStarved l) (fun t => t.modLaunch l (fun x => { x with starved := true })) s
/-- TASK_DISPATCH (R288). -/
def execTaskDispatch (core wg task : Nat) (s : State) : Host.Outcome State Fault Refusal :=
  runEvent "TASK_DISPATCH" (fun t => t.mayDispatch core wg task && (t.dispatchTask wg task).isSome)
    (fun t => (t.dispatchTask wg task).getD t) s
/-- LAUNCH_COMPLETION (R291). -/
def execLaunchCompletion (l : Nat) (s : State) : Host.Outcome State Fault Refusal :=
  runEvent "LAUNCH_COMPLETION" (fun t => t.mayComplete l && (t.complete l).isSome) (fun t => (t.complete l).getD t) s
/-- DEFERRED_PACKET_MOVE (R293). -/
def execDeferredPacketMove (id : Nat) (s : State) : Host.Outcome State Fault Refusal :=
  runEvent "DEFERRED_PACKET_MOVE" (fun t => t.mayMove id && (t.moveDeferred id).isSome) (fun t => (t.moveDeferred id).getD t) s

end Sys2Proof.Machine
end

