-- ==== Sys2Proof/Machine/Image.lean ====
section
/-! DEFINITION. The context image (R378 to R381): its bytes, what it says of a workgroup, and the checks of R384. -/

namespace Sys2Proof.Machine

/-! ### Layout (Table 14.7) -/

/-- Pads a section with zeros to the next multiple of 64. -/
def pad64 (bs : List Byte) : List Byte := bs ++ zeroBytes (sect bs.length - bs.length)
/-- Bytes of one plane section. -/
def planeSect : Nat := 33088
/-- Where the sections begin. -/
def imFmt : Nat := 256
def imConv : Nat := 640
def imPlanes : Nat := 1152
def imThreads : Nat := 67328
def imRegs (t : Nat) : Nat := imThreads + 64 * t
/-- The magic number of a header and the architecture level (Table 14.8, Table 0.2). -/
def imMagic : Nat := 0x4A5A4358
def imLevel : Nat := 1

/-! ### Threads of a halted workgroup (Table 14.9) -/

/-- The group that a live thread of a workgroup is in. -/
def State.groupOf (s : State) (wid tid : Nat) : Option (Nat × Group) :=
  s.groups.find? (fun p => p.2.wg == wid && p.2.tids.contains tid)

/-- The bin in which a thread is filed. -/
def State.binOf (s : State) (core wid tid : Nat) : Option Bin :=
  (tvals (s.core core).bins).find? (fun b => b.wg == wid && b.ents.any (fun e => e.tid == tid))

/-- The groups of a workgroup from the oldest to the youngest: their numbers in an image. -/
def State.groupOrder (s : State) (wid : Nat) : List Nat :=
  ((s.groups.filter (fun p => p.2.wg == wid)).mergeSort (fun a b =>
    a.2.stamp.ult b.2.stamp || (a.2.stamp == b.2.stamp && (decide (a.2.sub < b.2.sub) ||
      (a.2.sub == b.2.sub && decide (a.1 ≤ b.1)))))).map Prod.fst

/-- STATE, program counter and WAKE of a thread. -/
def State.threadState (s : State) (wid : Nat) (w : Wg) (tid : Nat) : Nat × W64 × Nat :=
  let th := w.thread tid
  match th.st with
  | .ended => (5, 0#64, 0)
  | .tdone => (4, th.rpc, 0)
  | .binned => (3, (match s.binOf w.core wid tid with | some b => b.pc | none => 0#64), 0)
  | .live =>
    match s.groupOf wid tid with
    | none => (0, 0#64, 0)
    | some (_, g) =>
      match g.wait with
      | .sleep left _ => (1, g.rstart, min left.toNat 16777215)
      | .pwait _ _ => (2, g.rstart, 0)
      | _ => (0, g.rstart, 0)

/-- The 64-byte record of a thread. -/
def State.threadRecord (s : State) (wid : Nat) (w : Wg) (order : List Nat) (tid : Nat) : List Byte :=
  let th := w.thread tid
  let (st, pc, wake) := s.threadState wid w tid
  let grp := match s.groupOf wid tid with | some (g, _) => order.idxOf g | none => 0
  leBytes 8 pc.toNat ++ leBytes 1 th.preds.toNat ++ leBytes 1 st ++ leBytes 2 grp ++ leBytes 2 th.nregs ++ zeroBytes 2 ++
    leBytes 4 th.fpctl.toNat ++ leBytes 4 th.fpstat.toNat ++ leBytes 4 th.srseed.toNat ++ leBytes 4 wake ++
    leBytes 8 th.abase.toNat ++ zeroBytes 24

/-- The registers of a thread: values, then tags. -/
def Thread.regBytes (th : Thread) : List Byte :=
  pad64 ((upTo th.nregs).flatMap (fun i => leBytes 4 (th.reg i).v.toNat) ++ (upTo th.nregs).flatMap (fun i => leBytes 1 (th.reg i).t.toNat))

/-! ### The other sections -/

/-- Entry `t` of the format table. -/
def fmtEntry (m : Tab W32) (t : Nat) : List Byte :=
  match tget? m t with
  | some d => leBytes 4 d.toNat ++ leBytes 4 1
  | none => zeroBytes 8

/-- A convergence register (Table 5.2). -/
def Conv.bytes (c : Conv) : List Byte :=
  leBytes 4 ((if c.arm then 2 ^ 31 else 0) + (if c.buf.isSome then 2 ^ 30 else 0) + c.pend * 2 ^ 12 + c.count) ++
    (match c.buf with
     | some b => leBytes 8 (b.op + b.md.toNat * 2 ^ 10 + b.a.toNat * 2 ^ 18 + b.b.toNat * 2 ^ 28 + b.c.toNat * 2 ^ 38 +
         b.e.toNat * 2 ^ 48 + b.rm * 2 ^ 58) ++
         leBytes 4 b.va.toNat ++ leBytes 4 b.vb.toNat ++ leBytes 4 b.vc.toNat ++ leBytes 4 b.ve.toNat ++ zeroBytes 4
     | none => zeroBytes 28)

/-- A plane. -/
def Plane.bytes (p : Plane) : List Byte :=
  leBytes 1 ((if p.present then 1 else 0) + (if p.bs then 2 else 0) + (if p.b32 then 4 else 0)) ++ leBytes 1 p.tag ++ zeroBytes 62 ++
    cread p.scales 0 256 ++ cread p.image 0 planeBytes

/-- The header (Table 14.8). -/
def imageHeader (w : Wg) (pk : List Byte) (cause size task : Nat) : List Byte :=
  leBytes 4 imMagic ++ leBytes 1 imLevel ++ leBytes 1 cause ++ zeroBytes 2 ++ leBytes 4 size ++ leBytes 1 w.fn ++ zeroBytes 3 ++
    pk.take 64 ++ leBytes 2 w.queue ++ zeroBytes 2 ++ leBytes 4 w.qidx.toNat ++ leBytes 4 w.g ++ leBytes 1 w.wgl ++
    leBytes 1 w.lx ++ leBytes 1 w.ly ++ leBytes 1 w.depth ++ leBytes 2 w.nthr ++ zeroBytes 2 ++ leBytes 4 w.ssize ++
    leBytes 2 w.nrows ++ leBytes 2 w.rfage ++ leBytes 4 w.mstat.toNat ++ leBytes 4 w.mseed.toNat ++ zeroBytes 4 ++
    leBytes 16 w.ovf.toNat ++ leBytes 8 task ++ zeroBytes 112

/-- The address of the record of a workgroup's current task. -/
def State.taskVa (s : State) (w : Wg) : Nat :=
  match w.task, s.launch? w.launch with
  | some i, some l => pktAux l.packet + 64 * i
  | _, _ => 0

/-- The bytes of a workgroup's image. -/
def State.imageBytes (s : State) (wid : Nat) (w : Wg) (cause : Nat) : List Byte :=
  let pk := match s.launch? w.launch with | some l => l.packet | none => zeroBytes 64
  let p := (s.core w.core).planes w.fn
  let order := s.groupOrder wid
  let size := w.imageSize
  let body := imageHeader w pk cause size (s.taskVa w) ++ (spanN 16 48).flatMap (fmtEntry w.fmt) ++
    (upTo 16).flatMap (fun k => (w.creg k).bytes) ++ p.1.bytes ++ p.2.bytes ++
    (upTo w.nthr).flatMap (s.threadRecord wid w order) ++ (upTo w.nthr).flatMap (fun i => (w.thread i).regBytes) ++
    pad64 (s.scrRead w.core w.sbase w.ssize) ++
    pad64 ((upTo w.nrows).flatMap (fun i => (upTo 128).flatMap (fun n => leBytes 4 (tgetD (w.row i).vals n 0#32).toNat)) ++
      (upTo w.nrows).flatMap (fun i => leBytes 1 (w.row i).tag))
  body ++ zeroBytes (4096 * size - body.length)

/-- The 64-byte pieces of an image that hold poisoned scratchpad bytes or rows: their places within it. -/
def State.imagePoison (s : State) (w : Wg) : List Nat :=
  let regs := (tvals w.threads).foldl (fun n t => n + sect (5 * t.nregs)) 0
  let scr := imRegs w.nthr + regs
  let rows := scr + sect w.ssize
  ((upTo (w.ssize / 64)).filter (fun k => s.scrIsPois w.core (w.sbase + 64 * k) 64)).map (fun k => scr / 64 + k) ++
    ((upTo w.nrows).filter (fun i => (w.row i).pois)).flatMap (fun i => (upTo 8).map (fun j => rows / 64 + 8 * i + j))

/-! ### Reading an image -/

/-- A thread as its record and registers give it, with STATE, GROUP, PC and WAKE. -/
structure SavedThread where
  th   : Thread
  /-- The tag bytes of its registers, whole (R5). -/
  tags : List Nat
  st   : Nat
  grp  : Nat
  pc   : W64
  wake : Nat
deriving DecidableEq, Repr

/-- Where the registers of each thread begin. -/
def regStarts : Nat → List Nat → List Nat
  | _, [] => []
  | o, r :: rs => o :: regStarts (o + sect (5 * r)) rs

/-- The registers that `n` values and tags from a place give; register 0 with tag 0 is left to the default. -/
def savedRegs (bs : List Byte) (o n : Nat) : Tab Reg :=
  (upTo n).map (fun i => (i, ⟨BitVec.ofNat 32 (recVal bs (o + 4 * i) 4), BitVec.ofNat 6 (recVal bs (o + 4 * n + i) 1)⟩))
/-- The tag bytes of `n` registers from a place. -/
def savedTags (bs : List Byte) (o n : Nat) : List Nat := ((bs.drop (o + 4 * n)).take n).map (fun b => b.toNat)

/-- The thread of a record. -/
def savedThread (bs : List Byte) (i regs : Nat) : SavedThread :=
  let o := imThreads + 64 * i
  let st := recVal bs (o + 9) 1
  let pc : W64 := BitVec.ofNat 64 (recVal bs o 8)
  let n := recVal bs (o + 12) 2
  { th :=
      { st := if st = 5 then .ended else if st = 4 then .tdone else .live,
        regs := savedRegs bs regs n, preds := BitVec.ofNat 7 (recVal bs (o + 8) 1), fpctl := BitVec.ofNat 32 (recVal bs (o + 16) 4),
        fpstat := BitVec.ofNat 32 (recVal bs (o + 20) 4), srseed := BitVec.ofNat 32 (recVal bs (o + 24) 4),
        abase := BitVec.ofNat 64 (recVal bs (o + 32) 8), nregs := n, rpc := pc },
    tags := savedTags bs regs n, st := st, grp := recVal bs (o + 10) 2, pc := pc, wake := recVal bs (o + 28) 4 }

/-- THREADS, SCRATCH and ACC of a header, and the register counts of the threads. -/
def imNthr (bs : List Byte) : Nat := recVal bs 96 2
def imScratch (bs : List Byte) : Nat := recVal bs 100 4
def imAcc (bs : List Byte) : Nat := recVal bs 104 2
def imNregs (bs : List Byte) : List Nat := (upTo (imNthr bs)).map (fun i => recVal bs (imThreads + 64 * i + 12) 2)

/-- The threads of an image. -/
def savedThreads (bs : List Byte) : List SavedThread :=
  ((upTo (imNthr bs)).zip (regStarts (imRegs (imNthr bs)) (imNregs bs))).map (fun p => savedThread bs p.1 p.2)

/-- Where the scratchpad and the rows begin. -/
def imScrAt (bs : List Byte) : Nat := (imNregs bs).foldl (fun o r => o + sect (5 * r)) (imRegs (imNthr bs))
def imRowsAt (bs : List Byte) : Nat := imScrAt bs + sect (imScratch bs)

/-- The format table of an image. -/
def savedFmt (bs : List Byte) : Tab W32 :=
  (spanN 16 48).filterMap (fun t =>
    let o := imFmt + 8 * (t - 16)
    if bitN (recVal bs (o + 4) 4) 0 then some (t, BitVec.ofNat 32 (recVal bs o 4)) else none)

/-- A convergence register of an image. -/
def savedConv (bs : List Byte) (k : Nat) : Conv :=
  let o := imConv + 32 * k
  let x := recVal bs o 4
  let f := recVal bs (o + 4) 8
  let v (i : Nat) : W32 := BitVec.ofNat 32 (recVal bs (o + 12 + 4 * i) 4)
  let b : SigBuf :=
    { op := fieldN f 0 10, md := BitVec.ofNat 8 (fieldN f 10 8), a := BitVec.ofNat 10 (fieldN f 18 10),
      b := BitVec.ofNat 10 (fieldN f 28 10), c := BitVec.ofNat 10 (fieldN f 38 10), e := BitVec.ofNat 10 (fieldN f 48 10),
      rm := fieldN f 58 3, va := v 0, vb := v 1, vc := v 2, ve := v 3 }
  { arm := bitN x 31, pend := fieldN x 12 12, count := fieldN x 0 12, buf := if bitN x 30 then some b else none }

/-- A plane of an image. -/
def savedPlane (bs : List Byte) (k : Nat) : Plane :=
  let o := imPlanes + planeSect * k
  let f := recVal bs o 1
  { present := bitN f 0, tag := recVal bs (o + 1) 1, bs := bitN f 1, b32 := bitN f 2,
    scales := cwrite [] 0 ((bs.drop (o + 64)).take 256), image := cwrite [] 0 ((bs.drop (o + 320)).take planeBytes) }

/-- A row of an image. -/
def savedRow (bs : List Byte) (i : Nat) : Row :=
  let o := imRowsAt bs
  { vals := (upTo 128).map (fun n => (n, BitVec.ofNat 32 (recVal bs (o + 512 * i + 4 * n) 4))),
    tag := recVal bs (o + 512 * imAcc bs + i) 1 }

/-- The signers of a workgroup's open operations, as an image's record keeps them. DEDUCED (assumption 22). -/
def Wg.openSigners (w : Wg) : List (Nat × Nat × Option Nat) :=
  (upTo 16).flatMap (fun k => (w.creg k).signers.map (fun q => (k, q.1, q.2.map owedFlag)))

/-- Their signatures stand again in a workgroup that re-enters. -/
def Wg.oweSigners (w : Wg) (sg : List (Nat × Nat × Option Nat)) : Wg :=
  sg.foldl (fun v q =>
    let c := v.creg q.1
    { v with
      conv := tset v.conv q.1 { c with signers := c.signers ++ [q.2] }
      threads := tmod v.threads q.2.1 (fun th => th.flagUp q.2.2) }) w

/-- The core of an image's launch position. -/
def imHome (bs : List Byte) : Nat :=
  let r := pktRect (imPacket bs)
  coreAt (r.ox + recVal bs 93 1) (r.oy + recVal bs 94 1)

/-- The workgroup of an image, on a core. -/
def savedWg (bs : List Byte) (fn launch : Nat) (kind : LKind) (core gen sbase : Nat) : Wg :=
  let pk := imPacket bs
  let r := pktRect pk
  let ts := savedThreads bs
  let task := recVal bs 136 8
  { core := core, fn := fn, launch := launch, kind := kind, g := recVal bs 88 4, wgl := recVal bs 92 1, lx := recVal bs 93 1,
    ly := recVal bs 94 1, lw := r.w, lh := r.h, depth := recVal bs 95 1, arg := pktArg pk, queue := recVal bs 80 2,
    qidx := BitVec.ofNat 32 (recVal bs 84 4), nthr := imNthr bs, threads := (upTo ts.length).zip (ts.map (·.th)),
    sbase := sbase, ssize := imScratch bs, gen := gen, nrows := imAcc bs,
    rows := (upTo (imAcc bs)).map (fun i => (i, savedRow bs i)), conv := (upTo 16).map (fun k => (k, savedConv bs k)),
    fmt := savedFmt bs, ovf := BitVec.ofNat 128 (recVal bs 120 16), mstat := BitVec.ofNat 32 (recVal bs 108 4),
    mseed := BitVec.ofNat 32 (recVal bs 112 4), rfage := recVal bs 106 2,
    task := if kind = .tatting ∧ task ≠ 0 then some ((task - pktAux pk) / 64) else none }

/-! ### The checks (R384) -/

/-- A list of places that hold a non-zero byte. -/
def anyByte (bs : List Byte) (o n : Nat) : Bool := recVal bs o n != 0

/-- Check 1. -/
def check1 (bs : List Byte) (size : Nat) : Bool :=
  recVal bs 0 4 != imMagic || recVal bs 4 1 != imLevel || recVal bs 8 4 != size ||
    imageUnits (imNregs bs) (imScratch bs) (imAcc bs) != size

/-- Check 2 on the header, the format table and the planes, reserved bits of PACKET and of the other words included (R5); `tatting`: TASK
may be non-zero. DEDUCED (assumption 60). -/
def check2Header (bs : List Byte) (tatting : Bool) : Bool :=
  anyByte bs 6 2 || anyByte bs 13 3 || anyByte bs 82 2 || anyByte bs 98 2 || anyByte bs 116 4 || anyByte bs 144 112 ||
    (!tatting && anyByte bs 136 8) || fieldN (recVal bs 108 4) 6 26 != 0 || pktReserved (imPacket bs) ||
    (spanN 93 3).any (fun o => decide (32 ≤ recVal bs o 1)) || decide (2048 ≤ recVal bs 106 2) ||
    (upTo 48).any (fun t => fieldN (recVal bs (imFmt + 8 * t + 4) 4) 1 31 != 0) ||
    (upTo 2).any (fun k => let o := imPlanes + planeSect * k; fieldN (recVal bs o 1) 3 5 != 0 || anyByte bs (o + 2) 62)
/-- Check 2 on the record of a thread, reserved bits of FPCTL and FPSTAT included (R5). DEDUCED (assumption 60). -/
def check2Thread (bs : List Byte) (i : Nat) : Bool :=
  let o := imThreads + 64 * i
  decide (128 ≤ recVal bs (o + 8) 1) || anyByte bs (o + 14) 2 || anyByte bs (o + 40) 24 || decide (5 < recVal bs (o + 9) 1) ||
    fieldN (recVal bs (o + 16) 4) 5 27 != 0 || fieldN (recVal bs (o + 20) 4) 5 27 != 0 ||
    (if recVal bs (o + 9) 1 = 1 then decide (16777215 < recVal bs (o + 28) 4) else anyByte bs (o + 28) 4)

/-- Check 3. -/
def check3 (bs : List Byte) : Bool :=
  (tvals (savedFmt bs)).any (fun d => !descValid d) || ovfBad (BitVec.ofNat 128 (recVal bs 120 16))

/-- Check 4 on the tags of rows and planes. -/
def check4 (bs : List Byte) : Bool :=
  let fmt := savedFmt bs
  let plane (p : Plane) : Bool :=
    p.present && (badTag fmt p.tag || notArrayTag p.tag || (p.b32 && !p.bs) ||
      (p.bs && (p.tag == 4 || p.tag == 5 || p.tag == 7 || p.tag == 8 || p.tag == 9)))
  plane (savedPlane bs 0) || plane (savedPlane bs 1) || (upTo (imAcc bs)).any (fun i => badTag fmt (savedRow bs i).tag)
/-- Check 4 on the registers of a thread; a tag byte above 63 names no format. DEDUCED (assumption 60). -/
def check4Thread (fmt : Tab W32) (t : SavedThread) : Bool := t.tags.any (badTag fmt)

/-- Check 5 on the header: the limits of R12 and of the launch record. -/
def check5 (bs : List Byte) (l : Launch) : Bool :=
  let n := l.needs
  decide (imNthr bs < 1 ∨ 2048 < imNthr bs ∨ n.thr < imNthr bs) || decide (Config.maxScratch < imScratch bs ∨ n.scr < imScratch bs) ||
    imScratch bs % 1024 != 0 || decide (Config.maxRows < imAcc bs ∨ recAcc l.lrec < imAcc bs)
/-- Check 5 on REGS of a thread. -/
def check5Thread (l : Launch) (i : Nat) (t : SavedThread) : Bool :=
  decide (t.th.nregs < 8 ∨ 768 < t.th.nregs) || t.th.nregs % 8 != 0 || decide ((l.regsOf).getD i 0 < t.th.nregs)

/-- The signature rules of a buffered class 0xB operation. -/
def convSig (op : Nat) (w : TWord) : Option Sig :=
  match op with
  | 0x2C1 => some (sigMjoin w)
  | 0x2C2 => some (sigMld w)
  | 0x2C3 => some (sigMldq w)
  | 0x2C4 => some (sigMswap w)
  | 0x2C5 => some (sigMstream w)
  | 0x2C6 => some (sigMdrain w)
  | 0x2C7 => some (sigMzero w)
  | 0x2C8 => some (if w.md.getLsbD 7 then sigMrowLd w else sigMrowSt w)
  | _ => none

/-- The word of a buffered operation: its EXT holds the extension word; with a literal, E is 1022 and RM 0. -/
def SigBuf.word (b : SigBuf) (k : Nat) : TWord :=
  { d := BitVec.ofNat 10 k, a := b.a, b := b.b, c := b.c, pn := false, pi := 7#3, fe := false, fs := false, md := b.md,
    ext := BitVec.ofNat 32 (b.e.toNat * 2 ^ 22 + b.rm * 2 ^ 19) }

/-- A buffered operation that a signature could not have left. -/
def SigBuf.bad (b : SigBuf) (k nregs ssize nrows : Nat) (fmt : Tab W32) (full : Bool) : Bool :=
  let w := b.word k
  match convSig b.op w with
  | none => true
  | some g =>
    let e : EncCtx := { priv := false, tatting := false, nregs := nregs, line := 0#32, full := full, fmt := fmt }
    g.illegalInstr w e || g.illegalOperand w e || (g.usesLit w && (b.e != fZero || b.rm != 0)) ||
      (match b.tag? with | some t => decide (16 ≤ t) && (tget? fmt t).isNone | none => false) ||
      (misaligned b.aligns).isSome || (b.scr fmt).any (fun r => decide (ssize < r.1 + r.2)) ||
      (match b.rows nrows with | some r => r.bad | none => false)

/-- Check 7 on a convergence register: the buffer's reserved bits are zero, and all of it unless OPEN (Table 14.7, R5). -/
def check7 (bs : List Byte) (full : Bool) (k : Nat) : Bool :=
  let o := imConv + 32 * k
  let c := savedConv bs k
  let nregs := (imNregs bs).foldl max 0
  fieldN (recVal bs o 4) 24 6 != 0 || (!c.arm && recVal bs o 32 != 0) || fieldN (recVal bs (o + 4) 8) 61 3 != 0 ||
    anyByte bs (o + 28) 4 || (c.buf.isNone && anyByte bs (o + 4) 28) ||
    (c.arm && (decide (c.count = 0 ∨ 2048 < c.count ∨ imNthr bs < c.count) ||
      (match c.buf with
       | none => c.pend != c.count
       | some b => decide (c.pend = 0 ∨ c.count ≤ c.pend) ||
           b.bad k nregs (imScratch bs) (imAcc bs) (savedFmt bs) full)))

/-- The first thread of a list that fails a check. -/
def firstBad (ts : List SavedThread) (f : Nat → SavedThread → Bool) : Option Nat :=
  (((upTo ts.length).zip ts).find? (fun p => f p.1 p.2)).map Prod.fst

/-- The first check of R384 that an image fails, with the thread it concerns. DEDUCED (assumption 59). -/
def imageCheck (bs : List Byte) (size : Nat) (l : Launch) (full : Bool) : Option (Nat × Option Nat) :=
  let ts := savedThreads bs
  let fmt := savedFmt bs
  let at_ (n : Nat) (f : Nat → SavedThread → Bool) (k : Option (Nat × Option Nat)) : Option (Nat × Option Nat) :=
    match firstBad ts f with
    | some i => some (n, some i)
    | none => k
  if check1 bs size then some (1, none)
  else if check2Header bs (l.kind == .tatting) then some (2, none)
  else at_ 2 (fun i _ => check2Thread bs i) (
    if check3 bs then some (3, none)
    else if check4 bs then some (4, none)
    else at_ 4 (fun _ t => check4Thread fmt t) (
      if check5 bs l then some (5, none)
      else at_ 5 (check5Thread l) (at_ 6 (fun _ t => pcBad t.pc) (
        if (upTo 16).any (check7 bs full) then some (7, none) else none))))

end Sys2Proof.Machine
end

