-- ==== Sys2Proof/Machine/Shade.lean ====
section
/-! DEFINITION. The shading cache (R206 to R226): keys, entries and slots, the instructions of class 0xC that query and fill it, and the
events of its controllers. -/

namespace Sys2Proof.Machine

/-! ### Answers of the threads of an instruction -/

/-- What one thread of an instruction answers: a value; a trap or a task-ending fault, with its place in the order of the checks;
a record that cannot be read, or not yet; a wait. -/
inductive Answer (α : Type) where
  | ok (a : α)
  | trap (rank cls addr : Nat)
  | fault (rank addr cls sub : Nat)
  | unread (rank addr n : Nat) (e : AccErr)
  | wait

def Answer.rank? {α : Type} : Answer α → Option Nat
  | .trap r _ _ => some r
  | .fault r _ _ _ => some r
  | .unread r _ _ (.fault _ _) => some r
  | _ => none

def Answer.waits {α : Type} : Answer α → Bool
  | .wait => true
  | .unread _ _ _ .wait => true
  | _ => false

/-- The walks to records that are not read yet, which have registered their agent (R165). -/
def Ctx.metUnread {α : Type} (x : Ctx) (s : State) (rs : List (Nat × Answer α)) : State :=
  rs.foldl (fun t q => match q.2 with
    | .unread _ a _ _ => x.walked t a
    | _ => t) s

/-- Goes on with the values of all threads, or raises the first cause in the order of the checks (R37). -/
def Ctx.settle {α : Type} (x : Ctx) (s : State) (rs : List (Nat × Answer α)) (go : List (Nat × α) → Res) : Res :=
  if rs.any (fun q => q.2.waits) then .wait (x.metUnread s rs)
  else match (rs.filterMap (fun q => q.2.rank?)).min? with
    | none => go (rs.filterMap (fun q => match q.2 with | .ok a => some (q.1, a) | _ => none))
    | some r =>
      match rs.find? (fun q => q.2.rank? == some r) with
      | some (i, .fault _ a c k) => .fault (x.accFault i a c k) s
      | some (i, .unread _ a n (.fault c k)) => .fault (x.accFault i a c k) (x.sawBytes s i a n)
      | some (_, .trap _ c _) =>
        .trap { cls := c, own := some (rs.filterMap (fun q => match q.2 with
          | .trap k _ a => if k = r then some (q.1, a) else none
          | _ => none)) }
      | _ => .stall

/-- Places of the checks of class 0xC: tags, a malformed target, alignment, permission of the device, a read of a table, a record,
permission of the tag. -/
def rkTag : Nat := 0
def rkTarget : Nat := 1
def rkAlign : Nat := 2
def rkAllow : Nat := 3
def rkRead : Nat := 4
def rkRecord : Nat := 5
def rkMask : Nat := 6

/-! ### Keys (R206, R209) -/

def keyObj (k : W64) : Nat := fieldN k.toNat 36 28
def keyLayer (k : W64) : Nat := fieldN k.toNat 32 4
def keyLevel (k : W64) : Nat := fieldN k.toNat 28 4

/-- The cache is enabled (Table 8.2). -/
def State.carved (s : State) : Bool := decide (s.shade.carve ≠ 0)

/-- A resolved key: the key, its tag, and its object's MBASE. -/
structure Resolved where
  key   : W64
  tag   : Nat
  mbase : Nat
deriving DecidableEq, Repr

/-- Resolves the key of a thread, R209 steps 1 to 3. -/
def Ctx.resolve (x : Ctx) (s : State) (p : Nat × Thread) : Answer Resolved :=
  let k := srcPair x.w p.2 false x.w.a
  let sh := (s.fnb x.wg.fn).shade
  if !sh.en || !s.carved then .fault rkAllow 0 clsPerm 0
  else if sh.objn.toNat ≤ keyObj k then .trap rkRecord clsRecord 0
  else
    let a := sh.objtab.toNat + 8 * keyObj k
    match x.readRecord s p.1 a 8 with
    | .error e => .unread rkRead a 8 e
    | .ok bs =>
      let v := leVal bs
      if !bitN v 0 || fieldN v 1 3 != 0 || fieldN v 24 40 != 0 || decide (fieldN v 4 4 < keyLevel k) then .trap rkRecord clsRecord 0
      else if !sh.mask.getLsbD (fieldN v 8 8) then .fault rkMask 0 clsPerm 0
      else .ok { key := k, tag := fieldN v 8 8, mbase := fieldN v 16 8 }

/-- The material of a key: its index, entry program counter and slot class, R209 step 4. -/
def Ctx.material (x : Ctx) (s : State) (tid : Nat) (r : Resolved) : Answer (Nat × W64 × Nat) :=
  let i := r.mbase + keyLayer r.key
  if 255 < i then .trap rkRecord clsRecord 0
  else
    let a := (s.fnb x.wg.fn).shade.mattab.toNat + 16 * i
    match x.readRecord s tid a 16 with
    | .error e => .unread rkRead a 16 e
    | .ok bs =>
      let pc : W64 := BitVec.ofNat 64 (recVal bs 0 8)
      let f := recVal bs 8 4
      if !bitN f 0 || fieldN f 1 2 == 3 || fieldN f 3 29 != 0 || recVal bs 12 4 != 0 || pcBad pc then .trap rkRecord clsRecord 0
      else .ok (i, pc, fieldN f 1 2)

/-! ### Entries (R210, R211, R223) -/

/-- The controller of a key. -/
def shCtl (k : W64) : Nat := Config.shadeHash k % 4
/-- The set of a key: 2^(15 + CARVE) sets of 16 ways at each controller. -/
def State.shSet (s : State) (k : W64) : Nat := Config.shadeHash k / 4 % 2 ^ (15 + s.shade.carve)

/-- The low 16 bits of the frame. -/
def State.frame16 (s : State) : BitVec 16 := s.shade.frame.truncate 16

/-- Where an entry stands: controller and place. -/
structure At where
  ctl : Nat
  pos : Nat
  e   : Entry
deriving DecidableEq, Repr

/-- The entry of STATE 1 or 2 located by key and tag. -/
def State.locate (s : State) (k : W64) (tag : Nat) : Option At :=
  let c := shCtl k
  ((s.ctl c).ents.find? (fun p => p.2.key == k && p.2.tag == tag && (p.2.state == 1 || p.2.state == 2))).map
    (fun p => ⟨c, p.1, p.2⟩)

/-- The entry that holds a slot, at the controller of a key. -/
def State.holder (s : State) (k : W64) (slot : Nat) : Option At :=
  let c := shCtl k
  ((s.ctl c).ents.find? (fun p => p.2.slot == slot && p.2.state != 0)).map (fun p => ⟨c, p.1, p.2⟩)

/-- R223. -/
def Entry.expired (e : Entry) (now : BitVec 16) : Bool := !e.ttl0 && decide (0 < (now - e.vuntil).toInt)

/-- The age of a valid entry in frames, at most 255 (R213). -/
def Entry.age (e : Entry) (now : BitVec 16) : Nat := if e.asat then 255 else min (now - e.fill).toNat 255

/-- Writes an entry. -/
def State.setEntry (s : State) (a : At) (e : Entry) : State := s.modCtl a.ctl (fun c => { c with ents := tset c.ents a.pos e })

/-- Makes an entry invalid and quarantines its slot (R225). -/
def State.killEntry (s : State) (a : At) : State :=
  let s1 := s.modCtl a.ctl (fun c => { c with ents := terase c.ents a.pos })
  { s1 with shade := { s1.shade with quar := s1.shade.quar ++ [(a.e.slot, a.e.sc, s.shade.frame)] } }

/-- The shading status word (Table 8.8). -/
def State.statusWord (s : State) (ans age sc : Nat) (stale noalloc : Bool) : Nat :=
  ans + (if noalloc then 4 else 0) + (if stale then 8 else 0) + 16 * sc + 256 * age + 2 ^ 16 * s.frame16.toNat

/-- A continuation record (Table 8.9). -/
def contRecord (pc key : W64) (va slot status : Nat) (words : List W32) : List Byte :=
  leBytes 8 pc.toNat ++ leBytes 8 key.toNat ++ leBytes 8 va ++ leBytes 4 slot ++ leBytes 4 status ++
    words.flatMap (fun v => leBytes 4 v.toNat)

/-- Releases the parked records of an entry, PW0 to PW3, with a status and, when it was filled, its slot (R219). -/
def State.releaseParked (s : State) (a : At) (status : Nat) (slot : Option Nat) : State :=
  a.e.pw.foldl (fun t i =>
    t.modCtl a.ctl (fun c =>
      match tget? c.parks i with
      | some p =>
        let va := match slot with | some b => (s.fnb p.fn).shade.heapva.toNat + 256 * b | none => 0
        { c with
          parks := tset c.parks i { p with out := some (contRecord p.pc p.key va (slot.getD 0) status p.words) }
          outq := c.outq ++ [i] }
      | none => c)) s

/-- Abandons the tile of an entry, as `shfill.drop` does (R219); SC and NOALLOC of the status word are 0. DESIGN CHOICE (assumption 146). -/
def State.dropEntry (s : State) (a : At) : State :=
  (s.releaseParked a (s.statusWord 2 0 0 (a.e.state == 3) false) none).killEntry a

/-- Entries of every controller, with their places. -/
def State.allEntries (s : State) : List At := (upTo 4).flatMap (fun c => (s.ctl c).ents.map (fun p => ⟨c, p.1, p.2⟩))

/-- The entry in flight that holds an allocation. -/
def State.tileAt (s : State) (tile : Nat) : Option At :=
  s.allEntries.find? (fun a => a.e.tile == tile && (a.e.state == 1 || a.e.state == 3))

/-- A pool workgroup starts the continuation of a record: if it is the shading continuation of an entry in flight, that entry
belongs to the workgroup's task from now on (R220). -/
def State.startContinuation (s : State) (l fn : Nat) (r : PoolRec) : State :=
  match r.tile.bind s.tileAt with
  | some a => s.setEntry a { a.e with launch := some l, startFn := some fn }
  | none => s

/-- Abandons the tiles in flight that satisfy a condition. -/
def State.dropTiles (s : State) (p : Entry → Bool) : State :=
  (s.allEntries.filter (fun a => p a.e && (a.e.state == 1 || a.e.state == 3))).foldl State.dropEntry s

/-- When a task ends by a fault, its unfilled tiles are dropped (R220). -/
def State.dropStarted (s : State) (l : Nat) : State := s.dropTiles (fun e => e.launch == some l)

/-! ### Slots (R207, R224, R225) -/

/-- First index and number of slots of a pool. -/
def DevShade.pool (d : DevShade) (c : Nat) : Nat × Nat :=
  let b1 := (d.a0 + 1) / 2 * 2
  let b2 := (b1 + 2 * d.a1 + 3) / 4 * 4
  if c = 0 then (0, d.a0) else if c = 1 then (b1, d.a1) else (b2, d.a2)

/-- The slots of a class that entries hold or that are quarantined, rising. -/
def State.takenSlots (s : State) (c : Nat) : List Nat :=
  ((s.allEntries.filter (fun a => a.e.sc == c)).map (fun a => a.e.slot) ++
    (s.shade.quar.filter (fun q => q.2.1 == c)).map Prod.fst).mergeSort (fun a b => decide (a ≤ b))

/-- How many slots of a class stand on the free list, and how many in quarantine. -/
def State.freeCount (s : State) (c : Nat) : Nat := (s.shade.pool c).2 - (s.takenSlots c).length
def State.quarCount (s : State) (c : Nat) : Nat := (s.shade.quar.filter (fun q => q.2.1 == c)).length

/-- The free slot number `j` of a class: counts up over the taken ones. -/
def State.freeSlot (s : State) (c j : Nat) : Nat :=
  (s.takenSlots c).foldl (fun cand u => if u ≤ cand then cand + 2 ^ c else cand) ((s.shade.pool c).1 + j * 2 ^ c)

/-! ### Ways (R224) -/

/-- A way that an allocation takes, with the state after any eviction: none when all ways are in flight. -/
def State.takeWay (s : State) (ctl set : Nat) : Option (Nat × State) :=
  let at_ (w : Nat) : Nat := 16 * set + w
  let ents := (s.ctl ctl).ents
  match (upTo 16).find? (fun w => (tget? ents (at_ w)).isNone) with
  | some w => some (at_ w, s)
  | none =>
    let hand := tgetD (s.ctl ctl).hands set 0
    let order := (upTo 16).map (fun i => (hand + i) % 16)
    let valid := order.filterMap (fun w => (tget? ents (at_ w)).bind (fun e => if e.state = 2 then some (w, e) else none))
    let passed := valid.takeWhile (fun q => q.2.ref)
    match (valid.drop passed.length ++ passed).head? with
    | none => none
    | some (w, e) =>
      let s1 := passed.foldl (fun t q => t.setEntry ⟨ctl, at_ q.1, q.2⟩ { q.2 with ref := false }) s
      some (at_ w, (s1.killEntry ⟨ctl, at_ w, e⟩).modCtl ctl (fun c => { c with hands := tset c.hands set ((w + 1) % 16) }))

/-! ### `shq` (R213) -/

/-- The probe of one thread: an expired entry becomes invalid. `true`: absent or expired. -/
def State.probe (s : State) (r : Resolved) : Bool × State :=
  match s.locate r.key r.tag with
  | none => (true, s)
  | some a => if a.e.state = 2 ∧ a.e.expired s.frame16 = true then (true, s.killEntry a) else (false, s)

/-- The probes of the threads in lane order. -/
def State.probes (s : State) : List (Nat × Resolved) → List (Nat × Resolved × Bool) × State
  | [] => ([], s)
  | (i, r) :: rs =>
    let (b, s1) := s.probe r
    let (out, s2) := s1.probes rs
    ((i, r, b) :: out, s2)

/-- The query of one thread goes to its controller. -/
def Ctx.sendQuery (x : Ctx) (ins : Nat) (s : State) (q : Nat × Resolved × Option (Nat × W64 × Nat)) : State :=
  let (id, s1) := s.newId
  let h : PShq :=
    { id := id, th := x.ref q.1, fn := x.wg.fn, launch := x.wg.launch, key := q.2.1.key, tag := q.2.1.tag, mat := q.2.2,
      dst := destOf x.w.d, flag := x.flag, ins := ins, heapva := (s.fnb x.wg.fn).shade.heapva }
  ({ s1 with shqs := tset s1.shqs id h }).modThread (x.ref q.1) (fun th =>
    (match destOf x.w.d with
     | some d => th.pendIncs d 4
     | none => th).flagUp x.flag)

/-- The material of a thread whose probe reported its key absent or expired. -/
def Ctx.needMaterial (x : Ctx) (s : State) (q : Nat × Resolved × Bool) : Answer (Resolved × Option (Nat × W64 × Nat)) :=
  if q.2.2 then
    (match x.material s q.1 q.2.1 with
     | .ok m => .ok (q.2.1, some m)
     | .trap r c a => .trap r c a
     | .fault r a c k => .fault r a c k
     | .unread r a n e => .unread r a n e
     | .wait => .wait)
  else .ok (q.2.1, none)

/-- The key check of class 0xC: both registers of the pair carry a tag in INT (R212). -/
def Ctx.keyTags (x : Ctx) (p : Nat × Thread) : Bool := tagOk p.2 x.w.a 2 tINT

/-- Runs the per-thread checks of a class 0xC instruction. -/
def Ctx.answers {α : Type} (x : Ctx) (s : State) (f : State → Nat × Thread → Answer α) : List (Nat × Answer α) :=
  x.active.map (fun p => (p.1, f s p))

/-- A trap or a wait keeps what the probes have done (R213). -/
def keepProbes (s : State) (r : Res) : Res :=
  match r with
  | .trap t => .trapIn t s
  | .stall on => .hold s on
  | .wait t => .hold t .other
  | r => r

/-- The object-table entries that a class 0xC instruction has read, of the keys it has resolved, and the material entries. -/
def Ctx.sawKeys (x : Ctx) (s : State) (ks : List (Nat × Resolved)) : State :=
  ks.foldl (fun t r => x.sawBytes t r.1 ((t.fnb x.wg.fn).shade.objtab.toNat + 8 * keyObj r.2.key) 8) s
def Ctx.sawMaterials (x : Ctx) (s : State) (ms : List (Nat × Nat)) : State :=
  ms.foldl (fun t q => x.sawBytes t q.1 ((t.fnb x.wg.fn).shade.mattab.toNat + 16 * q.2) 16) s

def shqBody (x : Ctx) (s : State) : Res :=
  x.settle s (x.answers s (fun t p => if x.keyTags p then x.resolve t p else .trap rkTag clsFormat 0)) (fun ks =>
    x.boundary s x.next (fun t =>
      let (ps, t1) := (x.sawKeys t ks).probes ks
      keepProbes t1 (x.settle t1 (ps.map (fun q => (q.1, x.needMaterial t1 q))) (fun ms =>
        let t2 := x.sawMaterials t1 (ms.filterMap (fun q => q.2.2.map (fun m => (q.1, m.1))))
        .ok (ms.foldl (x.sendQuery t2.nextId) t2)))))

/-- Writes the result quad of a query (R213). -/
def State.answerQuery (s : State) (q : PShq) (status slot : Nat) (hasSlot : Bool) : State :=
  let va := if hasSlot then q.heapva.toNat + 256 * slot else 0
  let ws : List W32 := [BitVec.ofNat 32 status, BitVec.ofNat 32 slot, BitVec.ofNat 32 va, BitVec.ofNat 32 (va / 2 ^ 32)]
  ({ s with shqs := terase s.shqs q.id }.modThread q.th (fun th =>
    (match q.dst with
     | some d => (th.setRegs d ws 2).pendDecs d 4
     | none => th).flagDown q.flag)).settleFences q.th

/-- Allocates an entry and emits its shading continuation (R213, R216); none when a slot, a way or the emission buffer lacks room. A pool
hands out its slots in rising order until a quarantined slot has come back (R411). DESIGN CHOICE (assumption 34). -/
def State.allocate (s : State) (q : PShq) (m : Nat × W64 × Nat) : Option (Nat × State) :=
  let c := shCtl q.key
  let (mi, pc, sc) := m
  if s.freeCount sc = 0 ∨ Config.emissionBuffer ≤ (s.ctl c).emis.length then none
  else match s.takeWay c (s.shSet q.key) with
    | none => none
    | some (pos, s1) =>
      let (j, s2) := if s1.shade.mixed.contains sc then s1.choose (s1.freeCount sc) else (0, s1)
      let slot := s2.freeSlot sc j
      let (tile, s3) := s2.newId
      let e : Entry := { key := q.key, tag := q.tag, state := 1, slot := slot, sc := sc, tile := tile }
      let bytes := contRecord pc q.key (q.heapva.toNat + 256 * slot) slot (s2.statusWord 2 0 sc false false)
        (BitVec.ofNat 32 (q.tag + 256 * mi) :: List.replicate 7 0#32)
      some (slot, s3.modCtl c (fun k => { k with
        ents := tset k.ents pos e
        emis := k.emis ++ [{ fn := q.fn, bytes := bytes, tile := tile }] }))

/-- The self-test has taken a tag controller out of service: it allocates nothing and holds no entry (R394). DESIGN CHOICE
(assumption 122). -/
def State.ctlDead (s : State) (i : Nat) : Bool := s.boot.offCtls.contains i || s.boot.retire.contains (.controller i)

/-- The allocation step of a query (R213). -/
def State.allocateStep (s : State) (q : PShq) : State :=
  let miss (t : State) : State := t.answerQuery q (t.statusWord 2 0 0 false true) 0 false
  let absent (t : State) : State :=
    match q.mat with
    | none => miss t
    | some m =>
      (match t.allocate q m with
       | some (slot, u) => u.answerQuery q (u.statusWord 2 0 m.2.2 false false) slot true
       | none => miss t)
  if s.ctlDead (shCtl q.key) then miss s
  else match s.locate q.key q.tag with
  | none => absent s
  | some a =>
    if a.e.pois then (miss s).taskFault q.launch { cls := clsPoison, tid := q.th.tid }
    else if a.e.state = 1 then s.answerQuery q (s.statusWord 1 0 a.e.sc false false) a.e.slot true
    else if a.e.expired s.frame16 then absent (s.killEntry a)
    else (s.setEntry a { a.e with ref := true }).answerQuery q (s.statusWord 0 (a.e.age s.frame16) a.e.sc false false) a.e.slot true

/-- The step of a query would find its key absent or expired. -/
def State.wouldMiss (s : State) (q : PShq) : Bool :=
  match s.locate q.key q.tag with
  | none => true
  | some a => a.e.state == 2 && a.e.expired s.frame16

/-- The step of a query would allocate. -/
def State.wouldAllocate (s : State) (q : PShq) : Bool :=
  s.wouldMiss q && (match q.mat with
    | some m => (s.allocate q m).isSome
    | none => false)

/-- A query's allocation step may be made: those of earlier lanes of its instruction have been, and, where it allocates and so is a
release, its thread's earlier accesses have performed (R213, R226). -/
def State.canAllocate (s : State) (q : PShq) : Bool :=
  !s.shqs.any (fun p => p.2.ins == q.ins && decide (p.1 < q.id)) &&
    (!s.wouldAllocate q || !(s.pendingOf q.th).any (fun v => decide (v.acc.id < q.id)))

/-! ### `shpark` (R218) -/

/-- What a `shpark` names: its resolved key, resume program counter and payload. -/
structure ParkReq where
  r  : Resolved
  pc : W64
  words : List W32
deriving DecidableEq, Repr

def Ctx.parkReq (x : Ctx) (s : State) (p : Nat × Thread) : Answer ParkReq :=
  let pc := srcPair x.w p.2 false x.w.b
  if !x.keyTags p || !tagOk p.2 x.w.b 2 tINT then .trap rkTag clsFormat 0
  else if pcBad pc then .trap rkTarget clsTarget 0
  else match x.resolve s p with
    | .ok r => .ok { r := r, pc := pc, words := (upTo 8).map (fun i => (p.2.reg (x.w.c.toNat + i)).v) }
    | .trap k c a => .trap k c a
    | .fault k a c b => .fault k a c b
    | .unread k a n e => .unread k a n e
    | .wait => .wait

/-- The step of one thread at the controller: it parks, or not. -/
def State.parkOne (s : State) (fn : Nat) (q : ParkReq) : Option State :=
  match s.locate q.r.key q.r.tag with
  | none => none
  | some a =>
    if a.e.state ≠ 1 ∨ 4 ≤ a.e.pw.length then none
    else
      let i := tfreshFrom (s.ctl a.ctl).parks 0
      if Config.parkPool ≤ i then none
      else
        let p : Park := { pc := q.pc, key := q.r.key, words := q.words, fn := fn }
        some ((s.modCtl a.ctl (fun c => { c with parks := tset c.parks i p })).setEntry a { a.e with pw := a.e.pw ++ [i] })

/-- The steps of the threads in lane order: those that park, and the state. -/
def Ctx.parkAll (x : Ctx) (s : State) : List (Nat × ParkReq) → List Nat × State
  | [] => ([], s)
  | (i, q) :: rest =>
    match s.parkOne x.wg.fn q with
    | some s1 => let (ps, s2) := x.parkAll s1 rest; (i :: ps, s2)
    | none => x.parkAll (s.modThread (x.ref i) (fun th => th.setPred x.w.d.toNat false)) rest

/-- The threads that park release (R226): their earlier accesses have performed; a failed `shpark` orders nothing. -/
def shparkBody (x : Ctx) (s : State) : Res :=
  x.settle s (x.answers s x.parkReq) (fun qs =>
    x.boundary s x.next (fun t =>
      let (ps, t1) := x.parkAll (x.sawKeys t (qs.map (fun q => (q.1, q.2.r)))) qs
      if ps.all (fun i => t.allDone (x.ref i)) then
        (match (t1.endThreads x.wid ps).taskSettle x.wid with
         | some u => .jump ((u.modGroup x.gid (fun g => { g with pc := x.next })).loseThreads x.gid ps)
         | none => .hold t .other)
      else .hold t .other))

/-! ### `shfill` (R219) -/

/-- What a `shfill` names: its resolved key, slot and lifetime. -/
structure FillReq where
  r : Resolved
  slot : Nat
  life : Nat
deriving DecidableEq, Repr

def Ctx.fillReq (x : Ctx) (s : State) (p : Nat × Thread) : Answer FillReq :=
  if !x.keyTags p || !tagOk p.2 x.w.b 1 tINT || !tagOk p.2 x.w.c 1 tINT then .trap rkTag clsFormat 0
  else match x.resolve s p with
    | .ok r => .ok { r := r, slot := (x.src p x.w.b).toNat, life := min (x.src p x.w.c).toNat 16383 }
    | .trap k c a => .trap k c a
    | .fault k a c b => .fault k a c b
    | .unread k a n e => .unread k a n e
    | .wait => .wait

/-- The step of one thread at the controller. -/
def State.fillOne (drop : Bool) (s : State) (q : FillReq) : Bool × State :=
  match s.holder q.r.key q.slot with
  | none => (false, s)
  | some a =>
    if a.e.key ≠ q.r.key ∨ a.e.tag ≠ q.r.tag ∨ a.e.state = 2 then (false, s)
    else if a.e.state = 1 ∧ !drop then
      let e := { a.e with
        state := 2, fill := s.frame16, ttl0 := decide (q.life = 0), vuntil := s.frame16 + BitVec.ofNat 16 q.life - 1#16,
        ref := true, asat := false, pw := [] }
      (true, (s.releaseParked a (s.statusWord 0 0 a.e.sc false false) (some a.e.slot)).setEntry a e)
    else (true, s.dropEntry a)

/-- A query of the key whose thread has gone on before its answer: it is answered before a fill, which it would acquire too late (R226).
DEDUCED (assumption 128). -/
def State.passedQuery (s : State) (r : Resolved) : Bool := s.shqs.any (fun p => p.2.passed && p.2.key == r.key && p.2.tag == r.tag)

def shfillBody (drop : Bool) (x : Ctx) (s : State) : Res :=
  x.settle s (x.answers s x.fillReq) (fun qs =>
    x.waitDone s State.allDone (fun t =>
      if !drop && qs.any (fun q => t.passedQuery q.2.r) then .hold t .other
      else .ok (qs.foldl (fun u q =>
        let (b, u1) := u.fillOne drop q.2
        u1.modThread (x.ref q.1) (fun th => th.setPred x.w.d.toNat b)) (x.sawKeys t (qs.map (fun q => (q.1, q.2.r)))))))

/-! ### `shinv` (R221) -/

/-- The logical effect of an invalidation on one entry. -/
def State.invalidateEntry (s : State) (a : At) : State :=
  if a.e.state = 2 then s.killEntry a
  else if a.e.state = 1 then s.setEntry a { a.e with state := 3 }
  else s

/-- Whether a range of objects and a mask of tags take in an entry. -/
def InvRange.takes (g : InvRange) (e : Entry) : Bool := decide (g.lo ≤ keyObj e.key ∧ keyObj e.key ≤ g.hi) && g.mask.getLsbD e.tag

/-- The least free pending-range register of a controller. -/
def Ctl.freeRange (c : Ctl) : Nat := tfreshFrom c.ranges 0

/-- One thread's invalidation: every controller records the range, and it takes effect; a slot is quarantined with the frame of this step.
DESIGN CHOICE (assumption 149). -/
def State.invalidate (s : State) (g : InvRange) : State :=
  if g.hi < g.lo then s
  else
    let s1 := (upTo 4).foldl (fun t c => t.modCtl c (fun k => { k with ranges := tset k.ranges k.freeRange g })) s
    (s1.allEntries.filter (fun a => g.takes a.e)).foldl State.invalidateEntry s1

/-- The range a thread names. -/
def Ctx.invReq (x : Ctx) (s : State) (p : Nat × Thread) : Answer InvRange :=
  let sh := (s.fnb x.wg.fn).shade
  let v (f : Fld) : Nat := min (x.src p f).toNat 0x0FFFFFFF
  if !tagOk p.2 x.w.a 1 tINT || !tagOk p.2 x.w.b 1 tINT then .trap rkTag clsFormat 0
  else if !sh.inv then .fault rkAllow 0 clsPerm 0
  else .ok { lo := v x.w.a, hi := v x.w.b, mask := sh.mask }

/-- Every controller has a free pending-range register. -/
def State.rangeRoom (s : State) : Bool := (upTo 4).all (fun c => decide ((s.ctl c).ranges.length < Config.rangeRegs))

/-- Records the threads' ranges in lane order while the controllers have room: how many were recorded. -/
def State.recordRanges (s : State) : List (Nat × InvRange) → Nat × State
  | [] => (0, s)
  | q :: qs =>
    if q.2.hi < q.2.lo ∨ s.rangeRoom = true then
      let (n, t) := (s.invalidate q.2).recordRanges qs
      (n + 1, t)
    else (0, s)

/-- The threads' invalidations in lane order; those that find no free register wait at issue. -/
def shinvBody (x : Ctx) (s : State) : Res :=
  x.settle s (x.answers s x.invReq) (fun gs =>
    x.waitDone s State.allDone (fun t =>
      let rest := gs.filter (fun q => !x.g.signed.contains q.1)
      let (n, u) := t.recordRanges rest
      if n = rest.length then .ok (u.modGroup x.gid (fun g => { g with signed := [] }))
      else .hold (u.modGroup x.gid (fun g => { g with signed := g.signed ++ (rest.take n).map Prod.fst })) .other))

/-! ### `shtick` (R222) -/

/-- One entry that the scrub visits (R223). -/
def State.scrubEntry (s : State) (a : At) : State :=
  if a.e.state ≠ 2 then s
  else if a.e.expired s.frame16 then s.killEntry a
  else if 255 ≤ (s.frame16 - a.e.fill).toNat then s.setEntry a { a.e with asat := true }
  else s

/-- A controller's scrub at a tick: 1/4,096 of its entries, in a fixed rotation. -/
def State.scrubCtl (s : State) (c : Nat) : State :=
  let n := 2 ^ (7 + s.shade.carve)
  let k := (s.ctl c).scrub
  let hit := (s.ctl c).ents.filter (fun p => decide (k * n ≤ p.1 ∧ p.1 < k * n + n))
  (hit.foldl (fun t p => t.scrubEntry ⟨c, p.1, p.2⟩) s).modCtl c (fun x => { x with scrub := (x.scrub + 1) % 4096 })

/-- Advances the frame, returns the slots quarantined two frames before (R225), and scrubs. -/
def State.tickFrame (s : State) : State :=
  let f := s.shade.frame + 1#32
  let back := (s.shade.quar.filter (fun q => decide (q.2.2 + 2#32 = f))).map (·.2.1)
  let s1 := { s with shade := { s.shade with
    frame := f, quar := s.shade.quar.filter (fun q => decide (q.2.2 + 2#32 ≠ f)), mixed := dedup' (s.shade.mixed ++ back) } }
  (upTo 4).foldl State.scrubCtl s1

/-- The ticks of the threads in lane order. -/
def shtickBody (x : Ctx) (s : State) : Res :=
  let s0 := if (s.fnb x.wg.fn).shade.tick ∨ x.active.isEmpty = true then s else s.modLaunch x.wg.launch (fun l => { l with nosig := true })
  x.settle s0 (x.answers s (fun t _ => if (t.fnb x.wg.fn).shade.tick then Answer.ok () else .fault rkAllow 0 clsPerm 0)) (fun qs =>
    x.waitDone s State.allDone (fun t =>
      .ok (qs.foldl (fun u q =>
        let u1 := u.tickFrame
        u1.modThread (x.ref q.1) (fun th => match destOf x.w.d with
          | some d => th.setReg d u1.shade.frame 2
          | none => th)) t)))

/-! ### Records leaving a controller (R216, R217) -/

/-- A shading continuation leaves the emission buffer; none while its queue's ring is full. SHPOOL is read as it stands now.
DESIGN CHOICE (assumption 148). -/
def State.emitNext (s : State) (c : Nat) : Option State :=
  match (s.ctl c).emis with
  | [] => none
  | m :: ms =>
    let pop (t : State) : State := t.modCtl c (fun k => { k with emis := ms })
    let q := (s.fnb m.fn).shade.shpool
    match s.ringPut 2 m.fn q m.bytes with
    | .ok t => some (pop (t.modQueue m.fn q (fun x => { x with conts := x.conts ++ [(x.devEnd - 1#32, m.tile)] })))
    | .cannot =>
      let t := pop (s.ringRefused 2 m.fn q)
      some (match t.tileAt m.tile with
        | some a => t.dropEntry a
        | none => t)
    | _ => none

/-- A released record leaves the park pool for RSPOOL, as it stands now, of the device that parked it: the first in release order whose queue takes it
or can take none. DESIGN CHOICE (assumption 148). -/
def State.deliverOne (s : State) (c i : Nat) : Option State :=
  match tget? (s.ctl c).parks i with
  | none => none
  | some p =>
    let pop (t : State) : State := t.modCtl c (fun k => { k with parks := terase k.parks i, outq := k.outq.filter (fun j => j != i) })
    let q := (s.fnb p.fn).shade.rspool
    match p.out with
    | none => none
    | some bs =>
      match s.ringPut 2 p.fn q bs with
      | .ok t => some (pop t)
      | .cannot => some (pop (s.ringRefused 2 p.fn q))
      | _ => none

def State.deliverNext (s : State) (c : Nat) : Option State := (s.ctl c).outq.findSome? (s.deliverOne c)

/-! ### The slot pool's clock (R224) -/

/-- The valid entries of a class in clock order. -/
def State.clockOrder (s : State) (c : Nat) : List At :=
  let hand := tgetD s.shade.pclock c 0
  let es := (s.allEntries.filter (fun a => a.e.sc == c && a.e.state == 2)).mergeSort (fun a b => decide (a.e.slot ≤ b.e.slot))
  es.filter (fun a => decide (hand ≤ a.e.slot)) ++ es.filter (fun a => decide (a.e.slot < hand))

/-- Evicts the entry that the pool's clock chooses. -/
def State.clockEvict (s : State) (c : Nat) : State :=
  let es := s.clockOrder c
  let passed := es.takeWhile (fun a => a.e.ref)
  match (es.drop passed.length ++ passed).head? with
  | none => s
  | some v =>
    let s1 := (passed.foldl (fun t a => t.setEntry a { a.e with ref := false }) s).killEntry v
    { s1 with shade := { s1.shade with pclock := tset s1.shade.pclock c (v.e.slot + 1) } }

/-- The pool's clock runs: its free list holds fewer than 1/64 of its slots, and free list and quarantine together fewer than
1/32. -/
def State.clockRuns (s : State) (c : Nat) : Bool :=
  let n := (s.shade.pool c).2
  decide (s.freeCount c * 64 < n) && decide ((s.freeCount c + s.quarCount c) * 32 < n) && !(s.clockOrder c).isEmpty

/-! ### The device shading record (R207) -/

/-- Whether the staged record may be applied. -/
def State.recordOk (s : State) : Bool :=
  let d := { s.shade with a0 := s.shade.n0.toNat, a1 := s.shade.n1.toNat, a2 := s.shade.n2.toNat }
  let m := 2 ^ 20
  !s.fns.any (fun p => decide (p.1 ≠ 0) && p.2.shade.en) &&
    decide (d.heappa.toNat % m = 0 ∧ d.heapsz.toNat % m = 0 ∧ d.heapsz.toNat ≤ 2 ^ 36) &&
    decide (d.heappa.toNat + d.heapsz.toNat ≤ 0xC000000000) &&
    decide (256 * ((d.pool 2).1 + 4 * (d.pool 2).2) ≤ d.heapsz.toNat)

/-- The applying write: the record takes effect with the tag store empty and the frame zero, or is refused (assumption 7).
DEDUCED (assumption 7). -/
def State.applyRecord (s : State) (v : W32) : State :=
  if s.recordOk && decide (v.toNat < 4) then
    let d := s.shade
    { s with
      shade := { d with
        carve := fieldN v.toNat 0 2, refused := false, a0 := d.n0.toNat, a1 := d.n1.toNat, a2 := d.n2.toNat,
        aheap := d.heappa.toNat, frame := 0#32, quar := [], pclock := [], mixed := [] }
      ctls := s.ctls.map (fun p => (p.1, { p.2 with ents := [], ranges := [], hands := [], scrub := 0 })) }
  else { s with shade := { s.shade with refused := true } }

/-! ### The meanings -/

def execShq (w : TWord) (s : State) : Host.Outcome State Fault Refusal := runThrum (sigShq w) w [] shqBody s
def execShpark (w : TWord) (s : State) : Host.Outcome State Fault Refusal := runThrum (sigShpark w) w [] shparkBody s
def execShfill (w : TWord) (s : State) : Host.Outcome State Fault Refusal := runThrum (sigShfill w) w [] (shfillBody false) s
def execShfillDrop (w : TWord) (s : State) : Host.Outcome State Fault Refusal :=
  runThrum (sigShfillDrop w) w [] (shfillBody true) s
def execShinv (w : TWord) (s : State) : Host.Outcome State Fault Refusal := runThrum (sigShinv w) w [] shinvBody s
def execShtick (w : TWord) (s : State) : Host.Outcome State Fault Refusal := runThrum (sigShtick w) w [] shtickBody s

/-- SHQ_ALLOCATE (R213). -/
def execShqAllocate (id : Nat) (s : State) : Host.Outcome State Fault Refusal :=
  runEvent "SHQ_ALLOCATE" (fun t => match tget? t.shqs id with | some q => t.canAllocate q | none => false)
    (fun t => match tget? t.shqs id with | some q => t.allocateStep q | none => t) s
/-- CONTINUATION_EMIT (R216, R217). -/
def execContinuationEmit (ctl : Nat) (s : State) : Host.Outcome State Fault Refusal :=
  runEvent "CONTINUATION_EMIT" (fun t => (t.emitNext ctl).isSome) (fun t => (t.emitNext ctl).getD t) s
/-- RELEASED_RECORD_DELIVERY (R217). -/
def execReleasedRecordDelivery (ctl : Nat) (s : State) : Host.Outcome State Fault Refusal :=
  runEvent "RELEASED_RECORD_DELIVERY" (fun t => (t.deliverNext ctl).isSome) (fun t => (t.deliverNext ctl).getD t) s
/-- SHINV_SCAN_DONE (R221). -/
def execShinvScanDone (ctl idx : Nat) (s : State) : Host.Outcome State Fault Refusal :=
  runEvent "SHINV_SCAN_DONE" (fun t => (tget? (t.ctl ctl).ranges idx).isSome)
    (fun t => t.modCtl ctl (fun c => { c with ranges := terase c.ranges idx })) s
/-- POOL_CLOCK_EVICTION (R224). -/
def execPoolClockEviction (cls : Nat) (s : State) : Host.Outcome State Fault Refusal :=
  runEvent "POOL_CLOCK_EVICTION" (fun t => decide (cls < 3) && t.clockRuns cls) (fun t => t.clockEvict cls) s
/-- SHADING_RECORD_APPLY (R207). -/
def execShadingRecordApply (val : W32) (s : State) : Host.Outcome State Fault Refusal :=
  runEvent "SHADING_RECORD_APPLY" (fun _ => true) (fun t => t.applyRecord val) s

end Sys2Proof.Machine
end

