-- ==== Sys2Proof/Machine/Queues.lean ====
section
/-! DEFINITION. Continuation pools (R285, R286), and enabling, disabling and destroying queues (R272, R285, R301). -/

namespace Sys2Proof.Machine

/-! ### Draws of a pool (R285) -/

/-- The packet image that describes a pool workgroup (R286): RECT over QPRECT with WGPC from QPWG and LREC from QPREC. -/
def Queue.image (x : Queue) : List Byte :=
  leBytes 4 1 ++ leBytes 4 x.qprect.toNat ++ leBytes 8 x.qprec.toNat ++ zeroBytes 32 ++ leBytes 4 x.qpwg ++ zeroBytes 12

/-- A launch record with another THREADS. -/
def recWithThreads (r : List Byte) (n : Nat) : List Byte := r.take 10 ++ leBytes 2 n ++ r.drop 12

/-- The launch of a draw of `n` records: the pool's record for a workgroup of `n` threads. -/
def Launch.forDraw (h : Launch) (draws n : Nat) : Launch :=
  { h with qidx := BitVec.ofNat 32 draws, phase := .running, lrec := recWithThreads h.lrec n }

/-- Slots of a core that workgroups of a pool hold. -/
def State.poolSlots (s : State) (fn q core : Nat) : List Nat :=
  ((tvals s.wgs).filter (fun w => w.core == core && w.fn == fn && w.queue == q && w.kind == .pool)).map (·.wgl)

/-- The lowest free slot of a core (R285). -/
def State.freeSlotOf (s : State) (fn q core : Nat) : Option Nat :=
  (upTo (s.queue fn q).qpwg).find? (fun j => !(s.poolSlots fn q core).contains j)

/-- A draw of `n` records can be placed on a core. -/
def State.drawFits (s : State) (fn q core n : Nat) : Bool :=
  let x := s.queue fn q
  match x.pool.bind s.launch? with
  | some h => !x.exhausted && !s.stopped fn && !s.displacedWait fn && (rectOf x.qprect.toNat).cores.contains core &&
      (s.freeSlotOf fn q core).isSome && s.mayUse h (clusterOf core) && s.fits core fn (h.forDraw 0 n).needs
  | none => false

/-- The registers of a pool thread: v0 to v13 hold the words of its record, tagged U32. -/
def drawnThread (th : Thread) (bs : List Byte) : Thread :=
  th.setRegs 0 ((upTo 14).map (fun i => BitVec.ofNat 32 (recVal bs (8 + 4 * i) 4))) 2

/-- Places the draw of a bin on a core. -/
def State.drawBin (s : State) (fn q bin core : Nat) : State :=
  let x := s.queue fn q
  match tget? x.bins bin, x.pool.bind s.launch? with
  | some b, some h =>
    let r := rectOf x.qprect.toNat
    let l := h.forDraw x.draws b.recs.length
    let (id, s1) := s.newId
    let p : Spot :=
      { core := core, g := x.draws % 2 ^ 32, wgl := (s.freeSlotOf fn q core).getD 0, lx := coreX core - r.ox, ly := coreY core - r.oy,
        lw := r.w, lh := r.h }
    let (wid, s2) := (s1.setLaunch id l).placeWg (fun gen base => l.wg id gen base p)
    let ths (w : Wg) : Tab Thread :=
      (w.threads.zip b.recs).map (fun (y : (Nat × Thread) × PoolRec) => (y.1.1, drawnThread y.1.2 y.2.bytes))
    let s3 := (s2.modWg wid (fun w => { w with threads := ths w })).startGroups wid (fun _ => b.pc)
    let s4 := b.recs.foldl (State.startContinuation · id fn ·) s3
    s4.modQueue fn q (fun y => { y with bins := terase y.bins bin, draws := y.draws + 1 })
  | _, _ => s

/-- Makes the draw of a full bin if some core has room; the device chooses among them. -/
def State.fullBin (s : State) (fn q bin : Nat) : State :=
  let x := s.queue fn q
  match tget? x.bins bin with
  | some b =>
    if b.recs.length < 32 then s
    else
      let cs := (rectOf x.qprect.toNat).cores.filter (fun c => s.drawFits fn q c 32)
      if cs.isEmpty then s
      else
        let (k, s1) := s.choose cs.length
        s1.drawBin fn q bin (cs.getD k 0)
  | none => s

/-- Makes the draws of every full bin that can be placed. -/
def State.fullBins (s : State) (fn q : Nat) : State := (tkeys (s.queue fn q).bins).foldl (fun t b => t.fullBin fn q b) s

/-- A bin's draw is due: it is full, or its oldest record has waited for the threshold. -/
def State.drawDue (s : State) (fn q bin : Nat) : Option Nat :=
  let x := s.queue fn q
  match tget? x.bins bin, x.pool.bind s.launch? with
  | some b, some h =>
    if b.recs.length = 32 ∨ b.recs.any (fun r => decide (r.cyc + recRfage h.lrec ≤ s.cycles)) = true then some b.recs.length else none
  | _, _ => none

/-! ### Filing records (R285, R422) -/

/-- What the TGT check of a record's entry answers. -/
inductive EntryRes where
  | good | discard | wait
deriving DecidableEq, Repr

/-- Reads the entry line of a record for its TGT check. -/
def State.recordEntry (s : State) (fn : Nat) (pc : W64) : EntryRes :=
  if pcBad pc then .discard
  else match s.plainAccess fn (pcLine pc).toNat needX with
    | .ok t =>
      let pa := t.tgt.base
      if s.unsettled pa 64 || s.readWaits (pa / 64) none then .wait
      else if s.isPois pa 64 then .discard
      else if bitN (s.readVal pa 4) (7 + pcSlot pc) then .good else .discard
    | .error .wait => .wait
    | .error _ => .discard

/-- The entry line of a record has been read (R340). -/
def State.sawEntry (s : State) (fn : Nat) (pc : W64) : State := if pcBad pc then s else s.frontSaw fn (pcLine pc).toNat 64

/-- The bin that takes a record: the one of its key with room, else the lowest-numbered free one. -/
def Queue.binFor (x : Queue) (pc : W64) : Option Nat :=
  match (upTo 16).find? (fun i => match tget? x.bins i with
      | some b => b.pc == pc && decide (b.recs.length < 32)
      | none => false) with
  | some i => some i
  | none => (upTo 16).find? (fun i => (tget? x.bins i).isNone)

/-- Files the next record of a pool, or discards it; none while no bin takes it or a read waits. -/
def State.fileRecord (s : State) (fn q : Nat) : Option State :=
  let x := s.queue fn q
  let tile := (x.conts.find? (fun p => p.1 == x.qrd)).map Prod.snd
  let left := x.conts.filter (fun p => p.1 != x.qrd)
  let s1 := (s.frontSaw fn (x.entryVa x.qrd.toNat) 64).modQueue fn q (fun y => { y with conts := left })
  match s.frontRead fn (x.entryVa x.qrd.toNat) 64 with
  | .wait => none
  | .unreadable => some ((s1.qerr fn q).advance fn q)
  | .bytes bs =>
    let pc : W64 := BitVec.ofNat 64 (recVal bs 0 8)
    match s.recordEntry fn pc with
    | .wait => none
    | .discard => some (((s1.sawEntry fn pc).qerr fn q).advance fn q)
    | .good =>
      match x.binFor pc with
      | none => none
      | some i =>
        let old := match tget? x.bins i with | some b => b.recs | none => []
        let bins := tset x.bins i { pc := pc, recs := old ++ [⟨bs, s.cycles, tile⟩] }
        some ((((s1.sawEntry fn pc).modQueue fn q (fun y => { y with bins := bins })).advance fn q).fullBin fn q i)

/-- A pool takes its next record. -/
def State.mayFile (s : State) (fn q : Nat) : Bool :=
  let x := s.queue fn q
  x.en && x.type == 2 && decide (0 < x.avail) && x.pool.isSome && !s.stopped fn

/-! ### Enabling and disabling (R272, R285) -/

/-- The fields of a queue allow EN. -/
def Queue.fieldsOk (x : Queue) : Bool :=
  x.qbase.toNat % 4096 == 0 && decide (x.qbase.toNat < 2 ^ 55) && decide (x.type ≤ 2) && decide (6 ≤ x.log2n ∧ x.log2n ≤ 16) &&
    (x.type != 2 || (decide (1 ≤ x.qpwg) && (rectOf x.qprect.toNat).inMesh && !x.rectRsv))

/-- EN written 1: it stays 0 where a field, a pool's record or its lease refuses it; none while a read waits. -/
def State.enableQueue (s : State) (fn q : Nat) : Option State :=
  let x := s.queue fn q
  if x.en || !x.fieldsOk then some s
  else if x.type ≠ 2 then some (s.setQueue fn q { x with en := true })
  else match s.readLrec fn x.qprec.toNat false true with
    | .wait => none
    | .bad => some (s.sawLrec fn x.qprec.toNat false true)
    | .ok r =>
      let s0 := (s.sawLrec fn x.qprec.toNat false true).sawRanges fn r.ranges
      match s.lease fn r.ranges with
      | .wait => none
      | .refused => some s0
      | .granted =>
        let (id, s1) := s0.newId
        let h : Launch :=
          { fn := fn, queue := q, qidx := 0#32, kind := .pool, packet := x.image, lrec := r.bytes, fmts := r.fmts, ranges := r.ranges,
            phase := .done }
        some (((s1.setLaunch id h).setQueue fn q { x with en := true, pool := some id }).fullBins fn q)

/-- A packet at the head that has not begun reservation goes back to the ring; a WAIT likewise. -/
def State.unread (s : State) (fn q : Nat) : State :=
  let x := s.queue fn q
  let s1 := s.setQueue fn q { x with waiting := none }
  match x.head with
  | some id => (match s1.launch? id with
    | some l => if l.phase = .residency ∨ l.phase = .ready then s1.abandon id else s1
    | none => s1)
  | none => s1

/-- The pool's record and lease are given up. -/
def State.dropPool (s : State) (fn q : Nat) : State :=
  let x := s.queue fn q
  match x.pool with
  | some h => ({ s with launches := terase s.launches h }).setQueue fn q { x with pool := none }
  | none => s

/-- EN written 0: no notify is accepted; a pool makes the draws that are due and its lease ends. DEDUCED (assumption 39).
DEDUCED (assumption 40). DEDUCED (assumption 48). -/
def State.disableQueue (s : State) (fn q : Nat) : State :=
  let s1 := s.fullBins fn q
  ((s1.modQueue fn q (fun x => { x with en := false })).unread fn q).dropPool fn q

/-! ### Destroying a queue (R301) -/

/-- Kills a launch that has committed. DEDUCED (assumption 47). -/
def State.killLaunch (s : State) (id : Nat) : State := s.modLaunch id (fun l => if l.phase = .running then l.kill else l)

/-- Kills every committed launch of a queue. -/
def State.killQueue (s : State) (fn q : Nat) : State :=
  (s.launches.filter (fun p => p.2.fn == fn && p.2.queue == q)).foldl (fun t p => t.killLaunch p.1) s

/-- EN is cleared at once; unconsumed entries stay unread and filed records are discarded. `how`: 1 draining, 2 killing. -/
def State.destroyQueue (s : State) (fn q how : Nat) : State :=
  let s1 := s.modQueue fn q (fun x => { x with en := false, done := false, destroying := how, devEnd := x.qrd, bins := [], conts := [] })
  let s2 := (s1.unread fn q).dropPool fn q
  (if how = 2 then s2.killQueue fn q else s2).settleDestroy fn q

/-! ### The meanings -/

/-- A queue that exists. -/
def queueNamed (fn q : Nat) : Bool := decide (fn < Config.numFns ∧ q < queuesOf fn)

/-- QUEUE_ENABLE (R272, R285). -/
def execQueueEnable (fn q : Nat) (s : State) : Host.Outcome State Fault Refusal :=
  runEvent "QUEUE_ENABLE" (fun t => queueNamed fn q && (t.enableQueue fn q).isSome) (fun t => (t.enableQueue fn q).getD t) s
/-- QUEUE_DISABLE (R272, R285). -/
def execQueueDisable (fn q : Nat) (s : State) : Host.Outcome State Fault Refusal :=
  runEvent "QUEUE_DISABLE" (fun _ => queueNamed fn q) (fun t => t.disableQueue fn q) s
/-- QUEUE_DESTROY_DRAIN (R301). -/
def execQueueDestroyDrain (fn q : Nat) (s : State) : Host.Outcome State Fault Refusal :=
  runEvent "QUEUE_DESTROY_DRAIN" (fun _ => queueNamed fn q) (fun t => t.destroyQueue fn q 1) s
/-- QUEUE_DESTROY_KILL (R301). -/
def execQueueDestroyKill (fn q : Nat) (s : State) : Host.Outcome State Fault Refusal :=
  runEvent "QUEUE_DESTROY_KILL" (fun _ => queueNamed fn q) (fun t => t.destroyQueue fn q 2) s
/-- CONTINUATION_RECORD_FILE (R285, R422). -/
def execContinuationRecordFile (fn q : Nat) (s : State) : Host.Outcome State Fault Refusal :=
  runEvent "CONTINUATION_RECORD_FILE" (fun t => t.mayFile fn q && (t.fileRecord fn q).isSome) (fun t => (t.fileRecord fn q).getD t) s
/-- POOL_AGED_DRAW (R285). -/
def execPoolAgedDraw (fn q bin core : Nat) (s : State) : Host.Outcome State Fault Refusal :=
  runEvent "POOL_AGED_DRAW"
    (fun t => match t.drawDue fn q bin with | some n => t.drawFits fn q core n | none => false)
    (fun t => t.drawBin fn q bin core) s

end Sys2Proof.Machine
end

