-- ==== Sys2Proof/Machine/Context.lean ====
section
/-! DEFINITION. Halting (R373 to R377), saving and re-entering workgroups (R376, R381 to R384), freezing and thawing (R382), the debugger
(R368), the end of a task (R369) and the watchdog (R372). -/

namespace Sys2Proof.Machine

/-! ### Halting (R374, R377) -/

/-- A group as a halt leaves it: at the start of its region, its buffered stores discarded. A sleeping group keeps the time it has
left, one in `pwait` resumes at the `pwait`, one in `poll` after it. -/
def Group.halt (now : W64) (g : Group) : Group :=
  { g with
    pc := g.rstart, buf := [], begun := none, priv := false, stall := none,
    wait := match g.wait with
      | .sleep wake fl => .sleep (if wake < now then 0#64 else wake - now) fl
      | .pwait ps _ => .pwait ps []
      | .trapped => .trapped
      | _ => .ready }

/-- Whether a halt discards work of the group's region; that of a trapped group has only begun at the trap (R366). -/
def Group.midRegion (g : Group) : Bool := (g.pc != g.rstart && g.wait != .trapped) || !g.buf.isEmpty

/-- Halts one group: its discarded regions are counted, the flags of a `pwait` fall. Threads whose signature has been counted, or whose
`shinv` has been recorded, stand after it: a restart never repeats that work (R115, R332). -/
def State.haltGroup (s : State) (fn : Nat) (q : Nat × Group) : State :=
  let s1 := if q.2.midRegion then s.count q.2.core fn 7 q.2.tids.length else s
  let s2 := (match q.2.wait with | .pwait _ fl => s1.lowerFlags q.2.wg fl | _ => s1)
  let g := { q.2.halt s.now with signed := [] }
  if q.2.signed.isEmpty then s2.setGroup q.1 g
  else
    let (id, s3) := s2.newId
    (s3.setGroup q.1 { g with tids := g.tids.filter (fun i => !q.2.signed.contains i) }).setGroup id
      { g with tids := q.2.signed, pc := nextPc q.2.pc, rstart := nextPc q.2.pc }

/-- Halts a workgroup: one that is to be saved takes no more copy registrations (R376). A workgroup that is already halted to be
saved stays so, with CAUSE 3 from a freeze on (R382); one whose tenant holds its slice again by now is not halted for it. -/
def State.haltWg (how : Held) (s : State) (wid : Nat) : State :=
  match s.wg? wid with
  | none => s
  | some w =>
    let keep := match w.held, how with
      | some (.saving _), .saving 3 => false
      | some (.saving _), _ => true
      | some .energy, .slice => true
      | _, _ => false
    let c := s.core w.core
    let late := how == .slice && (decide (c.tenants.length ≤ 1) || c.tenants[c.vecHold]? == some w.fn)
    if w.ended || keep || late then s
    else
      let s1 := if w.held.isSome then s else (s.groupsOf wid).foldl (fun t q => t.haltGroup w.fn q) s
      s1.modWg wid (fun v => { v with
        held := some how, accepts := v.accepts && (match how with | .saving _ => false | _ => true) })

/-- The workgroups of a halt request, and how it halts them. -/
def HaltReq.ids : HaltReq → List Nat
  | .wgs ids _ => ids
def HaltReq.how : HaltReq → Held
  | .wgs _ h => h

/-- The halt of a request can be complete: no array operation runs on the cores of its target. -/
def State.mayHalt (s : State) (r : HaltReq) : Bool :=
  r.ids.all (fun i => match s.wg? i with
    | some w => !(s.core w.core).opq.any (·.running)
    | none => true)

/-- Completes a halt. -/
def State.haltAll (s : State) (k : Nat) : State :=
  match s.halts[k]? with
  | some r => r.ids.foldl (State.haltWg r.how) { s with halts := s.halts.eraseIdx k }
  | none => s

/-! ### The save area (R382) -/

/-- Bytes of the directory of a list of images. -/
def dirBytes (ims : List Image) : List Byte :=
  leBytes 4 ims.length ++ zeroBytes 60 ++ ims.flatMap (fun m => leBytes 8 m.off ++ leBytes 4 m.size ++ zeroBytes 4)

/-- Where a function's directory goes once it lists these images. -/
def State.dirPlaces (s : State) (fn : Nat) (ims : List Image) : Except AccErr (List (Acced × List Byte)) :=
  s.plainPlaces fn (s.fnb fn).ten.saveva.toNat (dirBytes ims)

/-- Writes a function's directory as its list of images stands; it is due while a translation makes it wait. -/
def State.writeDir (s : State) (fn : Nat) : State :=
  let rest := s.dirsDue.filter (fun f => f != fn)
  match s.dirPlaces fn (s.fnb fn).images with
  | .ok ps => { s with dirsDue := rest }.frontWrites fn ps
  | .error .wait => { s with dirsDue := rest ++ [fn] }
  | .error (.fault _ _) => { s.walked fn (s.fnb fn).ten.saveva.toNat with dirsDue := rest }

/-- The directories that are due are tried again. -/
def State.flushDirs (s : State) : State := s.dirsDue.foldl State.writeDir s

/-- Replaces a function's list of images, and writes its directory. -/
def State.setImages (s : State) (fn : Nat) (ims : List Image) : State :=
  (s.modFn fn (fun b => { b with images := ims })).writeDir fn

/-- The first place for an image of `size` units, in units; none where the area has none. -/
def State.imagePlace (s : State) (fn size : Nat) : Option Nat :=
  let used := (0, 16) :: (s.fnb fn).images.map (fun m => (m.off / 4096, m.size))
  let at_ := firstFit used size
  if at_ + size ≤ (s.fnb fn).ten.savesz.toNat then some at_ else none

/-- Sends one piece of an image that begins at a virtual address to its home, with its poison. -/
def State.imageWrite (fn va : Nat) (bad : List Nat) (s : State) (q : Nat × (Acced × List Byte)) : State :=
  let (id, s1) := s.newId
  let w : PWrite :=
    { acc := { frontAcc id fn q.2.1 q.2.2.length with va := va + 64 * q.1 }, kind := .copyUnit 0 0 q.2.2 (bad.contains q.1) }
  { s1 with writes := tset s1.writes id w }

/-- What a save needs: the cause, the place of the image, the places of its bytes. -/
structure SavePlan where
  cause : Nat
  unit  : Nat
  places : List (Acced × List Byte)
  image : Image

/-- A workgroup may be saved: halted for it, everything that it started settled, every registered byte landed (R375, R376), the array's
queue empty of its function's operations (R116). DEDUCED (assumption 49). -/
def State.savePlan (s : State) (core wid : Nat) : Option SavePlan :=
  match s.wg? wid with
  | none => none
  | some w =>
    match w.held with
    | some (.saving cause) =>
      if w.core = core ∧ !w.ended ∧ w.regBytes = 0 ∧ s.wgQuiet wid = true ∧ (s.core core).opq.any (fun o => o.fn == w.fn) = false then
        (match s.imagePlace w.fn w.imageSize with
         | none => none
         | some u =>
           let m : Image :=
             { off := 4096 * u, size := w.imageSize, cause := cause, launch := w.launch, since := s.now, signers := w.openSigners }
           match s.plainPlaces w.fn ((s.fnb w.fn).ten.saveva.toNat + m.off) (s.imageBytes wid w cause),
                 s.dirPlaces w.fn ((s.fnb w.fn).images ++ [m]) with
           | .ok ps, .ok _ => some { cause := cause, unit := u, places := ps, image := m }
           | _, _ => none)
      else none
    | _ => none

/-- Saves a workgroup and takes it off its core. -/
def State.saveWg (s : State) (core wid : Nat) : State :=
  match s.wg? wid, s.savePlan core wid with
  | some w, some p =>
    let bad := s.imagePoison w
    let s1 := ((upTo p.places.length).zip p.places).foldl (State.imageWrite w.fn ((s.fnb w.fn).ten.saveva.toNat + p.image.off) bad) s
    (((s1.setImages w.fn ((s.fnb w.fn).images ++ [p.image])).removeWg wid).unblock)
  | _, _ => s

/-! ### Freezing and the debugger: what the fault block reads (Table 14.4) -/

/-- A write that carries a piece of an image. -/
def PWrite.ofImage (w : PWrite) : Bool :=
  match w.kind with
  | .copyUnit 0 0 _ _ => w.acc.reply.isNone
  | _ => false

/-- The function's images, its directory and the stores and copies that its threads committed have all been written. -/
def State.fnSettled (s : State) (fn : Nat) : Bool :=
  !s.writes.any (fun w => w.2.acc.fn == fn && (w.2.acc.th.isSome || w.2.ofImage)) && !s.copies.any (fun c => c.2.fn == fn) &&
    !s.dirsDue.contains fn

/-- FROZEN: a freeze has completed and no thaw since. Once it reads 1 nothing but a thaw ends it. DEDUCED (assumption 147). -/
def State.frozen (s : State) (fn : Nat) : Bool :=
  let b := (s.fnb fn).fault
  b.freezing && (b.thawing || b.froze || (s.wgs.all (fun p => p.2.fn != fn || p.2.ended) && s.fnSettled fn))

/-- A launch whose debug halt is complete: its workgroups are saved and their images written. It stays so until DBGRES. -/
def State.debugHalted (s : State) (id : Nat) (l : Launch) : Bool :=
  let ms := s.imagesOf l.fn id
  let base := (s.fnb l.fn).ten.saveva.toNat
  l.debug && !ms.isEmpty && s.wgs.all (fun p => p.2.launch != id || p.2.ended) &&
    !s.writes.any (fun w => w.2.acc.fn == l.fn && w.2.ofImage &&
      ms.any (fun m => decide (base + m.off ≤ w.2.acc.va ∧ w.2.acc.va < base + m.off + 4096 * m.size)))

/-- DBGHALT: a launch is halted for the debugger, or its workgroups have not all re-entered. -/
def State.dbgHalt (s : State) (fn : Nat) : Bool :=
  s.launches.any (fun p => p.2.fn == fn &&
    (s.debugHalted p.1 p.2 || (!p.2.debug && (s.imagesOf fn p.1).any (fun m => m.cause == 2))))

/-! ### Re-entry (R381, R383, R384) -/

/-- The launch of an image, established again from its PACKET where this device does not hold it (R382), with the launch whose record
limits the image (R384). -/
inductive ImLaunch where
  | held (id : Nat) (l : Launch)
  | fresh (l lim : Launch)
  | refused
  | wait

def State.imageLaunch (s : State) (fn : Nat) (m : Image) (bs : List Byte) : ImLaunch :=
  match s.launch? m.launch with
  | some l => .held m.launch l
  | none =>
    match s.launchOf fn bs with
    | some (i, l) => .held i l
    | none =>
      let q := recVal bs 80 2
      let qidx : W32 := BitVec.ofNat 32 (recVal bs 84 4)
      if s.imageKind fn bs = .pool then
        (match (s.queue fn q).pool.bind s.launch? with
         | some h => .fresh (h.forDraw qidx.toNat (imNthr bs)) h
         | none => .wait)
      else match s.readLaunch fn q qidx (imPacket bs) with
        | .wait => .wait
        | .bad => .refused
        | .ok l =>
          match s.lease fn l.ranges with
          | .granted => .fresh { l with phase := .running, checked := true } l
          | _ => .wait

/-- Whether an image may re-enter now, by its cause: reclaimed ones while the function runs, ones of the debugger after DBGRES,
frozen ones at the thaw. -/
def State.mayReenter (s : State) (fn : Nat) (m : Image) : Bool :=
  let l := (s.imageOwner fn m).bind s.launch?
  let going := match l with | some x => !x.ending && !x.debug | none => true
  going && (if m.cause = 3 then (s.fnb fn).fault.thawing else !s.stopped fn)

/-- A core that can take an image of these needs (R339, R383). -/
def State.coreTakes (s : State) (fn : Nat) (n : Needs) (c : Nat) : Bool :=
  (s.isHome fn (clusterOf c) || ((s.fnb fn).ten.borrow && s.lent (clusterOf c) && s.saveRoom fn 0 none)) && s.fits c fn n

/-- The core that re-entry is to use: that of the launch position when it has room, else any other with room. -/
def State.reentryCore (s : State) (fn : Nat) (n : Needs) (home core : Nat) : Bool :=
  if s.coreTakes fn n home then core == home else s.coreTakes fn n core

/-- The groups of an image: threads of one GROUP, STATE, program counter and quadrant. -/
def savedGroups (ts : List (Nat × SavedThread)) : List (Nat × Nat × W64 × Nat) :=
  dedup' ((ts.filter (fun p => decide (p.2.st ≤ 2))).map (fun p => (p.2.grp, p.2.st, p.2.pc, p.1 / 32 % 4)))

/-- Forms one group of an image. -/
def State.formSaved (s : State) (core wid : Nat) (ts : List (Nat × SavedThread)) (k : Nat × Nat × W64 × Nat) : State :=
  let mine := ts.filter (fun p => (p.2.grp, p.2.st, p.2.pc, p.1 / 32 % 4) == k)
  let wake := mine.foldl (fun m p => max m p.2.wake) 0
  let id := s.nextId
  let s1 := s.formGroup core wid k.1 k.2.2.1 (mine.map Prod.fst)
  if k.2.1 = 1 then s1.modGroup id (fun g => { g with
      place := s1.pendingPlace core k.2.2.2, wait := .sleep (s.now + BitVec.ofNat 64 wake) [] })
  else s1

/-- Files a thread of STATE 3 again; without a bin it goes on as a group. DEDUCED (assumption 58). -/
def State.fileSaved (core wid : Nat) (s : State) (p : Nat × SavedThread) : State :=
  let quad := p.1 / 32 % 4
  let rfage := match s.wg? wid with | some w => w.rfage | none => 64
  match (s.core core).binFor quad wid p.2.pc with
  | none => s.formGroup core wid p.2.grp p.2.pc [p.1]
  | some key =>
    let e : BinEnt := { tid := p.1, cyc := s.cycles, thr := rfage, time := s.now }
    let old := match tget? (s.core core).bins key with | some b => b.ents | none => []
    let s1 := s.modCore core (fun c => { c with bins := tset c.bins key { wg := wid, pc := p.2.pc, ents := old ++ [e] } })
    (s1.modThread ⟨wid, p.1⟩ (fun th => { th with st := .binned })).fullDraw core quad key

/-- The threads of an image, those that DBGRES 1 resumes past their trap standing after it (R368). -/
def savedList (bs : List Byte) (l : Launch) : List (Nat × SavedThread) :=
  let ts := savedThreads bs
  ((upTo ts.length).zip ts).map (fun (p : Nat × SavedThread) =>
    if l.skips.contains (recVal bs 88 4, p.1) then (p.1, { p.2 with pc := nextPc p.2.pc }) else p)

/-- The threads of a gang's workgroup with their places in the roles of its launch (R297, R298). -/
def Launch.withRoles (l : Launch) (w : Wg) : Wg :=
  { w with threads := w.threads.map (fun (p : Nat × Thread) =>
      match roleOf l.roles 0 (p.1 / 32) with
      | some (i, k, r) => (p.1, { p.2 with role := i, rgrp := k, rgrps := r.groups })
      | none => p) }

/-- Puts a checked image's workgroup on a core; one that is idle in a graph whose sink has completed ends at once (R288). -/
def State.enterImage (s : State) (fn id : Nat) (l : Launch) (m : Image) (bs : List Byte) (core : Nat) : State :=
  let alone := !s.wgs.any (fun p => p.2.core == core && p.2.fn == fn)
  let (wid, s1) := s.placeWg (fun gen base => (l.withRoles (savedWg bs fn id l.kind core gen base)).oweSigners m.signers)
  let sbase := match s1.wg? wid with | some w => w.sbase | none => 0
  let s2 := s1.scrPut core sbase ((bs.drop (imScrAt bs)).take (imScratch bs)) false
  let s3 := if alone then s2.modCore core (fun c => c.setPlanes fn (savedPlane bs 0, savedPlane bs 1)) else s2
  let ts := savedList bs l
  let s4 := (savedGroups ts).foldl (fun t k => t.formSaved core wid ts k) s3
  let s5 := ((ts.filter (fun p => p.2.st == 3)).foldl (State.fileSaved core wid) s4).modLaunch id (fun l =>
    { l with skips := l.skips.filter (fun k => k.1 != recVal bs 88 4) })
  if l.sinkDone then s5.endIdle id else s5

/-- The image leaves the save area; the last frozen one ends the thaw. -/
def State.dropImage (s : State) (fn off : Nat) : State :=
  let ims := (s.fnb fn).images.filter (fun m => m.off != off)
  let froze := s.frozen fn
  let s1 := (s.modFn fn (fun b => { b with fault := { b.fault with froze := froze } })).setImages fn ims
  if ims.any (fun m => m.cause == 3) then s1
  else s1.modFn fn (fun b =>
    if b.fault.thawing then { b with fault := { b.fault with freezing := false, thawing := false, froze := false } } else b)

/-- A refused image: its task ends with class 0x16, the record naming no core (R384). DEDUCED (assumption 55). -/
def State.refuseImage (s : State) (fn : Nat) (m : Image) (id : Option Nat) (bs : List Byte) (chk : Nat) (tid : Option Nat) : State :=
  let named := chk ≠ 1
  let pc : W64 := match tid with | some i => BitVec.ofNat 64 (recVal bs (imThreads + 64 * i) 8) | none => 0#64
  let f : FaultInfo :=
    { cls := 0x16, sub := chk, pc := pc, wg := if named then BitVec.ofNat 32 (recVal bs 88 4) else 0#32, tid := tid.getD 0 }
  let s1 := s.faultRecord fn (faultBytes f (if named then recVal bs 80 2 else 0)
    (if named then BitVec.ofNat 32 (recVal bs 84 4) else 0#32) s.now)
  let s2 := (match id with
    | some i => s1.modLaunch i (fun l => { l with ending := true })
    | none => s1)
  s2.dropImage fn m.off

/-- The launch of an image that this device already holds. -/
def State.heldLaunch (s : State) (fn : Nat) (m : Image) (bs : List Byte) : Option Nat :=
  if (s.launch? m.launch).isSome then some m.launch else (s.launchOf fn bs).map Prod.fst

/-- The front end has read an image. -/
def State.sawImage (s : State) (fn : Nat) (m : Image) : State :=
  s.frontSaw fn ((s.fnb fn).ten.saveva.toNat + m.off) (4096 * m.size)

/-- The header of an image that cannot be read whole, where it reads and passes check 1 (R384); empty otherwise. -/
def State.imageHead (s : State) (fn : Nat) (m : Image) : List Byte :=
  match s.frontRead fn ((s.fnb fn).ten.saveva.toNat + m.off) 256 with
  | .bytes bs => if recVal bs 0 4 = imMagic ∧ recVal bs 4 1 = imLevel ∧ recVal bs 8 4 = m.size then bs else []
  | _ => []

/-- The launch of an image that cannot be established again: the task that ends with class 0x16 (R384). -/
def State.strayLaunch (s : State) (fn : Nat) (bs : List Byte) : Launch :=
  { fn := fn, queue := recVal bs 80 2, qidx := BitVec.ofNat 32 (recVal bs 84 4), kind := s.imageKind fn bs, packet := imPacket bs,
    lrec := [], phase := .running, checked := true, depth := pktDepth (imPacket bs) }

/-- Ends the task of a refused image under a number of its own where this device does not hold it, so that its other images leave with
it. -/
def State.refuseNew (s : State) (fn : Nat) (m : Image) (l : Launch) (bs : List Byte) (chk : Nat) (tid : Option Nat) : State :=
  let (i, s1) := s.newId
  (s1.setLaunch i l).refuseImage fn m (some i) bs chk tid

/-- The re-entry of image `idx` of a function on a core; none where it cannot take place now. DEDUCED (assumption 56). -/
def State.reenter (s : State) (fn idx core : Nat) : Option State :=
  match (s.fnb fn).images[idx]? with
  | none => none
  | some m =>
    if !s.mayReenter fn m then none
    else match s.frontRead fn ((s.fnb fn).ten.saveva.toNat + m.off) (4096 * m.size) with
      | .wait => none
      | .unreadable =>
        let bs := s.imageHead fn m
        let s1 := s.sawImage fn m
        (match s.imageOwner fn m with
         | some i => some (s1.refuseImage fn m (some i) bs 8 none)
         | none => if bs.isEmpty then some (s1.refuseImage fn m none bs 8 none)
           else some (s1.refuseNew fn m (s.strayLaunch fn bs) bs 8 none))
      | .bytes bs =>
        if check1 bs m.size then some ((s.sawImage fn m).refuseImage fn m (s.heldLaunch fn m bs) bs 1 none)
        else
          let go (id : Option Nat) (l lim : Launch) : Option State :=
            match imageCheck bs m.size lim (decide (s.boot.service ≠ 1)) with
            | some (n, t) =>
              (match id with
               | some i => some ((s.sawImage fn m).refuseImage fn m (some i) bs n t)
               | none => some ((s.sawImage fn m).refuseNew fn m l bs n t))
            | none =>
              let w := savedWg bs fn 0 l.kind core 0 0
              if s.reentryCore fn w.needs (imHome bs) core then
                (match id with
                 | some i => some (((s.sawImage fn m).enterImage fn i l m bs core).dropImage fn m.off)
                 | none =>
                   let (i, s1) := (s.sawImage fn m).newId
                   some (((s1.setLaunch i l).enterImage fn i l m bs core).dropImage fn m.off))
              else none
          match s.imageLaunch fn m bs with
          | .wait => none
          | .refused => some ((s.sawImage fn m).refuseNew fn m (s.strayLaunch fn bs) bs 8 none)
          | .held i l => go (some i) l l
          | .fresh l lim => go none l lim

/-! ### Freezing and thawing (R382) -/

/-- The write of FREEZE: dispatch stops, reservations are cancelled, every resident workgroup is to be saved. -/
def State.freeze (s : State) (fn : Nat) : State :=
  let b := (s.fnb fn).fault
  if b.freezing || b.thawing then s
  else
    let ids := (s.wgs.filter (fun p => p.2.fn == fn && !p.2.ended)).map Prod.fst
    let s1 := s.modFn fn (fun b => { b with fault := { b.fault with freezing := true, thawHeld := false, froze := false } })
    { s1 with
      launches := s1.launches.map (fun (p : Nat × Launch) =>
        (p.1, if p.2.fn = fn ∧ p.2.phase = .reserving then { p.2 with toCancel := p.2.asked } else p.2))
      halts := if ids.isEmpty then s1.halts else s1.halts ++ [.wgs ids (.saving 3)] }

/-- The directory as the thaw reads it. -/
inductive DirRes where
  | images (ims : List Image)
  | unreadable
  | wait

/-- The images that a directory lists, each with what this device remembers of it. DEDUCED (assumption 53).
DEDUCED (assumption 54). -/
def State.readDir (s : State) (fn : Nat) : DirRes :=
  let a := (s.fnb fn).ten.saveva.toNat
  match s.frontRead fn a 64 with
  | .wait => .wait
  | .unreadable => .unreadable
  | .bytes h =>
    let n := recVal h 0 4
    if 4092 < n then .unreadable
    else match s.frontRead fn (a + 64) (16 * n) with
      | .wait => .wait
      | .unreadable => .unreadable
      | .bytes bs =>
        .images ((upTo n).map (fun i =>
          let off := recVal bs (16 * i) 8
          let old := (s.fnb fn).images.find? (fun m => m.off == off)
          { off := off, size := recVal bs (16 * i + 8) 4, cause := 3,
            launch := (match old with | some m => m.launch | none => 0), since := s.now,
            signers := (match old with | some m => m.signers | none => []) }))

/-- A thaw takes effect: every listed image is to re-enter; an unreadable directory leaves everything as it was but for its fault
record. None while the read of the directory waits. -/
def State.thawNow (s : State) (fn : Nat) : Option State :=
  match s.readDir fn with
  | .wait => none
  | .unreadable =>
    some (((s.frontSaw fn (s.fnb fn).ten.saveva.toNat 64).faultRecord fn (faultBytes { cls := 0x16, sub := 8 } 0 0#32 s.now)).modFn fn (fun b =>
      { b with fault := { b.fault with thawHeld := false } }))
  | .images ims =>
    let s1 := (s.frontSaw fn (s.fnb fn).ten.saveva.toNat (64 + 16 * ims.length)).modFn fn (fun b => { b with
      images := ims,
      fault := { b.fault with thawHeld := false, freezing := b.fault.freezing && !ims.isEmpty, thawing := !ims.isEmpty } })
    some { s1 with launches := s1.launches.map (fun (p : Nat × Launch) => (p.1, if p.2.fn = fn then { p.2 with debug := false } else p.2)) }

/-- The write of THAW: held while a freeze is in progress. DEDUCED (assumption 52). -/
def State.thaw (s : State) (fn : Nat) : Option State :=
  if (s.fnb fn).fault.thawing then some s
  else if (s.fnb fn).fault.freezing && !s.frozen fn then
    some (s.modFn fn (fun b => { b with fault := { b.fault with thawHeld := true } }))
  else s.thawNow fn

/-! ### DBGRES (R368) -/

/-- DBGRES: every launch of the function that is halted for the debugger resumes, or its task ends. DEDUCED (assumption 74). -/
def State.dbgRes (s : State) (fn : Nat) (go : Bool) : State :=
  { s with launches := s.launches.map (fun (p : Nat × Launch) =>
      (p.1, if p.2.fn = fn ∧ s.debugHalted p.1 p.2 = true then
          (if go then { p.2 with debug := false } else { p.2 with debug := false, ending := true })
        else p.2)) }

/-! ### The end of a task (R369) -/

/-- A workgroup of an ended task: its groups are gone, its uncommitted regions discarded (no region that pre-emption discards:
R390), its threads ended. -/
def State.discardWg (s : State) (wid : Nat) : State :=
  match s.wg? wid with
  | none => s
  | some w =>
    let s1 := (s.groupsOf wid).foldl (fun t q => t.dropGroup q.1) s
    let s2 := s1.modCore w.core (fun c => { c with bins := c.bins.filter (fun b => b.2.wg != wid) })
    s2.modWg wid (fun v => { v with
      threads := (upTo v.nthr).foldl (fun m i => tset m i { v.thread i with st := .ended }) v.threads,
      ended := true, conv := [], task := none, held := none })

/-- STATUS of an ended task: KILLED of a killed one, what has been set, else FAULT. -/
def Launch.endStatus (l : Launch) : Nat := if l.killed then csKilled else if l.status ≠ csOk then l.status else csFault

/-- TASK_END: halts every workgroup of the task and discards its work, its images, its unfilled shading entries and its deferred
children. -/
def State.endTask (s : State) (id : Nat) : State :=
  match s.launch? id with
  | none => s
  | some l =>
    let s1 := (s.wgsOf id).foldl State.discardWg s
    let s2 := (s.imagesOf l.fn id).foldl (fun t m => t.dropImage l.fn m.off) s1
    let s3 := { s2 with deferred := s2.deferred.filter (fun p => p.2.parent != id) }.dropStarted id
    s3.modLaunch id (fun x => { x with endDone := true, ready := [], debug := false, status := x.endStatus })

/-- TASK_END is due. -/
def State.mayEndTask (s : State) (id : Nat) : Bool :=
  match s.launch? id with
  | some l => l.phase == .running && l.ending && !l.endDone
  | none => false

/-! ### The watchdog (R372) -/

/-- The program counter of a thread after a halt. -/
def State.haltPc (s : State) (wid : Nat) (w : Wg) (tid : Nat) : W64 := (s.threadState wid w tid).2.1

/-- A launch's watchdog has expired. -/
def State.wdogDue (s : State) (id : Nat) : Bool :=
  match s.launch? id with
  | some l => l.phase == .running && l.kind != .pool && !l.ending && decide ((s.fnb l.fn).fault.wdog ≠ 0#32) &&
      decide ((s.fnb l.fn).fault.wdog.toNat * 1000000 ≤ l.ran)
  | none => false

/-- The lowest-numbered workgroup of a launch that is still resident. -/
def State.lowestWg (s : State) (id : Nat) : Option (Nat × Wg) :=
  (s.wgs.filter (fun p => p.2.launch == id && !p.2.ended)).foldl (fun b p =>
    match b with
    | some q => if p.2.g < q.2.g then some p else some q
    | none => some p) none

/-- The expiry of a watchdog ends the task with class 0x14. -/
def State.wdogFires (s : State) (id : Nat) : State :=
  match s.lowestWg id with
  | none => s.taskFault id { cls := 0x14 }
  | some (wid, w) =>
    let tid := ((upTo w.nthr).find? (fun i => (w.thread i).st != .ended)).getD 0
    s.taskFault id
      { cls := 0x14, pc := s.haltPc wid w tid, core := some w.core, wg := BitVec.ofNat 32 w.g, tid := tid }

/-! ### The meanings -/

/-- A function that exists. -/
def fnNamed (fn : Nat) : Bool := decide (fn < Config.numFns)

/-- HALT (R373, R374). -/
def execHalt (req : Nat) (s : State) : Host.Outcome State Fault Refusal :=
  runEvent "HALT" (fun t => match t.halts[req]? with | some r => t.mayHalt r | none => false) (fun t => t.haltAll req) s
/-- CONTEXT_SAVE (R375, R376, R382). -/
def execContextSave (core wg : Nat) (s : State) : Host.Outcome State Fault Refusal :=
  runEvent "CONTEXT_SAVE" (fun t => (t.savePlan core wg).isSome) (fun t => t.saveWg core wg) s
/-- CONTEXT_REENTRY (R383, R384). -/
def execContextReentry (fn idx core : Nat) (s : State) : Host.Outcome State Fault Refusal :=
  runEvent "CONTEXT_REENTRY" (fun t => (t.reenter fn idx core).isSome) (fun t => (t.reenter fn idx core).getD t) s
/-- FREEZE (R382): taken in between commits of the function. DEDUCED (assumption 51). -/
def execFreeze (fn : Nat) (s : State) : Host.Outcome State Fault Refusal :=
  runEvent "FREEZE" (fun t => fnNamed fn && !t.launches.any (fun p => p.2.fn == fn && p.2.phase == .committing))
    (fun t => t.freeze fn) s
/-- THAW (R382). A thaw that was held takes effect in a further THAW, once FROZEN reads 1. -/
def execThaw (fn : Nat) (s : State) : Host.Outcome State Fault Refusal :=
  runEvent "THAW" (fun t => fnNamed fn && (t.thaw fn).isSome) (fun t => (t.thaw fn).getD t) s
/-- DEBUG_RESUME (R368): ignored unless DBGHALT is 1. -/
def execDebugResume (fn : Nat) (s : State) : Host.Outcome State Fault Refusal :=
  runEvent "DEBUG_RESUME" (fun _ => fnNamed fn) (fun t => if t.dbgHalt fn then t.dbgRes fn true else t) s
/-- DEBUG_END (R368): ignored unless DBGHALT is 1. -/
def execDebugEnd (fn : Nat) (s : State) : Host.Outcome State Fault Refusal :=
  runEvent "DEBUG_END" (fun _ => fnNamed fn) (fun t => if t.dbgHalt fn then t.dbgRes fn false else t) s
/-- TASK_END (R369). -/
def execTaskEnd (l : Nat) (s : State) : Host.Outcome State Fault Refusal :=
  runEvent "TASK_END" (fun t => t.mayEndTask l) (fun t => t.endTask l) s
/-- WATCHDOG (R372). -/
def execWatchdog (l : Nat) (s : State) : Host.Outcome State Fault Refusal :=
  runEvent "WATCHDOG" (fun t => t.wdogDue l) (fun t => t.wdogFires l) s
/-- FLOGBASE_WRITE (R370, R371): ignored while the function has a resident launch. DEDUCED (assumption 61). -/
def execFlogbaseWrite (fn : Nat) (val : W64) (s : State) : Host.Outcome State Fault Refusal :=
  runEvent "FLOGBASE_WRITE" (fun _ => fnNamed fn)
    (fun t => if t.wgs.any (fun p => p.2.fn == fn) then t
      else t.modFn fn (fun b => { b with fault := { b.fault with flogbase := val &&& ~~~ 0xFFF#64, flogwr := 0#32 } })) s

end Sys2Proof.Machine
end

