-- ==== Sys2Proof/Machine/Cross.lean ====
section
/-! DEFINITION. Cross-lane instructions, class 0x6 (R251 to R259). -/

namespace Sys2Proof.Machine

/-! ### Segments and participants (R251) -/

/-- Width of a segment: 2^WID. -/
def segWidth (wid : Nat) : Nat := 2 ^ wid
/-- First lane of the segment of a lane. -/
def segBase (lane w : Nat) : Nat := lane / w * w

/-- The participants: the group's threads whose guard is true, each as a lane. -/
def Ctx.parts (x : Ctx) : List Lane := x.active.map (fun p => ⟨x, p.1, p.2⟩)
/-- The home lane. -/
def Lane.lane (l : Lane) : Nat := laneOf l.tid
/-- The participant at a lane. -/
def Ctx.partAt (x : Ctx) (i : Nat) : Option Lane := x.parts.find? (fun l => l.lane == i)
/-- The participants of the segment that starts at lane `s`. -/
def Ctx.seg (x : Ctx) (s w : Nat) : List Lane := x.parts.filter (fun l => decide (s ≤ l.lane ∧ l.lane < s + w))

/-- WID and QP as `shfl`, `push`, `vote` and `match` hold them. -/
def wid2 (w : TWord) : Nat := segWidth (mdF w 2 3)
def fQP (w : TWord) : Nat := mdF w 5 3
/-- WID as `xred` and `xscan` hold it. -/
def wid4 (w : TWord) : Nat := segWidth (mdF w 4 3)

/-! ### `shfl` and `push` (R254, R255) -/

/-- The source lane of `shfl`; none when it is invalid. -/
def shflFrom (mode lane w b : Nat) : Option Nat :=
  let s := segBase lane w
  match mode with
  | 0 => some (s + b % w)
  | 1 => if lane < s + b then none else some (lane - b)
  | 2 => if lane + b ≥ s + w then none else some (lane + b)
  | _ => some (lane ^^^ (b % w))

/-- The tag of A, copied. -/
def ownTag (l : Lane) : Nat := l.srcTag l.x.w.a

def shflDef (w : TWord) : AluDef :=
  { eval := fun l =>
      if l.req w.b 1 tINT then
        (match (shflFrom (mdF w 0 2) l.lane (wid2 w) l.b.toNat).bind l.x.partAt with
         | some k => .ok { vals := [k.a], tag := ownTag k, preds := [(fQP w, true)] }
         | none => .ok { vals := [0#32], tag := ownTag l, preds := [(fQP w, false)] })
      else .error .format
    ztag := ownTag, preds := [fQP w] }

/-- The lane a sender of `push` names. -/
def pushTo (w : TWord) (l : Lane) : Nat := segBase l.lane (wid2 w) + l.b.toNat % wid2 w

/-- The sender with the highest home lane among those that name lane `i`. -/
def pushFrom (w : TWord) (x : Ctx) (i : Nat) : Option Lane :=
  x.parts.foldl (fun b l =>
    if pushTo w l = i then
      (match b with
       | some k => if k.lane < l.lane then some l else some k
       | none => some l)
    else b) none

def pushDef (w : TWord) : AluDef :=
  { eval := fun l =>
      if l.req w.b 1 tINT then
        (match pushFrom w l.x l.lane with
         | some k => .ok { vals := [k.a], tag := ownTag k, preds := [(fQP w, true)] }
         | none => .ok { vals := [0#32], tag := ownTag l, preds := [(fQP w, false)] })
      else .error .format
    ztag := ownTag, preds := [fQP w] }

/-! ### `vote` and `match` (R256, R257) -/

/-- The mask of the participants of a segment for which `f` holds, by home lane. -/
def laneMask (ls : List Lane) (f : Lane → Bool) : Nat :=
  ofBits 32 (fun i => ls.any (fun l => l.lane == i && f l))

/-- D and P[QP] of `vote`. -/
def voteVal (w : TWord) (l : Lane) : Nat × Bool :=
  let ls := l.x.seg (segBase l.lane (wid2 w)) (wid2 w)
  let p (k : Lane) : Bool := k.th.pred w.a.toNat
  let one (b : Bool) : Nat × Bool := (if b then 1 else 0, b)
  match mdF w 0 2 with
  | 0 => one (ls.all p)
  | 1 => one (ls.any p)
  | 2 => let m := laneMask ls p; (m, m != 0)
  | _ => one (ls.all p || ls.all (fun k => !p k))

def voteDef (w : TWord) : AluDef :=
  { eval := fun l => .ok { vals := [BitVec.ofNat 32 (voteVal w l).1], tag := 2, preds := [(fQP w, (voteVal w l).2)] }
    ztag := fun _ => 2, preds := [fQP w] }

/-- D and P[QP] of `match`. MODE 0 writes no predicate: its QP is 7. -/
def matchVal (w : TWord) (l : Lane) : Nat × Bool :=
  let ls := l.x.seg (segBase l.lane (wid2 w)) (wid2 w)
  let m := laneMask ls (fun k => k.a == l.a)
  if mdF w 0 2 = 0 then (m, true)
  else if ls.all (fun k => k.a == l.a) then (m, true) else (0, false)

def matchDef (w : TWord) : AluDef :=
  { eval := fun l => .ok { vals := [BitVec.ofNat 32 (matchVal w l).1], tag := 2, preds := [(fQP w, (matchVal w l).2)] }
    ztag := fun _ => 2, preds := [fQP w] }

/-! ### `xred` and `xscan` (R258, R259) -/

/-- The tag set of A (Table 9.7). -/
def xReq (op : Nat) : Nat → Bool := if op < 8 then tINT else isF32
/-- The result tag. -/
def xTag (op : Nat) (own : Nat) : Nat := if op < 4 then own else if op < 6 then 1 else if op < 8 then 2 else 3
/-- The exclusive identity. -/
def xIdentity (op : Nat) : W32 :=
  match op with
  | 1 => 0xFFFFFFFF#32
  | 4 => 0x7FFFFFFF#32
  | 5 => 0x80000000#32
  | 6 => 0xFFFFFFFF#32
  | 8 => 0x80000000#32
  | 9 => 0x7F800000#32
  | 10 => 0xFF800000#32
  | _ => 0#32

/-- One combination, with the flags it raises (Table 9.7); the floating ones round under RNE and flush nothing. -/
def xCombine (op : Nat) (ovf : BitVec 128) (a b : W32) : W32 × Sticky :=
  let fp (r : Nat × Sticky) : W32 × Sticky := (BitVec.ofNat 32 r.1, r.2)
  match op with
  | 0 => (a + b, 0#5)
  | 1 => (a &&& b, 0#5)
  | 2 => (a ||| b, 0#5)
  | 3 => (a ^^^ b, 0#5)
  | 4 => (if b.slt a then b else a, 0#5)
  | 5 => (if a.slt b then b else a, 0#5)
  | 6 => (if b.ult a then b else a, 0#5)
  | 7 => (if a.ult b then b else a, 0#5)
  | 8 =>
    let r := fpArith f32F 3 false .add false ⟨1, false, false, ovf⟩ ⟨1#32, 0#5⟩ a.toNat b.toNat 0
    fp (r.1, r.2.flags)
  | 9 => fp (fpMinMax f32F false false a.toNat b.toNat)
  | _ => fp (fpMinMax f32F true false a.toNat b.toNat)

/-- One level of the tree of `xred`: lanes at multiples of 2k take in the value k above them. -/
def treeLevel (op : Nat) (ovf : BitVec 128) (k : Nat) (r : List (Option W32) × Sticky) : List (Option W32) × Sticky :=
  (upTo r.1.length).foldl (fun acc i =>
    if i % (2 * k) = 0 then
      (match (acc.1[i]?).join, (acc.1[i + k]?).join with
       | some a, some b =>
         let c := xCombine op ovf a b
         (acc.1.set i (some c.1), acc.2 ||| c.2)
       | none, some b => (acc.1.set i (some b), acc.2)
       | _, none => acc)
    else acc) r

/-- The tree over the values of a segment, its flags included. -/
def treeFold (op : Nat) (ovf : BitVec 128) (xs : List (Option W32)) : List (Option W32) × Sticky :=
  [1, 2, 4, 8, 16].foldl (fun r k => if k < xs.length then treeLevel op ovf k r else r) (xs, 0#5)

/-- The values of a segment's lanes: absent lanes hold nothing. -/
def segVals (x : Ctx) (s w : Nat) : List (Option W32) := (spanN s w).map (fun i => (x.partAt i).map Lane.a)

def xredDef (w : TWord) : AluDef :=
  let op := mdF w 0 4
  { eval := fun l =>
      if l.req w.a 1 (xReq op) then
        let r := treeFold op l.x.wg.ovf (segVals l.x (segBase l.lane (wid4 w)) (wid4 w))
        .ok { vals := [((r.1[0]?).join).getD 0#32], tag := xTag op (ownTag l), flags := r.2 }
      else .error .format
    ztag := fun l => xTag op (ownTag l) }

/-- The running combination over the participants from the lowest upward: the value of each participant's scan and the flags
of the steps made. `excl` is EXCL: the value at a participant excludes its own, and the highest participant's value is
combined into nothing. -/
def scanFold (op : Nat) (ovf : BitVec 128) (excl : Bool) : Option W32 → List (Nat × W32) → List (Nat × W32) × Sticky
  | _, [] => ([], 0#5)
  | acc, (i, a) :: ps =>
    let inc : W32 × Sticky := match acc with
      | none => (a, 0#5)
      | some v => xCombine op ovf v a
    if excl then
      let out := match acc with
        | none => xIdentity op
        | some v => v
      if ps.isEmpty then ([(i, out)], 0#5)
      else
        let r := scanFold op ovf excl (some inc.1) ps
        ((i, out) :: r.1, inc.2 ||| r.2)
    else
      let r := scanFold op ovf excl (some inc.1) ps
      ((i, inc.1) :: r.1, inc.2 ||| r.2)

/-- The participants of a segment by rising lane, with their values. -/
def segParts (x : Ctx) (s w : Nat) : List (Nat × W32) :=
  (spanN s w).filterMap (fun i => (x.partAt i).map (fun l => (i, l.a)))

def xscanDef (w : TWord) : AluDef :=
  let op := mdF w 0 4
  { eval := fun l =>
      if l.req w.a 1 (xReq op) then
        let r := scanFold op l.x.wg.ovf (mdB w 7) none (segParts l.x (segBase l.lane (wid4 w)) (wid4 w))
        .ok { vals := [((r.1.find? (fun p => p.1 == l.lane)).map Prod.snd).getD 0#32], tag := xTag op (ownTag l), flags := r.2 }
      else .error .format
    ztag := fun l => xTag op (ownTag l) }

/-! ### The meanings -/

def execShfl (w : TWord) (s : State) : Host.Outcome State Fault Refusal :=
  runThrum (sigShfl w) w (extraKeys [fQP w]) (aluBody (shflDef w)) s
def execPush (w : TWord) (s : State) : Host.Outcome State Fault Refusal :=
  runThrum (sigPush w) w (extraKeys [fQP w]) (aluBody (pushDef w)) s
def execVote (w : TWord) (s : State) : Host.Outcome State Fault Refusal :=
  runThrum (sigVote w) w (extraKeys [fQP w]) (aluBody (voteDef w)) s
def execMatchOp (w : TWord) (s : State) : Host.Outcome State Fault Refusal :=
  runThrum (sigMatch w) w (extraKeys [fQP w]) (aluBody (matchDef w)) s
def execXred (w : TWord) (s : State) : Host.Outcome State Fault Refusal :=
  runThrum (sigXred w) w [] (aluBody (xredDef w)) s
def execXscan (w : TWord) (s : State) : Host.Outcome State Fault Refusal :=
  runThrum (sigXscan w) w [] (aluBody (xscanDef w)) s

end Sys2Proof.Machine
end

