-- ==== Sys2Proof/Machine/Launch.lean ====
section
/-! DEFINITION. Launch instructions, class 0xD (R294 to R298). -/

namespace Sys2Proof.Machine

/-! ### `launch` (R292, R295) -/

/-- The packet with a nesting depth. -/
def pktWithDepth (bs : List Byte) (d : Nat) : List Byte :=
  let w := recVal bs 0 4
  leBytes 4 (w - fieldN w 6 5 * 64 + d % 32 * 64) ++ bs.drop 4

/-- The checks on a thread's packet offset. -/
def Ctx.launchOffset (x : Ctx) (p : Nat × Thread) : Answer Unit :=
  let a := (x.src p x.w.a).toNat
  if !tagOk p.2 x.w.a 1 tINT || !tagOk p.2 x.w.b 1 tINT then .trap rkTag clsFormat 0
  else if a % 64 ≠ 0 then .trap rkAlign clsAlign a
  else if x.wg.ssize < a + 64 then .fault rkAllow a clsPerm 0
  else .ok ()

/-- The image that a thread launches, and its queue: read once the thread's earlier accesses have performed (R293). -/
def Ctx.launchImage (x : Ctx) (s : State) (p : Nat × Thread) : Answer (Nat × List Byte) :=
  let bs := s.scrRead x.g.core (x.wg.sbase + (x.src p x.w.a).toNat) 64
  let q := (x.src p x.w.b).toNat
  let y := s.queue x.wg.fn q
  if s.scrIsPois x.g.core (x.wg.sbase + (x.src p x.w.a).toNat) 64 then .fault rkRead (x.src p x.w.a).toNat clsPoison 0
  else if queuesOf x.wg.fn ≤ q ∨ !y.en ∨ y.type ≠ 1 then .trap rkRecord clsRecord 0
  else if pktKind bs = 0 ∨ 3 < pktKind bs ∨ pktReserved bs = true then .trap rkRecord clsRecord 0
  else .ok (q, bs)

/-- Places taken in the pending-launch pool by a function. -/
def State.placesOf (s : State) (fn : Nat) : Nat := (s.deferred.filter (fun d => d.2.fn == fn)).length

/-- A launch from this workgroup takes no place (R292). -/
def State.launchFails (s : State) (w : Wg) : Bool :=
  decide (Config.pendingPool ≤ s.deferred.length) || decide ((s.fnb w.fn).ten.lpshare ≤ s.placesOf w.fn) ||
    decide (24 ≤ w.depth)

/-- One thread's launch. -/
def Ctx.launchOne (x : Ctx) (ins : Nat) (s : State) (q : Nat × Nat × List Byte) : State :=
  let answer (b : Bool) (t : State) : State := t.modThread (x.ref q.1) (fun th => th.setPred x.w.d.toNat b)
  if s.launchFails x.wg then answer false s
  else
    let (id, s1) := s.newId
    let d : Deferred :=
      { fn := x.wg.fn, queue := q.2.1, image := pktWithDepth q.2.2 (x.wg.depth + 1), parent := x.wg.launch, thread := x.ref q.1,
        ins := ins }
    answer true (({ s1 with deferred := tset s1.deferred id d }).modLaunch x.wg.launch (fun l => { l with nchild := l.nchild + 1 }))

/-- `launch`: the thread's earlier accesses perform first, since it is a release (R293). -/
def launchBody (x : Ctx) (s : State) : Res :=
  x.settle s (x.answers s (fun _ => x.launchOffset)) (fun _ =>
    x.waitDone s State.allDone (fun t =>
      x.settle t (x.answers t x.launchImage) (fun qs => .ok (qs.foldl (x.launchOne t.nextId) t))))

/-! ### `tdone`, `sigdec` and `role` (R296 to R298) -/

/-- `tdone`: the executing threads are done with the workgroup's task. -/
def tdoneBody (x : Ctx) (s : State) : Res :=
  let ts := x.active.map Prod.fst
  x.boundary s x.next (fun t =>
    if ts.isEmpty then .ok t
    else match (x.updateActive t (fun _ th => { th with st := .tdone, rpc := x.next })).taskSettle x.wid with
      | some u => .jump ((u.modGroup x.gid (fun g => { g with pc := x.next })).loseThreads x.gid ts)
      | none => .stall)

/-- `sigdec`: the address is the pair A alone. -/
def sigdecBody (x : Ctx) (s : State) : Res :=
  let y : Ctx := { x with w := { x.w with b := fZero } }
  let m : Mode := { scr := false, wide := true }
  match y.causes (y.accCause m 8 (fun p => tagOk p.2 x.w.b 1 tINT)) with
  | some t => .trap t
  | none => y.rmw s m 8 (fun rs t =>
      .ok (rs.foldl (y.startWrite 8 .release (fun r => .sigdec (x.src (r.tid, r.th) x.w.b) (destOf x.w.d))) t))

/-- The role word of a thread (R298). -/
def Lane.roleWord (l : Lane) : Nat :=
  if l.x.wg.kind = .gang then l.th.role % 8 + 256 * (l.th.rgrp % 256) + 2 ^ 16 * (l.th.rgrps % 256)
  else 256 * (l.tid / 32 % 256) + 2 ^ 16 * ((l.x.wg.nthr + 31) / 32 % 256)

def roleDef : AluDef := plainAlu 1 (fun _ => true) (fun _ => 2) (fun l => [BitVec.ofNat 32 l.roleWord])

/-- `role` is a region boundary (R294). -/
def roleBody (x : Ctx) (s : State) : Res := x.boundary s x.next (aluBody roleDef x)

/-! ### The meanings -/

def execLaunch (w : TWord) (s : State) : Host.Outcome State Fault Refusal := runThrum (sigLaunch w) w [] launchBody s
def execTdone (w : TWord) (s : State) : Host.Outcome State Fault Refusal := runThrum (sigTdone w) w [] tdoneBody s
def execSigdec (w : TWord) (s : State) : Host.Outcome State Fault Refusal := runThrum (sigSigdec w) w [] sigdecBody s
def execRole (w : TWord) (s : State) : Host.Outcome State Fault Refusal := runThrum (sigRole w) w [] roleBody s

end Sys2Proof.Machine
end

