-- ==== Sys2Proof/Machine/Float32.lean ====
section
/-! DEFINITION. FP32 arithmetic of the raster and traversal units: every operation rounds once in a given direction (R228, R233). -/

namespace Sys2Proof

/-- Rounding directions of Table 3.8. -/
def rnE : Nat := 1
def rnZ : Nat := 2
def rnUp : Nat := 3
def rnDn : Nat := 4

/-- The FP32 code of an exact value rounded in a direction, with IEEE overflow. -/
def f32Code (rm : Nat) (x : Ex) : Nat := (roundFlt f32F 0 false ⟨rm, false, false, 1#128⟩ ⟨1#32, 0#5⟩ x).1
/-- The FP32 value of an exact value rounded in a direction. -/
def f32R (rm : Nat) (x : Ex) : Ex := f32F.val (f32Code rm x)
/-- The value of a 32-bit word. -/
def f32V (v : Nat) : Ex := f32F.val v

/-- A finite number. -/
def Ex.finite : Ex → Bool
  | .fin _ _ _ _ => true
  | _ => false

/-- Rounds the outcome of an operation; an invalid one is a NaN. -/
def f32Of (rm : Nat) (x : Option Ex) : Ex :=
  match x with
  | some z => f32R rm z
  | none => exNaN

def fAdd (rm : Nat) (a b : Ex) : Ex := if a.isNaN || b.isNaN then exNaN else f32Of rm (exAdd (rm == rnDn) a b)
def fSub (rm : Nat) (a b : Ex) : Ex := fAdd rm a (exNeg b)
def fMul (rm : Nat) (a b : Ex) : Ex := if a.isNaN || b.isNaN then exNaN else f32Of rm (exMul a b)

/-- The quotient of two numbers as an exact value: about 200 bits and whether more follow. None for a division by zero, and for
∞ ÷ ∞. -/
def exDiv (a b : Ex) : Option Ex :=
  match a, b with
  | .fin s m e st, .fin u n g _ =>
    if n = 0 then none
    else if m = 0 ∧ st = false then some (exZero (s != u))
    else
      let k := 200 + Nat.log2 n
      some (.fin (s != u) (m * 2 ^ k / n) (e - g - k) (st || m * 2 ^ k % n != 0))
  | .inf s, .fin u _ _ _ => some (.inf (s != u))
  | .fin s _ _ _, .inf u => some (exZero (s != u))
  | _, _ => none

def fDiv (rm : Nat) (a b : Ex) : Ex := if a.isNaN || b.isNaN then exNaN else f32Of rm (exDiv a b)

/-- The square root of a non-negative number: about 200 bits and whether more follow. -/
def exRoot (x : Ex) : Ex :=
  match x with
  | .fin _ m e st =>
    if m = 0 then exZero false
    else match exSqrt m e with
      | .fin s q g t => .fin s q g (t || st)
      | y => y
  | y => y

/-- The greater and the lesser of two numbers, the first when they are equal. -/
def exMax (a b : Ex) : Ex := if exLt a b then b else a
def exMin (a b : Ex) : Ex := if exLt b a then b else a
/-- a ≤ b for two numbers; false when either is a NaN. -/
def exLe (a b : Ex) : Bool := !a.isNaN && !b.isNaN && !exLt b a
/-- The magnitude of a number. -/
def exAbs : Ex → Ex
  | .nan _ p => .nan false p
  | .inf _ => .inf false
  | .fin _ m e st => .fin false m e st

/-- Sums and products of exact values; none where one is invalid. -/
def exAdds (a b : Option Ex) : Option Ex := a.bind (fun x => b.bind (fun y => if x.isNaN || y.isNaN then none else exAdd false x y))
def exMuls (a b : Option Ex) : Option Ex := a.bind (fun x => b.bind (fun y => if x.isNaN || y.isNaN then none else exMul x y))

/-- A number of 0 … `hi` that clamps ⌊x⌋ (R228). -/
def floorClamp (hi : Nat) (x : Ex) : Nat :=
  match x with
  | .fin false m e _ => min hi (if 0 ≤ e then m * 2 ^ e.toNat else m / 2 ^ (-e).toNat)
  | .inf false => hi
  | _ => 0

end Sys2Proof
end

