-- ==== Sys2Proof/Machine/Raster.lean ====
section
/-! DEFINITION. The raster unit (R227 to R229) and the event in which a cluster's unit writes its result. -/

namespace Sys2Proof.Machine

/-! ### Triangles (R227, R228, Table 8.11) -/

/-- A vertex: position in 1/256 pixel, and the values that are interpolated. -/
structure Vertex where
  px : Int
  py : Int
  z  : Ex
  u  : Ex
  v  : Ex
deriving DecidableEq, Repr

/-- A triangle to draw: its record's words 0 and 1, its vertices, and twice its snapped area. -/
structure Tri where
  idx : Nat
  w0  : Nat
  w1  : Nat
  a   : Vertex
  b   : Vertex
  c   : Vertex
  area : Int
deriving DecidableEq, Repr

/-- A position snapped to 1/256 pixel under RNE. -/
def snap (x : Ex) : Int := (roundIntTo (-(2 ^ 40)) (2 ^ 40) 8 ⟨rnE, false, false, 0#128⟩ ⟨1#32, 0#5⟩ x).1

/-- The five values of vertex `i` of a triangle record. -/
def vertexVals (r : List Byte) (i : Nat) : List Ex := (upTo 5).map (fun k => f32V (recVal r (8 + 20 * i + 4 * k) 4))

/-- |x| or |y| of at least 2^20. -/
def farOut (x : Ex) : Bool := !exLt (exAbs x) (.fin false 1 20 false)

/-- A vertex, none when the triangle is to be ignored. -/
def vertexOf (r : List Byte) (i : Nat) : Option Vertex :=
  match vertexVals r i with
  | [x, y, z, u, v] =>
    if !(x.finite && y.finite && z.finite && u.finite && v.finite) || farOut x || farOut y then none
    else some ⟨snap x, snap y, z, u, v⟩
  | _ => none

/-- Twice the signed area of three points. -/
def area2 (a b : Vertex) (x y : Int) : Int := (b.px - a.px) * (y - a.py) - (b.py - a.py) * (x - a.px)

/-- The triangle of a record; none when it is ignored. -/
def triOf (idx : Nat) (r : List Byte) : Option Tri :=
  match vertexOf r 0, vertexOf r 1, vertexOf r 2 with
  | some a, some b, some c =>
    let d := area2 a b c.px c.py
    if d = 0 then none else some ⟨idx, recVal r 0 4, recVal r 4 4, a, b, c, d⟩
  | _, _, _ => none

/-- The value of the edge from `p` to `q` at a point, positive inside, when the point is inside or on a top or left edge. -/
def edgeAt (sg : Int) (p q : Vertex) (x y : Int) : Option Int :=
  let e := sg * area2 p q x y
  let dx := sg * (q.px - p.px)
  let dy := sg * (q.py - p.py)
  if 0 < e ∨ (e = 0 ∧ ((dy = 0 ∧ 0 < dx) ∨ dy < 0)) then some e else none

/-- The weights of the vertices at a covered point, times twice the area. -/
def Tri.weights (t : Tri) (x y : Int) : Option (Int × Int × Int) :=
  let sg := if 0 < t.area then 1 else -1
  match edgeAt sg t.b t.c x y, edgeAt sg t.c t.a x y, edgeAt sg t.a t.b x y with
  | some i, some j, some k => some (i, j, k)
  | _, _, _ => none

/-- RNE32 of Σ λ·v, exact but for the one rounding. -/
def interp (w : Int × Int × Int) (area : Nat) (a b c : Ex) : Ex :=
  let term (k : Int) (v : Ex) : Option Ex := exMul (exInt k) v
  match exSum false ([term w.1 a, term w.2.1 b, term w.2.2 c].filterMap id) with
  | some s => f32Of rnE (exDiv s (exInt area))
  | none => exNaN

/-- A covered pixel's candidate: depth, triangle, weights. -/
structure Hit where
  z : Ex
  t : Tri
  w : Int × Int × Int
deriving DecidableEq, Repr

/-- The visible triangle at a pixel centre: the least z, the lower index among equals. -/
def visible (ts : List Tri) (x y : Int) : Option Hit :=
  ts.foldl (fun best t =>
    match t.weights x y with
    | none => best
    | some w =>
      let z := interp w t.area.natAbs t.a.z t.b.z t.c.z
      match best with
      | none => some ⟨z, t, w⟩
      | some h => if exLt z h.z then some ⟨z, t, w⟩ else best) none

/-! ### Output (R229) -/

/-- The texel of a hit. -/
def Hit.texel (h : Hit) : Nat × Nat :=
  let f (a b c : Ex) : Nat := floorClamp 131071 (interp h.w h.t.area.natAbs a b c)
  (f h.t.a.u h.t.b.u h.t.c.u, f h.t.a.v h.t.b.v h.t.c.v)

/-- The key of a hit (Table 8.1). -/
def Hit.key (h : Hit) : Nat :=
  let (u, v) := h.texel
  fieldN h.t.w0 4 28 * 2 ^ 36 + fieldN h.t.w0 0 4 * 2 ^ 32 + fieldN h.t.w1 0 4 * 2 ^ 28 + u / 8 * 2 ^ 14 + v / 8

/-- The samples and the key list as pixels are taken in order. -/
structure Out8 where
  bytes : List Byte := []
  keys  : List Nat := []
  cov   : Nat := 0
deriving DecidableEq, Repr

def Out8.add (o : Out8) (h : Option Hit) : Out8 :=
  match h with
  | none => { o with bytes := o.bytes ++ leBytes 4 0x7F800000 ++ leBytes 4 0xFF00FFFF }
  | some h =>
    let k := h.key
    let ks := if o.keys.contains k then o.keys else o.keys ++ [k]
    let i := ks.idxOf k
    let (u, v) := h.texel
    { bytes := o.bytes ++ leBytes 4 (f32Code rnE h.z) ++ leBytes 4 (i * 2 ^ 24 + u % 8 * 2 ^ 21 + v % 8 * 2 ^ 18 + h.t.idx)
      keys := ks, cov := o.cov + 1 }

/-- The output of a batch for the tile at column `stx` and row `sty`. -/
def rasterTile (stx sty : Nat) (ts : List Tri) : Out8 :=
  (upTo 64).foldl (fun o p =>
    o.add (visible ts (((8 * stx + p % 8) * 256 + 128 : Nat) : Int) (((8 * sty + p / 8) * 256 + 128 : Nat) : Int))) {}

/-! ### The instruction -/

/-- Reads scratchpad bytes of the executing workgroup's allocation: a permission fault outside it, poison inside. -/
def Ctx.scratch {α : Type} (x : Ctx) (s : State) (rank off n : Nat) (go : List Byte → Answer α) : Answer α :=
  if x.wg.ssize < off + n then .fault rank off clsPerm 0
  else if s.scrIsPois x.g.core (x.wg.sbase + off) n then .fault rank off clsPoison 0
  else go (s.scrRead x.g.core (x.wg.sbase + off) n)

/-- What a unit's operation answers to its thread: destination values with tags, and scratchpad writes by offset. -/
structure UnitOut where
  vals : List (W32 × Nat)
  puts : List (Nat × List Byte)
  /-- Places in memory that it reads, with their sizes. -/
  reads : List (Nat × Nat) := []
deriving DecidableEq, Repr

/-- The operation of one thread, its checks in the order of R227. -/
def rastOne (x : Ctx) (s : State) (p : Nat × Thread) : Answer UnitOut :=
  let a := (x.src p x.w.a).toNat
  let b := (x.src p x.w.b).toNat
  if !tagOk p.2 x.w.a 1 tINT || !tagOk p.2 x.w.b 1 tINT then .trap 0 clsFormat 0
  else if a % 16 ≠ 0 then .trap 1 clsAlign a
  else if b % 64 ≠ 0 then .trap 1 clsAlign b
  else x.scratch s 2 a 32 (fun h =>
    let n := fieldN (recVal h 4 4) 0 11
    if fieldN (recVal h 4 4) 11 21 ≠ 0 ∨ recVal h 8 24 ≠ 0 ∨ 1024 < n then .trap 3 clsRecord 0
    else x.scratch s 4 (a + 32) (80 * n) (fun body =>
      let rs := (upTo n).map (fun i => (body.drop (80 * i)).take 80)
      if rs.any (fun r => fieldN (recVal r 4 4) 4 28 != 0 || recVal r 68 12 != 0) then .trap 5 clsRecord 0
      else if x.wg.ssize < b + 1024 then .fault 6 b clsPerm 0
      else
        let ts := ((upTo n).zip rs).filterMap (fun q => triOf q.1 q.2)
        let o := rasterTile (fieldN (recVal h 0 4) 0 16) (fieldN (recVal h 0 4) 16 16) ts
        .ok { vals := [(BitVec.ofNat 32 (o.keys.length + 2 ^ 16 * o.cov), 2)],
              puts := [(b, o.bytes ++ o.keys.flatMap (leBytes 8))] }))

/-- Hands the operations of the threads to the cluster's unit; their results are written later. -/
def Ctx.startUnit (x : Ctx) (s : State) (q : Nat × UnitOut) : State :=
  let (id, s1) := (q.2.reads.foldl (fun t p => x.sawBytes t q.1 p.1 p.2) s).newId
  let r : PRt :=
    { id := id, th := x.ref q.1, dst := destOf x.w.d, vals := q.2.vals, core := x.g.core,
      puts := q.2.puts.map (fun p => (x.wg.sbase + p.1, p.2)), flag := x.flag }
  ({ s1 with rts := tset s1.rts id r }).modThread (x.ref q.1) (fun th =>
    (match destOf x.w.d with
     | some d => th.pendIncs d q.2.vals.length
     | none => th).flagUp x.flag)

/-- An operation of a unit (`rast`, `trav`): it waits until the thread's earlier scratchpad writes have performed, then checks and
computes. -/
def unitBody (one : Ctx → State → Nat × Thread → Answer UnitOut) (x : Ctx) (s : State) : Res :=
  x.boundary s x.g.pc (fun t =>
    if t.signerPending x.wid (x.active.map Prod.fst) t.nextId then .hold t .other
    else x.settle t (x.answers t (one x)) (fun os =>
      .ok ((os.foldl x.startUnit (t.passSigners x.wid (os.map Prod.fst) t.nextId)).modGroup x.gid (fun g => { g with rstart := x.next }))))

/-- Writes consecutive registers, each with its own tag. -/
def putTagged : Thread → Nat → List (W32 × Nat) → Thread
  | th, _, [] => th
  | th, n, v :: vs => putTagged (th.setReg n v.1 v.2) (n + 1) vs

/-- The result of a unit's operation: its scratchpad writes perform, then its destination is written. -/
def State.unitResult (s : State) (r : PRt) : State :=
  let s1 := { s with rts := terase s.rts r.id }
  let s2 := r.puts.foldl (fun t p => t.scrPut r.core p.1 p.2 false) s1
  s2.modThread r.th (fun th =>
    (match r.dst with
     | some d => (putTagged th d r.vals).pendDecs d r.vals.length
     | none => th).flagDown r.flag)

/-! ### The meanings -/

def execRast (w : TWord) (s : State) : Host.Outcome State Fault Refusal := runThrum (sigRast w) w [] (unitBody rastOne) s

/-- The function of an operation. -/
def State.rtFn (s : State) (r : PRt) : Nat := match s.wg? r.th.wg with | some w => w.fn | none => 0
/-- Operations of a function's turn of a cluster's units: its weight (Table 12.3). -/
def State.rtTurn (s : State) (f : Nat) : Nat := max 1 (s.fnb f).ten.rw
/-- A cluster's units serve the function of an operation now (R330). -/
def State.rtServes (s : State) (r : PRt) : Bool :=
  turnOf (tgetD s.rtTurns (clusterOf r.core) (0, 0)) s.rtTurn
    (((tvals s.rts).filter (fun o => clusterOf o.core == clusterOf r.core)).map s.rtFn) == some (s.rtFn r)
/-- An operation of a cluster's units ends, and counts in the turn of its function. -/
def State.rtEnds (s : State) (r : PRt) : State :=
  let k := clusterOf r.core
  let turn := takeTurn (tgetD s.rtTurns k (0, 0)) s.rtTurn (s.rtFn r) 1
  { s.unitResult r with rtTurns := tset s.rtTurns k turn }

/-- RAST_TRAV_RESULT (R229, R232, R330). -/
def execRastTravResult (id : Nat) (s : State) : Host.Outcome State Fault Refusal :=
  runEvent "RAST_TRAV_RESULT" (fun t => match tget? t.rts id with | some r => t.rtServes r | none => false)
    (fun t => match tget? t.rts id with | some r => t.rtEnds r | none => t) s

end Sys2Proof.Machine
end

