-- ==== Sys2Proof/Machine/Tenancy.lean ====
section
/-! DEFINITION. Energy budgets (R299, R300), time slices (R330, R331), displaced spinners (R339), bandwidth shares (R340 to R343) and the
function-level reset (R344). -/

namespace Sys2Proof.Machine

/-! ### Energy (R299, R300) -/

/-- Every queue of every function. -/
def State.allQueues (s : State) : List (Nat × Nat) := s.fns.flatMap (fun p => (tkeys p.2.queues).map (fun q => (p.1, q)))

/-- The workgroups that a queue has started, pool workgroups among them, unless their threads have all ended. -/
def State.queueWgs (s : State) (fn q : Nat) : List Nat :=
  (s.wgs.filter (fun p => p.2.fn == fn && p.2.queue == q && !p.2.ended)).map Prod.fst

/-- QEUSED has reached a non-zero QEBUD. -/
def Queue.overBudget (x : Queue) : Bool := x.qebud != 0#32 && decide (x.qebud ≤ x.qeused)

/-- Activity of a queue's work since its last charge. -/
def State.activity (s : State) (k : Nat × Nat) (a : Activity) : Nat := tgetD s.acts (actKey k.1 k.2 a) 0

/-- Energy of a queue's activity; work that has done nothing is charged nothing. -/
def State.energyOf (s : State) (k : Nat × Nat) : Nat :=
  let n := [Activity.issue, .array, .access, .copy].map (s.activity k)
  if n.all (· == 0) then 0
  else Config.energyCharge (s.activity k .issue) (s.activity k .array) (s.activity k .access) (s.activity k .copy)

/-- Charges one queue for an interval; an exhausted queue's workgroups are to be halted. DESIGN CHOICE (assumption 63). -/
def State.chargeQueue (s : State) (k : Nat × Nat) : State :=
  let x := s.queue k.1 k.2
  let used : W32 := BitVec.ofNat 32 (min (x.qeused.toNat + s.energyOf k) (2 ^ 32 - 1))
  let y := { x with qeused := used }
  let s1 := s.setQueue k.1 k.2 { y with exhausted := y.exhausted || y.overBudget }
  if y.overBudget && !x.exhausted && !(s.queueWgs k.1 k.2).isEmpty then
    { s1 with halts := s1.halts ++ [.wgs (s.queueWgs k.1 k.2) .energy] }
  else s1

/-- Charges every queue for an interval of 10 µs (R299). -/
def State.energyTick (s : State) : State :=
  { s.allQueues.foldl State.chargeQueue s with acts := [], enCharges := s.enCharges + 1 }

/-- QEUSED at the next period: the overshoot beyond QEBUD, or 0. -/
def Queue.refill (x : Queue) : Queue :=
  let used := if x.qebud = 0#32 ∨ x.qeused < x.qebud then 0#32 else x.qeused - x.qebud
  let y := { x with qeused := used }
  { y with exhausted := y.overBudget }

/-- Refills one queue; work that was halted for its budget resumes. -/
def State.refillQueue (s : State) (k : Nat × Nat) : State :=
  let y := (s.queue k.1 k.2).refill
  let s1 := s.setQueue k.1 k.2 y
  if y.exhausted then s1
  else
    let ids := s1.queueWgs k.1 k.2
    let s2 := { s1 with halts := s1.halts.filter (fun r => !(r.how == .energy && r.ids.all (fun i => ids.contains i ||
      (match s1.wg? i with | some w => w.ended | none => true)))) }
    ids.foldl (State.resumeWg .energy) s2

/-- Refills every queue at a multiple of 1,000,000 ns (R299, R300). -/
def State.energyPeriod (s : State) : State := { s.allQueues.foldl State.refillQueue s with enPeriods := s.enPeriods + 1 }

/-! ### Slices (R330, R331) -/

/-- Length of a slice in ns: its weight × 4 µs; a weight of 0 acts as 1. -/
def sliceTime (weight : Nat) : Nat := 4000 * max 1 weight

/-- When the slice of a class began. -/
def Core.sliceAt (c : Core) (matrix : Bool) : W64 := if matrix then c.matAt else c.vecAt

/-- The slice of a class has lasted its time. -/
def State.sliceOver (s : State) (core : Nat) (matrix : Bool) : Bool :=
  let c := s.core core
  let t := (s.fnb (c.holder matrix)).ten
  decide (c.tenants.length = 2) && decide (sliceTime (if matrix then t.mw else t.vw) ≤ (s.now - c.sliceAt matrix).toNat)

/-- The holder of a class has had no ready work for 2 µs by the global time counter. DEDUCED (assumption 65). -/
def State.sliceIdle (s : State) (core : Nat) (matrix : Bool) : Bool :=
  let c := s.core core
  decide (c.tenants.length = 2) && !s.readyWork core (c.holder matrix) matrix && decide (2000 ≤ (s.now - c.sliceAt matrix).toNat) &&
    decide (2000 ≤ (s.now - (if matrix then c.matWork else c.vecWork)).toNat)

/-- The array of a core goes to the other tenant: the planes are saved and restored (R331). -/
def Core.switchArray (c : Core) (now : W64) : Core :=
  let p := c.savedOf (c.other true)
  { c with
    active := p.1, shadow := p.2, saved := c.savedBut (c.other true) ++ [(c.holder true, c.active, c.shadow)]
    matHold := 1 - c.matHold, matAt := now }

/-- No operation of the array runs. -/
def Core.arrayIdle (c : Core) : Bool := !c.opq.any (·.running)

/-- The matrix slice ends. The other tenant forfeits its slice when it has no operation queued. -/
def State.switchMatrix (s : State) (core : Nat) : State :=
  let c := s.core core
  if s.readyWork core (c.other true) true then s.setCore core (c.switchArray s.now)
  else s.setCore core { c with matAt := s.now }

/-- Workgroups of a tenant on a core whose threads have not all ended. -/
def State.tenantWgs (s : State) (core fn : Nat) : List Nat :=
  (s.wgs.filter (fun p => p.2.core == core && p.2.fn == fn && !p.2.ended)).map Prod.fst

/-- The vector slice ends: the holder's groups are to be halted, the other tenant's resume; a tenant without ready work forfeits
its slice. -/
def State.switchVector (s : State) (core : Nat) : State :=
  let c := s.core core
  if s.readyWork core (c.other false) false then
    let out := s.tenantWgs core (c.holder false)
    let inn := s.tenantWgs core (c.other false)
    let s1 := s.setCore core { c with vecHold := 1 - c.vecHold, vecAt := s.now }
    let s2 := { s1 with halts := if out.isEmpty then s1.halts else s1.halts ++ [.wgs out .slice] }
    inn.foldl (State.resumeWg .slice) s2
  else s.setCore core { c with vecAt := s.now }

/-! ### Displaced spinners (R339) -/

/-- A group that waits in the pending set on `poll`, `yield`, `sleep` or `pwait`. -/
def Group.spins (g : Group) : Bool :=
  g.place != .active &&
    (match g.wait with
     | .poll _ _ _ _ => true
     | .sleep _ _ => true
     | .pwait _ _ => true
     | .ready => g.yielded
     | _ => false)

/-- A displaced workgroup of the function has waited 1 ms without room on any core. -/
def State.longDisplaced (s : State) (fn : Nat) : Bool :=
  (s.fnb fn).images.any (fun m => m.cause == 1 && decide (1000000 ≤ (s.now - m.since).toNat) &&
    (match s.launch? m.launch with
     | some l => !(upTo Config.numCores).any (s.coreTakes fn l.needs)
     | none => false))

/-- A resident workgroup that may give way. -/
def State.mayGiveWay (s : State) (core wid : Nat) : Bool :=
  match s.wg? wid with
  | some w => w.core == core && !w.ended && w.held.isNone && !(s.unsaved [wid]).isEmpty && s.longDisplaced w.fn &&
      !(s.groupsOf wid).isEmpty && (s.groupsOf wid).all (fun p => p.2.spins)
  | none => false

/-! ### Bandwidth (R341 to R343) -/

/-- Whether a request of the function is held back at a port of the core. -/
def State.holdsBack (s : State) (fn core : Nat) : Bool :=
  s.loads.any (fun p => p.2.acc.core == core && p.2.acc.fn == fn && s.heldBack p.2.acc) ||
    s.writes.any (fun p => p.2.acc.core == core && p.2.acc.fn == fn && s.heldBack p.2.acc) ||
    s.copies.any (fun p => p.2.core == core && p.2.fn == fn && (s.core core).portHeld.contains fn) ||
    s.bobs.any (fun p => (coresOf p.1).headD 0 == core && (match p.2.run with | some r => r.heldReq && r.ev.fn == fn | none => false))

/-- Marks a function that has a request held back in the period. -/
def State.markHeld (s : State) (fn : Nat) : State :=
  if (tkeys s.cores).any (s.holdsBack fn) then s.modFn fn (fun b => { b with ten := { b.ten with heldBack := true } }) else s

/-- A request that nothing but its port keeps from leaving the core. -/
def State.atPort (s : State) (fn core : Nat) (v : OrdView) : Bool :=
  v.acc.byPort && v.acc.core == core && v.acc.fn == fn && s.ordOk v && s.unheld v.acc

/-- The requests of a function at a core's port are marked: they have left it, where the port begins to hold the function back, or leave
it in their order, where it ends (R342). -/
def State.markPort (s : State) (fn core : Nat) (f : Acc → Acc) : State :=
  { s with
    loads := s.loads.map (fun (p : Nat × PLoad) =>
      (p.1, if s.atPort fn core ⟨p.2.acc, true, false, false⟩ then { p.2 with acc := f p.2.acc } else p.2))
    writes := s.writes.map (fun (p : Nat × PWrite) =>
      (p.1, if s.atPort fn core ⟨p.2.acc, p.2.kind.reads, true, false⟩ then { p.2 with acc := f p.2.acc } else p.2)) }

/-- The port lets the function's requests go: those that it held, copies' among them, leave in their order, and its handler's cycles count
again (R342, R360). -/
def State.openPort (s : State) (fn core : Nat) : State :=
  let s1 := s.markPort fn core (fun a => { a with turn := true })
  { s1 with
    copies := s1.copies.map (fun (p : Nat × Copy) =>
      (p.1, if p.2.core = core ∧ p.2.fn = fn ∧ p.2.checked = true ∧ p.2.held = 0 ∧ p.2.units.any (fun u => !u.2.sent) = true then
        { p.2 with turn := true } else p.2))
    bobs := s1.bobs.map (fun (p : Nat × Bob) =>
      (p.1, if (coresOf p.1).headD 0 = core ∧ (p.2.run.map (·.ev.fn)) = some fn then
        { p.2 with run := p.2.run.map (fun i => { i with heldReq := false }) } else p.2)) }

/-- A port learns whether a tenant's balance is above zero (R342). Requests that have left are not held back, those held back go in their
original order. DEDUCED (assumption 135). -/
def State.portUpdate (s : State) (fn core : Nat) : State :=
  let s1 := s.markHeld fn
  let stop := decide ((s1.fnb fn).ten.balance ≤ 0)
  let held := (s1.core core).portHeld.contains fn
  let s2 := if stop && !held then s1.markPort fn core (fun a => if s1.heldBack a then a else { a with sent := true })
    else if !stop && held then s1.openPort fn core
    else s1
  (s2.modCore core (fun c =>
    let rest := c.portHeld.filter (fun f => f != fn)
    { c with portHeld := if stop then rest ++ [fn] else rest })).markHeld fn

/-- Every function. -/
def allFns : List Nat := upTo Config.numFns

/-- The sum of BWSHARE over some functions. -/
def State.shares (s : State) (fs : List Nat) : Nat := fs.foldl (fun n f => n + (s.fnb f).ten.bwshare) 0

/-- The pool of a period (R343). -/
def State.tokenPool (s : State) : Nat :=
  allFns.foldl (fun n f => if (s.fnb f).ten.heldBack then n else n + (s.fnb f).ten.balance.toNat) 0 +
    768 * (1024 - s.shares allFns)

/-- A function's part of the pool. -/
def State.poolPart (s : State) (held : List Nat) (pool f : Nat) : Nat :=
  if held.contains f then
    (if s.shares held = 0 then pool / held.length else pool * (s.fnb f).ten.bwshare / s.shares held)
  else 0

/-- A function's tenancy registers at a period boundary. -/
def TenRegs.nextPeriod (t : TenRegs) (part : Nat) : TenRegs :=
  { t with
    balance := min t.balance 0 + (768 * t.bwshare : Nat) + (part : Nat)
    bwused := 0#32
    bwheld := if t.heldBack then satInc t.bwheld else t.bwheld
    heldBack := false }

/-- Bandwidth periods that begin by a time: one every 1,024 cycles of 1.4 GHz (R340). -/
def periodsBy (now : W64) : Nat := now.toNat * 7 / 5120

/-- The period boundary (R341, R343). -/
def State.bwPeriod (s : State) : State :=
  let s1 := allFns.foldl State.markHeld { s with bwPeriods := s.bwPeriods + 1 }
  let held := allFns.filter (fun f => (s1.fnb f).ten.heldBack)
  let pool := s1.tokenPool
  allFns.foldl (fun t f => t.modFn f (fun b => { b with ten := b.ten.nextPeriod (s1.poolPart held pool f) })) s1

/-! ### Function-level reset (R344) -/

/-- Aborts a running invocation of the function without counting it: it executes nothing more, and ends once the writes that it issued
have performed (R359, R361). -/
def State.stopInvocation (s : State) (fn k : Nat) : State :=
  match (s.bob k).run with
  | some r =>
    if r.ev.fn = fn then (if s.bobOpen k then s.modInvoc k (fun i => { i with ends := some 0 }) else s.endInvocation k) else s
  | none => s

/-- The launches of a function. -/
def State.launchesOf (s : State) (fn : Nat) : List Nat := (s.launches.filter (fun p => p.2.fn == fn)).map Prod.fst

/-- Resets a function: its work is ended without completions, its handlers are unregistered, its balance is zero, its register
blocks hold their reset values; the tenancy registers stand. DEDUCED (assumption 70). -/
def State.resetFn (s : State) (fn : Nat) : State :=
  let s1 := ((s.wgs.filter (fun p => p.2.fn == fn)).map Prod.fst).foldl State.discardWg s
  let s2 := s1.dropTiles (fun e => e.startFn == some fn)
  let s3 := { s2 with
    recsDue := s2.recsDue.filter (fun r => r.1 != fn), dirsDue := s2.dirsDue.filter (fun f => f != fn)
    launches := s2.launches.filter (fun p => p.2.fn != fn)
    deferred := s2.deferred.filter (fun p => p.2.fn != fn)
    tlb := s2.tlb.filter (fun t => t.fn != fn)
    cores := s2.cores.map (fun (p : Nat × Core) =>
      (p.1, { p.2 with ctr := p.2.ctr.filter (fun q => q.1 / 16 != fn), portHeld := p.2.portHeld.filter (fun f => f != fn) })) }
  let s4 := (tkeys s3.bobs).foldl (fun t k => t.stopInvocation fn k) (s3.modHand fn (fun h => { h with en := false }) |>.discardAll fn)
  let t := (s4.fnb fn).ten
  s4.setFn fn { ten := { t with balance := 0, bwused := 0#32, bwheld := 0#32, heldBack := false } }

/-! ### The meanings -/

/-- ENERGY_CHARGE (R299, R300). -/
def execEnergyCharge (s : State) : Host.Outcome State Fault Refusal :=
  runEvent "ENERGY_CHARGE" (fun t => decide (t.enCharges < t.now.toNat / 10000)) State.energyTick s
/-- ENERGY_PERIOD (R299, R300): at each multiple of 1,000,000 ns. -/
def execEnergyPeriod (s : State) : Host.Outcome State Fault Refusal :=
  runEvent "ENERGY_PERIOD" (fun t => decide (t.enPeriods < t.now.toNat / 1000000)) State.energyPeriod s
/-- VECTOR_SLICE_END (R330, R331). -/
def execVectorSliceEnd (core : Nat) (s : State) : Host.Outcome State Fault Refusal :=
  runEvent "VECTOR_SLICE_END" (fun t => t.sliceOver core false) (fun t => t.switchVector core) s
/-- SLICE_IDLE_END (R331). -/
def execSliceIdleEnd (core : Nat) (matrix : Bool) (s : State) : Host.Outcome State Fault Refusal :=
  runEvent "SLICE_IDLE_END" (fun t => t.sliceIdle core matrix && (!matrix || (t.core core).arrayIdle))
    (fun t => if matrix then t.switchMatrix core else t.switchVector core) s
/-- MATRIX_SLICE_SWITCH (R331): the running operation has ended. -/
def execMatrixSliceSwitch (core : Nat) (s : State) : Host.Outcome State Fault Refusal :=
  runEvent "MATRIX_SLICE_SWITCH" (fun t => t.sliceOver core true && (t.core core).arrayIdle) (fun t => t.switchMatrix core) s
/-- SPINNER_DISPLACEMENT (R339). -/
def execSpinnerDisplacement (core wg : Nat) (s : State) : Host.Outcome State Fault Refusal :=
  runEvent "SPINNER_DISPLACEMENT" (fun t => t.mayGiveWay core wg)
    (fun t => { t with halts := t.halts ++ [.wgs [wg] (.saving 1)] }) s
/-- BANDWIDTH_PERIOD (R341, R343). -/
def execBandwidthPeriod (s : State) : Host.Outcome State Fault Refusal :=
  runEvent "BANDWIDTH_PERIOD" (fun t => decide (t.bwPeriods < periodsBy t.now)) State.bwPeriod s
/-- PORT_THROTTLE_UPDATE (R342). -/
def execPortThrottleUpdate (fn core : Nat) (s : State) : Host.Outcome State Fault Refusal :=
  runEvent "PORT_THROTTLE_UPDATE" (fun _ => decide (fn < Config.numFns ∧ core < Config.numCores)) (fun t => t.portUpdate fn core) s
/-- FUNCTION_LEVEL_RESET (R344). -/
def execFunctionLevelReset (fn : Nat) (s : State) : Host.Outcome State Fault Refusal :=
  runEvent "FUNCTION_LEVEL_RESET" (fun _ => fnNamed fn) (fun t => t.resetFn fn) s

end Sys2Proof.Machine
end

