-- ==== Sys2Proof/Machine/Registers.lean ====
section
/-! DEFINITION. Writes of memory-mapped register fields that have no behaviour of their own (R5, R207, R208, R272, R302, R326, R347, R370,
R398). A word whose write is an event of its own keeps that part for the event. -/

namespace Sys2Proof.Machine

/-- A 64-bit field after a write of its low or high word. -/
def setHalf (x : W64) (hi : Bool) (v : W32) : W64 :=
  if hi then v ++ x.extractLsb' 0 32 else x.extractLsb' 32 32 ++ v
/-- The bits `n` to `lo` of a written word. -/
def wordF (v : W32) (lo n : Nat) : Nat := fieldN v.toNat lo n
/-- A wide field after a write of its word `i`. -/
def setWord {n : Nat} (x : BitVec n) (i : Nat) (v : W32) : BitVec n :=
  let mask : BitVec n := BitVec.ofNat n ((2 ^ 32 - 1) * 2 ^ (32 * i))
  (x &&& ~~~ mask) ||| BitVec.ofNat n (v.toNat * 2 ^ (32 * i))

/-! ### The blocks -/

/-- A word of a queue's block (Table 10.1): EN, QNOTIFY and QDESTROY have events of their own. `pf`: the physical function writes. -/
def Queue.write (x : Queue) (pf : Bool) (off : Nat) (v : W32) : Queue :=
  match off with
  | 0x00 => if x.en then x else { x with qbase := setHalf x.qbase false v }
  | 0x04 => if x.en then x else { x with qbase := setHalf x.qbase true v }
  | 0x08 =>
    let y := if x.en then x else { x with type := wordF v 1 2, log2n := wordF v 8 4 }
    if pf then { y with prio := wordF v 4 2 } else y
  | 0x0C => if pf then { x with qebud := v } else x
  | 0x20 => if x.en then x else { x with qprec := setHalf x.qprec false v }
  | 0x24 => if x.en then x else { x with qprec := setHalf x.qprec true v }
  | 0x28 => if x.en then x else { x with qprect := v &&& 0x1F1F1F1F#32, rectRsv := v &&& 0xE0E0E0E0#32 != 0#32 }
  | 0x2C => if x.en then x else { x with qpwg := wordF v 0 8 }
  | _ => x

/-- A word of the virtual-device shading record (Table 8.3): TICK, INV and MASK are the physical function's.
DEDUCED (assumption 88). -/
def ShadeRegs.write (x : ShadeRegs) (pf : Bool) (off : Nat) (v : W32) : ShadeRegs :=
  match off with
  | 0x00 =>
    let y := { x with en := v.getLsbD 0 }
    if pf then { y with tick := v.getLsbD 1, inv := v.getLsbD 2 } else y
  | 0x04 => { x with objn := v }
  | 0x08 => { x with objtab := setHalf x.objtab false v }
  | 0x0C => { x with objtab := setHalf x.objtab true v }
  | 0x10 => { x with mattab := setHalf x.mattab false v }
  | 0x14 => { x with mattab := setHalf x.mattab true v }
  | 0x18 => { x with heapva := setHalf x.heapva false v }
  | 0x1C => { x with heapva := setHalf x.heapva true v }
  | 0x20 => { x with shpool := wordF v 0 16, rspool := wordF v 16 16 }
  | _ => if pf ∧ 0x40 ≤ off ∧ off < 0x60 then { x with mask := setWord x.mask ((off - 0x40) / 4) v } else x

/-- A word of the device shading record (Table 8.2), staged until the applying write of its first word. -/
def DevShade.write (x : DevShade) (off : Nat) (v : W32) : DevShade :=
  match off with
  | 0x04 => { x with n0 := v }
  | 0x08 => { x with n1 := v }
  | 0x0C => { x with n2 := v }
  | 0x10 => { x with heappa := setHalf x.heappa false v }
  | 0x14 => { x with heappa := setHalf x.heappa true v }
  | 0x18 => { x with heapsz := setHalf x.heapsz false v }
  | 0x1C => { x with heapsz := setHalf x.heapsz true v }
  | _ => x

/-- A word of the translation registers (Table 11.1), written by the physical function; `busy`: the function has a resident launch or
an enabled queue (R302). DEDUCED (assumption 86). -/
def TransRegs.write (x : TransRegs) (busy : Bool) (off : Nat) (v : W32) : TransRegs :=
  match off with
  | 0x00 => if busy then x else { x with troot := setHalf x.troot false v }
  | 0x04 => if busy then x else { x with troot := setHalf x.troot true v }
  | 0x08 => if busy then x else { x with exroot := setHalf x.exroot false v }
  | 0x0C => if busy then x else { x with exroot := setHalf x.exroot true v }
  | 0x10 => if busy then x else { x with exen := v.getLsbD 0 }
  | _ => if 0x18 ≤ off ∧ off < 0x38 then { x with exmask := setWord x.exmask ((off - 0x18) / 4) v } else x

/-- Reserved bits of a word of the handler block (Table 13.3). -/
def handRsv (off : Nat) (v : W32) : Bool :=
  if off = 0x04 then wordF v 16 16 != 0
  else if off = 0x28 then wordF v 13 19 != 0
  else if off = 0x14 ∨ off = 0x2C then v != 0#32
  else if off = 0x3C then wordF v 4 28 != 0
  else if 0x40 ≤ off ∧ off % 16 = 12 then wordF v 3 13 != 0 || wordF v 29 3 != 0
  else false

/-- A word of the handler block (Table 13.3), ignored while EN is 1 (R347); EN has events of its own. Of a reserved field, and of a
read-only word's reserved bits, whether they were written as other than zero is kept for the check of R348. -/
def HandRegs.write (x : HandRegs) (off : Nat) (v : W32) : HandRegs :=
  if x.en ∨ off = 0 ∨ 0xC0 ≤ off ∨ (0x30 ≤ off ∧ off < 0x3C) then x
  else
    let y := { x with rsv := if handRsv off v then insertNat x.rsv off else eraseNat x.rsv off }
    let i := (off - 0x40) / 16
    let range (f : HRange → HRange) : HandRegs := { y with ranges := tset y.ranges i (f (tgetD y.ranges i {})) }
    if 0x40 ≤ off then
      (match off % 16 with
       | 0 => range (fun g => { g with base := setHalf g.base false v })
       | 4 => range (fun g => { g with base := setHalf g.base true v })
       | 8 => range (fun g => { g with len := v })
       | _ => range (fun g => { g with evm := wordF v 0 3, budget := wordF v 16 13 }))
    else
      match off with
      | 0x04 => { y with ablim := wordF v 0 16 }
      | 0x08 => { y with hbase := setHalf y.hbase false v }
      | 0x0C => { y with hbase := setHalf y.hbase true v }
      | 0x10 => { y with hsize := v }
      | 0x18 => { y with pcmiss := v }
      | 0x1C => { y with pcfill := v }
      | 0x20 => { y with pcevict := v }
      | 0x24 => { y with pcmsg := v }
      | 0x28 => { y with mbudget := wordF v 0 13 }
      | _ => y

/-- A word of the tenancy block (Table 12.2), written by the physical function; `others`: the sum of BWSHARE over the other functions
(R326). -/
def TenRegs.write (x : TenRegs) (others off : Nat) (v : W32) : TenRegs :=
  match off with
  | 0x00 => if 1024 < others + wordF v 0 11 ∧ x.bwshare < wordF v 0 11 then x else { x with bwshare := wordF v 0 11 }
  | 0x04 => { x with vw := wordF v 0 8, mw := wordF v 8 8, cw := wordF v 16 8, rw := wordF v 24 8 }
  | 0x08 => { x with borrow := v.getLsbD 0, lend := v.getLsbD 1 }
  | 0x0C => { x with lpshare := min (wordF v 0 13) 4096 }
  | 0x20 => { x with saveva := setHalf x.saveva false v }
  | 0x24 => { x with saveva := setHalf x.saveva true v }
  | 0x28 => { x with savesz := v }
  | _ => if 0x10 ≤ off ∧ off < 0x20 then { x with home := setWord x.home ((off - 0x10) / 4) v } else x

/-- A word of the fault block (Table 14.4) that no event of its own writes. FLOGN keeps its value outside
4 to 12 and while the function has a resident launch (R370). -/
def FaultRegs.write (x : FaultRegs) (pf resident : Bool) (off : Nat) (v : W32) : FaultRegs :=
  match off with
  | 0x08 =>
    let n := wordF v 0 4
    { x with flogn := if resident ∨ n < 4 ∨ 12 < n then x.flogn else n, dbgen := v.getLsbD 8 }
  | 0x10 => if pf then { x with wdog := v } else x
  | _ => x

/-- A word of the error block (Table 15.2). -/
def ErrRegs.write (x : ErrRegs) (off : Nat) (v : W32) : ErrRegs :=
  match off with
  | 0x00 => { x with errbase := setHalf x.errbase false v }
  | 0x04 => { x with errbase := setHalf x.errbase true v }
  | 0x08 => let n := wordF v 0 4; if n < 4 ∨ 14 < n then x else { x with errn := n }
  | _ => x

/-! ### The BAR of a function -/

/-- A launch of the function is resident. DEDUCED (assumption 87). -/
def State.residentFn (s : State) (fn : Nat) : Bool := s.wgs.any (fun p => p.2.fn == fn)
/-- A queue of the function is enabled. -/
def State.queueOn (s : State) (fn : Nat) : Bool := (s.fnb fn).queues.any (fun p => p.2.en)

/-- The writes that are wholly an event of their own: of QNOTIFY, of QDESTROY, of the applying word of the device shading record, of
handler EN with its reserved bits zero, of FLOGBASE as a whole, of DBGRES alone, and of
FREEZE and THAW by the physical function. DEDUCED (assumption 85). -/
def ownEvent (view fn off : Nat) (wide : Bool) (v : W64) : Bool :=
  let word (o : Nat) : Bool := off == o || (wide && off + 4 == o)
  let bits : W64 := if off = 0x0E14 then v &&& 3#64 else 0#64
  (decide (0x10000 ≤ off) && (off % 64 == 0x14 || off % 64 == 0x30 || (wide && (off % 64 == 0x10 || off % 64 == 0x2C)))) ||
    (fn == 0 && word 0x0680) || (word 0x0A00 && wordF (lo32 v) 3 29 == 0) || (off == 0x0E00 && wide) || bits == 1#64 || bits == 2#64 ||
    (off == 0x0E18 && view == 0 && v &&& 3#64 != 0#64)

/-- One 32-bit write at an offset of a function's first BAR; a write to a reserved or read-only word does nothing (R5). A 1 written to
handler EN with a reserved bit of its word fails the check of R348. -/
def State.writeWord (s : State) (pf : Bool) (fn off : Nat) (v : W32) : State :=
  if 0x10000 ≤ off then
    let q := (off - 0x10000) / 64
    if q < queuesOf fn then s.modQueue fn q (fun x => x.write pf (off % 64) v) else s
  else if 0x0600 ≤ off ∧ off < 0x0660 then
    (if fn = 0 then s else s.modFn fn (fun b => { b with shade := b.shade.write pf (off - 0x0600) v }))
  else if 0x0680 ≤ off ∧ off < 0x06A4 then
    (if fn = 0 then { s with shade := s.shade.write (off - 0x0680) v } else s)
  else if 0x0800 ≤ off ∧ off < 0x0840 then
    (if pf then
      let busy := s.residentFn fn || s.queueOn fn
      let s1 := s.modFn fn (fun b => { b with trans := b.trans.write busy (off - 0x0800) v })
      let ex := decide (0x0808 ≤ off)
      if (s1.fnb fn).trans = (s.fnb fn).trans then s1
      else { s1 with tlb := s1.tlb.filter (fun t => !(t.fn == fn && t.ex == ex)) }
     else s)
  else if off = 0x0A00 then (if v.getLsbD 0 then s else s.disableHandlers fn)
  else if 0x0A00 ≤ off ∧ off < 0x0AC0 then s.modHand fn (fun h => h.write (off - 0x0A00) v)
  else if 0x0C00 ≤ off ∧ off < 0x0C40 then
    let others := s.shares ((upTo Config.numFns).filter (fun f => f != fn))
    (if pf then s.modFn fn (fun b => { b with ten := b.ten.write others (off - 0x0C00) v }) else s)
  else if off = 0x0E00 ∨ off = 0x0E04 then
    (if s.residentFn fn then s
     else s.modFn fn (fun b => { b with fault := { b.fault with
       flogbase := setHalf b.fault.flogbase (off == 0x0E04) v &&& ~~~ 0xFFF#64, flogwr := 0#32 } }))
  else if off = 0x0E14 then
    (if s.dbgHalt fn ∧ (wordF v 0 2 = 1 ∨ wordF v 0 2 = 2) then s.dbgRes fn (wordF v 0 2 == 1) else s)
  else if 0x0E00 ≤ off ∧ off < 0x0E40 then
    s.modFn fn (fun b => { b with fault := b.fault.write pf (s.residentFn fn) (off - 0x0E00) v })
  else if fn = 0 ∧ 0x2000 ≤ off ∧ off < 0x20D0 then { s with err := s.err.write (off - 0x2000) v }
  else s

/-- A write that a function can make: the physical function in any function's view, a virtual function in its own; aligned. -/
def writeAllowed (view fn off : Nat) (wide : Bool) (v : W64) : Bool :=
  decide (fn < Config.numFns) && (view == 0 || view == fn) && off % (if wide then 8 else 4) == 0 && !ownEvent view fn off wide v

/-- A write of 32 bits, or of 64 bits as its two words. -/
def State.writeReg (s : State) (view fn off : Nat) (wide : Bool) (v : W64) : State :=
  let s1 := s.writeWord (view == 0) fn off (lo32 v)
  if wide then s1.writeWord (view == 0) fn (off + 4) (hi32 v) else s1

/-- REGISTER_WRITE (R5). -/
def execRegisterWrite (view fn off : Nat) (wide : Bool) (val : W64) (s : State) : Host.Outcome State Fault Refusal :=
  runEvent "REGISTER_WRITE" (fun _ => writeAllowed view fn off wide val) (fun t => t.writeReg view fn off wide val) s

end Sys2Proof.Machine
end

