-- ==== Sys2Proof/Machine/Schedule.lean ====
section
/-! DEFINITION. Scheduling in a quadrant (R244 to R246), aged draws (R242) and the wakes of Table 9.3. -/

namespace Sys2Proof.Machine

/-- The group's workgroup is not halted. -/
def State.unheldWg (s : State) (g : Group) : Bool :=
  match s.wg? g.wg with
  | some w => w.held.isNone
  | none => false

/-- Pending groups of a quadrant that are ready, overflow list included (R239). -/
def State.readyPending (s : State) (core quad : Nat) : List (Nat × Group) :=
  s.groups.filter (fun p => p.2.core == core && p.2.quad == quad && p.2.place != .active && p.2.wait == .ready && s.unheldWg p.2)

/-- The active set of a quadrant is full. -/
def State.activeFull (s : State) (core quad : Nat) : Bool := decide (8 ≤ (s.groupsIn core quad .active).length)

/-- Moves a pending group to the active set. -/
def State.activate (s : State) (q : Nat × Group) : State :=
  (s.setGroup q.1 { q.2 with
    place := .active, activeAt := s.cycles, lastIssue := s.cycles, yielded := false }).fillPending q.2.core q.2.quad

/-- Promotion: the pending group that has been ready the longest takes a free active place. -/
def State.promote (s : State) (core quad : Nat) : State :=
  match longest (s.readyPending core quad) (·.readyAt) with
  | some q => s.activate q
  | none => s

/-- Rotation: the longest-active group changes places with the longest-ready pending one. -/
def State.rotate (s : State) (core quad : Nat) : State :=
  match longest (s.groupsIn core quad .active) (·.activeAt), longest (s.readyPending core quad) (·.readyAt) with
  | some (i, g), some q =>
    ((s.setGroup i { g with place := q.2.place, activeAt := s.cycles, readyAt := s.cycles, stall := none }).setGroup q.1
      { q.2 with
        place := .active, activeAt := s.cycles, lastIssue := s.cycles, yielded := false }).modCore core
      (fun c => { c with rotAt := tset c.rotAt quad s.cycles })
  | _, _ => s

/-- The quadrant has not rotated for 256 cycles (R246). -/
def State.rotationDue (s : State) (core quad : Nat) : Bool := decide (tgetD (s.core core).rotAt quad 0 + 256 ≤ s.cycles)

/-- An active group that has waited on the scoreboard for more than 32 cycles (R244): for a write, or for a place in a queue.
DEDUCED (assumption 36). -/
def State.stalledLong (s : State) (core gid : Nat) : Option StallOn :=
  match s.group? gid with
  | some g => if g.core = core ∧ g.place = .active ∧ g.wait = .ready then
      (match g.stall with | some c => if c + 32 < s.cycles ∧ g.stallOn ≠ .other then some g.stallOn else none | none => none)
    else none
  | none => none

/-- The oldest entry of a bin has waited its threshold, no full draw comes before it, and the bin has made no draw in the cycle (R242). -/
def State.agedDue (s : State) (core quad bin : Nat) : Bool :=
  match tget? (s.core core).bins (binKey quad bin) with
  | some b => !b.full && !s.hasDrawn core (binKey quad bin) &&
      (match b.ents.head? with | some e => decide (e.cyc + e.thr ≤ s.cycles) | none => false) &&
      (match s.wg? b.wg with | some w => w.held.isNone | none => false)
  | none => false

/-- A group of the core that waits and is not halted. -/
def State.waits (s : State) (core gid : Nat) (f : Wait → Bool) : Bool :=
  match s.group? gid with
  | some g => g.core == core && f g.wait && s.unheldWg g
  | none => false

/-- A sleeping group goes on; the flags of its `sleep` fall (R29, R267). -/
def State.wakeSleep (s : State) (gid : Nat) : State :=
  match s.group? gid with
  | some g => (match g.wait with
    | .sleep _ fl => (s.lowerFlags g.wg fl).wake gid
    | _ => s)
  | none => s

/-! ### The meanings -/

/-- PROMOTION (R246). -/
def execPromotion (core quad : Nat) (s : State) : Host.Outcome State Fault Refusal :=
  runEvent "PROMOTION" (fun t => !t.activeFull core quad && !(t.readyPending core quad).isEmpty) (fun t => t.promote core quad) s
/-- ROTATION (R246). DESIGN CHOICE (assumption 64). -/
def execRotation (core quad : Nat) (s : State) : Host.Outcome State Fault Refusal :=
  runEvent "ROTATION" (fun t => t.activeFull core quad && !(t.readyPending core quad).isEmpty && t.rotationDue core quad)
    (fun t => t.rotate core quad) s
/-- SCOREBOARD_DEMOTION (R244). -/
def execScoreboardDemotion (core grp : Nat) (s : State) : Host.Outcome State Fault Refusal :=
  runEvent "SCOREBOARD_DEMOTION" (fun t => (t.stalledLong core grp).isSome)
    (fun t => match t.stalledLong core grp with | some on => t.park grp (.score on) | none => t) s
/-- BIN_AGED_DRAW (R242). -/
def execBinAgedDraw (core quad bin : Nat) (s : State) : Host.Outcome State Fault Refusal :=
  runEvent "BIN_AGED_DRAW" (fun t => t.agedDue core quad bin) (fun t => t.draw core quad (binKey quad bin)) s
/-- SLEEP_WAKE (R267). -/
def execSleepWake (core grp : Nat) (s : State) : Host.Outcome State Fault Refusal :=
  runEvent "SLEEP_WAKE" (fun t => t.waits core grp (fun w => match w with | .sleep at_ _ => decide (at_ ≤ t.now) | _ => false))
    (fun t => t.wakeSleep grp) s
/-- POLL_TIMEOUT (R266). -/
def execPollTimeout (core grp : Nat) (s : State) : Host.Outcome State Fault Refusal :=
  runEvent "POLL_TIMEOUT"
    (fun t => t.waits core grp (fun w => match w with | .poll _ _ (some at_) _ => decide (at_ ≤ t.now) | _ => false))
    (fun t => t.wake grp) s
/-- POLL_SPURIOUS_WAKE (R266): at any time. -/
def execPollSpuriousWake (core grp : Nat) (s : State) : Host.Outcome State Fault Refusal :=
  runEvent "POLL_SPURIOUS_WAKE" (fun t => t.waits core grp (fun w => match w with | .poll _ _ _ _ => true | _ => false))
    (fun t => t.wake grp) s

end Sys2Proof.Machine
end

