-- ==== Sys2Proof/Machine/System.lean ====
section
/-! DEFINITION. System instructions, class 0xE: system registers, counters, format and overflow tables, `xsync`, `splinter`, `migrate`,
`tret`, `bmsg` (R101 to R103, R314 to R321, R364, R387 to R391). -/

namespace Sys2Proof.Machine

/-! ### Reading system registers (R387, R389) -/

/-- `sys.tenant` (Table 12.1). -/
def State.tenantWord (s : State) (core fn : Nat) : W32 :=
  let ts := (s.core core).tenants
  BitVec.ofNat 32 (fn + (if ts.length = 2 ∧ ts[1]? = some fn then 2 ^ 8 else 0))

/-- The value of the register that selector `n` names, for a thread of the executing group. DESIGN CHOICE
(assumption 113). DESIGN CHOICE (assumption 11). -/
def Ctx.sysValue (x : Ctx) (s : State) (n : Nat) (tid : Nat) (th : Thread) : W64 :=
  let up (v : W32) : W64 := v.zeroExtend 64
  match n with
  | 0x00 => up Config.sysArch
  | 0x01 => up (sysCore x.g.core)
  | 0x02 => s.now
  | 0x03 => BitVec.ofNat 64 s.cycles + Config.clkSkew x.g.core
  | 0x04 => BitVec.ofNat 64 (s.podid % 256)
  | 0x05 => up (s.tenantWord x.g.core x.wg.fn)
  | 0x08 => BitVec.ofNat 64 tid
  | 0x09 => BitVec.ofNat 64 (laneOf tid)
  | 0x0A => BitVec.ofNat 64 (tid / 32 % 4)
  | 0x0B => x.g.pc
  | 0x0C => BitVec.ofNat 64 x.wg.g
  | 0x0D => BitVec.ofNat 64 x.wg.wgl
  | 0x0E => BitVec.ofNat 64 (2 ^ 16 * x.wg.ly + x.wg.lx)
  | 0x0F => BitVec.ofNat 64 (2 ^ 16 * x.wg.lh + x.wg.lw)
  | 0x10 => up th.fpctl
  | 0x11 => up th.fpstat
  | 0x12 => up th.srseed
  | 0x13 => th.abase
  | 0x14 => BitVec.ofNat 64 x.wg.rfage
  | 0x15 => up x.wg.mstat
  | 0x16 => up x.wg.mseed
  | 0x18 => x.wg.arg
  | 0x19 => BitVec.ofNat 64 x.wg.depth
  | 0x1A => (s.fnb x.wg.fn).shade.heapva
  | 0x1B => up s.shade.frame
  | 0x20 => up th.tcause
  | 0x21 => th.tpc
  | _ => th.taddr

/-- A pending write whose instruction has not completed: a plain or relaxed store completes when it is buffered (R29), an atomic without
destination when its home has it. -/
def PWrite.open? (w : PWrite) : Bool :=
  match w.kind with
  | .store _ => w.acc.ord != .plain && w.acc.ord != .relaxed
  | .rmw _ _ _ _ noReturn => !noReturn || w.acc.arrived.isNone
  | _ => true

/-- The thread has signed an operation that has not completed (R27, R107). -/
def State.signedOpen (s : State) (r : ThRef) : Bool :=
  (match s.wg? r.wg with
   | some w => (tvals w.conv).any (fun c => c.signers.any (fun q => q.1 == r.tid)) ||
       (s.core w.core).opq.any (fun o => o.wg == r.wg && o.signers.any (fun q => q.1 == r.tid))
   | none => false)

/-- Every instruction that the thread issued earlier has completed (R49, R29). DEDUCED (assumption 75). -/
def State.threadQuiet (s : State) (r : ThRef) : Bool :=
  !s.loads.any (fun p => p.2.acc.th == some r) && !s.writes.any (fun p => p.2.acc.th == some r && p.2.open?) &&
    !s.picots.any (fun p => p.2.acc.th == some r) && !s.fences.any (fun p => p.2.th == r) && !s.shqs.any (fun p => p.2.th == r) &&
    !s.copies.any (fun p => p.2.th == r) && !s.batches.any (fun p => p.2.th == r) && !s.rts.any (fun p => p.2.th == r) &&
    !s.msgs.any (fun p => p.2.th == r) && !s.migs.any (fun p => p.2.th == r) && !s.signedOpen r

/-- `sysr`: D takes the register with tag U32. -/
def sysrDef (s : State) (w : TWord) : AluDef :=
  plainAlu (if sysWide w then 2 else 1) (fun _ => true) (fun _ => 2) (fun l =>
    let v := l.x.sysValue s w.a.toNat l.tid l.th
    if sysWide w then pairOf v else [lo32 v])

def sysrBody (w : TWord) (x : Ctx) (s : State) : Res :=
  if w.a = 0x11#10 ∧ x.active.any (fun p => !s.threadQuiet (x.ref p.1)) = true then .stall
  else aluBody (sysrDef s w) x s

/-! ### Writing system registers (R388) -/

/-- A seed: 0 is stored as 1 (R65, R120). -/
def storeSeed (v : W32) : W32 := if v = 0#32 then 1#32 else v
/-- `sys.fpctl` after a write (R50): a DRM of 0 or 7 leaves DRM unchanged. -/
def storeFpctl (old v : W32) : W32 :=
  let drm := fieldN v.toNat 0 3
  let d : W32 := if drm = 0 ∨ drm = 7 then old &&& 7#32 else v &&& 7#32
  (v &&& 0x18#32) ||| d

/-- A thread after a write of one of its own registers. -/
def sysThread (n : Nat) (v : W64) (th : Thread) : Thread :=
  match n with
  | 0x10 => { th with fpctl := storeFpctl th.fpctl (lo32 v) }
  | 0x11 => { th with fpstat := lo32 v &&& 0x1F#32 }
  | 0x12 => { th with srseed := storeSeed (lo32 v) }
  | 0x13 => { th with abase := v }
  | 0x21 => { th with tpc := v }
  | _ => th

/-- A workgroup after a write of one of its registers (R242, R117, R120). -/
def sysWg (n : Nat) (v : W64) (w : Wg) : Wg :=
  match n with
  | 0x14 => { w with rfage := max 16 (min (lo32 v).toNat 1024) }
  | 0x15 => { w with mstat := lo32 v &&& 0x3F#32 }
  | 0x16 => { w with mseed := storeSeed (lo32 v) }
  | _ => w

/-- The value a thread writes: a 64-bit write extends a literal with zeros. -/
def Ctx.sysB (x : Ctx) (p : Nat × Thread) : W64 :=
  if sysWide x.w then srcPair x.w p.2 false x.w.b else (x.src p x.w.b).zeroExtend 64

/-- The active thread of the highest home lane. DEDUCED (assumption 76). -/
def Ctx.highest (x : Ctx) : Option (Nat × Thread) :=
  x.active.foldl (fun b p => match b with
    | some q => if laneOf q.1 < laneOf p.1 then some p else b
    | none => some p) none

def syswBody (w : TWord) (x : Ctx) (s : State) : Res :=
  match x.causes (fun p => if tagOk p.2 w.b (if sysWide w then 2 else 1) tINT then none else some .format) with
  | some t => .trap t
  | none =>
    let n := w.a.toNat
    let s1 := x.updateActive s (fun i th => sysThread n (x.sysB (i, th)) th)
    match x.highest with
    | some p => .ok (s1.modWg x.wid (sysWg n (x.sysB p)))
    | none => .ok s1

/-! ### Counters (R390) -/

/-- A counter of the tenant on the executing core; counters 10 to 15 read zero. -/
def Ctx.counter (x : Ctx) (s : State) (n : Nat) : W64 :=
  if n < 10 then tgetD (s.core x.g.core).ctr (16 * x.wg.fn + n) 0#64 else 0#64

def ctrrDef (s : State) (w : TWord) : AluDef :=
  plainAlu 2 (fun l => l.req w.a 1 tINT) (fun _ => 2) (fun l => pairOf (l.x.counter s (l.a.toNat % 16)))

/-! ### Format and overflow tables (R101, R102) -/

/-- A table is not written while a group of the workgroup is part-way through a signature: its instruction has issued (R103, R110).
DEDUCED (assumption 76). -/
def State.signingPart (s : State) (wid : Nat) : Bool := s.groups.any (fun p => p.2.wg == wid && !p.2.signed.isEmpty)

def ldfmtBody (x : Ctx) (s : State) : Res :=
  if s.signingPart x.wid then .stall .other
  else match x.causes (fun p => if descValid (x.src p x.w.a) then none else some .record) with
  | some t => .trap t
  | none =>
    match x.highest with
    | some p => .ok (s.modWg x.wid (fun v => { v with fmt := tset v.fmt (mdF x.w 0 6) (x.src p x.w.a) }))
    | none => .ok s

def ldfmtClrBody (x : Ctx) (s : State) : Res :=
  if x.active.isEmpty then .ok s
  else if s.signingPart x.wid then .stall .other
  else .ok (s.modWg x.wid (fun v => { v with fmt := terase v.fmt (mdF x.w 0 6) }))

/-- The overflow table that a quad holds (R102): entry t in bits 2t + 1 : 2t of the quad. -/
def Ctx.ovfOf (x : Ctx) (p : Nat × Thread) : BitVec 128 :=
  match srcWide x.w p.2 x.w.a 4 with
  | [a, b, c, d] => ((d ++ c) ++ (b ++ a) : BitVec 128)
  | _ => 0#128

def ldovfBody (x : Ctx) (s : State) : Res :=
  if s.signingPart x.wid then .stall .other
  else match x.causes (fun p => if ovfBad (x.ovfOf p) then some .operand else none) with
  | some t => .trap t
  | none =>
    match x.highest with
    | some p => .ok (s.modWg x.wid (fun v => { v with ovf := x.ovfOf p }))
    | none => .ok s

/-! ### `xsync`, `splinter`, `migrate` (R314 to R321) -/

/-- `xsync`: every earlier access of the executing threads has performed. Translations change at the write of a leaf, so that every
later access translates afresh (R166). -/
def xsyncBody (x : Ctx) (s : State) : Res := x.waitDone s State.accessesDone .ok

/-- Queues the operation of one thread. -/
def Ctx.queueMig (x : Ctx) (migrate : Bool) (s : State) (p : Nat × Thread) : State :=
  let (id, s1) := s.newId
  let pair (f : Fld) : Nat := (srcPair x.w p.2 false f).toNat
  let m : PMig := { id := id, th := x.ref p.1, core := x.g.core, dst := destOf x.w.d, flag := x.flag, migrate := migrate,
                    ex := mdB x.w 0, va := pair x.w.a, new := pair x.w.b, root := pair x.w.c }
  { s1 with migs := tset s1.migs id m }.modThread (x.ref p.1) (fun th =>
    (match destOf x.w.d with
     | some d => th.pendInc d
     | none => th).flagUp x.flag)

/-- `splinter` and `migrate` at issue: one at a time on a core (R319). DEDUCED (assumption 77). -/
def migBody (migrate : Bool) (x : Ctx) (s : State) : Res :=
  let ok (p : Nat × Thread) : Bool := tagOk p.2 x.w.a 2 tINT && tagOk p.2 x.w.b 2 tINT && tagOk p.2 x.w.c 2 tINT
  match x.causes (fun p => if ok p then none else some .format) with
  | some t => .trap t
  | none =>
    if s.migs.any (fun p => p.2.core == x.g.core) then .stall
    else x.boundary s x.next (fun t => .ok (x.active.foldl (x.queueMig migrate) t).startMigs)

/-! ### Return from the trap prologue (R391) -/

/-- Where a thread returns to. -/
def Ctx.returnPc (x : Ctx) (th : Thread) : W64 := if mdB x.w 0 then nextPc th.tpc else th.tpc

/-- The record of the threads that return to one program counter: the privileged level is left, and a region begins there. -/
def returned (pc : W64) (tids : List Nat) (g : Group) : Group :=
  { g with tids := tids, pc := pc, rstart := pc, begun := none, priv := false, stall := none }

/-- `tret`: threads that return to one point resume as one group; the lowest returning lane's part keeps the record.
DEDUCED (assumption 78). -/
def tretBody (x : Ctx) (s : State) : Res :=
  match x.active.filter (fun p => pcBad (x.returnPc p.2)) with
  | p :: ps => .trap { cls := clsTarget, own := some ((p :: ps).map (fun q => (q.1, 0))) }
  | [] =>
    let pcs := dedup' (x.active.map (fun p => x.returnPc p.2))
    let at_ (pc : W64) : List Nat := (x.active.filter (fun p => x.returnPc p.2 == pc)).map Prod.fst
    match pcs with
    | [] => .ok s
    | pc :: rest => x.boundary s pc (fun t =>
        let t1 := rest.foldl (fun u q => u.addPart { x.g with priv := false } ⟨at_ q, q, true⟩) t
        let t2 := x.stays.foldl (fun u q => u.addPart x.g q) t1
        .jump (t2.modGroup x.gid (returned pc (at_ pc))))

/-! ### Messages (R364) -/

/-- Sends the message of one thread. -/
def Ctx.sendMsg (x : Ctx) (s : State) (p : Nat × Thread) : State :=
  let (id, s1) := s.newId
  let bytes := (upTo 8).flatMap (fun i => leBytes 4 (p.2.reg (x.w.a.toNat + i)).v.toNat)
  let m : PMsg := { id := id, th := x.ref p.1, core := x.g.core, fn := x.wg.fn, cluster := (x.src p x.w.b).toNat, bytes := bytes,
                    dst := destOf x.w.d, flag := x.flag, st := .sent }
  { s1 with msgs := tset s1.msgs id m }.modThread (x.ref p.1) (fun th =>
    (match destOf x.w.d with
     | some d => th.pendIncs d 4
     | none => th).flagUp x.flag)

/-- Outstanding messages of a core. -/
def State.msgsOf (s : State) (core : Nat) : Nat := (s.msgs.filter (fun p => p.2.core == core)).length

/-- `bmsg`: a release of the sending threads (R363), sent in lane order up to the first thread whose target does not exist.
DEDUCED (assumption 79). -/
def bmsgBody (x : Ctx) (s : State) : Res :=
  match x.causes (fun p => if tagOk p.2 x.w.b 1 tINT then none else some .format) with
  | some t => .trap t
  | none =>
    let good := x.active.takeWhile (fun p => decide ((x.src p x.w.b).toNat < Config.numClusters))
    if Config.msgQueue < s.msgsOf x.g.core + good.length then .stall .msgQueue
    else x.waitDone s State.allDone (fun t =>
      let t1 := good.foldl x.sendMsg t
      match (x.active.drop good.length).head? with
      | some p => .fault (x.accFault p.1 0 clsPerm 0) t1
      | none => .ok t1)

/-! ### The meanings -/

def execSysr (w : TWord) (s : State) : Host.Outcome State Fault Refusal := runThrum (sigSysr w) w [] (sysrBody w) s
def execSysw (w : TWord) (s : State) : Host.Outcome State Fault Refusal := runThrum (sigSysw w) w [] (syswBody w) s
def execCtrr (w : TWord) (s : State) : Host.Outcome State Fault Refusal :=
  runThrum (sigCtrr w) w [] (fun x t => aluBody (ctrrDef t w) x t) s
def execLdfmt (w : TWord) (s : State) : Host.Outcome State Fault Refusal := runThrum (sigLdfmt w) w [] ldfmtBody s
def execLdfmtClr (w : TWord) (s : State) : Host.Outcome State Fault Refusal := runThrum (sigLdfmtClr w) w [] ldfmtClrBody s
def execLdovf (w : TWord) (s : State) : Host.Outcome State Fault Refusal := runThrum (sigLdovf w) w [] ldovfBody s
def execXsync (w : TWord) (s : State) : Host.Outcome State Fault Refusal := runThrum (sigXsync w) w [] xsyncBody s
def execSplinter (w : TWord) (s : State) : Host.Outcome State Fault Refusal := runThrum (sigSplinter w) w [] (migBody false) s
def execMigrate (w : TWord) (s : State) : Host.Outcome State Fault Refusal := runThrum (sigMigrate w) w [] (migBody true) s
def execTret (w : TWord) (s : State) : Host.Outcome State Fault Refusal := runThrum (sigTret w) w [] tretBody s
def execBmsg (w : TWord) (s : State) : Host.Outcome State Fault Refusal := runThrum (sigBmsg w) w [] bmsgBody s

end Sys2Proof.Machine
end

