-- ==== Sys2Proof/Machine/Traverse.lean ====
section
/-! DEFINITION. The traversal unit (R230 to R233). -/

namespace Sys2Proof.Machine

/-! ### The record and the node format (Table 8.12, Table 8.13) -/

/-- A node-format descriptor. -/
structure NodeFmt where
  boff : Nat
  coff : Nat
  bt   : Nat
  msk  : Bool
  wide : Bool
  ccnt : Nat
  size : Nat
  cmoff : Nat
  lb   : Nat
  loff : Nat
  moff : Nat
deriving DecidableEq, Repr

/-- The descriptor of a record, from byte 24. -/
def nodeFmt (r : List Byte) : NodeFmt :=
  let w := recVal r 24 4
  let v := recVal r 28 4
  { boff := fieldN w 24 8, coff := fieldN w 16 8, bt := fieldN w 14 2, msk := bitN w 13, wide := bitN w 12, ccnt := fieldN w 8 4,
    size := 16 * fieldN w 0 8, cmoff := fieldN v 24 8, lb := fieldN v 16 3, loff := fieldN v 8 8, moff := fieldN v 0 8 }

/-- Bytes of a stored bound. -/
def NodeFmt.boundBytes (f : NodeFmt) : Nat := if f.bt = 0 then 24 else if f.bt = 1 then 12 else if f.bt = 2 then 16 else 0
/-- Bytes of the child field. -/
def NodeFmt.childBytes (f : NodeFmt) : Nat := if f.wide then 8 else 4

/-- An invalid descriptor (R230). -/
def NodeFmt.bad (f : NodeFmt) : Bool :=
  decide (f.size = 0 ∨ 256 < f.size) || decide (f.ccnt = 0 ∨ 8 < f.ccnt) ||
    (f.bt != 3 && decide (f.size < f.boff + f.boundBytes)) || decide (f.size < f.coff + f.childBytes) ||
    decide (f.size ≤ f.loff) || (f.msk && decide (f.size ≤ f.moff)) || (f.cmoff != 0xFF && decide (f.size < f.cmoff + 12)) ||
    decide (f.coff % f.childBytes ≠ 0) || ((f.bt == 0 || f.bt == 2) && decide (f.boff % 4 ≠ 0)) ||
    (f.bt == 1 && decide (f.boff % 2 ≠ 0)) || (f.cmoff != 0xFF && decide (f.cmoff % 4 ≠ 0)) || (f.bt == 3 && f.ccnt != 8)

/-- A traversal record as the unit reads it. -/
structure TravRec where
  kind : Nat
  started : Bool
  scap : Nat
  sp   : Nat
  tbase : Nat
  root : Nat
  fmt  : NodeFmt
  g    : List Ex
  cell : List Ex
deriving DecidableEq, Repr

def travRec (r : List Byte) : TravRec :=
  let c := recVal r 0 4
  { kind := fieldN c 0 2, started := bitN c 2, scap := fieldN c 16 16, sp := recVal r 4 4, tbase := recVal r 8 8,
    root := recVal r 16 4, fmt := nodeFmt r, g := (upTo 8).map (fun i => f32V (recVal r (40 + 4 * i) 4)),
    cell := (upTo 4).map (fun i => f32V (recVal r (72 + 4 * i) 4)) }

/-- G0 to G7, and the root cube. -/
def TravRec.G (r : TravRec) (i : Nat) : Ex := r.g.getD i exNaN
def TravRec.C (r : TravRec) (i : Nat) : Ex := r.cell.getD i exNaN

/-- A record with a reserved bit set, a SCAP outside 1 to 4,096, a misaligned TBASE, or an invalid descriptor (R230 to R232). -/
def badTrav (r : List Byte) : Bool :=
  let t := travRec r
  fieldN (recVal r 0 4) 3 13 != 0 || recVal r 20 4 != 0 || fieldN (recVal r 28 4) 19 5 != 0 || recVal r 32 8 != 0 ||
    recVal r 104 24 != 0 || decide (t.scap = 0 ∨ 4096 < t.scap) || decide (t.tbase % 16 ≠ 0) || t.fmt.bad

/-! ### Bounds (R230, R233) -/

/-- A cell of an implicit octree: coordinates and depth. -/
structure TCell where
  x : Nat := 0
  y : Nat := 0
  z : Nat := 0
  d : Nat := 0
deriving DecidableEq, Repr

/-- The child of a cell in octant `c`. -/
def TCell.child (q : TCell) (c : Nat) : TCell :=
  { x := 2 * q.x + fieldN c 0 1, y := 2 * q.y + fieldN c 1 1, z := 2 * q.z + fieldN c 2 1, d := q.d + 1 }

/-- A bound: a box by axis, or a sphere. -/
inductive Bound where
  | box (lo hi : List Ex)
  | sphere (c : List Ex) (r : Ex)
deriving DecidableEq, Repr

/-- The side of a cell. -/
def TravRec.side (r : TravRec) (q : TCell) : Ex := (exMul (r.C 3) (.fin false 1 (-(q.d : Int)) false)).getD exNaN

/-- The bound of a cell: its greatest corner is exact, so that no test fails where exact arithmetic passes (R233). -/
def TravRec.cellBound (r : TravRec) (q : TCell) : Bound :=
  let s := r.side q
  let lo (m : Ex) (k : Nat) : Ex := fAdd rnE m (fMul rnE (exInt k) s)
  let l := [lo (r.C 0) q.x, lo (r.C 1) q.y, lo (r.C 2) q.z]
  .box l (l.map (fun a => (exAdds (some a) (some s)).getD exNaN))

/-- The bound stored in a node. -/
def TravRec.bound (r : TravRec) (node : List Byte) (q : TCell) : Bound :=
  let f (i : Nat) : Ex := f32V (recVal node (r.fmt.boff + 4 * i) 4)
  let h (i : Nat) : Ex := f16F.val (recVal node (r.fmt.boff + 2 * i) 2)
  if r.fmt.bt = 0 then .box [f 0, f 1, f 2] [f 3, f 4, f 5]
  else if r.fmt.bt = 1 then .box [h 0, h 1, h 2] [h 3, h 4, h 5]
  else if r.fmt.bt = 2 then .sphere [f 0, f 1, f 2] (f 3)
  else r.cellBound q

/-! ### Test (R233) -/

/-- A slab: whether it can be passed, with its entry and exit; a zero direction has neither. -/
inductive Slab where
  | miss
  | free
  | span (entry exit : Ex)
deriving DecidableEq, Repr

/-- The slab of one axis: entries round down, exits round up. -/
def slabOf (o d lo hi : Ex) : Slab :=
  if o.isNaN || d.isNaN || lo.isNaN || hi.isNaN then .miss
  else if d.isZero then (if exLe lo o && exLe o hi then .free else .miss)
  else if d.sign then .span (fDiv rnDn (fSub rnDn o hi) (exAbs d)) (fDiv rnUp (fSub rnUp o lo) (exAbs d))
  else .span (fDiv rnDn (fSub rnDn lo o) d) (fDiv rnUp (fSub rnUp hi o) d)

/-- A ray against a box: the key where it passes. -/
def rayBox (o d lo hi : List Ex) (tmin tmax : Ex) : Option Ex :=
  let ss := (upTo 3).map (fun i => slabOf (o.getD i exNaN) (d.getD i exNaN) (lo.getD i exNaN) (hi.getD i exNaN))
  let ends := ss.filterMap (fun s => match s with | .span a b => some (a, b) | _ => none)
  if ss.contains .miss || tmin.isNaN || tmax.isNaN || ends.any (fun q => q.1.isNaN || q.2.isNaN) then none
  else
    let t0 := ends.foldl (fun m q => exMax m q.1) tmin
    let t1 := ends.foldl (fun m q => exMin m q.2) tmax
    if exLe t0 t1 then some t0 else none

/-- Σ aᵢ·bᵢ, exact. -/
def dot (a b : List Ex) : Option Ex := (a.zip b).foldl (fun s q => exAdds s (exMuls (some q.1) (some q.2))) (some (exZero false))

/-- Component by component, exact. -/
def vecSub (a b : List Ex) : List (Option Ex) := (a.zip b).map (fun q => exAdds (some q.1) (some (exNeg q.2)))

/-- The parameter of the point of the segment closest to a centre: exact, about 200 bits. -/
def closest (o d c : List Ex) (tmin tmax : Ex) : Option Ex :=
  match (vecSub c o).mapM id with
  | none => none
  | some v =>
    match dot v d, dot d d with
    | some n, some m =>
      let t := if m.isZero then some tmin else exDiv n m
      t.map (fun t => exMin (exMax tmin t) tmax)
    | _, _ => none

/-- The squared distance from a centre to the segment: at an end of it exactly, between its ends |c − o|² − ((c − o)·d)²/(d·d). -/
def segDist2 (o d c : List Ex) (tmin tmax : Ex) : Option Ex :=
  match (vecSub c o).mapM id, closest o d c tmin tmax with
  | some v, some t =>
    match dot v v, dot v d, dot d d with
    | some vv, some vd, some dd =>
      if dd.isZero then some vv
      else if exEq t tmin || exEq t tmax then
        exAdds (some vv) (exAdds (exMuls (some (exNeg (exInt 2))) (exMuls (some t) (some vd))) (exMuls (exMuls (some t) (some t)) (some dd)))
      else
        (match exAdds (exMuls (some vv) (some dd)) ((exMuls (some vd) (some vd)).map exNeg) with
         | some n => exDiv n dd
         | none => none)
    | _, _, _ => none
  | _, _ => none

/-- A ray against a sphere; the key is rounded to nearest even. DESIGN CHOICE (assumption 152). -/
def raySphere (o d c : List Ex) (r tmin tmax : Ex) : Option Ex :=
  if r.isNaN || !exLe tmin tmax || !((o ++ d ++ c).all Ex.finite) then none
  else match segDist2 o d c tmin tmax, closest o d c tmin tmax with
    | some q, some t =>
      if exLe (f32R rnZ (exRoot q)) r then some (exMax tmin (fSub rnE (f32R rnE t) r)) else none
    | _, _ => none

/-- The squared distance from a point to a bound, rounded toward zero. -/
def boundDist2 (p : List Ex) (b : Bound) : Ex :=
  match b with
  | .box lo hi =>
    if (p ++ lo ++ hi).any Ex.isNaN then exNaN
    else
      let gap (i : Nat) : Option Ex :=
        let x := p.getD i exNaN
        let l := lo.getD i exNaN
        let h := hi.getD i exNaN
        if exLt x l then exAdds (some l) (some (exNeg x)) else if exLt h x then exAdds (some x) (some (exNeg h)) else some (exZero false)
      f32Of rnZ ((upTo 3).foldl (fun s i => exAdds s (exMuls (gap i) (gap i))) (some (exZero false)))
  | .sphere c r =>
    if r.isNaN then exNaN
    else match (vecSub p c).mapM id with
      | none => exNaN
      | some v =>
        match dot v v with
        | none => exNaN
        | some q =>
          let g := exAdds (some (exRoot q)) (some (exNeg r))
          (match g with
           | some x => if x.sign || x.isZero then exZero false else f32Of rnZ (exMuls (some x) (some x))
           | none => exNaN)

/-- Test of a bound: the key where it passes; every child passes for KIND 3. DEDUCED (assumption 151). -/
def TravRec.test (r : TravRec) (b : Bound) : Option Ex :=
  if r.kind ≤ 1 then
    (let o := [r.G 0, r.G 1, r.G 2]
     let d := [r.G 3, r.G 4, r.G 5]
     match b with
     | .box lo hi => rayBox o d lo hi (r.G 6) (r.G 7)
     | .sphere c q => raySphere o d c q (r.G 6) (r.G 7))
  else if r.kind = 2 then
    (if exLe (boundDist2 [r.G 0, r.G 1, r.G 2] b) (fMul rnUp (r.G 3) (r.G 3)) then some (exZero false) else none)
  else some (exZero false)

/-! ### Open (R233) -/

/-- The greatest of numbers; a NaN stays one. -/
def maxAll (xs : List Ex) : Ex :=
  if xs.any Ex.isNaN then exNaN else match xs with
    | y :: ys => ys.foldl exMax y
    | [] => exNaN

/-- Size and centre of a bound, rounded to nearest even. DESIGN CHOICE (assumption 153). -/
def TravRec.sizeOf (r : TravRec) (b : Bound) (q : TCell) : Ex :=
  match b with
  | .box lo hi => if r.fmt.bt = 3 then r.side q else maxAll ((lo.zip hi).map (fun p => fSub rnE p.2 p.1))
  | .sphere _ x => fMul rnE (exInt 2) x
def TravRec.centre (r : TravRec) (node : List Byte) (b : Bound) : List Ex :=
  if r.fmt.cmoff ≠ 0xFF then (upTo 3).map (fun i => f32V (recVal node (r.fmt.cmoff + 4 * i) 4))
  else match b with
    | .box lo hi => (lo.zip hi).map (fun p => fMul rnE (fAdd rnE p.1 p.2) (.fin false 1 (-1) false))
    | .sphere c _ => c

/-- Whether a node is accepted without being opened. -/
def TravRec.opened (r : TravRec) (node : List Byte) (q : TCell) : Bool :=
  let b := r.bound node q
  let s := r.sizeOf b q
  let dist := ([r.G 0, r.G 1, r.G 2].zip (r.centre node b)).map (fun p => fSub rnE p.1 p.2)
  let sum := dist.foldl (fun a x => fAdd rnE a (fMul rnE x x)) (exZero false)
  let l := fMul rnE s s
  let t := fMul rnE (fMul rnE (r.G 3) (r.G 3)) sum
  !l.isNaN && !t.isNaN && exLt l t

/-! ### The loop (R232) -/

/-- A stack entry. -/
structure TEnt where
  n   : Nat
  key : Nat
  q   : TCell
deriving DecidableEq, Repr

def TEnt.bytes (e : TEnt) : List Byte :=
  leBytes 4 e.n ++ leBytes 4 e.key ++ leBytes 4 (e.q.x + 2 ^ 16 * e.q.y) ++ leBytes 4 (e.q.z + 2 ^ 16 * e.q.d)
def tEntOf (b : List Byte) : TEnt :=
  let w2 := recVal b 8 4
  let w3 := recVal b 12 4
  ⟨recVal b 0 4, recVal b 4 4, ⟨fieldN w2 0 16, fieldN w2 16 16, fieldN w3 0 16, fieldN w3 16 5⟩⟩

/-- What a walk of the unit carries: the stack pointer, the stack entries it has written, and the nodes it has read. -/
structure TSt where
  sp : Nat
  st : Tab TEnt := []
  seen : List Nat := []
deriving DecidableEq, Repr

/-- What the unit reads: scratchpad bytes of the allocation, and nodes. -/
structure TEnv where
  r    : TravRec
  off  : Nat
  ssize : Nat
  scr  : Nat → Nat → List Byte
  node : Nat → Answer (List Byte)

/-- How a call ends. -/
inductive TEnd where
  | done (t : TSt)
  | ret (code : Nat) (e : TEnt) (t : TSt)
  | limit (e : TEnt) (t : TSt)

def TSt.push (t : TSt) (e : TEnt) : TSt := { t with sp := t.sp + 1, st := tset t.st t.sp e }
/-- Nodes have been read. -/
def TSt.saw (t : TSt) (ns : List Nat) : TSt := { t with seen := t.seen ++ ns }

/-- The children of a node that are present, with their indices. -/
def TravRec.kids (r : TravRec) (node : List Byte) : List (Nat × Nat) :=
  let first := recVal node r.fmt.coff r.fmt.childBytes
  let cs := (upTo r.fmt.ccnt).filter (fun c => !r.fmt.msk || bitN (recVal node r.fmt.moff 1) c)
  ((upTo cs.length).zip cs).map (fun q => (q.2, (first + q.1) % 2 ^ 32))

/-- The children that pass Test, in child order, with their keys; the depth of a child counts modulo 32 where BT is not 3.
DESIGN CHOICE (assumption 150). -/
def TEnv.passing (v : TEnv) (q : TCell) : List (Nat × Nat) → Answer (List (Nat × TEnt))
  | [] => .ok []
  | (c, n) :: ks =>
    let q' := if v.r.fmt.bt = 3 then q.child c else { q with d := (q.d + 1) % 32 }
    let go (b : Bound) : Answer (List (Nat × TEnt)) :=
      (match v.passing q ks with
       | .ok es => .ok (match v.r.test b with | some k => (c, ⟨n, f32Code rnE k, q'⟩) :: es | none => es)
       | r => r)
    if v.r.fmt.bt = 3 then go (v.r.cellBound q')
    else match v.node n with
      | .ok bs => go (v.r.bound bs q')
      | .fault r a x y => .fault r a x y
      | .unread r a n e => .unread r a n e
      | .trap r x a => .trap r x a
      | .wait => .wait

/-- The order in which children are pushed: the one to be popped first comes last. -/
def pushOrder (kind : Nat) (es : List (Nat × TEnt)) : List TEnt :=
  let before (a b : Nat × TEnt) : Bool :=
    if kind = 0 then exLt (f32V a.2.key) (f32V b.2.key) || (!exLt (f32V b.2.key) (f32V a.2.key) && decide (a.1 ≤ b.1))
    else decide (a.1 ≤ b.1)
  ((es.mergeSort before).map Prod.snd).reverse

/-- The loop of R232, for at most `fuel` nodes; a walk that goes on longer has not returned. -/
def TEnv.loop (v : TEnv) : Nat → TSt → Answer TEnd
  | 0, _ => .wait
  | fuel + 1, t =>
    if t.sp = 0 then .ok (.done t)
    else
      let k := t.sp - 1
      let o := v.off + 128 + 16 * k
      if v.ssize < o + 16 then .fault 3 o clsPerm 0
      else
        let e := (tget? t.st k).getD (tEntOf (v.scr o 16))
        let t1 := { t with sp := k }
        if v.r.kind = 0 ∧ exLt (v.r.G 7) (f32V e.key) = true then v.loop fuel t1
        else match v.node e.n with
          | .fault r a x y => .fault r a x y
          | .unread r a n e => .unread r a n e
          | .trap r x a => .trap r x a
          | .wait => .wait
          | .ok bs =>
            if bitN (recVal bs v.r.fmt.loff 1) v.r.fmt.lb then .ok (.ret 1 e (t1.saw [e.n]))
            else if v.r.kind = 3 ∧ v.r.opened bs e.q = true then .ok (.ret 2 e (t1.saw [e.n]))
            else match v.passing e.q (v.r.kids bs) with
              | .fault r a x y => .fault r a x y
              | .unread r a n e => .unread r a n e
              | .trap r x a => .trap r x a
              | .wait => .wait
              | .ok es =>
                let t2 := t1.saw (e.n :: if v.r.fmt.bt = 3 then [] else (v.r.kids bs).map Prod.snd)
                if v.r.scap < k + es.length ∨ (v.r.fmt.bt = 3 ∧ e.q.d = 16) then .ok (.limit e t2)
                else v.loop fuel ((pushOrder v.r.kind es).foldl TSt.push t2)

/-- The start of a query: the root is pushed when its bound passes. -/
def TEnv.start (v : TEnv) : Answer TSt :=
  if v.r.started then .ok { sp := v.r.sp }
  else
    let key := if v.r.kind ≤ 1 then f32Code rnE (v.r.G 6) else 0
    let t : TSt := { sp := 0, seen := if v.r.fmt.bt = 3 then [] else [v.r.root] }
    let go (b : Bound) : Answer TSt := .ok (match v.r.test b with | some _ => t.push ⟨v.r.root, key, {}⟩ | none => t)
    if v.r.fmt.bt = 3 then go (v.r.cellBound {})
    else match v.node v.r.root with
      | .ok bs => go (v.r.bound bs {})
      | .fault r a x y => .fault r a x y
      | .unread r a n e => .unread r a n e
      | .trap r x a => .trap r x a
      | .wait => .wait

/-! ### The instruction -/

/-- Nodes that one call may visit; the walk of a tree is shorter. -/
def travFuel : Nat := 2 ^ 40

/-- Whether a read of a node has to wait for its line (R349, R351): it is tagged, and the line is not in its home slice or the
request for it is not complete. -/
def Ctx.nodeMiss (x : Ctx) (s : State) (a : Nat) : Bool :=
  (match s.access (agTlb x.g.core) x.wg.fn (x.ranges s) a 16 needR with
     | (.ok t, _) => (s.tagFor x.wg.fn a t).isSome && (match t.tgt with
       | .glob pa _ => !(s.line (pa / 64)).present ||
           s.loads.any (fun p => p.2.unit && p.2.acc.core == x.g.core && p.2.acc.fn == x.wg.fn && p.2.acc.tgt.base / 64 == pa / 64)
       | _ => false)
     | _ => false)

/-- Sends the request for a node's line, unless it is out already. -/
def Ctx.sendNode (x : Ctx) (s : State) (a : Nat) : State :=
  match s.access (agTlb x.g.core) x.wg.fn (x.ranges s) a 16 needR with
  | (.ok t, s1) =>
    (match t.tgt with
     | .glob pa mt =>
       if s.loads.any (fun p => p.2.unit && p.2.acc.core == x.g.core && p.2.acc.fn == x.wg.fn && p.2.acc.tgt.base / 64 == pa / 64) then s1
       else
         let (id, s2) := s1.newId
         let acc : Acc :=
           { id := id, th := none, core := x.g.core, fn := x.wg.fn, launch := x.wg.launch, pc := x.g.pc, va := a / 64 * 64,
             tgt := .glob (pa / 64 * 64) mt, n := 64, ord := .plain, agent := agTlb x.g.core,
             inc := tgetD s.incs (agTlb x.g.core) 0, path := t.path, range := s.tagFor x.wg.fn a t }
         { s2 with loads := tset s2.loads id { acc := acc, dst := none, sext := false, tag := 0, unit := true } }
     | _ => s1)
  | (_, s1) => s1

/-- Reads a node in 16-byte units as the thread's plain reads; class 0 marks a line that has to come first. -/
def Ctx.readNode (x : Ctx) (s : State) (tid a : Nat) : Nat → Answer (List Byte)
  | 0 => .ok []
  | k + 1 =>
    match x.readRecord s tid a 16 with
    | .error e => .unread 3 a 16 e
    | .ok bs =>
      if x.nodeMiss s a then .fault 6 a 0 0
      else (match x.readNode s tid (a + 16) k with
        | .ok cs => .ok (bs ++ cs)
        | r => r)

/-- The scratchpad writes of a call: CTL with STARTED, SP, the stack entries pushed, LAST. -/
def travPuts (off ctl : Nat) (t : TSt) (last : Option TEnt) : List (Nat × List Byte) :=
  [(off, leBytes 4 (ctl ||| 4) ++ leBytes 4 t.sp)] ++ t.st.map (fun p => (off + 128 + 16 * p.1, p.2.bytes)) ++
    (match last with | some e => [(off + 88, e.bytes)] | none => [])

/-- The result quad: result and depth, node index, key, SP. -/
def travQuad (code : Nat) (e : TEnt) (sp : Nat) : List (W32 × Nat) :=
  [(BitVec.ofNat 32 (code + 256 * e.q.d), 2), (BitVec.ofNat 32 e.n, 2), (BitVec.ofNat 32 e.key, 3), (BitVec.ofNat 32 sp, 2)]

/-- The free entry that stands in the result of a DONE, of which the spec gives neither node nor depth, nor the key of a ray
(assumption 8); the key of another kind is 0.0. DESIGN CHOICE (assumption 8). -/
def doneEntry (kind : Nat) (f : W64) (g : W64) : TEnt :=
  ⟨(lo32 f).toNat, if kind ≤ 1 then (hi32 f).toNat else 0, { d := g.toNat % 32 }⟩

/-- The operation of one thread. -/
def travOne (x : Ctx) (s : State) (p : Nat × Thread) : Answer UnitOut :=
  let a := (src x.w p.2 (laneOf p.1) x.w.a).toNat
  if !tagOk p.2 x.w.a 1 tINT then .trap 0 clsFormat 0
  else if a % 16 ≠ 0 then .trap 1 clsAlign a
  else x.scratch s 2 a 128 (fun r =>
    x.scratch s 2 a (128 + 16 * (travRec r).scap) (fun _ =>
      if badTrav r then .trap 4 clsRecord 0
      else
        let t := travRec r
        let v : TEnv :=
          { r := t, off := a, ssize := x.wg.ssize, scr := fun o n => s.scrRead x.g.core (x.wg.sbase + o) n,
            node := fun n => x.readNode s p.1 (t.tbase + n * t.fmt.size) (t.fmt.size / 16) }
        match v.start with
        | .fault _ b c k => .fault 5 b c k
        | .unread _ b n e => .unread 5 b n e
        | .trap k c b => .trap k c b
        | .wait => .wait
        | .ok t0 =>
          let reads (u : TSt) : List (Nat × Nat) := (dedup' u.seen).flatMap (fun n =>
            (upTo (t.fmt.size / 16)).map (fun i => (t.tbase + n * t.fmt.size + 16 * i, 16)))
          match v.loop travFuel t0 with
          | .fault _ b c k => .fault 5 b c k
          | .unread _ b n e => .unread 5 b n e
          | .trap k c b => .trap k c b
          | .wait => .wait
          | .ok (.done t1) =>
            .ok { vals := travQuad 0 (doneEntry t.kind (Config.freeWord (s.fresh + 2 * p.1)) (Config.freeWord (s.fresh + 2 * p.1 + 1))) t1.sp,
                  puts := travPuts a (recVal r 0 4) t1 none, reads := reads t1 }
          | .ok (.ret c e t1) => .ok { vals := travQuad c e t1.sp, puts := travPuts a (recVal r 0 4) t1 (some e), reads := reads t1 }
          | .ok (.limit e t1) => .ok { vals := travQuad 3 e t.sp, puts := [], reads := reads t1 }))

/-- `trav`: free values are taken for every thread of the workgroup, so that the next ones are fresh. -/
def travBody (x : Ctx) (s : State) : Res :=
  match unitBody travOne x s with
  | .ok t => .ok { t with fresh := t.fresh + 4096 }
  | .fault f t => if f.cls = 0 then .hold (x.sendNode t f.addr) .other else .fault f t
  | r => r

def execTrav (w : TWord) (s : State) : Host.Outcome State Fault Refusal := runThrum (sigTrav w) w [] travBody s

end Sys2Proof.Machine
end

