-- ==== Sys2Proof/Machine/Dispatch.lean ====
section
/-! DEFINITION. Which meaning each operation has. -/

namespace Sys2Proof.Machine

def exec (i : Instr) (s : State) : Host.Outcome State Fault Refusal :=
  match i with
  | .add w => Sys2Proof.Machine.execAdd w s
  | .sub w => Sys2Proof.Machine.execSub w s
  | .mul w => Sys2Proof.Machine.execMul w s
  | .mulhi w => Sys2Proof.Machine.execMulhi w s
  | .mad w => Sys2Proof.Machine.execMad w s
  | .mulw w => Sys2Proof.Machine.execMulw w s
  | .madw w => Sys2Proof.Machine.execMadw w s
  | .addc w => Sys2Proof.Machine.execAddc w s
  | .subc w => Sys2Proof.Machine.execSubc w s
  | .min w => Sys2Proof.Machine.execMin w s
  | .max w => Sys2Proof.Machine.execMax w s
  | .abs w => Sys2Proof.Machine.execAbs w s
  | .neg w => Sys2Proof.Machine.execNeg w s
  | .cmp w => Sys2Proof.Machine.execCmp w s
  | .sel w => Sys2Proof.Machine.execSel w s
  | .and w => Sys2Proof.Machine.execAnd w s
  | .or w => Sys2Proof.Machine.execOr w s
  | .xor w => Sys2Proof.Machine.execXor w s
  | .not w => Sys2Proof.Machine.execNot w s
  | .lop3 w => Sys2Proof.Machine.execLop3 w s
  | .shl w => Sys2Proof.Machine.execShl w s
  | .shr w => Sys2Proof.Machine.execShr w s
  | .fsh w => Sys2Proof.Machine.execFsh w s
  | .bfe w => Sys2Proof.Machine.execBfe w s
  | .bfi w => Sys2Proof.Machine.execBfi w s
  | .popc w => Sys2Proof.Machine.execPopc w s
  | .clz w => Sys2Proof.Machine.execClz w s
  | .ctz w => Sys2Proof.Machine.execCtz w s
  | .brev w => Sys2Proof.Machine.execBrev w s
  | .mov w => Sys2Proof.Machine.execMov w s
  | .plop w => Sys2Proof.Machine.execPlop w s
  | .p2r w => Sys2Proof.Machine.execP2r w s
  | .r2p w => Sys2Proof.Machine.execR2p w s
  | .fadd w => Sys2Proof.Machine.execFadd w s
  | .fsub w => Sys2Proof.Machine.execFsub w s
  | .fmul w => Sys2Proof.Machine.execFmul w s
  | .ffma w => Sys2Proof.Machine.execFfma w s
  | .fmin w => Sys2Proof.Machine.execFmin w s
  | .fmax w => Sys2Proof.Machine.execFmax w s
  | .fcmp w => Sys2Proof.Machine.execFcmp w s
  | .cvt w => Sys2Proof.Machine.execCvt w s
  | .cvtnPack w => Sys2Proof.Machine.execCvtnPack w s
  | .cvtnUnpack w => Sys2Proof.Machine.execCvtnUnpack w s
  | .settag w => Sys2Proof.Machine.execSettag w s
  | .gettag w => Sys2Proof.Machine.execGettag w s
  | .frcp w => Sys2Proof.Machine.execFrcp w s
  | .frsqrt w => Sys2Proof.Machine.execFrsqrt w s
  | .fsqrt w => Sys2Proof.Machine.execFsqrt w s
  | .fexp2 w => Sys2Proof.Machine.execFexp2 w s
  | .flog2 w => Sys2Proof.Machine.execFlog2 w s
  | .fsin w => Sys2Proof.Machine.execFsin w s
  | .fcos w => Sys2Proof.Machine.execFcos w s
  | .hadd2 w => Sys2Proof.Machine.execHadd2 w s
  | .hsub2 w => Sys2Proof.Machine.execHsub2 w s
  | .hmul2 w => Sys2Proof.Machine.execHmul2 w s
  | .hfma2 w => Sys2Proof.Machine.execHfma2 w s
  | .hmin2 w => Sys2Proof.Machine.execHmin2 w s
  | .hmax2 w => Sys2Proof.Machine.execHmax2 w s
  | .dp4a w => Sys2Proof.Machine.execDp4a w s
  | .dp2bf w => Sys2Proof.Machine.execDp2bf w s
  | .dadd w => Sys2Proof.Machine.execDadd w s
  | .dsub w => Sys2Proof.Machine.execDsub w s
  | .dmul w => Sys2Proof.Machine.execDmul w s
  | .dfma w => Sys2Proof.Machine.execDfma w s
  | .dmin w => Sys2Proof.Machine.execDmin w s
  | .dmax w => Sys2Proof.Machine.execDmax w s
  | .dcmp w => Sys2Proof.Machine.execDcmp w s
  | .dcvt w => Sys2Proof.Machine.execDcvt w s
  | .shfl w => Sys2Proof.Machine.execShfl w s
  | .push w => Sys2Proof.Machine.execPush w s
  | .vote w => Sys2Proof.Machine.execVote w s
  | .matchOp w => Sys2Proof.Machine.execMatchOp w s
  | .xred w => Sys2Proof.Machine.execXred w s
  | .xscan w => Sys2Proof.Machine.execXscan w s
  | .nop w => Sys2Proof.Machine.execNop w s
  | .bra w => Sys2Proof.Machine.execBra w s
  | .brx w => Sys2Proof.Machine.execBrx w s
  | .call w => Sys2Proof.Machine.execCall w s
  | .callInd w => Sys2Proof.Machine.execCallInd w s
  | .ret w => Sys2Proof.Machine.execRet w s
  | .reform w => Sys2Proof.Machine.execReform w s
  | .yield w => Sys2Proof.Machine.execYield w s
  | .poll w => Sys2Proof.Machine.execPoll w s
  | .sleep w => Sys2Proof.Machine.execSleep w s
  | .region w => Sys2Proof.Machine.execRegion w s
  | .exit w => Sys2Proof.Machine.execExit w s
  | .trap w => Sys2Proof.Machine.execTrap w s
  | .bkpt w => Sys2Proof.Machine.execBkpt w s
  | .ld w => Sys2Proof.Machine.execLd w s
  | .st w => Sys2Proof.Machine.execSt w s
  | .lds w => Sys2Proof.Machine.execLds w s
  | .sts w => Sys2Proof.Machine.execSts w s
  | .pf w => Sys2Proof.Machine.execPf w s
  | .evict w => Sys2Proof.Machine.execEvict w s
  | .atom w => Sys2Proof.Machine.execAtom w s
  | .atomn w => Sys2Proof.Machine.execAtomn w s
  | .cas w => Sys2Proof.Machine.execCas w s
  | .atoms w => Sys2Proof.Machine.execAtoms w s
  | .cass w => Sys2Proof.Machine.execCass w s
  | .fence w => Sys2Proof.Machine.execFence w s
  | .acp w => Sys2Proof.Machine.execAcp w s
  | .tcp w => Sys2Proof.Machine.execTcp w s
  | .tmc w => Sys2Proof.Machine.execTmc w s
  | .tsf w => Sys2Proof.Machine.execTsf w s
  | .tst w => Sys2Proof.Machine.execTst w s
  | .trst w => Sys2Proof.Machine.execTrst w s
  | .rcp w => Sys2Proof.Machine.execRcp w s
  | .pinit w => Sys2Proof.Machine.execPinit w s
  | .parr w => Sys2Proof.Machine.execParr w s
  | .parrb w => Sys2Proof.Machine.execParrb w s
  | .pwait w => Sys2Proof.Machine.execPwait w s
  | .ptest w => Sys2Proof.Machine.execPtest w s
  | .cinit w => Sys2Proof.Machine.execCinit w s
  | .mjoin w => Sys2Proof.Machine.execMjoin w s
  | .mld w => Sys2Proof.Machine.execMld w s
  | .mldq w => Sys2Proof.Machine.execMldq w s
  | .mswap w => Sys2Proof.Machine.execMswap w s
  | .mstream w => Sys2Proof.Machine.execMstream w s
  | .mdrain w => Sys2Proof.Machine.execMdrain w s
  | .mzero w => Sys2Proof.Machine.execMzero w s
  | .mrowSt w => Sys2Proof.Machine.execMrowSt w s
  | .mrowLd w => Sys2Proof.Machine.execMrowLd w s
  | .rast w => Sys2Proof.Machine.execRast w s
  | .trav w => Sys2Proof.Machine.execTrav w s
  | .shq w => Sys2Proof.Machine.execShq w s
  | .shpark w => Sys2Proof.Machine.execShpark w s
  | .shfill w => Sys2Proof.Machine.execShfill w s
  | .shfillDrop w => Sys2Proof.Machine.execShfillDrop w s
  | .shinv w => Sys2Proof.Machine.execShinv w s
  | .shtick w => Sys2Proof.Machine.execShtick w s
  | .launch w => Sys2Proof.Machine.execLaunch w s
  | .tdone w => Sys2Proof.Machine.execTdone w s
  | .sigdec w => Sys2Proof.Machine.execSigdec w s
  | .role w => Sys2Proof.Machine.execRole w s
  | .sysr w => Sys2Proof.Machine.execSysr w s
  | .sysw w => Sys2Proof.Machine.execSysw w s
  | .ldfmt w => Sys2Proof.Machine.execLdfmt w s
  | .ldfmtClr w => Sys2Proof.Machine.execLdfmtClr w s
  | .ldovf w => Sys2Proof.Machine.execLdovf w s
  | .xsync w => Sys2Proof.Machine.execXsync w s
  | .splinter w => Sys2Proof.Machine.execSplinter w s
  | .migrate w => Sys2Proof.Machine.execMigrate w s
  | .ctrr w => Sys2Proof.Machine.execCtrr w s
  | .tret w => Sys2Proof.Machine.execTret w s
  | .bmsg w => Sys2Proof.Machine.execBmsg w s
  | .lnrd b rs2 rs1 rd => Sys2Proof.Machine.execLnrd b rs2 rs1 rd s
  | .lnwr b rs2 rs1 rd => Sys2Proof.Machine.execLnwr b rs2 rs1 rd s
  | .lnpf lvl rs2 rs1 rd => Sys2Proof.Machine.execLnpf lvl rs2 rs1 rd s
  | .lsq rs2 rs1 rd => Sys2Proof.Machine.execLsq rs2 rs1 rd s
  | .mrep b rd => Sys2Proof.Machine.execMrep b rd s
  | .hfin => Sys2Proof.Machine.execHfin s
  | .bobbinBase op => Sys2Proof.Machine.execBobbinBase op s
  | .deviceReset => Sys2Proof.Machine.execDeviceReset s
  | .firmwareImageLoad img => Sys2Proof.Machine.execFirmwareImageLoad img s
  | .fullServiceEntry => Sys2Proof.Machine.execFullServiceEntry s
  | .clockStep up => Sys2Proof.Machine.execClockStep up s
  | .thermalShutdown => Sys2Proof.Machine.execThermalShutdown s
  | .attestationRequest fn nonce => Sys2Proof.Machine.execAttestationRequest fn nonce s
  | .registerWrite view fn off wide val => Sys2Proof.Machine.execRegisterWrite view fn off wide val s
  | .qnotifyWrite fn q val => Sys2Proof.Machine.execQnotifyWrite fn q val s
  | .queueEnable fn q => Sys2Proof.Machine.execQueueEnable fn q s
  | .queueDestroyDrain fn q => Sys2Proof.Machine.execQueueDestroyDrain fn q s
  | .queueDestroyKill fn q => Sys2Proof.Machine.execQueueDestroyKill fn q s
  | .ringEntryRead fn q => Sys2Proof.Machine.execRingEntryRead fn q s
  | .waitPacketSatisfied fn q => Sys2Proof.Machine.execWaitPacketSatisfied fn q s
  | .residencyLeaseGrant l => Sys2Proof.Machine.execResidencyLeaseGrant l s
  | .reservation l leaf => Sys2Proof.Machine.execReservation l leaf s
  | .reservationAnswer l leaf => Sys2Proof.Machine.execReservationAnswer l leaf s
  | .reservationTimeout l => Sys2Proof.Machine.execReservationTimeout l s
  | .commit l leaf => Sys2Proof.Machine.execCommit l leaf s
  | .cancel l leaf => Sys2Proof.Machine.execCancel l leaf s
  | .resourcesFreed leaf => Sys2Proof.Machine.execResourcesFreed leaf s
  | .reservationStarvation l => Sys2Proof.Machine.execReservationStarvation l s
  | .continuationRecordFile fn q => Sys2Proof.Machine.execContinuationRecordFile fn q s
  | .poolAgedDraw fn q bin core => Sys2Proof.Machine.execPoolAgedDraw fn q bin core s
  | .taskDispatch core wg task => Sys2Proof.Machine.execTaskDispatch core wg task s
  | .launchCompletion l => Sys2Proof.Machine.execLaunchCompletion l s
  | .deferredPacketMove id => Sys2Proof.Machine.execDeferredPacketMove id s
  | .energyCharge => Sys2Proof.Machine.execEnergyCharge s
  | .energyPeriod => Sys2Proof.Machine.execEnergyPeriod s
  | .halt req => Sys2Proof.Machine.execHalt req s
  | .contextSave core wg => Sys2Proof.Machine.execContextSave core wg s
  | .contextReentry fn idx core => Sys2Proof.Machine.execContextReentry fn idx core s
  | .freeze fn => Sys2Proof.Machine.execFreeze fn s
  | .thaw fn => Sys2Proof.Machine.execThaw fn s
  | .debugResume fn => Sys2Proof.Machine.execDebugResume fn s
  | .debugEnd fn => Sys2Proof.Machine.execDebugEnd fn s
  | .taskEnd l => Sys2Proof.Machine.execTaskEnd l s
  | .watchdog l => Sys2Proof.Machine.execWatchdog l s
  | .ownershipReturnTimeout line => Sys2Proof.Machine.execOwnershipReturnTimeout line s
  | .invalidationAckTimeout line agent => Sys2Proof.Machine.execInvalidationAckTimeout line agent s
  | .bobbinOverrun k => Sys2Proof.Machine.execBobbinOverrun k s
  | .vectorSliceEnd core => Sys2Proof.Machine.execVectorSliceEnd core s
  | .sliceIdleEnd core matrix => Sys2Proof.Machine.execSliceIdleEnd core matrix s
  | .matrixSliceSwitch core => Sys2Proof.Machine.execMatrixSliceSwitch core s
  | .spinnerDisplacement core wg => Sys2Proof.Machine.execSpinnerDisplacement core wg s
  | .bandwidthPeriod => Sys2Proof.Machine.execBandwidthPeriod s
  | .portThrottleUpdate fn core => Sys2Proof.Machine.execPortThrottleUpdate fn core s
  | .functionLevelReset fn => Sys2Proof.Machine.execFunctionLevelReset fn s
  | .promotion core quad => Sys2Proof.Machine.execPromotion core quad s
  | .rotation core quad => Sys2Proof.Machine.execRotation core quad s
  | .scoreboardDemotion core grp => Sys2Proof.Machine.execScoreboardDemotion core grp s
  | .binAgedDraw core quad bin => Sys2Proof.Machine.execBinAgedDraw core quad bin s
  | .sleepWake core grp => Sys2Proof.Machine.execSleepWake core grp s
  | .pollTimeout core grp => Sys2Proof.Machine.execPollTimeout core grp s
  | .pollSpuriousWake core grp => Sys2Proof.Machine.execPollSpuriousWake core grp s
  | .loadReturn id => Sys2Proof.Machine.execLoadReturn id s
  | .readLeaseRequest core line => Sys2Proof.Machine.execReadLeaseRequest core line s
  | .writePerform id => Sys2Proof.Machine.execWritePerform id s
  | .leaseWaitEnd line => Sys2Proof.Machine.execLeaseWaitEnd line s
  | .ownershipGrant core line => Sys2Proof.Machine.execOwnershipGrant core line s
  | .ownershipReturn line => Sys2Proof.Machine.execOwnershipReturn line s
  | .farAtomicAck line => Sys2Proof.Machine.execFarAtomicAck line s
  | .pageWalk agent fn va => Sys2Proof.Machine.execPageWalk agent fn va s
  | .translationInvalidation agent line => Sys2Proof.Machine.execTranslationInvalidation agent line s
  | .invalidationAck agent line => Sys2Proof.Machine.execInvalidationAck agent line s
  | .remoteRequest dev fn rq => Sys2Proof.Machine.execRemoteRequest dev fn rq s
  | .migrationLineBlock id line => Sys2Proof.Machine.execMigrationLineBlock id line s
  | .migrationReplay id => Sys2Proof.Machine.execMigrationReplay id s
  | .copyCheck id => Sys2Proof.Machine.execCopyCheck id s
  | .copyWriteLand id k => Sys2Proof.Machine.execCopyWriteLand id k s
  | .batchClose id => Sys2Proof.Machine.execBatchClose id s
  | .rcpSignalDecrement id => Sys2Proof.Machine.execRcpSignalDecrement id s
  | .picotStep core addr => Sys2Proof.Machine.execPicotStep core addr s
  | .arrayOperationStart core mismatch => Sys2Proof.Machine.execArrayOperationStart core mismatch s
  | .arrayOperationComplete core id => Sys2Proof.Machine.execArrayOperationComplete core id s
  | .shqAllocate id => Sys2Proof.Machine.execShqAllocate id s
  | .continuationEmit ctl => Sys2Proof.Machine.execContinuationEmit ctl s
  | .releasedRecordDelivery ctl => Sys2Proof.Machine.execReleasedRecordDelivery ctl s
  | .shinvScanDone ctl idx => Sys2Proof.Machine.execShinvScanDone ctl idx s
  | .poolClockEviction cls => Sys2Proof.Machine.execPoolClockEviction cls s
  | .shadingRecordApply val => Sys2Proof.Machine.execShadingRecordApply val s
  | .handlerEnable fn => Sys2Proof.Machine.execHandlerEnable fn s
  | .handlerDisable fn => Sys2Proof.Machine.execHandlerDisable fn s
  | .missEvent id => Sys2Proof.Machine.execMissEvent id s
  | .fillEvent line => Sys2Proof.Machine.execFillEvent line s
  | .evictEvent line => Sys2Proof.Machine.execEvictEvent line s
  | .msgEvent id => Sys2Proof.Machine.execMsgEvent id s
  | .invocationStart k => Sys2Proof.Machine.execInvocationStart k s
  | .budgetExhausted k => Sys2Proof.Machine.execBudgetExhausted k s
  | .bmsgReply id => Sys2Proof.Machine.execBmsgReply id s
  | .patrolScrub line uncorrectable => Sys2Proof.Machine.execPatrolScrub line uncorrectable s
  | .selfTest u pass => Sys2Proof.Machine.execSelfTest u pass s
  | .linkRetry place fails => Sys2Proof.Machine.execLinkRetry place fails s
  | .queueDisable fn q => Sys2Proof.Machine.execQueueDisable fn q s
  | .reducedServiceEntry => Sys2Proof.Machine.execReducedServiceEntry s
  | .rastTravResult id => Sys2Proof.Machine.execRastTravResult id s
  | .flogbaseWrite fn val => Sys2Proof.Machine.execFlogbaseWrite fn val s

end Sys2Proof.Machine
end

