-- ==== Sys2Proof/Machine/Turn.lean ====
section
/-! DEFINITION. The passing of time, the fetch of a Bobbin core (R346), and the placing of one instruction where the machine fetches next. -/

namespace Sys2Proof.Machine

/-- A held THAW of a function takes effect once FROZEN reads 1 (R382). -/
def State.heldThaw (s : State) (fn : Nat) : State :=
  if (s.fnb fn).fault.thawHeld && s.frozen fn then (s.thawNow fn).getD s else s

/-- Time passes; then a `splinter` or `migrate` that waited for the one before it begins, what waited for a translation to be written is
written, each `pwait` looks at its picots, full bins draw, stopped invocations end, and held thaws take effect.
DESIGN CHOICE (assumption 10). -/
def State.tick (s : State) (dt dcyc : Nat) : State :=
  let t := (s.pass dt dcyc).detectGaps.startMigs.flushRecs.flushDirs.wakePwaits.fullDraws
  (tkeys t.fns).foldl State.heldThaw ((tkeys t.bobs).foldl State.endStopped t)

/-- The bytes of a handler's code at a window offset (R346): through the Bobbin TLB with X. -/
def State.bobCode (s : State) (k f off n : Nat) : Except AccErr (List Byte) × State :=
  let h := (s.fnb f).hand
  if 65536 * h.hsize.toNat < off + n then (.error (.fault clsTrans 0), s)
  else match s.bobAccess k f (h.hbase.toNat + off) n needX with
    | (.error e, s1) => (.error e, s1)
    | (.ok t, s1) =>
      if t.isDev then (.error (.fault clsPerm 0), s1)
      else if s1.homeWaits (t.tgt.base / 64) none then (.error .wait, s1)
      else
        let (held, s2) := s1.fetchHeld ((coresOf k).headD 0) f (t.tgt.base / 64) true
        if held then (.error .wait, s2)
        else if s2.tgtPois t.tgt n then (.error (.fault clsPoison 0), s2)
        else (.ok (s2.tgtRead t.tgt n), s2.touch f (t.tgt.base / 64) t.mt)

/-- A fetch that does not answer bytes: it waits, or the invocation aborts with cause FETCH (Table 13.9). -/
def State.bobFetchStop (s : State) (k f : Nat) (e : AccErr) : Fetched :=
  match e with
  | .wait => .pass (s.modInvoc k (fun i => { i with heldReq := s.bobHeld k f }))
  | .fault _ _ => .pass (s.abortInvocation k abFetch)

/-- The instruction at the pc of a Bobbin core that runs an invocation with budget left (R345, R360). -/
def State.fetchBobbin (s : State) (k : Nat) : Fetched :=
  match (s.bob k).run with
  | none => .pass s
  | some r =>
    if r.left = 0 ∨ s.bobPending k = true ∨ r.ends.isSome = true then .pass s
    else
      let pc := (s.bob k).pc.toNat
      match (s.modInvoc k (fun i => { i with started := true })).bobCode k r.ev.fn pc 2 with
      | (.error e, s1) => s1.bobFetchStop k r.ev.fn e
      | (.ok lo, s1) =>
        let cur (t : State) : State := { t with cur := .bobbin k }
        let run (t : State) (bs : List Byte) : Fetched :=
          match decodeBobbin bs with
          | .ok (i, _) => .run i (cur t)
          | .error _ => .pass (t.abortInvocation k abFetch)
        if leVal lo % 4 = 3 then
          (match s1.bobCode k r.ev.fn (pc + 2) 2 with
           | (.error e, s2) => s2.bobFetchStop k r.ev.fn e
           | (.ok hi, s2) => run s2 (lo ++ hi))
        else run s1 lo

/-! ### Placing an instruction where the machine fetches next (assumption 2) -/

/-- A cached translation of a 64 KiB page of function 1 at virtual 0 and physical 0 with every permission. -/
def loadTlb (agent : Nat) : TlbEnt :=
  { agent := agent, fn := 1, ex := false, va := 0, size := 65536, pa := 0, r := true, w := true, x := true, mt := 0,
    path := [] }

/-- A line word with WAIT 0, SETA f0, SETB f1 and the given parity bit. -/
def loadLineWord (par : Bool) : Nat := 0x00001000 + (if par then 1 else 0)

/-- The 64 bytes of a fetch line whose slot 0 holds a 96-bit word and whose other slots hold zeros, with even parity. -/
def loadLine (w : Nat) : List Byte :=
  let body := leBytes 12 w ++ zeroBytes 48
  let odd := (popcount (BitVec.ofNat 32 (loadLineWord false)) + (body.map popcount).foldl (· + ·) 0) % 2 == 1
  leBytes 4 (loadLineWord odd) ++ body

/-- One thread of function 1 that has begun a workgroup on core 0, and its launch. -/
def State.withThrum (s : State) (w : Nat) : State :=
  let l : Launch :=
    { fn := 1, queue := 0, qidx := 0#32, kind := .rect, packet := zeroBytes 64, lrec := zeroBytes 512, phase := .running,
      ranges := [{ base := 0, len := 65536, r := true, w := true }], heldOn := [0] }
  let g : Wg :=
    { core := 0, fn := 1, launch := 1, kind := .rect, g := 0, wgl := 0, lx := 0, ly := 0, lw := 1, lh := 1, depth := 0,
      arg := 0#64, queue := 0, qidx := 0#32, nthr := 1, threads := [(0, { nregs := 768 })], sbase := 0, ssize := 65536,
      gen := 0, nrows := 64 }
  let q : Group := { core := 0, wg := 0, quad := 0, tids := [0], pc := 0#64, rstart := 0#64 }
  { s with
    mem := cwrite s.mem 0 (loadLine w)
    tlb := [loadTlb (agTlb 0)]
    cores := tset s.cores 0 { s.core 0 with tenants := [1] }
    groups := [(0, q)]
    wgs := [(0, g)]
    launches := [(1, l)]
    nextId := 2
    agenda := [{ dt := 1, dcyc := 1, act := .group 0 }] }

/-- An invocation of function 1 on Bobbin core 0 whose window holds the instruction at offset 0. -/
def State.withBobbin (s : State) (w : Nat) : State :=
  let ev : BEvent := { kind := 0, fn := 1, range := 0, va := 0 }
  { s with
    mem := cwrite s.mem 0 (leBytes 4 w)
    tlb := [loadTlb (agBob 0)]
    fns := tset s.fns 1 { s.fnb 1 with hand := { (s.fnb 1).hand with en := true, hsize := 1#32 } }
    bobs := tset s.bobs 0 { s.bob 0 with pc := 0#32, run := some { ev := ev, word := eventWord ev 0, left := 64 } }
    agenda := [{ dt := 1, dcyc := 2, act := .bobbin 0 }] }

/-- The state with the instruction of an opcode-table row placed where `step` fetches next: 32 bits or fewer are a Bobbin
instruction, more are slot 0 of a Thrum line. -/
def State.placeWord (s : State) (nbits w : Nat) : State := if nbits ≤ 32 then s.withBobbin w else s.withThrum w

end Sys2Proof.Machine
end

