-- ==== Sys2Proof/Machine/Step.lean ====
section
/-! DEFINITION. One step of the machine: the next turn of the schedule. -/

namespace Sys2Proof.Machine

/-- Runs what a fetch answered. -/
def runFetched (f : Fetched) : Host.Outcome State Fault Refusal :=
  match f with
  | .run i s => exec i s
  | .pass s => .next s

/-- What acts in a turn (assumption 3): a group or a Bobbin core executes the instruction it fetches; an event of the table
happens; the host writes memory; the device acts of its own. -/
def act (a : Act) (s : State) : Host.Outcome State Fault Refusal :=
  match a with
  | .group gid => runFetched (s.fetchGroup gid)
  | .bobbin k => runFetched (s.fetchBobbin k)
  | .event i => exec i { s with cur := .none }
  | .hostWrite pa bs => .next (s.hostWrite pa bs)
  | .device d => .next (s.deviceAct d)

/-- One step: time passes and the next turn of the schedule acts; with no turn left, only time passes.
DESIGN CHOICE (assumption 3). -/
def step (s : State) : Host.Outcome State Fault Refusal :=
  if s.boot.off then .fault .shutDown
  else match s.agenda with
    | [] => .next (s.tick 1 2)
    | t :: ts => act t.act ({ s with agenda := ts }.tick t.dt t.dcyc)

/-- The state with an instruction placed where `step` fetches its next one. DESIGN CHOICE (assumption 2). -/
def State.withFetchWord (s : State) (nbits w : Nat) : State := s.placeWord nbits w

end Sys2Proof.Machine
end

