-- ==== Sys2Proof/Safety.lean ====
section
/-! DEFINITION. What the statements call a safe run, and the invariants they speak of. -/

namespace Sys2Proof.Machine

/-- A step answers a next state. -/
def Completes (o : Host.Outcome State Fault Refusal) : Prop := ∃ t, o = .next t

/-- The memory of a state is in canonical form: addresses strictly rising, no listed byte 0. -/
def MemInv (s : State) : Prop := Memory.wf s.mem = true

end Sys2Proof.Machine
end

