-- ==== Sys2Proof/Certificates/Slice0/Obligations.lean ====
section
/-! DEFINITION. What is claimed of the model: encodings, the step, reset, invariants of every step, traps, what each instruction
does and where it completes, what it leaves unchanged. -/

namespace Sys2Proof.Spec

open Sys2Proof.Machine

/-! ### The frame of the statements -/

/-- The current group issues the word `w` of signature `sg`: the device runs, some group with its workgroup and a live thread
has the turn, no cause of R37 items 3 and 4 holds of the word, and neither the scoreboard (R28) nor a full flag (R27) holds it. -/
structure Issues (sg : Sig) (w : TWord) (extra : List Nat) (s : State) (x : Ctx) : Prop where
  on    : s.boot.off = false
  ctx   : s.ctx? sg w = some x
  legal : encTrap sg w (x.enc s) = none
  free  : x.blocked extra = false

/-- The state after an instruction that took effect as `t`: the counters of Table 14.12 advance and the program counter moves to
the next slot (R24, R25). -/
def moveOn (x : Ctx) (s t : State) : State :=
  (x.counted t).modGroup x.gid (fun g => { g with pc := nextPc g.pc, stall := none, lastIssue := s.cycles })

/-- The state after an instruction that set the program counters itself. -/
def depart (x : Ctx) (s t : State) : State :=
  (x.counted t).modGroup x.gid (fun g => { g with stall := none, lastIssue := s.cycles })

/-- A region that begins at `start` in the executing group (R332). -/
def region (x : Ctx) (t : State) (start : W64) : State := t.modGroup x.gid (fun g => { g with rstart := start })

/-- One byte of memory, by physical address. -/
def byte (s : State) (a : Nat) : Byte := cget s.mem a
/-- One byte of a core's scratchpad. -/
def scrByte (s : State) (c a : Nat) : Byte := cget (s.core c).scr a

/-- A Thrum instruction: a row of Table 2.8. -/
def IsThrum (i : Instr) : Prop := (sigOf i).isSome = true

/-- The 32-bit source F of a thread (Table 2.4). -/
def val (x : Ctx) (tid : Nat) (th : Thread) (f : Fld) : W32 := src x.w th (laneOf tid) f

/-- A thread after an instruction that writes `v` with tag `tag` to the registers D names (R36): an executing thread whose
sources pass `ok` takes the values, a thread whose guard is false takes zeros under ZM, the null destination and a tag that no
instruction may write (R63) leave the registers alone. -/
def gives (x : Ctx) (ok : Nat → Thread → Bool) (tag : Nat → Thread → Nat) (v : Nat → Thread → List W32) (tid : Nat) (th : Thread) :
    Thread :=
  if x.w.d = 1023#10 ∨ badTag x.wg.fmt (tag tid th) = true then th
  else if th.guard x.w then (if ok tid th then th.setRegs x.w.d.toNat (v tid th) (tag tid th) else th)
  else if wordZM x.sg x.w then th.setRegs x.w.d.toNat ((v tid th).map (fun _ => 0#32)) (tag tid th)
  else th

/-- The instruction completes with these values, for every word that issues and every group whose executing threads' sources pass
the tag checks. -/
def Computes (i : TWord → Instr) (sg : TWord → Sig) (extra : TWord → List Nat) (ok : Ctx → Nat → Thread → Bool)
    (tag : Ctx → Nat → Thread → Nat) (v : Ctx → Nat → Thread → List W32) : Prop :=
  ∀ (w : TWord) (s : State) (x : Ctx), Issues (sg w) w (extra w) s x →
    (∀ p ∈ x.active, ok x p.1 p.2 = true ∧ (w.d = 1023#10 ∨ badTag x.wg.fmt (tag x p.1 p.2) = false)) →
    exec (i w) s = .next (moveOn x s (x.update s (gives x (ok x) (tag x) (v x))))

/-- The instruction completes as its definition in the register-to-register frame says, for every word that issues and every
group whose executing threads raise no cause. -/
def Runs (i : TWord → Instr) (sg : TWord → Sig) (extra : TWord → List Nat) (d : TWord → State → AluDef) : Prop :=
  ∀ (w : TWord) (s : State) (x : Ctx), Issues (sg w) w (extra w) s x → x.causes ((d w s).fault x) = none →
    exec (i w) s = .next (moveOn x s (x.update s ((d w s).thread x)))

def noKeys (_ : TWord) : List Nat := []

/-- No tag check. -/
def anyTags (_ : Ctx) (_ : Nat) (_ : Thread) : Bool := true
/-- The named 32-bit sources carry tags in INT (R74). -/
def ints (fs : TWord → List Fld) (x : Ctx) (_ : Nat) (th : Thread) : Bool := (fs x.w).all (fun f => tagOk th f 1 (fun t => decide (t ≤ 2)))
def tagU32 (_ : Ctx) (_ : Nat) (_ : Thread) : Nat := 2
/-- U32 in the unsigned form, I32 in the signed one (R80). -/
def tagOfU (x : Ctx) (_ : Nat) (_ : Thread) : Nat := if x.w.md.getLsbD 0 then 2 else 1
/-- The copied tag of a source (R74). -/
def copied (f : TWord → Fld) (x : Ctx) (tid : Nat) (th : Thread) : Nat := srcTag x.w th (laneOf tid) (f x.w)

/-- A word as an integer in the signedness of U (R80). -/
def num (x : Ctx) (v : W32) : Int := if x.w.md.getLsbD 0 then (v.toNat : Int) else v.toInt
/-- A source as an integer in the signedness of U. -/
def int (x : Ctx) (tid : Nat) (th : Thread) (f : Fld) : Int := num x (val x tid th f)
/-- The value of an exact result in `n` bits: clamped to the range of U when SAT (bit 1), else taken modulo 2^n (R80). -/
def fit (x : Ctx) (n : Nat) (v : Int) : Int :=
  if x.w.md.getLsbD 1 then
    (if x.w.md.getLsbD 0 then max 0 (min v (2 ^ n - 1)) else max (-(2 ^ (n - 1))) (min v (2 ^ (n - 1) - 1)))
  else v % 2 ^ n
def word (v : Int) : W32 := BitVec.ofInt 32 v
/-- The two registers of a pair: the low word first. -/
def words (v : Int) : List W32 := [BitVec.ofInt 32 v, BitVec.ofInt 32 (v / 2 ^ 32)]

/-- The bit field of R86: position and width of the part inside the register. -/
def fieldOf (c : W32) : Nat × Nat :=
  let pos := c.toNat % 256
  let len := c.toNat / 256 % 256
  (pos, min (pos + len) 32 - pos)
def noField (c : W32) : Bool := c.toNat / 256 % 256 == 0 || decide (32 ≤ c.toNat % 256)

/-- A word from its bits. -/
def bits32 (f : Nat → Bool) : W32 := BitVec.ofNat 32 ((List.range 32).foldl (fun a i => a + (f i).toNat * 2 ^ i) 0)

end Sys2Proof.Spec

open Sys2Proof Sys2Proof.Machine Sys2Proof.Spec

/-! ### Arithmetic and logic: results, and where these instructions complete -/

/-- R80, Table 4.2: `add`, `sub`, `mul`, `mad` and `neg` write the exact value, taken modulo 2^32 or clamped under SAT, with tag I32 or
U32, and complete; `mulhi` gives bits 63:32 of the product, `mulw` the 64-bit product in a pair, `madw` the 64-bit sum with the
pair C, clamped under SAT. -/
def Obligations.IntegerArithmeticResults : Prop :=
  Computes .add sigAdd noKeys (ints (fun w => [w.a, w.b])) tagOfU
    (fun x i th => [word (fit x 32 (int x i th x.w.a + int x i th x.w.b))]) ∧
  Computes .sub sigSub noKeys (ints (fun w => [w.a, w.b])) tagOfU
    (fun x i th => [word (fit x 32 (int x i th x.w.a - int x i th x.w.b))]) ∧
  Computes .mul sigMul noKeys (ints (fun w => [w.a, w.b])) tagOfU
    (fun x i th => [word (fit x 32 (int x i th x.w.a * int x i th x.w.b))]) ∧
  Computes .mad sigMad noKeys (ints (fun w => [w.a, w.b, w.c])) tagOfU
    (fun x i th => [word (fit x 32 (int x i th x.w.a * int x i th x.w.b + int x i th x.w.c))]) ∧
  Computes .neg sigNeg noKeys (ints (fun w => [w.a])) tagOfU
    (fun x i th => [word (fit x 32 (-(int x i th x.w.a)))]) ∧
  Computes .mulhi sigMulhi noKeys (ints (fun w => [w.a, w.b])) tagOfU
    (fun x i th => [word (int x i th x.w.a * int x i th x.w.b / 2 ^ 32)]) ∧
  Computes .mulw sigMulw noKeys (ints (fun w => [w.a, w.b])) tagOfU
    (fun x i th => words (int x i th x.w.a * int x i th x.w.b)) ∧
  Computes .madw sigMadw noKeys
    (fun x i th => ints (fun w => [w.a, w.b]) x i th && tagOk th x.w.c 2 (fun t => decide (t ≤ 2))) tagOfU
    (fun x i th =>
      let c : Int := if x.w.md.getLsbD 0 then ((srcPair x.w th false x.w.c).toNat : Int) else (srcPair x.w th true x.w.c).toInt
      words (fit x 64 (int x i th x.w.a * int x i th x.w.b + c)))

/-- Table 4.2: `min` and `max` give the lesser and the greater source, `abs` the magnitude with tag I32; `sel` copies A or B by a
predicate (R82) with the copied tag or TAG. -/
def Obligations.MinMaxAbsSelResults : Prop :=
  Computes .min sigMin noKeys (ints (fun w => [w.a, w.b])) tagOfU
    (fun x i th => [if int x i th x.w.a ≤ int x i th x.w.b then val x i th x.w.a else val x i th x.w.b]) ∧
  Computes .max sigMax noKeys (ints (fun w => [w.a, w.b])) tagOfU
    (fun x i th => [if int x i th x.w.b ≤ int x i th x.w.a then val x i th x.w.a else val x i th x.w.b]) ∧
  Computes .abs sigAbs noKeys (ints (fun w => [w.a])) (fun _ _ _ => 1)
    (fun x i th =>
      let m : Nat := (val x i th x.w.a).toInt.natAbs
      [BitVec.ofNat 32 (if x.w.md.getLsbD 1 then min m (2 ^ 31 - 1) else m)]) ∧
  Computes .sel sigSel noKeys
    (fun x _ _ => !(x.w.md.getLsbD 6 && badTag x.wg.fmt (x.w.md.toNat % 64)))
    (fun x i th =>
      let f := if th.pred x.w.c.toNat != x.w.md.getLsbD 7 then x.w.a else x.w.b
      if x.w.md.getLsbD 6 then x.w.md.toNat % 64 else srcTag x.w th (laneOf i) f)
    (fun x i th => [val x i th (if th.pred x.w.c.toNat != x.w.md.getLsbD 7 then x.w.a else x.w.b)])

/-- A thread after an instruction that writes the predicate `k` (R77): the values of executing threads, cleared under ZM where
the guard is false. -/
def Sys2Proof.Spec.givesPred (x : Ctx) (k : Nat) (ok : Nat → Thread → Bool) (b : Nat → Thread → Bool) (tid : Nat) (th : Thread) :
    Thread :=
  if th.guard x.w then (if ok tid th then th.setPred k (b tid th) else th)
  else if wordZM x.sg x.w then th.setPred k false
  else th

/-- R82, R84: `cmp` writes the comparison of A and B in the signedness of U, `plop` the bit of its truth table that the three
predicates select; both leave every register alone. -/
def Obligations.PredicateResults : Prop :=
  (∀ (w : TWord) (s : State) (x : Ctx), Issues (sigCmp w) w [] s x →
    (∀ p ∈ x.active, ints (fun w => [w.a, w.b]) x p.1 p.2 = true) →
    exec (.cmp w) s = .next (moveOn x s (x.update s (givesPred x w.d.toNat (ints (fun w => [w.a, w.b]) x) (fun i th =>
      let a := int x i th w.a
      let b := int x i th w.b
      match w.md.toNat / 4 % 8 with
      | 0 => decide (a = b) | 1 => decide (a ≠ b) | 2 => decide (a < b) | 3 => decide (a ≤ b) | 4 => decide (a > b)
      | _ => decide (a ≥ b)))))) ∧
  (∀ (w : TWord) (s : State) (x : Ctx), Issues (sigPlop w) w [] s x →
    exec (.plop w) s = .next (moveOn x s (x.update s (givesPred x w.d.toNat (fun _ _ => true) (fun _ th =>
      w.md.getLsbD (4 * (th.pred w.a.toNat).toNat + 2 * (th.pred w.b.toNat).toNat + (th.pred w.c.toNat).toNat))))))

/-- R81: `addc` and `subc` add A, B or NOT B, and the carry-in; D takes the low 32 bits with tag U32 and P[CO] bit 32. Inactive
threads under ZM have both cleared (R77). MOD bit 0 is reserved: set, it makes the word illegal. -/
def Obligations.CarryResults : Prop :=
  let sum (x : Ctx) (inv : Bool) (i : Nat) (th : Thread) : Nat :=
    (val x i th x.w.a).toNat + (if inv then ~~~ val x i th x.w.b else val x i th x.w.b).toNat +
      (th.pred (x.w.md.toNat / 4 % 8) ^^ x.w.md.getLsbD 1).toNat
  let goes (inv : Bool) (i : TWord → Instr) (sg : TWord → Sig) : Prop :=
    ∀ (w : TWord) (s : State) (x : Ctx),
      Issues (sg w) w (extraKeys [w.md.toNat / 32 % 8, w.md.toNat / 4 % 8]) s x →
      (∀ p ∈ x.active, ints (fun w => [w.a, w.b]) x p.1 p.2 = true) →
      exec (i w) s = .next (moveOn x s (x.update s (fun tid th =>
        let t := gives x (ints (fun w => [w.a, w.b]) x) (tagU32 x) (fun i th => [BitVec.ofNat 32 (sum x inv i th)]) tid th
        if th.guard w then
          (if ints (fun w => [w.a, w.b]) x tid th then t.setPred (w.md.toNat / 32 % 8) (decide (2 ^ 32 ≤ sum x inv tid th)) else t)
        else if wordZM x.sg w then t.setPred (w.md.toNat / 32 % 8) false
        else t)))
  goes false .addc sigAddc ∧ goes true .subc sigSubc ∧
  ∀ (w : TWord) (e : EncCtx), w.md.getLsbD 0 = true → (sigAddc w).illegalInstr w e = true ∧ (sigSubc w).illegalInstr w e = true

/-- R83, R84, R87: the bitwise instructions, `lop3` by its truth table and `mov`, with the copied tag of A, or for `mov` TAG. -/
def Obligations.LogicAndMoveResults : Prop :=
  Computes .and sigAnd noKeys anyTags (copied (·.a)) (fun x i th => [val x i th x.w.a &&& val x i th x.w.b]) ∧
  Computes .or sigOr noKeys anyTags (copied (·.a)) (fun x i th => [val x i th x.w.a ||| val x i th x.w.b]) ∧
  Computes .xor sigXor noKeys anyTags (copied (·.a)) (fun x i th => [val x i th x.w.a ^^^ val x i th x.w.b]) ∧
  Computes .not sigNot noKeys anyTags (copied (·.a)) (fun x i th => [~~~ val x i th x.w.a]) ∧
  Computes .lop3 sigLop3 noKeys anyTags (copied (·.a)) (fun x i th =>
    [bits32 (fun n => x.w.md.getLsbD (4 * ((val x i th x.w.a).getLsbD n).toNat + 2 * ((val x i th x.w.b).getLsbD n).toNat +
      ((val x i th x.w.c).getLsbD n).toNat))]) ∧
  Computes .mov sigMov noKeys (fun x _ _ => !(x.w.md.getLsbD 6 && badTag x.wg.fmt (x.w.md.toNat % 64)))
    (fun x i th => if x.w.md.getLsbD 6 then x.w.md.toNat % 64 else srcTag x.w th (laneOf i) x.w.a)
    (fun x i th => [val x i th x.w.a])

/-- R85: the shifts and the funnel shift, every amount included: 32 and above give 0, the sign, or the other half. -/
def Obligations.ShiftResults : Prop :=
  let amt (x : Ctx) (b : W32) : Nat := if x.w.md.getLsbD 1 then b.toNat % 32 else b.toNat
  Computes .shl sigShl noKeys anyTags (copied (·.a)) (fun x i th =>
    let n := amt x (val x i th x.w.b)
    [if 32 ≤ n then 0#32 else BitVec.ofNat 32 ((val x i th x.w.a).toNat * 2 ^ n)]) ∧
  Computes .shr sigShr noKeys anyTags (copied (·.a)) (fun x i th =>
    let n := amt x (val x i th x.w.b)
    [if x.w.md.getLsbD 0 then word ((val x i th x.w.a).toInt / 2 ^ (min n 31))
     else if 32 ≤ n then 0#32 else BitVec.ofNat 32 ((val x i th x.w.a).toNat / 2 ^ n)]) ∧
  Computes .fsh sigFsh noKeys anyTags (copied (·.a)) (fun x i th =>
    let c := (val x i th x.w.c).toNat
    let n := if x.w.md.getLsbD 1 then c % 32 else min c 32
    let v := (val x i th x.w.b).toNat * 2 ^ 32 + (val x i th x.w.a).toNat
    [BitVec.ofNat 32 (if x.w.md.getLsbD 0 then v / 2 ^ (32 - n) else v / 2 ^ n)])

/-- R86: `bfe` extracts a bit field, with or without its sign; `bfi` inserts one into B. -/
def Obligations.BitFieldResults : Prop :=
  Computes .bfe sigBfe noKeys anyTags (fun x _ _ => if x.w.md.getLsbD 0 then 1 else 2) (fun x i th =>
    let b := val x i th x.w.b
    let (pos, n) := fieldOf b
    let v := (val x i th x.w.a).toNat / 2 ^ pos % 2 ^ n
    [if noField b then 0#32
     else if x.w.md.getLsbD 0 = true ∧ 2 ^ (n - 1) ≤ v then word ((v : Int) - 2 ^ n) else BitVec.ofNat 32 v]) ∧
  Computes .bfi sigBfi noKeys anyTags (copied (·.b)) (fun x i th =>
    let c := val x i th x.w.c
    let (pos, n) := fieldOf c
    [if noField c then val x i th x.w.b
     else bits32 (fun k => if pos ≤ k ∧ k < pos + n then (val x i th x.w.a).getLsbD (k - pos) else (val x i th x.w.b).getLsbD k)])

/-- R83: the counts of one bits, leading zeros and trailing zeros, 32 of a zero word, with tag U32; `brev` reverses the bits. -/
def Obligations.BitCountResults : Prop :=
  Computes .popc sigPopc noKeys anyTags tagU32 (fun x i th =>
    [BitVec.ofNat 32 ((List.range 32).countP (fun n => (val x i th x.w.a).getLsbD n))]) ∧
  Computes .clz sigClz noKeys anyTags tagU32 (fun x i th =>
    [BitVec.ofNat 32 ((List.range 32).findIdx (fun n => (val x i th x.w.a).getLsbD (31 - n)))]) ∧
  Computes .ctz sigCtz noKeys anyTags tagU32 (fun x i th =>
    [BitVec.ofNat 32 ((List.range 32).findIdx (fun n => (val x i th x.w.a).getLsbD n))]) ∧
  Computes .brev sigBrev noKeys anyTags (copied (·.a)) (fun x i th => [bits32 (fun n => (val x i th x.w.a).getLsbD (31 - n))])

/-- R88: `p2r` reads the eight predicates, p7 as 1; `r2p` writes those of its mask from A and leaves the others, its D must hold
1023 and its MOD bit 7 zero. -/
def Obligations.PredicateWordResults : Prop :=
  Computes .p2r sigP2r (fun _ => extraKeys (upTo 7)) anyTags tagU32 (fun _ _ th => [BitVec.ofNat 32 (th.preds.toNat + 2 ^ 7)]) ∧
  (∀ (w : TWord) (s : State) (x : Ctx),
    Issues (sigR2p w) w (extraKeys ((List.range 7).filter (fun i => w.md.getLsbD i))) s x →
    exec (.r2p w) s = .next (moveOn x s (x.update s (fun tid th =>
      let m : BitVec 7 := w.md.truncate 7
      if th.guard w then { th with preds := (th.preds &&& ~~~ m) ||| ((val x tid th w.a).truncate 7 &&& m) }
      else if wordZM x.sg w then { th with preds := th.preds &&& ~~~ m }
      else th)))) ∧
  (∀ (w : TWord) (e : EncCtx), w.d ≠ 1023#10 ∨ w.md.getLsbD 7 = true → (sigR2p w).illegalInstr w e = true)

/-! ### Floating point, conversions, packed arithmetic, cross-lane operations -/

/-- R89 to R100, R254 to R259: the floating-point, conversion, special, packed and cross-lane instructions complete when no executing
thread raises a cause, each thread taking what the instruction's definition computes. -/
def Obligations.FloatingPointAndCrossLaneComplete : Prop :=
  let qp (w : TWord) : List Nat := extraKeys [w.md.toNat / 32 % 8]
  Runs .fadd sigFadd noKeys (fun w _ => faddDef w) ∧ Runs .fsub sigFsub noKeys (fun w _ => fsubDef w) ∧
  Runs .fmul sigFmul noKeys (fun w _ => fmulDef w) ∧ Runs .ffma sigFfma noKeys (fun w _ => ffmaDef w) ∧
  Runs .fmin sigFmin noKeys (fun w _ => fminDef w) ∧ Runs .fmax sigFmax noKeys (fun w _ => fmaxDef w) ∧
  Runs .fcmp sigFcmp noKeys (fun w _ => fcmpDef w) ∧
  Runs .cvt sigCvt noKeys (fun w _ => cvtDef w) ∧ Runs .cvtnPack sigCvtnPack noKeys (fun w _ => cvtnPackDef w) ∧
  Runs .cvtnUnpack sigCvtnUnpack noKeys (fun w _ => cvtnUnpackDef w) ∧
  Runs .frcp sigFrcp noKeys (fun w _ => specialDef .rcp w) ∧ Runs .frsqrt sigFrsqrt noKeys (fun w _ => specialDef .rsqrt w) ∧
  Runs .fsqrt sigFsqrt noKeys (fun w _ => specialDef .sqrt w) ∧ Runs .fexp2 sigFexp2 noKeys (fun w _ => specialDef .exp2 w) ∧
  Runs .flog2 sigFlog2 noKeys (fun w _ => specialDef .log2 w) ∧ Runs .fsin sigFsin noKeys (fun w _ => specialDef .sin w) ∧
  Runs .fcos sigFcos noKeys (fun w _ => specialDef .cos w) ∧
  Runs .hadd2 sigHadd2 noKeys (fun w _ => halfArith .add w) ∧ Runs .hsub2 sigHsub2 noKeys (fun w _ => halfArith .sub w) ∧
  Runs .hmul2 sigHmul2 noKeys (fun w _ => halfArith .mul w) ∧ Runs .hfma2 sigHfma2 noKeys (fun w _ => halfArith .fma w) ∧
  Runs .hmin2 sigHmin2 noKeys (fun w _ => halfMinMax false w) ∧ Runs .hmax2 sigHmax2 noKeys (fun w _ => halfMinMax true w) ∧
  Runs .dp2bf sigDp2bf noKeys (fun w _ => dp2bfDef w) ∧
  Runs .dadd sigDadd noKeys (fun w _ => f64Arith .add w) ∧ Runs .dsub sigDsub noKeys (fun w _ => f64Arith .sub w) ∧
  Runs .dmul sigDmul noKeys (fun w _ => f64Arith .mul w) ∧ Runs .dfma sigDfma noKeys (fun w _ => f64Arith .fma w) ∧
  Runs .dmin sigDmin noKeys (fun w _ => f64MinMax false w) ∧ Runs .dmax sigDmax noKeys (fun w _ => f64MinMax true w) ∧
  Runs .dcmp sigDcmp noKeys (fun w _ => dcmpDef w) ∧ Runs .dcvt sigDcvt noKeys (fun w _ => dcvtDef w) ∧
  Runs .shfl sigShfl qp (fun w _ => shflDef w) ∧ Runs .push sigPush qp (fun w _ => pushDef w) ∧
  Runs .vote sigVote qp (fun w _ => voteDef w) ∧ Runs .matchOp sigMatch qp (fun w _ => matchDef w) ∧
  Runs .xred sigXred noKeys (fun w _ => xredDef w) ∧ Runs .xscan sigXscan noKeys (fun w _ => xscanDef w)

/-- R89, R55: with no modifier, a NaN in A is the result of `fadd`, `fsub`, `fmul` and `ffma` in every lane, quieted and otherwise bit
for bit; in `fadd`, `fsub` and `fmul` a NaN in B is, when A is none. -/
def Obligations.FpNanPropagates : Prop :=
  let isNaN (v : W32) : Prop := v.toNat / 2 ^ 23 % 2 ^ 8 = 255 ∧ v.toNat % 2 ^ 23 ≠ 0
  let quiet (v : W32) : W32 := v ||| 0x00400000#32
  let f32 (l : Lane) (f : Fld) : Prop := tagOk l.th f 1 (fun t => t == 3) = true
  let out (d : TWord → AluDef) (l : Lane) (v : W32) : Prop := ∃ o, (d l.x.w).eval l = .ok o ∧ o.vals = [v] ∧ o.tag = 3
  ∀ l : Lane, l.x.w.md = 0#8 → f32 l l.x.w.a → f32 l l.x.w.b → f32 l l.x.w.c →
    (isNaN l.a → out faddDef l (quiet l.a) ∧ out fsubDef l (quiet l.a) ∧ out fmulDef l (quiet l.a) ∧
      out ffmaDef l (quiet l.a)) ∧
    (¬ isNaN l.a → isNaN l.b → out faddDef l (quiet l.b) ∧ out fsubDef l (quiet l.b) ∧ out fmulDef l (quiet l.b))

/-- R94, R97: `settag` copies A's bits under TAG, `gettag` writes the copied tag of A as a number, `dp4a` the sum of four byte products
and C, exact, then truncated or saturated. -/
def Obligations.TagAndByteResults : Prop :=
  Computes .settag sigSettag noKeys (fun x _ _ => !badTag x.wg.fmt (x.w.md.toNat % 64)) (fun x _ _ => x.w.md.toNat % 64)
    (fun x i th => [val x i th x.w.a]) ∧
  Computes .gettag sigGettag noKeys anyTags tagU32 (fun x i th => [BitVec.ofNat 32 (srcTag x.w th (laneOf i) x.w.a)]) ∧
  Computes .dp4a sigDp4a noKeys
    (fun x _ th => tagOk th x.w.a 1 (fun t => t == if x.w.md.getLsbD 0 then 7 else 8) &&
      tagOk th x.w.b 1 (fun t => t == if x.w.md.getLsbD 1 then 7 else 8) && tagOk th x.w.c 1 (fun t => decide (t ≤ 2)))
    (fun _ _ _ => 1)
    (fun x i th =>
      let e (signed : Bool) (v : W32) (k : Nat) : Int :=
        let u : Int := v.toNat / 2 ^ (8 * k) % 256
        if signed = true ∧ 128 ≤ u then u - 256 else u
      let a := e (x.w.md.getLsbD 0) (val x i th x.w.a)
      let b := e (x.w.md.getLsbD 1) (val x i th x.w.b)
      let t := (val x i th x.w.c).toInt + a 0 * b 0 + a 1 * b 1 + a 2 * b 2 + a 3 * b 3
      [word (if x.w.md.getLsbD 2 then max (-(2 ^ 31)) (min t (2 ^ 31 - 1)) else t)])

/-- R254: `shfl` in mode 0 with a segment of 32 lanes gives every executing thread of a whole group A of the lane that B names
modulo 32, with that lane's tag, and sets P[QP]. -/
def Obligations.ShuffleReadsTheNamedLane : Prop :=
  ∀ (x : Ctx) (p : Nat × Thread) (q : Nat × Thread), p ∈ x.active → q ∈ x.active →
    (∀ r ∈ x.active, laneOf r.1 = laneOf q.1 → r = q) →
    x.w.md.toNat % 4 = 0 → x.w.md.toNat / 4 % 8 = 5 →
    tagOk p.2 x.w.b 1 (fun t => decide (t ≤ 2)) = true →
    (val x p.1 p.2 x.w.b).toNat % 32 = laneOf q.1 →
    (shflDef x.w).eval ⟨x, p.1, p.2⟩ =
      .ok { vals := [val x q.1 q.2 x.w.a], tag := srcTag x.w q.2 (laneOf q.1) x.w.a, preds := [(x.w.md.toNat / 32 % 8, true)] }

/-! ### Control -/

/-- R43, R268, R270: `nop` completes with no effect but its issue; `region` ends the current region, whose stores are committed, begins
one at the next slot, and does nothing else; so does `bkpt` when the context's debug enable is clear. -/
def Obligations.NopAndRegionComplete : Prop :=
  (∀ (w : TWord) (s : State) (x : Ctx), Issues (sigNop w) w [] s x → exec (.nop w) s = .next (moveOn x s s)) ∧
  (∀ (w : TWord) (s s1 : State) (x : Ctx), Issues (sigRegion w) w [] s x → s.commit x.gid = .ok s1 →
    exec (.region w) s = .next (moveOn x s (region x s1 x.next))) ∧
  (∀ (w : TWord) (s s1 : State) (x : Ctx), Issues (sigBkpt w) w [] s x → s.commit x.gid = .ok s1 →
    (s.fnb x.wg.fn).fault.dbgen = false → exec (.bkpt w) s = .next (moveOn x s (region x s1 x.next)))

/-- R265, R267, R269, R296: each commits the region. `yield` moves the group, some thread of which executes, to the pending set, ready,
with the present time as its stamp; `sleep` of a positive time moves it there to wait for that time. `exit` ends the
executing threads, whose group goes on without them; `tdone` marks them done with their task. Both settle the task of a
Tatting workgroup. -/
def Obligations.YieldSleepExitTdoneComplete : Prop :=
  (∀ (w : TWord) (s s1 : State) (x : Ctx), Issues (sigYield w) w [] s x → s.commit x.gid = .ok s1 → x.active ≠ [] →
    exec (.yield w) s = .next (moveOn x s (((region x s1 x.next).park x.gid .ready).modGroup x.gid
      (fun g => { g with stamp := s.now, sub := 0, yielded := true })))) ∧
  (∀ (w : TWord) (s s1 : State) (x : Ctx), Issues (sigSleep w) w [] s x → s.commit x.gid = .ok s1 → sleepTime x ≠ 0 →
    exec (.sleep w) s = .next (moveOn x s ((x.raiseFlags (region x s1 x.next)).park x.gid
      (.sleep (s.now + BitVec.ofNat 64 (sleepTime x)) x.waitFlags)))) ∧
  (∀ (w : TWord) (s s1 u : State) (x : Ctx), Issues (sigExit w) w [] s x → s.commit x.gid = .ok s1 →
    ((region x s1 x.next).endThreads x.wid (x.active.map Prod.fst)).taskSettle x.wid = some u →
    exec (.exit w) s = .next (depart x s ((u.modGroup x.gid (fun g => { g with pc := x.next })).loseThreads x.gid
      (x.active.map Prod.fst)))) ∧
  (∀ (w : TWord) (s s1 u : State) (x : Ctx), Issues (sigTdone w) w [] s x → s.commit x.gid = .ok s1 → x.active ≠ [] →
    (x.updateActive (region x s1 x.next) (fun _ th => { th with st := .tdone, rpc := x.next })).taskSettle x.wid = some u →
    exec (.tdone w) s = .next (depart x s ((u.modGroup x.gid (fun g => { g with pc := x.next })).loseThreads x.gid
      (x.active.map Prod.fst))))

/-- R264: `reform` files the executing threads in the bin of the next slot when their quadrant has one, and the group goes on without
them; a full bin draws a group (R242). Without a bin the group goes on whole. -/
def Obligations.ReformCompletes : Prop :=
  ∀ (w : TWord) (s s1 : State) (x : Ctx), Issues (sigReform w) w [] s x → s.commit x.gid = .ok s1 → x.active ≠ [] →
    let t := region x s1 x.next
    let at_ (u : State) : State := u.modGroup x.gid (fun g => { g with pc := x.next })
    let ts := x.active.map Prod.fst
    let file (key : Nat) : State :=
      (x.updateActive (t.modCore x.g.core (fun c =>
        let old := match tget? c.bins key with
          | some b => b.ents
          | none => []
        let new : List BinEnt := ts.map (fun i => { tid := i, cyc := s.cycles, thr := x.wg.rfage, time := s.now })
        { c with bins := tset c.bins key { wg := x.wid, pc := x.next, ents := old ++ new } }))
        (fun _ th => { th with st := .binned })).count x.g.core x.wg.fn 9 ts.length
    (∀ key, (t.core x.g.core).binFor x.g.quad x.wid x.next = some key →
      exec (.reform w) s = .next (depart x s (((at_ (file key)).loseThreads x.gid ts).fullDraw x.g.core x.g.quad key))) ∧
    ((t.core x.g.core).binFor x.g.quad x.wid x.next = none → exec (.reform w) s = .next (depart x s (at_ t)))

/-- R24, R25, R240, R261 to R263: a relative `bra` or `call` whose target is well formed and whose slot may be entered sends its executing
threads there. When the whole group executes it, the group goes there as one; when only some threads do, the region is
committed and the others go on at the next slot as a part of their own; with none, it goes on. `call` writes the address of the
next slot to pair D. So do `brx`, `ret` and `call` through a register, when every thread of the group executes it and names one
well-formed target in a pair with tags in INT. That the part which branches keeps the group's record in a partial `call` is the
model's reading of R240 (assumption 5). -/
def Obligations.BranchesComplete : Prop :=
  (let target (x : Ctx) : W64 := (x.g.pc &&& ~~~ 63#64) + 64#64 * (x.w.ext.extractLsb' 3 29).signExtend 64 +
    (x.w.ext.extractLsb' 0 3).zeroExtend 64
  let goes (x : Ctx) (s : State) : Prop := pcBad (target x) = false ∧ x.active ≠ [] ∧ (x.tgtCheck s (target x)).1 = .enter
  let all (x : Ctx) : Prop := ∀ p ∈ x.threads, p.2.guard x.w = true
  let took (x : Ctx) : Part := ⟨x.active.map Prod.fst, target x, true⟩
  let stay (x : Ctx) : Part := ⟨(x.threads.filter (fun p => !p.2.guard x.w)).map Prod.fst, x.next, false⟩
  (∀ (w : TWord) (s : State) (x : Ctx), Issues (sigBra w) w [] s x → goes x s → all x →
    exec (.bra w) s = .next (depart x s ((x.tgtCheck s (target x)).2.modGroup x.gid ((took x).record)))) ∧
  (∀ (w : TWord) (s s1 : State) (x : Ctx), Issues (sigBra w) w [] s x → goes x s → ¬ all x →
    (x.tgtCheck s (target x)).2.commit x.gid = .ok s1 →
    exec (.bra w) s = .next (depart x s (((region x s1 x.next).modGroup x.gid ((stay x).record)).addPart x.g (took x)))) ∧
  (∀ (w : TWord) (s : State) (x : Ctx), Issues (sigCall w) w [] s x → goes x s → all x →
    exec (.call w) s = .next (depart x s ((x.updateActive (x.tgtCheck s (target x)).2
      (fun _ th => th.setRegs w.d.toNat [x.next.truncate 32, x.next.extractLsb' 32 32] 2)).modGroup x.gid ((took x).record)))) ∧
  (∀ (w : TWord) (s s1 : State) (x : Ctx), Issues (sigCall w) w [] s x → goes x s → ¬ all x →
    (x.updateActive (x.tgtCheck s (target x)).2
      (fun _ th => th.setRegs w.d.toNat [x.next.truncate 32, x.next.extractLsb' 32 32] 2)).commit x.gid = .ok s1 →
    exec (.call w) s =
      .next (depart x s (((region x s1 (target x)).modGroup x.gid ((took x).record)).addPart x.g (stay x)))) ∧
  (∀ (w : TWord) (s : State) (x : Ctx), x.active = [] →
    (Issues (sigBra w) w [] s x → pcBad (target x) = false → exec (.bra w) s = .next (moveOn x s s)) ∧
    (Issues (sigCall w) w [] s x → pcBad (target x) = false → exec (.call w) s = .next (moveOn x s s)))) ∧
  (let one (x : Ctx) (s : State) (t : W64) : Prop :=
    (∀ p ∈ x.threads, p.2.guard x.w = true ∧ srcPair x.w p.2 false x.w.a = t ∧ tagOk p.2 x.w.a 2 (fun t => decide (t ≤ 2)) = true) ∧
      pcBad t = false ∧ (x.tgtCheck s t).1 = .enter
  let all (x : Ctx) (t : W64) : Part := ⟨x.active.map Prod.fst, t, true⟩
  ∀ (w : TWord) (s : State) (x : Ctx) (t : W64), x.threads ≠ [] → one x s t →
    (Issues (sigBrx w) w [] s x →
      exec (.brx w) s = .next (depart x s ((x.tgtCheck s t).2.modGroup x.gid ((all x t).record)))) ∧
    (Issues (sigRet w) w [] s x →
      exec (.ret w) s = .next (depart x s ((x.tgtCheck s t).2.modGroup x.gid ((all x t).record)))) ∧
    (Issues (sigCallInd w) w [] s x →
      exec (.callInd w) s = .next (depart x s ((x.updateActive (x.tgtCheck s t).2
        (fun _ th => th.setRegs w.d.toNat [x.next.truncate 32, x.next.extractLsb' 32 32] 2)).modGroup x.gid ((all x t).record)))))

/-! ### Traps -/

/-- A group whose region holds no buffered stores: the trap's boundary commits nothing. -/
def Sys2Proof.Spec.nothingBuffered (x : Ctx) : Prop := x.g.buf = []

/-- R366, R367, Table 14.3: a thread of a trapping group as the trap leaves it: TCAUSE holds the class, SUB and whether the thread raised
the cause, TPC the program counter of the instruction, TADDR its address or 0. -/
def Sys2Proof.Spec.trappedThread (cls sub : Nat) (pc : W64) (own : Option Nat) (th : Thread) : Thread :=
  { th with tcause := BitVec.ofNat 32 (cls + 2 ^ 8 * sub + (match own with | some _ => 2 ^ 16 | none => 0)), tpc := pc,
            taddr := BitVec.ofNat 64 (own.getD 0) }

/-- R365 to R368, R270: a `trap` takes effect for no thread of the group; the group enters the prologue at the privileged level with
its trap registers written, counter 8 advanced, the region begun at the trapping instruction. That the prologue's actions are taken
within the trapping step, the group waiting as trapped and executing nothing of its own there, is the model's reading of R366 to
R368 (assumption 106). -/
def Obligations.SoftwareTrapEntersThePrologue : Prop :=
  ∀ (w : TWord) (s : State) (x : Ctx), Issues (sigTrap w) w [] s x → x.active ≠ [] → nothingBuffered x →
    let own (tid : Nat) : Option Nat := if x.active.any (fun p => p.1 == tid) then some 0 else none
    let s1 := s.modWg x.wid (fun v => x.g.tids.foldl (fun v i => v.modThread i (trappedThread 0x09 w.md.toNat x.g.pc (own i))) v)
    let s2 := (s1.setGroup x.gid { x.g with
      priv := true, pc := Config.prologuePc, rstart := x.g.pc, wait := .trapped, stall := none, begun := none, signed := [],
      lastIssue := s.cycles })
    exec (.trap w) s = .next ((s2.count x.g.core x.wg.fn 8 1).prologue x.gid
      { cls := 0x09, sub := w.md.toNat, own := some (x.active.map (fun p => (p.1, 0))) } x.g.pc)

/-- R37 items 3 and 4, R42, R366, R387, R388: an encoding that is illegal for the executing context traps the whole group, whatever the
guards, with class 0x03 or 0x04, for every Thrum instruction but the relative branches, whose target is checked first (item
2): afterwards the group is privileged at the prologue and every live thread's TPC names the instruction and its TCAUSE the
class. Outside the privileged level `ldfmt`, `ldovf`, `splinter`, `migrate` and `tret` are illegal instructions, and so is a
`sysr` or `sysw` that names a trap register; a `sysw` of a read-only register is an illegal operand, that of `sys.tcause` or
`sys.taddr` at the privileged level too. -/
def Obligations.IllegalEncodingsAndPrivilege : Prop :=
  (∀ (i : Instr) (sg : Sig) (w : TWord) (s : State) (x : Ctx) (cls : Nat), sigOf i = some (sg, w) → (∀ v, i ≠ .bra v ∧ i ≠ .call v) →
    s.boot.off = false → s.ctx? sg w = some x → nothingBuffered x →
    cls = (if sg.illegalInstr w (x.enc s) then 0x03 else 0x04) →
    (sg.illegalInstr w (x.enc s) = true ∨ sg.illegalOperand w (x.enc s) = true) →
    ∃ t, exec i s = .next t ∧
      (∃ g, t.group? x.gid = some g ∧ g.priv = true ∧ g.pc = Config.prologuePc ∧ g.tids = x.g.tids) ∧
      ∀ tid ∈ x.g.tids, (t.thread ⟨x.wid, tid⟩).tpc = x.g.pc ∧
        (t.thread ⟨x.wid, tid⟩).tcause = BitVec.ofNat 32 (cls + 2 ^ 16) ∧
        (t.thread ⟨x.wid, tid⟩).taddr = 0#64 ∧ (t.thread ⟨x.wid, tid⟩).regs = (s.thread ⟨x.wid, tid⟩).regs) ∧
  (∀ (w : TWord) (e : EncCtx),
    (e.priv = false → (sigTret w).illegalInstr w e = true ∧ (sigLdfmt w).illegalInstr w e = true ∧
      (sigLdfmtClr w).illegalInstr w e = true ∧ (sigLdovf w).illegalInstr w e = true ∧ (sigSplinter w).illegalInstr w e = true ∧
      (sigMigrate w).illegalInstr w e = true) ∧
    (e.priv = false → w.a.toNat = 0x20 ∨ w.a.toNat = 0x21 ∨ w.a.toNat = 0x22 → (sigSysr w).illegalInstr w e = true) ∧
    (e.priv = false → w.a.toNat = 0x20 ∨ w.a.toNat = 0x21 ∨ w.a.toNat = 0x22 → (sigSysw w).illegalInstr w e = true) ∧
    ((w.a.toNat ≤ 0x05 ∨ 0x08 ≤ w.a.toNat ∧ w.a.toNat ≤ 0x0F ∨ 0x18 ≤ w.a.toNat ∧ w.a.toNat ≤ 0x1B ∨ w.a.toNat = 0x20 ∨
        w.a.toNat = 0x22) →
      (sigSysw w).illegalOperand w e = true))

/-- R37 item 5, R74, R366: an integer instruction some of whose executing threads hold a source with a tag outside INT traps with
class 0x05: the group is privileged at the prologue, every live thread's TPC names the instruction, bit 16 of TCAUSE marks
exactly the threads that raise the cause, and no register, predicate or flag of a thread changes. -/
def Obligations.TagFaultsTrap : Prop :=
  ∀ (i : TWord → Instr) (sg : TWord → Sig) (fs : TWord → List Fld),
    (i, sg, fs) ∈ ([(.add, sigAdd, fun w => [w.a, w.b]), (.sub, sigSub, fun w => [w.a, w.b]), (.mul, sigMul, fun w => [w.a, w.b]),
      (.mulhi, sigMulhi, fun w => [w.a, w.b]), (.mulw, sigMulw, fun w => [w.a, w.b]), (.mad, sigMad, fun w => [w.a, w.b, w.c]),
      (.min, sigMin, fun w => [w.a, w.b]), (.max, sigMax, fun w => [w.a, w.b]), (.abs, sigAbs, fun w => [w.a]),
      (.neg, sigNeg, fun w => [w.a]), (.cmp, sigCmp, fun w => [w.a, w.b])] :
      List ((TWord → Instr) × (TWord → Sig) × (TWord → List Fld))) →
    ∀ (w : TWord) (s : State) (x : Ctx), Issues (sg w) w [] s x → nothingBuffered x →
      let raises (p : Nat × Thread) : Prop := p ∈ x.active ∧ ints fs x p.1 p.2 = false
      (∃ p, raises p) →
      ∃ t, exec (i w) s = .next t ∧
        (∃ g, t.group? x.gid = some g ∧ g.priv = true ∧ g.pc = Config.prologuePc ∧ g.tids = x.g.tids) ∧
        ∀ tid ∈ x.g.tids,
          let a := s.thread ⟨x.wid, tid⟩
          let b := t.thread ⟨x.wid, tid⟩
          b.regs = a.regs ∧ b.preds = a.preds ∧ b.flags = a.flags ∧ b.fpstat = a.fpstat ∧ b.srseed = a.srseed ∧ b.tpc = x.g.pc ∧
          ((∃ p, raises p ∧ p.1 = tid) → b.tcause = BitVec.ofNat 32 (0x05 + 2 ^ 16)) ∧
          ((∀ p, raises p → p.1 ≠ tid) → b.tcause = 0x05#32)

/-- R391: in the prologue, a `tret` whose every thread executes and returns to one well-formed point: the threads of the group resume
as one group at TPC, or with SKIP at the slot after it, out of the privileged level, where a region begins. -/
def Obligations.TretReturns : Prop :=
  ∀ (w : TWord) (s s1 : State) (x : Ctx) (pc : W64), Issues (sigTret w) w [] s x → x.threads ≠ [] →
    (∀ p ∈ x.threads, p.2.guard w = true ∧ (if w.md.getLsbD 0 then nextPc p.2.tpc else p.2.tpc) = pc) →
    pcBad pc = false → s.commit x.gid = .ok s1 →
    exec (.tret w) s = .next (depart x s ((region x s1 pc).modGroup x.gid (fun g => { g with
      tids := x.threads.map Prod.fst, pc := pc, rstart := pc, begun := none, priv := false, stall := none })))

/-- R27, R28: an instruction that names a register with a write still to come, or whose flag would pass 63, does not issue: nothing
changes but the note that the group waits. -/
def Obligations.ScoreboardHoldsIssue : Prop :=
  ∀ (i : TWord → Instr) (sg : TWord → Sig) (extra : TWord → List Nat),
    (i, sg, extra) ∈ ([(.add, sigAdd, noKeys), (.mov, sigMov, noKeys), (.ld, sigLd, noKeys), (.st, sigSt, noKeys),
      (.atom, sigAtom, noKeys), (.acp, sigAcp, noKeys), (.mstream, sigMstream, noKeys), (.region, sigRegion, noKeys)] :
      List ((TWord → Instr) × (TWord → Sig) × (TWord → List Nat))) →
    ∀ (w : TWord) (s : State) (x : Ctx), s.boot.off = false → s.ctx? (sg w) w = some x → encTrap (sg w) w (x.enc s) = none →
      x.blocked (extra w) = true →
      exec (i w) s = .next (s.modGroup x.gid (fun g => { g with
        stall := some (g.stall.getD s.cycles), stallOn := .keys (x.awaited (extra w)), triedAt := s.cycles }))

/-! ### Memory instructions: where their accesses go out -/

/-- The accesses of the executing threads go out: every one is translated, permitted and inside its allocation (R173, R174), none
performs at the device-register window; an ordered or I/O access commits the region first (R332). `t` is the state in which
they go out. -/
def Sys2Proof.Spec.goesOut (x : Ctx) (s : State) (m : Mode) (n : Nat) (need : Need) (strong : Bool) (rs : List Ready) (t : State) :
    Prop :=
  anyDev rs = false ∧
    (if strong then ∃ s1, s.commit x.gid = .ok s1 ∧ x.reach m n need (region x s1 x.next) x.active = .ok (rs, t)
     else ∃ u, x.reach m n need s x.active = .ok (rs, u) ∧
       (if anyIO rs then ∃ s1, u.commit x.gid = .ok s1 ∧ t = region x s1 x.next else t = u))

/-- The size in bytes that SZ selects: 1, 2, 4, 8, 16, then 1 and 2 sign-extended (Table 7.2). -/
def Sys2Proof.Spec.accessSize (sz : Nat) : Nat := match sz with | 0 => 1 | 1 => 2 | 2 => 4 | 3 => 8 | 4 => 16 | 5 => 1 | 6 => 2 | _ => 16

/-- R171 to R175, R182, R266: `ld`, `lds` and `poll` complete at issue: with tags in order, aligned addresses and accesses that may go
out, one load per executing thread is pending; a polling group waits for its loads. -/
def Obligations.LoadsComplete : Prop :=
  (∀ (w : TWord) (s t : State) (x : Ctx) (rs : List Ready) (scr : Bool),
    let n := accessSize (w.md.toNat % 8)
    let m : Mode := { scr := scr, wide := !scr && w.md.getLsbD 6 }
    let ord := ordOf (w.md.toNat / 8 % 8)
    Issues (if scr then sigLds w else sigLd w) w [] s x →
    x.causes (x.accCause m n (fun _ => !badTag x.wg.fmt w.c.toNat)) = none →
    goesOut x s m n needR (decide (ord ≠ .plain ∧ ord ≠ .relaxed)) rs t →
    exec (if scr then .lds w else .ld w) s = .next (moveOn x s (x.zeroOthers (regsOf n) (fun _ => w.c.toNat)
      (rs.foldl (x.startLoad n ord (decide (w.md.toNat % 8 = 5 ∨ w.md.toNat % 8 = 6)) w.c.toNat none)
        (lowLines (w.md.getLsbD 7) t rs))))) ∧
  (∀ (w : TWord) (s t : State) (x : Ctx) (rs : List Ready),
    let m : Mode := { scr := false, wide := w.md.getLsbD 6 }
    Issues (sigPoll w) w [] s x → x.causes (x.accCause m 4 (fun _ => true)) = none → rs ≠ [] → goesOut x s m 4 needR true rs t →
    exec (.poll w) s = .next (moveOn x s ((rs.foldl (x.startLoad 4 .acquire false 2 (some x.gid)) t).park x.gid
      (.poll rs.length (16 * 2 ^ (w.md.toNat % 16)) none []))))

/-- R176, R333: `st` and `sts` complete: a plain or relaxed store to ordinary memory enters the group's buffer, inside the scratchpad
allocation for `sts`, the region being committed first when the buffer would need a 65th line; an ordered or I/O store goes
out once the region has been committed. A plain or relaxed store to I/O memory completes for its flag at issue, which is the
model's reading of R29 (assumption 140). -/
def Obligations.StoresComplete : Prop :=
  ∀ (w : TWord) (s : State) (x : Ctx) (scr : Bool),
    let n := accessSize (w.md.toNat % 8)
    let m : Mode := { scr := scr, wide := !scr && w.md.getLsbD 6 }
    let ord := ordOf (w.md.toNat / 8 % 8)
    let i : Instr := if scr then .sts w else .st w
    let put (t : State) : State := x.active.foldl (x.bufferOne scr (ord == .relaxed) n m) t
    Issues (if scr then sigSts w else sigSt w) w [] s x → x.causes (x.accCause m n (fun _ => true)) = none →
    ((ord = .plain ∨ ord = .relaxed) → x.walkWaits m s = false → x.storesIO s m = false →
      (scr = true → ∀ p ∈ x.active, x.addr m p + n ≤ x.wg.ssize) →
      (x.overfull m = false → exec i s = .next (moveOn x s (put s))) ∧
      (∀ s1, x.overfull m = true → s.commit x.gid = .ok s1 → exec i s = .next (moveOn x s (put (region x s1 x.g.pc))))) ∧
    (∀ rs t, (ord ≠ .plain ∧ ord ≠ .relaxed) ∨ (x.walkWaits m s = false ∧ x.storesIO s m = true) → goesOut x s m n needW true rs t →
      let y := if ord = .plain ∨ ord = .relaxed then x.flagless else x
      exec i s = .next (moveOn x s (rs.foldl (y.startWrite n ord (fun r => .store (x.datum n (r.tid, r.th))))
        (lowLines (w.md.getLsbD 7) t rs))))

/-- Table 7.4: the width of an atomic operation in bytes, and its result tag, given the tag of C. -/
def Sys2Proof.Spec.atomWidth (opc : Nat) : Nat := if opc < 10 then 4 else 8
def Sys2Proof.Spec.atomResultTag (opc own : Nat) : Nat :=
  match opc with | 4 => 1 | 5 => 1 | 6 => 2 | 7 => 2 | 9 => 3 | 12 => 2 | 13 => 2 | _ => own

/-- R178 to R181, R297: `atom`, `atomn`, `atoms`, `cas`, `cass` and `sigdec` complete at issue: with tags in order, aligned addresses and
accesses that may go out to memory that is no I/O page, one read-modify-write per executing thread is pending. Where C is a pair or
a quad, the copied tag is that of its lowest register, which is the model's choice (assumption 119). -/
def Obligations.AtomicsComplete : Prop :=
  (∀ (w : TWord) (s t : State) (x : Ctx) (rs : List Ready) (i : TWord → Instr) (sg : TWord → Sig) (scr noReturn : Bool),
    (i, sg, scr, noReturn) ∈ ([(.atom, sigAtom, false, false), (.atomn, sigAtomn, false, true), (.atoms, sigAtoms, true, false)] :
      List ((TWord → Instr) × (TWord → Sig) × Bool × Bool)) →
    let opc := w.md.toNat % 16
    let m : Mode := { scr := scr, wide := !scr && w.md.getLsbD 7 }
    let own (p : Nat × Thread) : Nat := srcTag w p.2 (laneOf p.1) w.c
    Issues (sg w) w [] s x →
    x.causes (x.accCause m (atomWidth opc) (fun p => tagOk p.2 w.c (atomWidth opc / 4) (atomReq opc) &&
      (w.d == 1023#10 || !badTag x.wg.fmt (atomResultTag opc (own p))))) = none →
    goesOut x s m (atomWidth opc) needRW true rs t → anyIO rs = false →
    exec (i w) s = .next (moveOn x s (x.zeroOthers (atomWidth opc / 4) (fun p => atomResultTag opc (own p))
      (rs.foldl (x.startWrite (atomWidth opc) (atomOrd (w.md.toNat / 16 % 8)) (fun r =>
        .rmw opc (x.atomVal (r.tid, r.th) opc) (destOf w.d) (atomResultTag opc (own (r.tid, r.th))) noReturn)) t)))) ∧
  (∀ (w : TWord) (s t : State) (x : Ctx) (rs : List Ready) (scr : Bool),
    let wide := w.md.getLsbD 0
    let n := if wide then 8 else 4
    let m : Mode := { scr := scr, wide := !scr && w.md.getLsbD 7 }
    let own (p : Nat × Thread) : Nat := srcTag w p.2 (laneOf p.1) w.c
    Issues (if scr then sigCass w else sigCas w) w [] s x →
    x.causes (x.accCause m n (fun p => w.d == 1023#10 || !badTag x.wg.fmt (own p))) = none →
    goesOut x s m n needRW true rs t → anyIO rs = false →
    exec (if scr then .cass w else .cas w) s = .next (moveOn x s (x.zeroOthers (n / 4) own
      (rs.foldl (x.startWrite n (atomOrd (w.md.toNat / 16 % 8)) (fun r =>
        let v := casParts wide x (r.tid, r.th)
        .cas wide v.1 v.2 (destOf w.d) (own (r.tid, r.th)))) t)))) ∧
  (∀ (w : TWord) (s t : State) (x : Ctx) (rs : List Ready),
    let y : Ctx := { x with w := { w with b := 1022#10 } }
    let m : Mode := { scr := false, wide := true }
    Issues (sigSigdec w) w [] s x →
    y.causes (y.accCause m 8 (fun p => tagOk p.2 w.b 1 (fun t => decide (t ≤ 2)))) = none →
    goesOut y s m 8 needRW true rs t → anyIO rs = false →
    exec (.sigdec w) s = .next (moveOn x s (rs.foldl (y.startWrite 8 .release (fun r =>
      .sigdec (x.src (r.tid, r.th) w.b) (destOf w.d))) t)))

/-- R177, R182, R321: `pf` and `evict` complete whenever the address tags pass and no walk for them waits; a hint that does not
translate is dropped. Once the region
is committed and every earlier access of the executing threads that the instruction waits for has performed, `fence.acq`,
`fence.sc` and `xsync` complete; `fence.rel` completes at once. -/
def Obligations.HintsAndFencesComplete : Prop :=
  (∀ (w : TWord) (s : State) (x : Ctx), (∀ p ∈ x.active, addrTagsOk w p.2 (w.md.getLsbD 6) = true) →
    x.walkWaits { scr := false, wide := w.md.getLsbD 6 } s = false →
    (Issues (sigPf w) w [] s x → exec (.pf w) s = .next (moveOn x s (x.active.foldl (Ctx.prefetch x) s))) ∧
    (Issues (sigEvict w) w [] s x → exec (.evict w) s = .next (moveOn x s (x.active.foldl (Ctx.evict x) s)))) ∧
  (∀ (w : TWord) (s s1 : State) (x : Ctx), Issues (sigFence w) w [] s x → s.commit x.gid = .ok s1 →
    (w.md.toNat % 4 = 1 → (∀ p ∈ x.active, (region x s1 x.g.pc).readsDone (x.ref p.1) = true) →
      exec (.fence w) s = .next (moveOn x s (region x (region x s1 x.g.pc) x.next))) ∧
    (w.md.toNat % 4 = 2 → exec (.fence w) s = .next (moveOn x s (x.fenceRel (region x s1 x.next)))) ∧
    (w.md.toNat % 4 = 0 ∨ w.md.toNat % 4 = 3 → (∀ p ∈ x.active, (region x s1 x.g.pc).accessesDone (x.ref p.1) = true) →
      exec (.fence w) s = .next (moveOn x s (region x (region x s1 x.g.pc) x.next)))) ∧
  (∀ (w : TWord) (s s1 : State) (x : Ctx), Issues (sigXsync w) w [] s x → s.commit x.gid = .ok s1 →
    (∀ p ∈ x.active, (region x s1 x.g.pc).accessesDone (x.ref p.1) = true) →
    exec (.xsync w) s = .next (moveOn x s (region x (region x s1 x.g.pc) x.next)))

/-- R184, R185: the seven copies complete at issue when every executing thread's copy can be made (its operands and its record pass
their checks), the engine has room, and the region is committed: each joins the batch of its token register and enters the
engine; under ZM a thread whose guard is false has a zero token. The reads of tensor records are charged (R340). -/
def Obligations.CopiesComplete : Prop :=
  ∀ (i : TWord → Instr) (sg : TWord → Sig) (plan : Ctx → Nat × Thread → State → PlanRes) (tensor : Bool),
    (i, sg, plan, tensor) ∈ ([(.acp, sigAcp, planAcp, false), (.tcp, sigTcp, planTensor .tcp, true),
      (.tmc, sigTmc, planTensor .tmc, true), (.tsf, sigTsf, planTensor .tsf, true), (.tst, sigTst, planTensor .tst, true),
      (.trst, sigTrst, planTensor .trst, true), (.rcp, sigRcp, planRcp, false)] :
      List ((TWord → Instr) × (TWord → Sig) × (Ctx → Nat × Thread → State → PlanRes) × Bool)) →
    ∀ (w : TWord) (s s1 : State) (x : Ctx) (ps : List (Nat × CopyPlan)), Issues (sg w) w [] s x →
      x.active.map (fun p => (p.1, plan x p s)) = ps.map (fun q => (q.1, PlanRes.ok q.2)) →
      (s.copies.filter (fun p => p.2.core == x.g.core)).length + x.active.length ≤ 256 →
      s.commit x.gid = .ok s1 →
      let t := region x s1 x.next
      exec (i w) s = .next (moveOn x s (x.zeroOthers 1 (fun _ => 2) (ps.foldl x.startCopy (if tensor then x.sawRecords t else t))))

/-- R201 to R204: picot operands with tags in INT, on 16-byte boundaries and inside the allocation. -/
def Sys2Proof.Spec.picotsOk (x : Ctx) (fs : List Fld) : Prop :=
  ∀ p ∈ x.active, (∀ f ∈ fs, tagOk p.2 f 1 (fun t => decide (t ≤ 2)) = true) ∧ (val x p.1 p.2 x.w.a).toNat % 16 = 0 ∧
    (val x p.1 p.2 x.w.a).toNat + 16 ≤ x.wg.ssize

/-- R201 to R204: the picot instructions complete: `pinit`, `parr` and `parrb` send one update per executing thread to the bank, after
the region; `ptest` and `pwait` look at the phase once their threads' earlier updates of the picot have performed, `pwait`
going on when every thread sees a phase other than the one it names, and moving its group to the pending set otherwise. -/
def Obligations.PicotsComplete : Prop :=
  (∀ (w : TWord) (s s1 : State) (x : Ctx), Issues (sigPinit w) w [] s x → picotsOk x [w.a, w.b, w.c] → s.commit x.gid = .ok s1 →
    (∀ p ∈ x.active, (val x p.1 p.2 w.b).toNat ≤ 4095 ∧ (val x p.1 p.2 w.c).toNat < 2 ^ 31 ∧
      ((val x p.1 p.2 w.b).toNat ≠ 0 ∨ (val x p.1 p.2 w.c).toNat ≠ 0)) →
    exec (.pinit w) s = .next (moveOn x s (x.active.foldl (x.sendPicot .relaxed (fun p =>
      .init (val x p.1 p.2 w.b).toNat (val x p.1 p.2 w.c))) (region x s1 x.next)))) ∧
  (∀ (w : TWord) (s s1 : State) (x : Ctx), Issues (sigParr w) w [] s x → picotsOk x [w.a] → s.commit x.gid = .ok s1 →
    exec (.parr w) s = .next (moveOn x s (x.zeroOthers 1 (fun _ => 2) (x.active.foldl (x.sendPicot .release (fun _ =>
      .arrive 0#32 (destOf w.d))) (region x s1 x.next))))) ∧
  (∀ (w : TWord) (s s1 : State) (x : Ctx), Issues (sigParrb w) w [] s x → picotsOk x [w.a, w.b] → s.commit x.gid = .ok s1 →
    exec (.parrb w) s = .next (moveOn x s (x.zeroOthers 1 (fun _ => 2) (x.active.foldl (x.sendPicot .release (fun p =>
      .arrive (val x p.1 p.2 w.b) (destOf w.d))) (region x s1 x.next))))) ∧
  (∀ (w : TWord) (s s1 : State) (x : Ctx),
    let t := region x s1 x.g.pc
    let u := region x t x.next
    let left := x.active.filter (fun p => x.phase u p == x.leaves p)
    picotsOk x [w.a, w.b] → s.commit x.gid = .ok s1 → (∀ p ∈ x.active, x.picotClear t (x.ref p.1) = true) →
    (Issues (sigPtest w) w [] s x → exec (.ptest w) s = .next (moveOn x s (x.update u (fun i th =>
      if th.guard w then th.setPred w.d.toNat (x.phase u (i, th) != x.leaves (i, th))
      else if wordZM x.sg w then th.setPred w.d.toNat false else th)))) ∧
    (Issues (sigPwait w) w [] s x → left = [] → exec (.pwait w) s = .next (moveOn x s u)) ∧
    (Issues (sigPwait w) w [] s x → left ≠ [] → exec (.pwait w) s = .next (moveOn x s
      (((x.raiseFlags u).park x.gid (.pwait (left.map (fun p => (x.wg.sbase + x.picot p, x.leaves p))) x.waitFlags)).modGroup x.gid
        (fun g => { g with rstart := x.g.pc })))))


/-! ### Convergence, fixed-function units, shading, launches, system instructions -/

/-- A rule that waits for its threads: the region is committed, and every earlier access of the executing threads has performed. -/
def Sys2Proof.Spec.settled (x : Ctx) (s s1 : State) : Prop :=
  s.commit x.gid = .ok s1 ∧ ∀ p ∈ x.active, (region x s1 x.g.pc).allDone (x.ref p.1) = true
/-- The state in which such an instruction takes effect: a region has begun at the next slot. -/
def Sys2Proof.Spec.after (x : Ctx) (s1 : State) : State := region x (region x s1 x.g.pc) x.next
/-- Every executing thread's check answers: thread by thread, these values. -/
def Sys2Proof.Spec.answered {α : Type} (x : Ctx) (f : Nat × Thread → Answer α) (vs : List (Nat × α)) : Prop :=
  x.active.map (fun p => (p.1, f p)) = vs.map (fun q => (q.1, Answer.ok q.2))

/-- The count of a group's signatures against its convergence register, epilogue records read in `t` (R108 to R110). -/
def Sys2Proof.Spec.counts (op : Nat) (x : Ctx) (s t : State) : Count :=
  x.active.foldl (fun c p => countOne (fun ops => aheadOf (s.core x.g.core) x.wg.fn x.wid x.wg
    ((s.core x.g.core).opq ++ ops.map (x.arrOp 0))) x.wg (x.epiAt t) x.flag c p.1 (x.signature op p)) { conv := x.wg.creg x.w.d.toNat }

/-- R107, R108, R123: `cinit` with a count of 1 to 2,048, not above the workgroup's threads, arms an empty convergence register with that
count of expected signatures. While the executing threads' signatures agree with one another and with the one buffered and
more than that are still to come, the register only counts them: it holds the signature and its signers, and no operation is
queued. -/
def Obligations.ConvergenceRegistersCount : Prop :=
  (∀ (w : TWord) (s : State) (x : Ctx), Issues (sigCinit w) w [] s x →
    (x.wg.creg w.d.toNat).buf = none →
    (∀ p ∈ x.active, ints (fun w => [w.a]) x p.1 p.2 = true ∧ 1 ≤ (val x p.1 p.2 w.a).toNat ∧
      (val x p.1 p.2 w.a).toNat ≤ 2048 ∧ (val x p.1 p.2 w.a).toNat ≤ x.wg.nthr) →
    exec (.cinit w) s = .next (moveOn x s (x.active.foldl (fun t p => t.modWg x.wid (fun v => { v with
      conv := tset v.conv w.d.toNat
        { arm := true, pend := (val x p.1 p.2 w.a).toNat, count := (val x p.1 p.2 w.a).toNat } })) s))) ∧
  (∀ (op : Nat) (x : Ctx) (s t : State) (b : SigBuf), (∀ p ∈ x.active, x.signature op p = b) →
    let r := x.wg.creg x.w.d.toNat
    (r.buf = none ∨ r.buf = some b) → x.active ≠ [] → x.active.length < r.pend →
    counts op x s t = { conv := { r with
      buf := some b, pend := r.pend - x.active.length, signers := r.signers ++ x.active.map (fun p => (p.1, x.flag)) } })

/-- R107 to R115: the nine signatures complete when every executing thread's operands and register pass their checks, none differs from
the buffered signature, the operation that a full count issues passes the checks at issue, the array's queue has entries free for
all of them and no halt of the workgroup has been asked for: the register counts them, and each full count puts one operation in the
queue. When no thread executes, the region ends and the group goes on (R248). An `mdrain` with a record passes the queries of its signers
that are still to come (the model's choice: assumption 128). -/
def Obligations.SignaturesComplete : Prop :=
  ∀ (i : TWord → Instr) (sg : TWord → Sig) (op : Nat),
    (i, sg, op) ∈ ([(.mjoin, sigMjoin, 0x2C1), (.mld, sigMld, 0x2C2), (.mldq, sigMldq, 0x2C3), (.mswap, sigMswap, 0x2C4),
      (.mstream, sigMstream, 0x2C5), (.mdrain, sigMdrain, 0x2C6), (.mzero, sigMzero, 0x2C7), (.mrowSt, sigMrowSt, 0x2C8),
      (.mrowLd, sigMrowLd, 0x2C8)] : List ((TWord → Instr) × (TWord → Sig) × Nat)) →
    (∀ (w : TWord) (s s1 : State) (x : Ctx), Issues (sg w) w [] s x → x.active = [] → x.g.signed = [] → s.commit x.gid = .ok s1 →
      exec (i w) s = .next (moveOn x s (region x s1 x.next))) ∧
    ∀ (w : TWord) (s s1 : State) (x : Ctx), Issues (sg w) w [] s x → x.causes (x.sigCause op) = none → x.active ≠ [] →
      s.commit x.gid = .ok s1 →
      let t := region x s1 x.g.pc
      let c := counts op x s t
      let c0 := counts op x s s
      let signers := c0.ops.flatMap (fun q => q.2.2.2.map Prod.fst) ++
        (if c0.fail.isSome then c0.conv.signers.map Prod.fst else []) ++ x.g.tids
      x.g.signed = [] → s.signing x.g.core x.wg.fn x.gid = false → s.haltAsked x.wid = false →
      c0.mism = [] → c0.ops.length ≤ (s.core x.g.core).arrayFree x.wg.fn → c.fail = none →
      (op = 0x2C6 → w.c ≠ 1022#10 → t.signerPending x.wid signers t.nextId = false ∧
        ∀ q ∈ c.ops, t.scrIsPois x.g.core (x.wg.sbase + q.1.vc.toNat) 16 = false) →
      let queued := c.ops.foldl (fun u q =>
        ({ u with nextId := u.nextId + 1 } : State).modCore x.g.core (fun y => { y with opq := y.opq ++ [x.arrOp u.nextId q] }))
        (if op = 0x2C6 ∧ w.c ≠ 1022#10 then t.passSigners x.wid signers t.nextId else t)
      let counted := queued.modWg x.wid (fun v => { v with conv := tset v.conv w.d.toNat c.conv })
      exec (i w) s = .next (moveOn x s ((x.update counted (fun tid th =>
        if x.active.any (fun p => p.1 == tid) then th.flagUp x.flag else th)).modGroup x.gid
          (fun g => { g with rstart := x.next, signed := [] })))

/-- R227 to R232: `rast` and `trav` complete once every earlier scratchpad write of the executing threads has performed and every
thread's record passes its checks: each thread's operation goes to the cluster's unit. The queries of those threads that are still to
come are passed (the model's choice: assumption 128). -/
def Obligations.UnitsComplete : Prop :=
  (∀ (w : TWord) (s s1 : State) (x : Ctx) (os : List (Nat × UnitOut)), Issues (sigRast w) w [] s x → s.commit x.gid = .ok s1 →
    (region x s1 x.g.pc).signerPending x.wid (x.active.map Prod.fst) (region x s1 x.g.pc).nextId = false →
    answered x (rastOne x (region x s1 x.g.pc)) os →
    let t := region x s1 x.g.pc
    exec (.rast w) s = .next (moveOn x s (region x (os.foldl x.startUnit (t.passSigners x.wid (os.map Prod.fst) t.nextId)) x.next))) ∧
  (∀ (w : TWord) (s s1 : State) (x : Ctx) (os : List (Nat × UnitOut)), Issues (sigTrav w) w [] s x → s.commit x.gid = .ok s1 →
    (region x s1 x.g.pc).signerPending x.wid (x.active.map Prod.fst) (region x s1 x.g.pc).nextId = false →
    answered x (travOne x (region x s1 x.g.pc)) os →
    let u := region x s1 x.g.pc
    let t := region x (os.foldl x.startUnit (u.passSigners x.wid (os.map Prod.fst) u.nextId)) x.next
    exec (.trav w) s = .next (moveOn x s { t with fresh := t.fresh + 4096 }))

/-- R209, R213, R217 to R222: the shading instructions complete when every executing thread's key, permissions and operands pass their
checks; those that are releases, once their threads are quiet, as the parking threads of `shpark` must be, and `shfill` once no query of
its key has been passed by its thread (the model's choice: assumption 128). An `shinv` that had to wait
for a range register goes on with the threads whose ranges are not recorded yet. The reads of keys and materials are charged
(R340). -/
def Obligations.ShadingCompletes : Prop :=
  (∀ (w : TWord) (s s1 : State) (x : Ctx) (ks : List (Nat × Resolved)) (ms : List (Nat × Resolved × Option (Nat × W64 × Nat))),
    Issues (sigShq w) w [] s x → (∀ p ∈ x.active, tagOk p.2 w.a 2 (fun t => decide (t ≤ 2)) = true) → answered x (x.resolve s) ks →
    s.commit x.gid = .ok s1 →
    let t := (x.sawKeys (region x s1 x.next) ks).probes ks
    t.1.map (fun q => (q.1, x.needMaterial t.2 q)) = ms.map (fun q => (q.1, Answer.ok q.2)) →
    let u := x.sawMaterials t.2 (ms.filterMap (fun q => q.2.2.map (fun m => (q.1, m.1))))
    exec (.shq w) s = .next (moveOn x s (ms.foldl (x.sendQuery t.2.nextId) u))) ∧
  (∀ (w : TWord) (s s1 u : State) (x : Ctx) (qs : List (Nat × ParkReq)), Issues (sigShpark w) w [] s x → answered x (x.parkReq s) qs →
    s.commit x.gid = .ok s1 →
    let t := x.parkAll (x.sawKeys (region x s1 x.next) (qs.map (fun q => (q.1, q.2.r)))) qs
    (∀ i ∈ t.1, (region x s1 x.next).allDone (x.ref i) = true) →
    (t.2.endThreads x.wid t.1).taskSettle x.wid = some u →
    exec (.shpark w) s = .next (depart x s ((u.modGroup x.gid (fun g => { g with pc := x.next })).loseThreads x.gid t.1))) ∧
  (∀ (w : TWord) (s s1 : State) (x : Ctx) (qs : List (Nat × FillReq)) (drop : Bool),
    Issues (if drop then sigShfillDrop w else sigShfill w) w [] s x → answered x (x.fillReq s) qs → settled x s s1 →
    (drop = false → ∀ q ∈ qs, (after x s1).passedQuery q.2.r = false) →
    exec (if drop then .shfillDrop w else .shfill w) s = .next (moveOn x s (qs.foldl (fun u q =>
      (u.fillOne drop q.2).2.modThread (x.ref q.1) (fun th => th.setPred w.d.toNat (u.fillOne drop q.2).1))
        (x.sawKeys (after x s1) (qs.map (fun q => (q.1, q.2.r))))))) ∧
  (∀ (w : TWord) (s s1 u : State) (x : Ctx) (gs : List (Nat × InvRange)), Issues (sigShinv w) w [] s x → answered x (x.invReq s) gs →
    settled x s s1 →
    let rest := gs.filter (fun q => !x.g.signed.contains q.1)
    (after x s1).recordRanges rest = (rest.length, u) →
    exec (.shinv w) s = .next (moveOn x s (u.modGroup x.gid (fun g => { g with signed := [] })))) ∧
  (∀ (w : TWord) (s s1 : State) (x : Ctx), Issues (sigShtick w) w [] s x → (s.fnb x.wg.fn).shade.tick = true → settled x s s1 →
    exec (.shtick w) s = .next (moveOn x s (x.active.foldl (fun u p =>
      u.tickFrame.modThread (x.ref p.1) (fun th => if w.d = 1023#10 then th else th.setReg w.d.toNat u.tickFrame.shade.frame 2))
      (after x s1))))

/-- R292, R293, R295, R298, R364: `launch` completes when every executing thread's packet and queue pass their checks and its earlier
accesses have performed: each takes a place in the pending-launch pool or has its predicate cleared. `role` gives the role,
the group of the thread in its role and the number of groups; `bmsg` sends one message per executing thread to a cluster
below 100, once its threads are quiet and the port holds at most 64 messages with them. -/
def Obligations.LaunchRoleAndMessagesComplete : Prop :=
  (∀ (w : TWord) (s s1 : State) (x : Ctx) (us : List (Nat × Unit)) (qs : List (Nat × Nat × List Byte)),
    Issues (sigLaunch w) w [] s x → answered x x.launchOffset us → settled x s s1 →
    answered x (x.launchImage (after x s1)) qs →
    exec (.launch w) s = .next (moveOn x s (qs.foldl (x.launchOne (after x s1).nextId) (after x s1)))) ∧
  (∀ (w : TWord) (s s1 : State) (x : Ctx), Issues (sigRole w) w [] s x → s.commit x.gid = .ok s1 →
    exec (.role w) s = .next (moveOn x s (x.update (region x s1 x.next) (gives x (anyTags x) (tagU32 x) (fun i th =>
      [BitVec.ofNat 32 (if x.wg.kind = .gang then th.role % 8 + 2 ^ 8 * (th.rgrp % 2 ^ 8) + 2 ^ 16 * (th.rgrps % 2 ^ 8)
        else 2 ^ 8 * (i / 32 % 2 ^ 8) + 2 ^ 16 * ((x.wg.nthr + 31) / 32 % 2 ^ 8))]))))) ∧
  (∀ (w : TWord) (s s1 : State) (x : Ctx), Issues (sigBmsg w) w [] s x → settled x s s1 →
    (∀ p ∈ x.active, ints (fun w => [w.b]) x p.1 p.2 = true ∧ (val x p.1 p.2 w.b).toNat < 100) →
    (s.msgs.filter (fun p => p.2.core == x.g.core)).length + x.active.length ≤ 64 →
    exec (.bmsg w) s = .next (moveOn x s (x.active.foldl x.sendMsg (after x s1))))

/-- Table 14.11: the value of a system register, read by a thread. The stepping in `sys.arch`, the skew of `sys.clk` and one time for
every agent in `sys.time` are the model's choices (assumptions 108, 11, 113). -/
def Sys2Proof.Spec.sysRegister (x : Ctx) (s : State) (i : Nat) (th : Thread) (n : Nat) : W64 :=
  let num (v : Nat) : W64 := BitVec.ofNat 64 v
  let X := x.g.core % 20
  let Y := x.g.core / 20
  match n with
  | 0x00 => 0x01840000#64
  | 0x01 => num ((2 * (Y / 10) + X / 10) * 2 ^ 24 + (X % 2 + 2 * (Y % 2)) * 2 ^ 22 + (10 * (Y / 2) + X / 2) * 2 ^ 15 + Y * 2 ^ 5 + X)
  | 0x02 => s.now
  | 0x03 => num s.cycles + Config.clkSkew x.g.core
  | 0x04 => num (s.podid % 2 ^ 8)
  | 0x05 => num (x.wg.fn +
      if (s.core x.g.core).tenants.length = 2 ∧ (s.core x.g.core).tenants[1]? = some x.wg.fn then 2 ^ 8 else 0)
  | 0x08 => num i
  | 0x09 => num (i % 32)
  | 0x0A => num (i / 32 % 4)
  | 0x0B => x.g.pc
  | 0x0C => num x.wg.g
  | 0x0D => num x.wg.wgl
  | 0x0E => num (2 ^ 16 * x.wg.ly + x.wg.lx)
  | 0x0F => num (2 ^ 16 * x.wg.lh + x.wg.lw)
  | 0x10 => th.fpctl.zeroExtend 64
  | 0x11 => th.fpstat.zeroExtend 64
  | 0x12 => th.srseed.zeroExtend 64
  | 0x13 => th.abase
  | 0x14 => num x.wg.rfage
  | 0x15 => x.wg.mstat.zeroExtend 64
  | 0x16 => x.wg.mseed.zeroExtend 64
  | 0x18 => x.wg.arg
  | 0x19 => num x.wg.depth
  | 0x1A => (s.fnb x.wg.fn).shade.heapva
  | 0x1B => s.shade.frame.zeroExtend 64
  | 0x20 => th.tcause.zeroExtend 64
  | 0x21 => th.tpc
  | _ => th.taddr

/-- R387, R389, R390: `sysr` gives the register that A names, in one register or a pair, with tag U32, `sys.fpstat` once nothing of the
executing threads is outstanding; the values of `sys.arch`, `sys.clk` and `sys.time` rest on assumptions 108, 11 and 113. `ctrr` gives
the 64-bit counter A modulo 16 of the tenant on the executing core; 10 to 15 read zero. -/
def Obligations.SysrAndCtrrResults : Prop :=
  (∀ (w : TWord) (s : State) (x : Ctx), Issues (sigSysr w) w [] s x →
    (w.a = 0x11#10 → ∀ p ∈ x.active, s.threadQuiet (x.ref p.1) = true) →
    exec (.sysr w) s = .next (moveOn x s (x.update s (gives x (anyTags x) (tagU32 x) (fun i th =>
      let v := sysRegister x s i th w.a.toNat
      if w.a.toNat ∈ [0x02, 0x03, 0x0B, 0x13, 0x18, 0x1A, 0x21, 0x22] then [v.truncate 32, v.extractLsb' 32 32]
      else [v.truncate 32]))))) ∧
  (∀ (w : TWord) (s : State) (x : Ctx), Issues (sigCtrr w) w [] s x →
    (∀ p ∈ x.active, ints (fun w => [w.a]) x p.1 p.2 = true) →
    exec (.ctrr w) s = .next (moveOn x s (x.update s (gives x (ints (fun w => [w.a]) x) (tagU32 x) (fun i th =>
      let n := (val x i th w.a).toNat % 16
      let v : W64 := if 10 ≤ n then 0#64 else tgetD (s.core x.g.core).ctr (16 * x.wg.fn + n) 0#64
      [v.truncate 32, v.extractLsb' 32 32])))))

/-- The executing thread of the highest home lane. -/
def Sys2Proof.Spec.highest (x : Ctx) (p : Nat × Thread) : Prop :=
  p ∈ x.active ∧ ∀ q ∈ x.active, q ≠ p → laneOf q.1 < laneOf p.1

/-- R50, R65, R120, R242, R388: `sysw` writes the register that A names: those of a thread in every executing thread, those of the
workgroup from the thread of the highest home lane; a generator's seed 0 is stored as 1, `sys.fpctl` keeps its mode when
given 0 or 7, `sys.rfage` is held to 16 to 1,024. -/
def Obligations.SyswWrites : Prop :=
  let seed (v : W64) : W32 := if (v.truncate 32 : W32) = 0#32 then 1#32 else v.truncate 32
  ∀ (w : TWord) (s : State) (x : Ctx) (h : Nat × Thread), Issues (sigSysw w) w [] s x → highest x h →
    (∀ p ∈ x.active, tagOk p.2 w.b (if sysWide w then 2 else 1) (fun t => decide (t ≤ 2)) = true) →
    let v (p : Nat × Thread) : W64 := if sysWide w then srcPair w p.2 false w.b else (val x p.1 p.2 w.b).zeroExtend 64
    ∃ f : Nat → Thread → Thread, ∃ g : Wg → Wg,
      exec (.sysw w) s = .next (moveOn x s ((x.updateActive s f).modWg x.wid g)) ∧
      (w.a = 0x10#10 → ∀ i th, f i th = { th with fpctl :=
        (((v (i, th)).truncate 32 : W32) &&& 0x18#32) |||
          (if (v (i, th)).toNat % 8 = 0 ∨ (v (i, th)).toNat % 8 = 7 then th.fpctl &&& 7#32 else (v (i, th)).truncate 32 &&& 7#32) }) ∧
      (w.a = 0x11#10 → ∀ i th, f i th = { th with fpstat := (v (i, th)).truncate 32 &&& 0x1F#32 }) ∧
      (w.a = 0x12#10 → ∀ i th, f i th = { th with srseed := seed (v (i, th)) }) ∧
      (w.a = 0x13#10 → ∀ i th, f i th = { th with abase := v (i, th) }) ∧
      (w.a = 0x21#10 → ∀ i th, f i th = { th with tpc := v (i, th) }) ∧
      (w.a = 0x14#10 → ∀ u, g u = { u with rfage := max 16 (min ((v h).toNat % 2 ^ 32) 1024) }) ∧
      (w.a = 0x15#10 → ∀ u, g u = { u with mstat := (v h).truncate 32 &&& 0x3F#32 }) ∧
      (w.a = 0x16#10 → ∀ u, g u = { u with mseed := seed (v h) }) ∧
      (w.a.toNat < 0x14 ∨ w.a.toNat = 0x21 → ∀ u, g u = u) ∧
      (0x14 ≤ w.a.toNat → w.a.toNat ≤ 0x16 → ∀ i th, f i th = th)

/-- R101 to R103, R314 to R319: `ldfmt` and `ldovf`, whose descriptors or tables are all valid, install the one of the highest executing
lane for the workgroup; `ldfmt` in its clearing form removes a format; neither while a group of the workgroup is part-way through a
signature, which is the model's reading of R103 (assumption 76). `splinter` and `migrate` complete when the pairs carry
tags in INT, no such operation of the core is under way and the region is committed: one operation per executing thread is
queued. -/
def Obligations.FormatTablesAndMigrationsComplete : Prop :=
  (∀ (w : TWord) (s : State) (x : Ctx) (h : Nat × Thread), Issues (sigLdfmt w) w [] s x → highest x h →
    s.signingPart x.wid = false → (∀ p ∈ x.active, descValid (val x p.1 p.2 w.a) = true) →
    exec (.ldfmt w) s = .next (moveOn x s (s.modWg x.wid (fun v => { v with
      fmt := tset v.fmt (w.md.toNat % 64) (val x h.1 h.2 w.a) })))) ∧
  (∀ (w : TWord) (s : State) (x : Ctx), Issues (sigLdfmtClr w) w [] s x → x.active ≠ [] →
    s.signingPart x.wid = false →
    exec (.ldfmtClr w) s = .next (moveOn x s (s.modWg x.wid (fun v => { v with fmt := terase v.fmt (w.md.toNat % 64) })))) ∧
  (∀ (w : TWord) (s : State) (x : Ctx) (h : Nat × Thread), Issues (sigLdovf w) w [] s x → highest x h →
    s.signingPart x.wid = false → (∀ p ∈ x.active, ovfBad (x.ovfOf p) = false) →
    exec (.ldovf w) s = .next (moveOn x s (s.modWg x.wid (fun v => { v with ovf := x.ovfOf h })))) ∧
  (∀ (w : TWord) (s s1 : State) (x : Ctx) (m : Bool), Issues (if m then sigMigrate w else sigSplinter w) w [] s x →
    (∀ p ∈ x.active, ∀ f ∈ [w.a, w.b, w.c], tagOk p.2 f 2 (fun t => decide (t ≤ 2)) = true) →
    (∀ q ∈ s.migs, q.2.core ≠ x.g.core) → s.commit x.gid = .ok s1 →
    exec (if m then .migrate w else .splinter w) s = .next (moveOn x s
      (x.active.foldl (x.queueMig m) (region x s1 x.next)).startMigs))


/-! ### Bobbin cores -/

/-- Bobbin core `k` has the turn, in an invocation that has not been ended and whose earlier accesses have performed. -/
structure Sys2Proof.Spec.Invokes (k : Nat) (r : Invoc) (s : State) : Prop where
  on      : s.boot.off = false
  turn    : s.cur = .bobbin k
  running : (s.bob k).run = some r
  settled : s.bobPending k = false
  goes    : r.ends = none

/-- The state after an instruction that retires with the program counter at `pc`. -/
def Sys2Proof.Spec.retired (k : Nat) (pc : W32) (t : State) : State :=
  (t.modBob k (fun b => { b with pc := pc, instret := b.instret + 1#64 })).modBob k
    (fun b => { b with run := b.run.map (fun i => { i with heldReq := false }) })
/-- A write of register `rd`: x0 discards it. -/
def Sys2Proof.Spec.putReg (rd : BitVec 5) (v : W32) (b : Bob) : Bob :=
  if rd = 0#5 then b else { b with regs := tset b.regs rd.toNat v }
/-- A read of a register: x0 is zero. -/
def Sys2Proof.Spec.getReg (b : Bob) (n : BitVec 5) : W32 := if n = 0#5 then 0#32 else tgetD b.regs n.toNat 0#32
/-- The instruction writes `v` to rd and retires, 4 bytes on. -/
def Sys2Proof.Spec.gives32 (k : Nat) (rd : BitVec 5) (v : W32) (s t : State) : State :=
  retired k ((s.bob k).pc + 4#32) (t.modBob k (putReg rd v))

/-- What the operations of RV32IM compute, over the integers. -/
def Sys2Proof.Spec.rv (op : RvAlu) (a b : W32) : Int :=
  let n : Nat := 2 ^ (b.toNat % 32)
  match op with
  | .add => a.toInt + b.toInt
  | .sub => a.toInt - b.toInt
  | .sll => a.toNat * n
  | .slt => if a.toInt < b.toInt then 1 else 0
  | .sltu => if a.toNat < b.toNat then 1 else 0
  | .xor => (a ^^^ b).toNat
  | .srl => a.toNat / n
  | .sra => a.toInt / n
  | .or => (a ||| b).toNat
  | .and => (a &&& b).toNat
  | .mul => a.toInt * b.toInt
  | .mulh => a.toInt * b.toInt / 2 ^ 32
  | .mulhsu => a.toInt * b.toNat / 2 ^ 32
  | .mulhu => (a.toNat : Int) * b.toNat / 2 ^ 32
  | .div => if b = 0#32 then -1 else a.toInt.tdiv b.toInt
  | .divu => if b = 0#32 then -1 else (a.toNat : Int) / b.toNat
  | .rem => if b = 0#32 then a.toInt else a.toInt.tmod b.toInt
  | .remu => if b = 0#32 then a.toNat else (a.toNat : Int) % b.toNat

/-- R345: the arithmetic of RV32IM on a Bobbin core, with its upper-immediate forms and FENCE: the result modulo 2^32 goes to rd, x0
reads zero and discards writes, the program counter moves 4 on and one instruction more has retired. Jumps and branches: the
target is the sum of the displacement and the program counter, or of the immediate and rs1 with bit 0 cleared; jumps write the
address of the next instruction to rd. -/
def Obligations.BobbinArithmeticAndControl : Prop :=
  (∀ (k : Nat) (r : Invoc) (s : State), Invokes k r s →
    (∀ op rd rs1 rs2, exec (.bobbinBase (.op op rd rs1 rs2)) s =
      .next (gives32 k rd (word (rv op (getReg (s.bob k) rs1) (getReg (s.bob k) rs2))) s s)) ∧
    (∀ op rd rs1 imm, exec (.bobbinBase (.opImm op rd rs1 imm)) s =
      .next (gives32 k rd (word (rv op (getReg (s.bob k) rs1) (word imm.toInt))) s s)) ∧
    (∀ rd imm, exec (.bobbinBase (.lui rd imm)) s = .next (gives32 k rd (word (imm.toNat * 2 ^ 12)) s s)) ∧
    (∀ rd imm, exec (.bobbinBase (.auipc rd imm)) s =
      .next (gives32 k rd (word ((s.bob k).pc.toNat + imm.toNat * 2 ^ 12)) s s)) ∧
    (∀ fm p q rs1 rd, exec (.bobbinBase (.fence fm p q rs1 rd)) s = .next (retired k ((s.bob k).pc + 4#32) s))) ∧
  (∀ (k : Nat) (r : Invoc) (s : State), Invokes k r s →
    let pc := (s.bob k).pc
    (∀ rd imm, exec (.bobbinBase (.jal rd imm)) s =
      .next (retired k (word (pc.toNat + 2 * imm.toInt)) (s.modBob k (putReg rd (pc + 4#32))))) ∧
    (∀ rd rs1 imm, exec (.bobbinBase (.jalr rd rs1 imm)) s =
      .next (retired k (word (((getReg (s.bob k) rs1).toNat + imm.toInt) / 2 * 2)) (s.modBob k (putReg rd (pc + 4#32))))) ∧
    (∀ c rs1 rs2 imm,
      let a := getReg (s.bob k) rs1
      let b := getReg (s.bob k) rs2
      let taken : Prop := match c with
        | .eq => a = b | .ne => a ≠ b | .lt => a.toInt < b.toInt | .ge => b.toInt ≤ a.toInt | .ltu => a.toNat < b.toNat
        | .geu => b.toNat ≤ a.toNat
      (taken → exec (.bobbinBase (.branch c rs1 rs2 imm)) s = .next (retired k (word (pc.toNat + 2 * imm.toInt)) s)) ∧
      (¬ taken → exec (.bobbinBase (.branch c rs1 rs2 imm)) s = .next (retired k (pc + 4#32) s))))

/-- Bytes of a load or store. -/
def Sys2Proof.Spec.rvLen (w : RvLoad) : Nat := match w with | .lw => 4 | .lh => 2 | .lhu => 2 | _ => 1
def Sys2Proof.Spec.rvSLen (w : RvStore) : Nat := match w with | .sw => 4 | .sh => 2 | .sb => 1
/-- The number that bytes stand for, low byte first. -/
def Sys2Proof.Spec.little : List Byte → Nat
  | [] => 0
  | b :: bs => b.toNat + 2 ^ 8 * little bs
/-- The value a load of these bytes writes. -/
def Sys2Proof.Spec.loaded (w : RvLoad) (v : Nat) : W32 :=
  match w with
  | .lb => word (if 2 ^ 7 ≤ v then (v : Int) - 2 ^ 8 else v)
  | .lh => word (if 2 ^ 15 ≤ v then (v : Int) - 2 ^ 16 else v)
  | _ => word v

/-- The state with a write under way to its home, under the next free number. -/
def Sys2Proof.Spec.sends (a : Acc) (m : WrKind) (t : State) : State :=
  { t with nextId := t.nextId + 1, writes := tset t.writes t.nextId { acc := a, kind := m } }

/-- R346: aligned loads and stores of local scratch and of the line buffers complete; so do those of the window that translation lets
through to plain memory: a load with an unencumbered line and no poisoned byte reads memory, one at a line that a migration blocks
takes its place there (the model's reading of R316: assumption 138), a store goes to its home. -/
def Obligations.BobbinMemoryAccesses : Prop :=
  ∀ (k : Nat) (r : Invoc) (s : State), Invokes k r s →
    let at_ (rs1 : BitVec 5) (imm : BitVec 12) : Nat := (word ((getReg (s.bob k) rs1).toNat + imm.toInt)).toNat
    let h := (s.fnb r.ev.fn).hand
    let win (a n : Nat) : Prop := a + n ≤ 65536 * h.hsize.toNat
    (∀ w rd rs1 imm,
      let a := at_ rs1 imm
      let n := rvLen w
      a % n = 0 →
      (¬ win a n → 0xFFFFE000 ≤ a → a + n ≤ 0xFFFFF000 → exec (.bobbinBase (.load w rd rs1 imm)) s =
        .next (gives32 k rd (loaded w (little (cread (s.bob k).scratch (a - 0xFFFFE000) n))) s s)) ∧
      (¬ win a n → 0xFFFFFE00 ≤ a → a + n ≤ 2 ^ 32 → exec (.bobbinBase (.load w rd rs1 imm)) s =
        .next (gives32 k rd (loaded w (little ((s.bob k).bufRead (a - 0xFFFFFE00) n))) s s)) ∧
      (∀ t s1, win a n → s.bobAccess k r.ev.fn (h.hbase.toNat + a) n needR = (.ok t, s1) → t.isDev = false →
        s.bobHeld k r.ev.fn = false → (s1.line (t.tgt.base / 64)).parks = true →
        exec (.bobbinBase (.load w rd rs1 imm)) s = .next (retired k ((s.bob k).pc + 4#32)
          (s1.bobQueues k r.ev.fn (h.hbase.toNat + a) n t (decide (w = .lb ∨ w = .lh)) (.reg k rd.toNat)))) ∧
      (∀ t s1, win a n → s.bobAccess k r.ev.fn (h.hbase.toNat + a) n needR = (.ok t, s1) → t.isDev = false →
        s.bobHeld k r.ev.fn = false → (s1.line (t.tgt.base / 64)).parks = false →
        s1.homeWaits (t.tgt.base / 64) none = false → s1.tgtPois t.tgt n = false →
        exec (.bobbinBase (.load w rd rs1 imm)) s =
          .next (gives32 k rd (loaded w (little (s1.tgtRead t.tgt n))) s (s1.touch r.ev.fn (t.tgt.base / 64) t.mt)))) ∧
    (∀ w rs2 rs1 imm,
      let a := at_ rs1 imm
      let n := rvSLen w
      let v := (List.range n).map (fun i => BitVec.ofNat 8 ((getReg (s.bob k) rs2).toNat / 2 ^ (8 * i)))
      a % n = 0 →
      (¬ win a n → 0xFFFFE000 ≤ a → a + n ≤ 0xFFFFF000 → exec (.bobbinBase (.store w rs2 rs1 imm)) s =
        .next (retired k ((s.bob k).pc + 4#32) (s.modBob k (fun b => { b with
          scratch := cwrite b.scratch (a - 0xFFFFE000) v })))) ∧
      (¬ win a n → 0xFFFFFE00 ≤ a → a + n ≤ 2 ^ 32 → exec (.bobbinBase (.store w rs2 rs1 imm)) s =
        .next (retired k ((s.bob k).pc + 4#32) (s.modBob k (fun b => b.bufWrite (a - 0xFFFFFE00) v)))) ∧
      (∀ t s1, win a n → s.bobAccess k r.ev.fn (h.hbase.toNat + a) n needW = (.ok t, s1) → t.isDev = false →
        s.bobHeld k r.ev.fn = false →
        exec (.bobbinBase (.store w rs2 rs1 imm)) s = .next (retired k ((s.bob k).pc + 4#32)
          (sends (bobAcc s1.nextId k r.ev.fn (h.hbase.toNat + a) n t (tgetD s.incs (agBob k) 0)) (.store v) s1))))

/-- R345, Table 13.1: the counters and the invocation's words read through csrrs and csrrc with a zero source; every other CSR access,
ECALL, EBREAK and every illegal encoding abort the invocation with cause ILLEGAL. Compressed forms of RV32C do what the
instructions they stand for do, 2 bytes long; a few of them. -/
def Obligations.BobbinCsrsIllegalAndCompressed : Prop :=
  (∀ (k : Nat) (r : Invoc) (s : State), Invokes k r s →
    (∀ op imm rd, op = .rs ∨ op = .rc →
      exec (.bobbinBase (.csr op imm rd 0#5 0xC00#12)) s = .next (gives32 k rd (BitVec.ofNat 32 (s.cycles / 2)) s s) ∧
      exec (.bobbinBase (.csr op imm rd 0#5 0xC80#12)) s = .next (gives32 k rd (BitVec.ofNat 32 (s.cycles / 2 / 2 ^ 32)) s s) ∧
      exec (.bobbinBase (.csr op imm rd 0#5 0xC01#12)) s = .next (gives32 k rd (s.now.truncate 32) s s) ∧
      exec (.bobbinBase (.csr op imm rd 0#5 0xC81#12)) s = .next (gives32 k rd (s.now.extractLsb' 32 32) s s) ∧
      exec (.bobbinBase (.csr op imm rd 0#5 0xC02#12)) s = .next (gives32 k rd ((s.bob k).instret.truncate 32) s s) ∧
      exec (.bobbinBase (.csr op imm rd 0#5 0xC82#12)) s = .next (gives32 k rd ((s.bob k).instret.extractLsb' 32 32) s s) ∧
      exec (.bobbinBase (.csr op imm rd 0#5 0xCC0#12)) s = .next (gives32 k rd r.word s s) ∧
      exec (.bobbinBase (.csr op imm rd 0#5 0xCC1#12)) s = .next (gives32 k rd (BitVec.ofNat 32 r.left) s s)) ∧
    (∀ op imm rd src num,
      (op = .rw ∨ src ≠ 0#5 ∨ num ∉ [0xC00#12, 0xC80#12, 0xC01#12, 0xC81#12, 0xC02#12, 0xC82#12, 0xCC0#12, 0xCC1#12]) →
      exec (.bobbinBase (.csr op imm rd src num)) s = .next (s.abortInvocation k 2)) ∧
    exec (.bobbinBase .ecall) s = .next (s.abortInvocation k 2) ∧ exec (.bobbinBase .ebreak) s = .next (s.abortInvocation k 2) ∧
    (∀ v, exec (.bobbinBase (.illegal v)) s = .next (s.abortInvocation k 2)) ∧
    (∀ v, exec (.bobbinBase (.illegalC v)) s = .next (s.abortInvocation k 2)) ∧
    exec (.bobbinBase (.compressed .ebreak)) s = .next (s.abortInvocation k 2)) ∧
  (∀ (k : Nat) (r : Invoc) (s : State), Invokes k r s →
    let pc := (s.bob k).pc
    let x (n : BitVec 5) : W32 := getReg (s.bob k) n
    (∀ rd rs2, exec (.bobbinBase (.compressed (.add rd rs2))) s =
      .next (retired k (pc + 2#32) (s.modBob k (putReg rd (x rd + x rs2))))) ∧
    (∀ rd rs2, exec (.bobbinBase (.compressed (.mv rd rs2))) s =
      .next (retired k (pc + 2#32) (s.modBob k (putReg rd (x rs2))))) ∧
    (∀ rd imm, exec (.bobbinBase (.compressed (.addi rd imm))) s =
      .next (retired k (pc + 2#32) (s.modBob k (putReg rd (x rd + imm.signExtend 32))))) ∧
    (∀ rd imm, exec (.bobbinBase (.compressed (.li rd imm))) s =
      .next (retired k (pc + 2#32) (s.modBob k (putReg rd (imm.signExtend 32))))) ∧
    (∀ imm, exec (.bobbinBase (.compressed (.j imm))) s = .next (retired k (word (pc.toNat + 2 * imm.toInt)) s)) ∧
    (∀ imm, exec (.bobbinBase (.compressed (.jal imm))) s =
      .next (retired k (word (pc.toNat + 2 * imm.toInt)) (s.modBob k (putReg 1#5 (pc + 2#32))))))

/-- R354 to R359: the line instructions complete: RANGE for a line address outside the registered ranges and the window, FAULT (for
`lsq` all ones) where translation refuses, and otherwise the line read into the buffer (poisoned bytes as zero, with POISON; at a line
that a migration blocks it takes its place there, the model's reading of R316: assumption 138), the buffer's masked bytes sent to
the line's home, the line brought near (not a blocked one), or the lease word of Table 13.7. `mrep` answers the message of the invocation with bytes 0
to 15 of a buffer, once, and gives NOMSG where there is none to answer; `hfin` ends the invocation, and the default action of its
event follows. -/
def Obligations.LineAndMessageInstructionsComplete : Prop :=
  (∀ (k : Nat) (r : Invoc) (s : State), Invokes k r s →
    let f := r.ev.fn
    let line (rs1 rs2 : BitVec 5) (need : Need) : LineRes := s.bobLine k f (getReg (s.bob k) rs1) (getReg (s.bob k) rs2) need
    (∀ b rs2 rs1 rd, line rs1 rs2 needR = .range →
      exec (.lnrd b rs2 rs1 rd) s = .next (gives32 k rd 1#32 s s) ∧
      (∀ lvl, exec (.lnpf lvl rs2 rs1 rd) s = .next (gives32 k rd 1#32 s s)) ∧
      exec (.lsq rs2 rs1 rd) s = .next (gives32 k rd 0xFFFFFFFF#32 s s)) ∧
    (∀ b rs2 rs1 rd s1, line rs1 rs2 needR = .fault s1 →
      exec (.lnrd b rs2 rs1 rd) s = .next (gives32 k rd 2#32 s s1) ∧
      (∀ lvl, exec (.lnpf lvl rs2 rs1 rd) s = .next (gives32 k rd 2#32 s s1)) ∧
      exec (.lsq rs2 rs1 rd) s = .next (gives32 k rd 0xFFFFFFFF#32 s s1)) ∧
    (∀ b rs2 rs1 rd, (line rs1 rs2 needRW = .range → exec (.lnwr b rs2 rs1 rd) s = .next (gives32 k rd 1#32 s s)) ∧
      (∀ s1, line rs1 rs2 needRW = .fault s1 → exec (.lnwr b rs2 rs1 rd) s = .next (gives32 k rd 2#32 s s1))) ∧
    (∀ b rs2 rs1 rd t va s1, line rs1 rs2 needR = .ok t va s1 → s.bobHeld k f = false →
      let l := t.tgt.base / 64
      let put (bs : List Byte) : State :=
        (s1.touch f l t.mt).modBob k (fun x => { x with bufs := tset x.bufs b.toNat { bytes := bs, mask := 0#64 } })
      (t.isDev = false → (s1.line l).parks = true → exec (.lnrd b rs2 rs1 rd) s =
        .next (retired k ((s.bob k).pc + 4#32) (s1.bobQueues k f va 64 t false (.buf k b.toNat rd.toNat)))) ∧
      (t.isDev = false → (s1.line l).parks = false → s1.homeWaits l none = false → s1.isPois (64 * l) 64 = false →
        exec (.lnrd b rs2 rs1 rd) s = .next (gives32 k rd 0#32 s (put (s1.read (64 * l) 64)))) ∧
      (t.isDev = false → (s1.line l).parks = false → s1.homeWaits l none = false → s1.isPois (64 * l) 64 = true →
        exec (.lnrd b rs2 rs1 rd) s = .next (gives32 k rd 3#32 s (put (s1.cleanLine l)))) ∧
      ((s1.line l).parks = true → ∀ lvl, exec (.lnpf lvl rs2 rs1 rd) s = .next (gives32 k rd 0#32 s s1)) ∧
      ((s1.line l).parks = false → exec (.lnpf 0#1 rs2 rs1 rd) s = .next (gives32 k rd 0#32 s (s1.touch f l t.mt)) ∧
        exec (.lnpf 1#1 rs2 rs1 rd) s = .next (gives32 k rd 0#32 s (s1.toMsc f l))) ∧
      exec (.lsq rs2 rs1 rd) s = .next (gives32 k rd (s1.leaseWord l) s s1)) ∧
    (∀ b rs2 rs1 rd t va s1, line rs1 rs2 needRW = .ok t va s1 → t.isDev = false →
      let x := (s.bob k).buf b.toNat
      (x.mask = 0#64 → exec (.lnwr b rs2 rs1 rd) s = .next (gives32 k rd 0#32 s s1)) ∧
      (x.mask ≠ 0#64 → s.bobHeld k f = false → exec (.lnwr b rs2 rs1 rd) s = .next (retired k ((s.bob k).pc + 4#32)
        ((sends (bobAcc s1.nextId k f va 64 t (tgetD s.incs (agBob k) 0)) (.line k rd.toNat x.bytes x.mask) s1).modBob k
          (fun y => { y with bufs := tset y.bufs b.toNat { x with mask := 0#64 } })))))) ∧
  (∀ (k : Nat) (r : Invoc) (s : State), Invokes k r s →
    (∀ b rd m, r.ev.msg = some m → r.ev.kind = 3 → r.ev.reply = true → r.replied = false →
      exec (.mrep b rd) s = .next (gives32 k rd 0#32 s
        (({ s with msgs := tmod s.msgs m (fun p => { p with st := .replied (((s.bob k).buf b.toNat).bytes.take 16) }) } : State).modBob k
          (fun x => { x with run := x.run.map (fun i => { i with replied := true }) })))) ∧
    (∀ b rd, (r.ev.msg = none ∨ r.ev.kind ≠ 3 ∨ r.ev.reply = false ∨ r.replied = true) →
      exec (.mrep b rd) s = .next (gives32 k rd 4#32 s s)) ∧
    exec .hfin s = .next ((s.modBob k (fun b => { b with instret := b.instret + 1#64 })).endInvocation k))

/-- Table 13.7: the lease word says presence, ownership, whether a write waits on the line, or the block of a migration, which takes its
place there as a write does (R316), the far state and the time left, 0 to 256 ns, and nothing else. -/
def Obligations.LeaseWordFields : Prop :=
  ∀ (s : State) (l : Nat), (s.now < (s.line l).expiry → ((s.line l).expiry - s.now).toNat ≤ 256) →
    (s.leaseWord l).getLsbD 31 = (s.line l).present ∧ (s.leaseWord l).getLsbD 30 = (s.line l).owner.isSome ∧
    (s.leaseWord l).getLsbD 29 = (!(s.waitingAt l).isEmpty || ((s.line l).block.isSome && !(s.line l).blocked)) ∧
    (s.leaseWord l).getLsbD 28 = decide ((s.line l).far ≠ 0) ∧
    (s.leaseWord l).toNat / 2 ^ 9 % 2 ^ 19 = 0 ∧
    (s.leaseWord l).toNat % 2 ^ 9 = if s.now < (s.line l).expiry then ((s.line l).expiry - s.now).toNat else 0


/-! ### Events of the device: where they happen, and with what effect -/

/-- The device is on. -/
def Sys2Proof.Spec.up (s : State) : Prop := s.boot.off = false

/-- R19, R207, R272 to R275, R283, R301, R348, R392 to R403: boot, service, clock, attestation and reliability events, writes of
device registers, queue control, the reading of ring entries, waits and leases complete whenever their rule lets them
happen. What full service waits for is the model's reading of R402 (assumption 121). -/
def Obligations.BootAndQueueEventsComplete : Prop :=
  (∀ s : State, up s →
    exec .deviceReset s = .next s.deviceReset ∧
    (∀ img, img.row < 5 → s.boot.service = 0 ∨ s.boot.service = 3 → exec (.firmwareImageLoad img) s = .next (s.loadImage img)) ∧
    (s.boot.service = 0 → s.boot.verified = true →
      exec .reducedServiceEntry s = .next { s with boot := { s.boot with service := 1, cclk := Config.reducedClock } }) ∧
    (s.boot.service = 1 → (∀ k < 16, k ∈ s.boot.ended) → s.boot.hbmTrained = true → (∀ u ∈ testedUnits, u ∈ s.boot.tested) →
      exec .fullServiceEntry s = .next { s with boot := { s.boot with service := 2 } }) ∧
    (∀ up, s.boot.mayStep up = true → exec (.clockStep up) s =
      .next ({ s with boot := { s.boot with cclk := if up then s.boot.cclk + 25 else s.boot.cclk - 25 } } : State).senses) ∧
    (1100 ≤ s.boot.tjmax → exec .thermalShutdown s = .next s.shutDown) ∧
    (∀ fn nonce, fn < Config.numFns → nonce.length = 64 → s.boot.verified = true →
      exec (.attestationRequest fn nonce) s = .next (s.emit (.report fn (attestation s.boot fn nonce)))) ∧
    (∀ line bad, s.mayScrub line = true → (bad = true → s.bareLine line = true) → exec (.patrolScrub line bad) s = .next (s.scrubLine line bad)) ∧
    (∀ u, unitNamed u = true → exec (.selfTest u true) s = .next (s.unitPasses u) ∧ exec (.selfTest u false) s = .next (s.unitFails u)) ∧
    (∀ place fails, place = placeTier2 ∨ place = placeLinks → 0 < fails →
      exec (.linkRetry place fails) s = .next (s.linkRetries place fails))) ∧
  (∀ s t : State, up s →
    (∀ view fn off wide val, writeAllowed view fn off wide val = true →
      exec (.registerWrite view fn off wide val) s = .next (s.writeReg view fn off wide val)) ∧
    (∀ fn q val, fn < Config.numFns → q < queuesOf fn → s.hostSettled = true →
      exec (.qnotifyWrite fn q val) s = .next (s.notify fn q val)) ∧
    (∀ fn q, queueNamed fn q = true →
      (s.enableQueue fn q = some t → exec (.queueEnable fn q) s = .next t) ∧
      exec (.queueDisable fn q) s = .next (s.disableQueue fn q) ∧
      exec (.queueDestroyDrain fn q) s = .next (s.destroyQueue fn q 1) ∧
      exec (.queueDestroyKill fn q) s = .next (s.destroyQueue fn q 2)) ∧
    (∀ fn q, s.mayRead fn q = true → s.readEntry fn q = some t → exec (.ringEntryRead fn q) s = .next t) ∧
    (∀ fn q, (s.queue fn q).en = true → s.stopped fn = false → s.waitOver fn q = some t →
      exec (.waitPacketSatisfied fn q) s = .next t) ∧
    (∀ l x, s.launch? l = some x → x.phase = .residency → s.leaseStep l = some t → exec (.residencyLeaseGrant l) s = .next t) ∧
    (∀ fn q, s.mayFile fn q = true → s.fileRecord fn q = some t → exec (.continuationRecordFile fn q) s = .next t) ∧
    (∀ fn q bin core n, s.drawDue fn q bin = some n → s.drawFits fn q core n = true →
      exec (.poolAgedDraw fn q bin core) s = .next (s.drawBin fn q bin core)))

/-- R280 to R293, R299, R300, R339: the reservation, commit and dispatch of launches, their completion, the moves of deferred packets; a
charge of energy every 10 µs and a period every 1 ms. -/
def Obligations.LaunchEventsComplete : Prop :=
  ∀ (s t : State) (l : Nat) (x : Launch), up s → s.launch? l = some x →
    (∀ leaf, (s.mayAsk l leaf = true → x.phase ≠ .ready ∨ s.neverFits x = false →
        exec (.reservation l leaf) s = .next (s.ask l x leaf)) ∧
      (s.mayAsk l leaf = true → s.refuseNow l x = some t → exec (.reservation l leaf) s = .next t) ∧
      (s.mayHear l leaf = true → exec (.reservationAnswer l leaf) s = .next (s.hear l leaf)) ∧
      (x.phase = .committing → leaf ∈ x.toCommit → s.displacedWait x.fn = false → s.commitAt l leaf = some t →
        exec (.commit l leaf) s = .next t) ∧
      (x.phase = .reserving → leaf ∈ x.toCancel → exec (.cancel l leaf) s = .next (s.cancelAt l leaf)) ∧
      (s.freeable leaf ≠ [] → exec (.resourcesFreed leaf) s = .next (((s.freeable leaf).foldl State.removeWg s).unblock))) ∧
    (s.timedOut l = true →
      exec (.reservationTimeout l) s = .next (s.modLaunch l (fun y => { y with toCancel := y.asked }))) ∧
    (s.hasStarved l = true → exec (.reservationStarvation l) s = .next (s.modLaunch l (fun y => { y with starved := true }))) ∧
    (∀ core wg task, s.mayDispatch core wg task = true → s.dispatchTask wg task = some t →
      exec (.taskDispatch core wg task) s = .next t) ∧
    (s.mayComplete l = true → s.complete l = some t → exec (.launchCompletion l) s = .next t) ∧
    (∀ id, s.mayMove id = true → s.moveDeferred id = some t → exec (.deferredPacketMove id) s = .next t) ∧
    (s.enCharges < s.now.toNat / 10000 → exec .energyCharge s = .next s.energyTick) ∧
    (s.enPeriods < s.now.toNat / 1000000 → exec .energyPeriod s = .next s.energyPeriod)

/-- R240 to R247, R266, R267, R330 to R342, R368 to R384: halts, saves and re-entry of contexts, freeze and thaw, debug control, the end of
tasks, the watchdog; the moves of groups between the sets of their quadrants, and the slices and periods of tenancy. That FLOGBASE drops
its low 12 bits is the model's reading of R370 (assumption 61), that a resident workgroup is one that is on a core another (assumption
87). -/
def Obligations.ContextAndSchedulingEventsComplete : Prop :=
  (∀ s t : State, up s →
    (∀ i q, s.halts[i]? = some q → s.mayHalt q = true → exec (.halt i) s = .next (s.haltAll i)) ∧
    (∀ core wg, (s.savePlan core wg).isSome = true → exec (.contextSave core wg) s = .next (s.saveWg core wg)) ∧
    (∀ fn idx core, s.reenter fn idx core = some t → exec (.contextReentry fn idx core) s = .next t) ∧
    (∀ fn, fnNamed fn = true →
      ((∀ p ∈ s.launches, p.2.fn ≠ fn ∨ p.2.phase ≠ .committing) → exec (.freeze fn) s = .next (s.freeze fn)) ∧
      exec (.functionLevelReset fn) s = .next (s.resetFn fn) ∧
      (s.thaw fn = some t → exec (.thaw fn) s = .next t) ∧
      (s.dbgHalt fn = true → exec (.debugResume fn) s = .next (s.dbgRes fn true) ∧ exec (.debugEnd fn) s = .next (s.dbgRes fn false)) ∧
      (s.dbgHalt fn = false → exec (.debugResume fn) s = .next s ∧ exec (.debugEnd fn) s = .next s) ∧
      (∀ v, (∃ p ∈ s.wgs, p.2.fn = fn) → exec (.flogbaseWrite fn v) s = .next s) ∧
      (∀ v, (∀ p ∈ s.wgs, p.2.fn ≠ fn) → exec (.flogbaseWrite fn v) s = .next (s.modFn fn (fun b => { b with
        fault := { b.fault with flogbase := v &&& ~~~ 0xFFF#64, flogwr := 0#32 } })))) ∧
    (∀ l, (s.mayEndTask l = true → exec (.taskEnd l) s = .next (s.endTask l)) ∧
      (s.wdogDue l = true → exec (.watchdog l) s = .next (s.wdogFires l)))) ∧
  (∀ (s : State) (core quad : Nat), up s →
    (s.readyPending core quad ≠ [] →
      (s.activeFull core quad = false → exec (.promotion core quad) s = .next (s.promote core quad)) ∧
      (s.activeFull core quad = true → s.rotationDue core quad = true → exec (.rotation core quad) s = .next (s.rotate core quad))) ∧
    (∀ bin, s.agedDue core quad bin = true → exec (.binAgedDraw core quad bin) s = .next (s.draw core quad (binKey quad bin))) ∧
    (∀ gid on, s.stalledLong core gid = some on → exec (.scoreboardDemotion core gid) s = .next (s.park gid (.score on))) ∧
    (∀ gid g, s.group? gid = some g → g.core = core → s.unheldWg g = true →
      (∀ n fs, g.wait = .sleep n fs → n ≤ s.now → exec (.sleepWake core gid) s = .next (s.wakeSleep gid)) ∧
      (∀ n k e fs, g.wait = .poll n k e fs → exec (.pollSpuriousWake core gid) s = .next (s.wake gid)) ∧
      (∀ n k e fs, g.wait = .poll n k (some e) fs → e ≤ s.now → exec (.pollTimeout core gid) s = .next (s.wake gid))) ∧
    (s.sliceOver core false = true → exec (.vectorSliceEnd core) s = .next (s.switchVector core)) ∧
    (s.sliceIdle core false = true → exec (.sliceIdleEnd core false) s = .next (s.switchVector core)) ∧
    ((s.core core).arrayIdle = true →
      (s.sliceIdle core true = true → exec (.sliceIdleEnd core true) s = .next (s.switchMatrix core)) ∧
      (s.sliceOver core true = true → exec (.matrixSliceSwitch core) s = .next (s.switchMatrix core))) ∧
    (∀ wg, s.mayGiveWay core wg = true →
      exec (.spinnerDisplacement core wg) s = .next { s with halts := s.halts ++ [.wgs [wg] (.saving 1)] }) ∧
    (s.bwPeriods < periodsBy s.now → exec .bandwidthPeriod s = .next s.bwPeriod) ∧
    (∀ fn, fn < Config.numFns → core < Config.numCores → exec (.portThrottleUpdate fn core) s = .next (s.portUpdate fn core)))

/-- R139 to R148, R158, R163, R165 to R167, R185 to R191, R229, R232, R316, R322, R385: loads return, writes perform, leases and owners
come and go, translations are walked and invalidated, lines migrate, other devices' requests arrive; copies are checked and
land, batches close, signals are sent, picots step, array and unit operations run. -/
def Obligations.MemoryAndEngineEventsComplete : Prop :=
  (∀ s t : State, up s →
    (∀ id, (s.mayReturn id = true → exec (.loadReturn id) s = .next (s.loadReturns id)) ∧
      (s.mayPerform id = true → exec (.writePerform id) s = .next (s.writePerforms id))) ∧
    (∀ line,
      (s.headReady line = true → exec (.leaseWaitEnd line) s = .next (s.drain line)) ∧
      ((s.line line).owner ≠ none →
        exec (.ownershipReturn line) s = .next (s.ownerReturns line)) ∧
      (∀ c, s.ownerLost line = some c → exec (.ownershipReturnTimeout line) s = .next (s.scrubAgent (agL1 c))) ∧
      ((s.line line).far ≠ 0 → exec (.farAtomicAck line) s = .next ((s.modLine line (fun x => { x with far := 0 })).drain line)) ∧
      (∀ core, (s.mayLease core line = true → exec (.readLeaseRequest core line) s = .next (s.grantLease core line)) ∧
        (s.mayOwn core line = true → exec (.ownershipGrant core line) s = .next (s.grantOwner core line))) ∧
      (∀ a, (s.mayInvalidateAt a line = true → exec (.translationInvalidation a line) s = .next (s.dropPath a line)) ∧
        (s.mayAck a line = true → exec (.invalidationAck a line) s = .next (s.ackFrom a line)) ∧
        (a ∈ (s.line line).inval → a < agFront → 100000 ≤ (s.now - (s.line line).invAt).toNat →
          exec (.invalidationAckTimeout line a) s = .next (s.scrubAgent a)))) ∧
    (∀ a fn va, s.mayWalk a fn va = true → exec (.pageWalk a fn va) s = .next (s.lookup a fn (isExport a) va).2) ∧
    (∀ dev fn rq, dev < 256 → dev ≠ s.podid → remoteOk rq = true → s.remoteArrives dev fn rq = some t →
      exec (.remoteRequest dev fn rq) s = .next t) ∧
    (∀ id line, (tget? s.migs id).isSome = true → s.mayBlock id line = true →
      exec (.migrationLineBlock id line) s = .next (s.blockLine id line)) ∧
    (∀ id, s.mayReplay id = true → exec (.migrationReplay id) s = .next (s.replay id))) ∧
  (∀ s t : State, up s →
    (∀ id c, tget? s.copies id = some c → c.checked = false → (s.chkCopy c).1 ≠ .wait → (s.chkCopy c).1 ≠ .device →
      exec (.copyCheck id) s = .next (s.checkCopy id)) ∧
    (∀ id k, s.landUnit id k = some t → exec (.copyWriteLand id k) s = .next t) ∧
    (∀ id b, tget? s.batches id = some b → b.joins ≤ b.done → exec (.batchClose id) s = .next (s.closeBatch id)) ∧
    (∀ id, s.sendSignal id = some t → exec (.rcpSignalDecrement id) s = .next t) ∧
    (∀ core a, s.picotBatch core a ≠ [] → exec (.picotStep core a) s = .next (s.picotStep core a)) ∧
    (∀ core mis o, s.nextOp core = some o → missOk o mis = true →
      exec (.arrayOperationStart core mis) s = .next (s.startOp core mis)) ∧
    (∀ core id, s.canComplete core id = true → exec (.arrayOperationComplete core id) s = .next (s.completeOp core id)) ∧
    (∀ id r, tget? s.rts id = some r → s.rtServes r = true → exec (.rastTravResult id) s = .next (s.rtEnds r)))

/-- R207, R213 to R225, R348 to R364, R385: the events of the shading cache and of the Bobbin cores. -/
def Obligations.ShadingAndHandlerEventsComplete : Prop :=
  ∀ s t : State, up s →
    (∀ id q, tget? s.shqs id = some q → s.canAllocate q = true → exec (.shqAllocate id) s = .next (s.allocateStep q)) ∧
    (∀ c, (s.emitNext c = some t → exec (.continuationEmit c) s = .next t) ∧
      (s.deliverNext c = some t → exec (.releasedRecordDelivery c) s = .next t) ∧
      (∀ i, (tget? (s.ctl c).ranges i).isSome = true →
        exec (.shinvScanDone c i) s = .next (s.modCtl c (fun k => { k with ranges := terase k.ranges i })))) ∧
    (∀ c, c < 3 → s.clockRuns c = true → exec (.poolClockEviction c) s = .next (s.clockEvict c)) ∧
    (∀ v, exec (.shadingRecordApply v) s = .next (s.applyRecord v)) ∧
    (∀ fn, fn < Config.numFns → exec (.handlerEnable fn) s = .next (s.enableHandlers fn) ∧
      exec (.handlerDisable fn) s = .next (s.disableHandlers fn)) ∧
    (∀ id m, s.missOf id = some m → exec (.missEvent id) s = .next (State.missStarts m id)) ∧
    (∀ line, ((s.line line).fetching = true → exec (.fillEvent line) s = .next (s.fillArrives line)) ∧
      (s.mayEvict line = true → exec (.evictEvent line) s = .next (s.evicts line))) ∧
    (∀ id m, tget? s.msgs id = some m →
      (m.st = .sent → exec (.msgEvent id) s = .next (s.msgArrives m)) ∧
      (∀ bs, s.replyOf m = some bs → exec (.bmsgReply id) s = .next (s.msgReply m bs))) ∧
    (∀ k, (s.mayStart k = true → exec (.invocationStart k) s = .next (s.startInvocation k)) ∧
      (s.budgetOut k = true → exec (.budgetExhausted k) s = .next (s.abortInvocation k 1)) ∧
      (s.overran k = true → exec (.bobbinOverrun k) s = .next (s.bobbinDies k)))

/-! ### Encodings -/

/-- The fields of a word: D, A, B, C, MOD and EXT, under the guard `p7` and with no completion flag. -/
def Sys2Proof.Spec.fields (d a b c : Nat) (md : BitVec 8) (ext : W32) : TWord :=
  { d := BitVec.ofNat 10 d, a := BitVec.ofNat 10 a, b := BitVec.ofNat 10 b, c := BitVec.ofNat 10 c, pn := false, pi := 7#3,
    fe := false, fs := false, md := md, ext := ext }
/-- A word from W2, W1 and W0. -/
def Sys2Proof.Spec.w96 (w2 w1 w0 : W32) : BitVec 96 := w2 ++ w1 ++ w0

/-- Tables 4.7, 5.9, 7.10, 8.15, 9.10, 10.9, 11.10, 13.8, 13.10 and 14.13: worked encodings, one or more of every family, decode to the
instructions they stand for. -/
def Obligations.WorkedEncodingsDecode : Prop :=
  let reads (w2 w1 w0 : W32) (i : Instr) : Prop := decodeThrum (w96 w2 w1 w0) = .ok i
  let noE : W32 := 0xFF800000#32
  reads 0x0000A02F#32 0xFCFF9C03#32 0x00000064#32 (.add (fields 10 11 1020 1022 0x03#8 0x64#32)) ∧
  reads 0x20C04014#32 0x0601DC00#32 0xFFB00000#32 (.ffma (fields 4 5 6 7 0#8 0xFFB00000#32)) ∧
  reads 0x60005013#32 0xFCFF9C57#32 0x00000001#32 (.shfl (fields 5 4 1020 1022 0x57#8 1#32)) ∧
  reads 0x707FFFF3#32 0xFEFFA400#32 0xFFFFFFF0#32
    (.bra { fields 1023 1020 1022 1022 0#8 0xFFFFFFF0#32 with pn := true, pi := 1#3 }) ∧
  reads 0x717FFFFB#32 0xFEFF9C00#32 noE (.reform (fields 1023 1022 1022 1022 0#8 noE)) ∧
  reads 0x807FF00F#32 0xFEFF1C1A#32 0x00000001#32 (.st (fields 1023 3 1022 1020 0x1A#8 1#32)) ∧
  reads 0x8000400F#32 0xFE00DC12#32 noE (.ld (fields 4 3 1022 3 0x12#8 noE)) ∧
  reads 0xA0C14010#32 0x08031C09#32 0x01400000#32 (.tsf (fields 20 4 8 12 0x09#8 0x01400000#32)) ∧
  reads 0xA2806013#32 0xFCFF9C00#32 0x00001000#32 (.parrb (fields 6 4 1020 1022 0#8 0x1000#32)) ∧
  reads 0xB0001FF3#32 0xFEFF9C00#32 0x00000080#32 (.cinit (fields 1 1020 1022 1022 0#8 0x80#32)) ∧
  reads 0xB1402020#32 0x09029CCC#32 noE (.mstream (fields 2 8 9 10 0xCC#8 noE)) ∧
  reads 0xC041400F#32 0xFEFF9C00#32 noE (.trav (fields 20 3 1022 1022 0#8 noE)) ∧
  reads 0xC1002008#32 0x0601DC00#32 noE (.shfill (fields 2 2 6 7 0#8 noE)) ∧
  reads 0xD0001013#32 0xFCFF9C00#32 0x00000002#32 (.launch (fields 1 4 1020 1022 0#8 2#32)) ∧
  reads 0xE000400B#32 0xFEFF9C00#32 noE (.sysr (fields 4 2 1022 1022 0#8 noE)) ∧
  reads 0xE1805028#32 0x0C039C01#32 noE (.migrate (fields 5 10 12 14 0x01#8 noE)) ∧
  reads 0xE23FFFFB#32 0xFEFF9C01#32 noE (.tret (fields 1023 1022 1022 1022 0x01#8 noE)) ∧
  reads 0xE2428023#32 0xFCFF9C00#32 0x00000025#32 (.bmsg (fields 40 8 1020 1022 0#8 0x25#32)) ∧
  decodeBobbin32 0x00C5850B#32 = .lnrd 0#3 12#5 11#5 10#5 ∧ decodeBobbin32 0x0262A00B#32 = .lnpf 1#1 6#5 5#5 0#5 ∧
  decodeBobbin32 0x0200052B#32 = .mrep 1#3 10#5 ∧ decodeBobbin32 0x0000102B#32 = .hfin ∧
  decodeBobbin32 0x00C58533#32 = .bobbinBase (.op .add 10#5 11#5 12#5)

/-- R21, R31, R345: the bytes that the encoder lays out for a well-formed instruction, with any bytes after them, decode to that
instruction, at every value of every operand; an operation without an encoding is an event, no Thrum instruction. -/
def Obligations.DecodingReadsEveryEncoding : Prop :=
  ∀ (i : Instr) (rest : List Byte), WellFormed i →
    match encode i with
    | .thrum x => decodeSlot (leBytes 12 x.toNat ++ rest) = .ok i
    | .rv x => decodeBobbin (leBytes 4 x.toNat ++ rest) = .ok (i, 4)
    | .rvc x => decodeBobbin (leBytes 2 x.toNat ++ rest) = .ok (i, 2)
    | .event => ¬ IsThrum i

/-- R31, R345: no bit of a word is dropped: the instruction that the decoder reads from a word encodes to that word, so that two
words never read as one instruction. -/
def Obligations.EncodingRestoresEveryWord : Prop :=
  (∀ (x : BitVec 96) (i : Instr), decodeThrum x = .ok i → encode i = .thrum x) ∧
  (∀ x : W32, x.extractLsb' 0 2 = 3#2 → encode (decodeBobbin32 x) = .rv x) ∧
  (∀ x : BitVec 16, x.extractLsb' 0 2 ≠ 3#2 → encode (.bobbinBase (decodeRvC x)) = .rvc x)

/-! ### The step, reset, invariants -/

/-- The state in which a turn acts: its entry has left the agenda, and its time has passed. -/
def Sys2Proof.Spec.turn (s : State) (t : Turn) (ts : List Turn) : State := ({ s with agenda := ts } : State).tick t.dt t.dcyc

/-- R21, R27, R244, R345: a step takes the next turn of the schedule, which is the model's own (assumption 3). A group that may issue runs
the instruction in its slot: of the line that it has begun, as it was fetched, else of the line that it fetches, after the checks of
R22 and WAIT have passed, signatures that an image still owes among what WAIT waits for (assumption 22); a Bobbin core runs the
instruction at its program counter, in an invocation that has begun; the device acts of its own (assumption 123); an event of the table
happens; with no turn left, time passes. -/
def Obligations.StepRunsTheTurn : Prop :=
  ∀ (s : State), s.boot.off = false →
    (s.agenda = [] → step s = .next (s.tick 1 2)) ∧
    ∀ (t : Turn) (ts : List Turn), s.agenda = t :: ts →
      let u := turn s t ts
      (∀ i, t.act = .event i → step s = exec i { u with cur := .none }) ∧
      (∀ pa bs, t.act = .hostWrite pa bs → step s = .next (u.hostWrite pa bs)) ∧
      (∀ d, t.act = .device d → step s = .next (u.deviceAct d)) ∧
      (∀ gid g v, t.act = .group gid → u.group? gid = some g → u.wg? g.wg = some v → u.mayIssue gid g = true →
        (∀ i, g.begun = some (pcLine g.pc) → decodeSlot (g.code.drop (4 + 12 * pcSlot g.pc)) = .ok i →
          step s = exec i { u with cur := .group gid }) ∧
        (∀ pa bs u1 i, g.begun ≠ some (pcLine g.pc) → u.codeLine g v (pcLine g.pc).toNat = (.ok (pa, bs), u1) →
          decodeSlot (bs.drop (4 + 12 * pcSlot g.pc)) = .ok i →
          let line : W32 := BitVec.ofNat 32 (recVal bs 0 4)
          badLineWord line = false → lineParityOk bs = true →
          (∀ tid ∈ g.tids, ∀ f ∈ waitFlags line, (v.thread tid).flagWaits f = false) →
          step s = exec i { u1.setGroup gid { g with begun := some (pcLine g.pc), line := line, code := bs } with cur := .group gid })) ∧
      (∀ k r lo u1 i, t.act = .bobbin k → (u.bob k).run = some r → r.left ≠ 0 → u.bobPending k = false → r.ends = none →
        (u.modInvoc k (fun i => { i with started := true })).bobCode k r.ev.fn (u.bob k).pc.toNat 2 = (.ok lo, u1) →
        (leVal lo % 4 ≠ 3 → decodeBobbin lo = .ok (i, 2) → step s = exec i { u1 with cur := .bobbin k }) ∧
        (∀ hi u2, leVal lo % 4 = 3 → u1.bobCode k r.ev.fn ((u.bob k).pc.toNat + 2) 2 = (.ok hi, u2) →
          decodeBobbin (lo ++ hi) = .ok (i, 4) → step s = exec i { u2 with cur := .bobbin k }))

/-- R22, R42: a line that a group has not begun and that breaks a check of R22, one of a bad parity also after the one refetch that
LREFETCH counts, raises illegal-line, with its address, and a slot whose OP
is not assigned illegal-instruction: no instruction runs, the group takes the trap. The turns are the model's own (assumption 3); that
parity is tested before the line word and the refetch made within the step is its reading of R22 (assumption 35), the record of the
refetch its choice (assumption 130). -/
def Obligations.BadLinesAndWordsTrap : Prop :=
  ∀ (s : State) (t : Turn) (ts : List Turn) (gid : Nat) (g : Group) (v : Wg) (e : DecodeErr),
    let u := turn s t ts
    s.boot.off = false → s.agenda = t :: ts → t.act = .group gid → u.group? gid = some g → u.wg? g.wg = some v →
    u.mayIssue gid g = true →
    (∀ pa bs u1, g.begun ≠ some (pcLine g.pc) → u.codeLine g v (pcLine g.pc).toNat = (.ok (pa, bs), u1) →
      (badLineWord (BitVec.ofNat 32 (recVal bs 0 4)) = true → lineParityOk bs = true →
        step s = .next (u1.fetchTrap gid { cls := 0x01, addr := (pcLine g.pc).toNat })) ∧
      (lineParityOk bs = false → lineParityOk (u1.read pa 64) = false →
        step s = .next ((u1.refetched g v pa bs).2.fetchTrap gid { cls := 0x01, addr := (pcLine g.pc).toNat }) ∧
          (u1.refetched g v pa bs).2.err.lrefetch = u1.err.lrefetch + 1#64)) ∧
    (g.begun = some (pcLine g.pc) → decodeSlot (g.code.drop (4 + 12 * pcSlot g.pc)) = .error e →
      step s = .next (({ u with cur := .group gid } : State).fetchTrap gid { cls := 0x03 }))

/-- R18, R104, R222, R385, R390, R398, R400: device reset leaves the time counter, the counters of every core, the frame counter and the
error counters zero, both planes of every core empty, every caching agent at incarnation 0, SERVICE 0, no function enabled
for shading, and nothing resident. EN and QERR of a queue, EN of a handler block and the error counters have no reset value in the spec:
that they are zero is the model's choice (assumption 4). -/
def Obligations.ResetLeaves : Prop :=
  State.reset.now = 0#64 ∧ (∀ c n, tgetD (State.reset.core c).ctr n 0#64 = 0#64) ∧ State.reset.shade.frame = 0#32 ∧
  (∀ c fn, ((State.reset.core c).planes fn).1.present = false ∧ ((State.reset.core c).planes fn).2.present = false) ∧
  (∀ a, tgetD State.reset.incs a 0 = 0) ∧ State.reset.boot.service = 0 ∧
  (∀ fn, (State.reset.fnb fn).shade.en = false ∧ (State.reset.fnb fn).hand.en = false ∧ (State.reset.fnb fn).fault.dbgen = false) ∧
  (∀ fn q, (State.reset.queue fn q).en = false ∧ (State.reset.queue fn q).qerr = 0#32) ∧
  State.reset.err.stale = 0#64 ∧ State.reset.err.lrefetch = 0#64 ∧ State.reset.wgs = [] ∧ State.reset.groups = [] ∧
  State.reset.launches = []

/-- The memory of the state after reset is in canonical form; what an unlisted byte reads as is the model's choice (assumption 1). -/
def Obligations.ResetMemoryIsCanonical : Prop := MemInv State.reset

/-- Every step keeps the canonical form of memory: addresses strictly rising, no listed byte 0, so that equal memories are equal
data. That an unlisted byte reads as 0 is the model's choice (assumption 1). -/
def Obligations.StepsKeepMemoryCanonical : Prop := ∀ s t : State, MemInv s → step s = .next t → MemInv t

/-- R139, R333: no instruction of a thread or of a handler changes a byte of memory when it executes, whatever becomes of it: its stores
are buffered or go to their homes, where the event WRITE_PERFORM changes memory. -/
def Obligations.InstructionsKeepMemory : Prop :=
  (∀ (i : Instr) (s t : State), IsThrum i → exec i s = .next t → ∀ a, byte t a = byte s a) ∧
  (∀ (i : RvInstr) (s t : State), exec (.bobbinBase i) s = .next t → ∀ a, byte t a = byte s a) ∧
  (∀ (b : BitVec 3) (lvl : BitVec 1) (rs2 rs1 rd : BitVec 5) (s t : State),
    (exec (.lnrd b rs2 rs1 rd) s = .next t ∨ exec (.lnwr b rs2 rs1 rd) s = .next t ∨ exec (.lnpf lvl rs2 rs1 rd) s = .next t ∨
      exec (.lsq rs2 rs1 rd) s = .next t ∨ exec (.mrep b rd) s = .next t ∨ exec .hfin s = .next t) →
    ∀ a, byte t a = byte s a)

/-! ### Frames -/

/-- R36, R41, R77: what the register-to-register instructions leave alone, whatever becomes of them, with the width of D and the
predicates each names: every other register and predicate, completion flags, outstanding writes, tokens, `sys.fpctl`,
`sys.abase`, the threads' states; for instructions that do not round, `sys.fpstat` and `sys.srseed`; the accumulator rows,
convergence registers, formats and array status of every workgroup, the planes and scratchpad bytes of every core. Where
no trap is taken, the trap registers too. -/
def Obligations.AluFrame : Prop :=
  let d1 (_ : TWord) : Nat := 1
  let d2 (_ : TWord) : Nat := 2
  let d4 (_ : TWord) : Nat := 4
  let d0 (_ : TWord) : Nat := 0
  let no (_ : TWord) : List Nat := []
  let pd (w : TWord) : List Nat := [w.d.toNat]
  let qp (w : TWord) : List Nat := [w.md.toNat / 32 % 8]
  let frame (i : TWord → Instr) (sg : TWord → Sig) (d : TWord → AluDef) (n : TWord → Nat) (ps : TWord → List Nat) (rounds : Bool) : Prop :=
    ∀ (w : TWord) (s t : State), exec (i w) s = .next t →
      (∀ r : ThRef,
        let a := s.thread r
        let b := t.thread r
        (∀ k, w.d = 1023#10 ∨ k < w.d.toNat ∨ w.d.toNat + n w ≤ k → b.reg k = a.reg k) ∧
        (∀ k, k ∉ ps w → b.pred k = a.pred k) ∧
        b.flags = a.flags ∧ b.pend = a.pend ∧ b.tokens = a.tokens ∧ b.fpctl = a.fpctl ∧ b.abase = a.abase ∧ b.st = a.st ∧
        b.nregs = a.nregs ∧ (rounds = false → b.fpstat = a.fpstat ∧ b.srseed = a.srseed) ∧
        ((∀ x, s.ctx? (sg w) w = some x → encTrap (sg w) w (x.enc s) = none ∧ x.causes ((d w).fault x) = none) →
          b.tcause = a.tcause ∧ b.tpc = a.tpc ∧ b.taddr = a.taddr)) ∧
      (∀ k, (t.wg? k).map (fun v => (v.rows, v.conv, v.fmt, v.ovf, v.mstat, v.mseed)) =
        (s.wg? k).map (fun v => (v.rows, v.conv, v.fmt, v.ovf, v.mstat, v.mseed))) ∧
      (∀ c fn, (t.core c).planes fn = (s.core c).planes fn) ∧ ∀ c a, scrByte t c a = scrByte s c a
  frame .add sigAdd addDef d1 no false ∧ frame .sub sigSub subDef d1 no false ∧ frame .mul sigMul mulDef d1 no false ∧
  frame .mulhi sigMulhi mulhiDef d1 no false ∧ frame .mad sigMad madDef d1 no false ∧ frame .mulw sigMulw mulwDef d2 no false ∧
  frame .madw sigMadw madwDef d2 no false ∧ frame .addc sigAddc addcDef d1 qp false ∧ frame .subc sigSubc subcDef d1 qp false ∧
  frame .min sigMin minDef d1 no false ∧ frame .max sigMax maxDef d1 no false ∧ frame .abs sigAbs absDef d1 no false ∧
  frame .neg sigNeg negDef d1 no false ∧ frame .cmp sigCmp cmpDef d0 pd false ∧ frame .sel sigSel selDef d1 no false ∧
  frame .and sigAnd (fun _ => andDef) d1 no false ∧ frame .or sigOr (fun _ => orDef) d1 no false ∧
  frame .xor sigXor (fun _ => xorDef) d1 no false ∧ frame .not sigNot (fun _ => notDef) d1 no false ∧
  frame .lop3 sigLop3 lop3Def d1 no false ∧ frame .shl sigShl shlDef d1 no false ∧ frame .shr sigShr shrDef d1 no false ∧
  frame .fsh sigFsh fshDef d1 no false ∧ frame .bfe sigBfe bfeDef d1 no false ∧ frame .bfi sigBfi (fun _ => bfiDef) d1 no false ∧
  frame .popc sigPopc (fun _ => popcDef) d1 no false ∧ frame .clz sigClz (fun _ => clzDef) d1 no false ∧
  frame .ctz sigCtz (fun _ => ctzDef) d1 no false ∧ frame .brev sigBrev (fun _ => brevDef) d1 no false ∧
  frame .mov sigMov movDef d1 no false ∧ frame .plop sigPlop plopDef d0 pd false ∧ frame .p2r sigP2r (fun _ => p2rDef) d1 no false ∧
  frame .r2p sigR2p r2pDef d0 (fun w => (List.range 7).filter (fun k => w.md.getLsbD k)) false ∧
  frame .fadd sigFadd faddDef d1 no true ∧ frame .fsub sigFsub fsubDef d1 no true ∧ frame .fmul sigFmul fmulDef d1 no true ∧
  frame .ffma sigFfma ffmaDef d1 no true ∧ frame .fmin sigFmin fminDef d1 no true ∧ frame .fmax sigFmax fmaxDef d1 no true ∧
  frame .fcmp sigFcmp fcmpDef d0 pd true ∧ frame .cvt sigCvt cvtDef d1 no true ∧ frame .cvtnPack sigCvtnPack cvtnPackDef d1 no true ∧
  frame .cvtnUnpack sigCvtnUnpack cvtnUnpackDef d4 no true ∧ frame .settag sigSettag settagDef d1 no false ∧
  frame .gettag sigGettag (fun _ => gettagDef) d1 no false ∧ frame .dp4a sigDp4a dp4aDef d1 no false ∧
  frame .frcp sigFrcp (specialDef .rcp) d1 no true ∧ frame .frsqrt sigFrsqrt (specialDef .rsqrt) d1 no true ∧
  frame .fsqrt sigFsqrt (specialDef .sqrt) d1 no true ∧ frame .fexp2 sigFexp2 (specialDef .exp2) d1 no true ∧
  frame .flog2 sigFlog2 (specialDef .log2) d1 no true ∧ frame .fsin sigFsin (specialDef .sin) d1 no true ∧
  frame .fcos sigFcos (specialDef .cos) d1 no true ∧ frame .hadd2 sigHadd2 (halfArith .add) d1 no true ∧
  frame .hsub2 sigHsub2 (halfArith .sub) d1 no true ∧ frame .hmul2 sigHmul2 (halfArith .mul) d1 no true ∧
  frame .hfma2 sigHfma2 (halfArith .fma) d1 no true ∧ frame .hmin2 sigHmin2 (halfMinMax false) d1 no true ∧
  frame .hmax2 sigHmax2 (halfMinMax true) d1 no true ∧ frame .dp2bf sigDp2bf dp2bfDef d1 no true ∧
  frame .dadd sigDadd (f64Arith .add) d2 no true ∧ frame .dsub sigDsub (f64Arith .sub) d2 no true ∧
  frame .dmul sigDmul (f64Arith .mul) d2 no true ∧ frame .dfma sigDfma (f64Arith .fma) d2 no true ∧
  frame .dmin sigDmin (f64MinMax false) d2 no true ∧ frame .dmax sigDmax (f64MinMax true) d2 no true ∧
  frame .dcmp sigDcmp dcmpDef d0 pd true ∧
  frame .dcvt sigDcvt dcvtDef (fun w => if w.md.toNat % 16 = 7 then 2 else 1) no true ∧
  frame .shfl sigShfl shflDef d1 qp false ∧ frame .push sigPush pushDef d1 qp false ∧ frame .vote sigVote voteDef d1 qp false ∧
  frame .matchOp sigMatch matchDef d1 qp false ∧ frame .xred sigXred xredDef d1 no true ∧ frame .xscan sigXscan xscanDef d1 no true

/-- R345, R354 to R359: what a Bobbin instruction leaves alone, whatever becomes of it: every register of its core but rd, every register of
every other core, every thread, register of a workgroup and plane, every byte of every scratchpad. -/
def Obligations.BobbinFrame : Prop :=
  let rdOf (i : RvInstr) : Option (BitVec 5) := match (rvExpand i).1 with
    | .lui rd _ => some rd | .auipc rd _ => some rd | .jal rd _ => some rd | .jalr rd _ _ => some rd | .load _ rd _ _ => some rd
    | .opImm _ rd _ _ => some rd | .op _ rd _ _ => some rd | .csr _ _ rd _ _ => some rd | _ => none
  let frame (i : Instr) (rd : Option (BitVec 5)) : Prop := ∀ (s t : State), exec i s = .next t →
    (∀ (k : Nat) (n : BitVec 5), s.cur ≠ .bobbin k ∨ rd ≠ some n → (t.bob k).reg n = (s.bob k).reg n) ∧
    t.wgs = s.wgs ∧ t.groups = s.groups ∧ t.cores = s.cores ∧ t.now = s.now
  (∀ i, frame (.bobbinBase i) (rdOf i)) ∧
  ∀ (b : BitVec 3) (lvl : BitVec 1) (rs2 rs1 rd : BitVec 5),
    frame (.lnrd b rs2 rs1 rd) (some rd) ∧ frame (.lnwr b rs2 rs1 rd) (some rd) ∧ frame (.lnpf lvl rs2 rs1 rd) (some rd) ∧
    frame (.lsq rs2 rs1 rd) (some rd) ∧ frame (.mrep b rd) (some rd) ∧ frame .hfin none

/-- The bytes that a pending write of a kind stores, given the size of its access (Table 7.4, R187, R200, R356). -/
def Sys2Proof.Spec.storedLen (n : Nat) : WrKind → Nat
  | .store bs => bs.length
  | .rmw _ _ _ _ _ => n
  | .cas _ _ _ _ _ => n
  | .sigdec _ _ => 8
  | .pte _ _ => 8
  | .pend _ _ => 4
  | .copyUnit _ _ bs _ => bs.length
  | .copyRed _ _ _ _ _ => n
  | .copySig _ => 8
  | .line _ _ _ _ => 64

/-- R139, R143: WRITE_PERFORM changes only bytes that a pending write stores: every byte of memory outside the targets of the pending
writes, and every byte of a scratchpad outside the targets of its bank, reads as before. -/
def Obligations.WritesChangeOnlyTheirBytes : Prop :=
  ∀ (id : Nat) (s t : State), exec (.writePerform id) s = .next t →
    (∀ a, (∀ p ∈ s.writes, ∀ pa mt, p.2.acc.tgt = .glob pa mt → a < pa ∨ pa + storedLen p.2.acc.n p.2.kind ≤ a) →
      byte t a = byte s a) ∧
    (∀ c a, (∀ p ∈ s.writes, ∀ o, p.2.acc.tgt = .scr c o → a < o ∨ o + storedLen p.2.acc.n p.2.kind ≤ a) →
      scrByte t c a = scrByte s c a)

/-! ### Accesses at their homes -/

/-- Table 7.4: the new value of a 32-bit or 64-bit atomic operation other than the FP32 addition. -/
def Sys2Proof.Spec.atomic (opc : Nat) (old c : W64) : W64 :=
  let o : W32 := old.truncate 32
  let d : W32 := c.truncate 32
  let low (v : W32) : W64 := v.zeroExtend 64
  match opc with
  | 0 => low (o + d) | 1 => low (o &&& d) | 2 => low (o ||| d) | 3 => low (o ^^^ d)
  | 4 => low (if d.toInt < o.toInt then d else o) | 5 => low (if o.toInt < d.toInt then d else o)
  | 6 => low (if d.toNat < o.toNat then d else o) | 7 => low (if o.toNat < d.toNat then d else o)
  | 8 => low d | 10 => old + c | 11 => c
  | 12 => if c.toNat < old.toNat then c else old
  | _ => if old.toNat < c.toNat then c else old

/-- R139, R175, R179, R181: a store, an atomic operation or a compare-and-swap of a scratchpad bank, which its order lets go, performs in
one step: the bytes stored stand at its place and every other byte of the scratchpad as before, and D of its thread takes the
old value. A store that reaches the home of a line where no write or read waits and that takes it performs there: its bytes stand in
memory, every other byte as before. A pending load of a scratchpad or of memory that may return gives D the bytes there,
under the thread's own older stores. -/
def Obligations.AccessesPerformAtTheirHomes : Prop :=
  (∀ (s : State) (id : Nat) (w : PWrite) (c o : Nat), s.boot.off = false → tget? s.writes id = some w → w.acc.id = id →
    w.acc.tgt = .scr c o → s.staleAcc w.acc = false → s.maySend w = true → s.scrIsPois c o w.acc.n = false →
    let old := little (s.scrRead c o w.acc.n)
    let put (t : State) (bs : List Byte) : Prop := ∀ a, scrByte t c a = if o ≤ a ∧ a < o + bs.length then bs.getD (a - o) 0#8 else scrByte s c a
    (∀ bs, w.kind = .store bs → ∃ t, exec (.writePerform id) s = .next t ∧ put t bs) ∧
    (∀ opc v d tag nr, w.kind = .rmw opc v d tag nr → opc ≤ 13 → opc ≠ 9 → ∃ t, exec (.writePerform id) s = .next t ∧
      put t (leBytes w.acc.n (atomic opc (BitVec.ofNat 64 old) v).toNat)) ∧
    (∀ wide cmp new d tag, w.kind = .cas wide cmp new d tag → ∃ t, exec (.writePerform id) s = .next t ∧
      put t (if old = cmp.toNat then leBytes w.acc.n new.toNat else [])) ∧
    (∀ opc v d tag nr r u, w.kind = .rmw opc v (some d) tag nr → w.acc.n = 4 → w.acc.th = some r → s.wg? r.wg = some u →
      ∃ t, exec (.writePerform id) s = .next t ∧ (t.thread r).reg d = ⟨word old, BitVec.ofNat 6 tag⟩)) ∧
  (∀ (s : State) (id : Nat) (w : PWrite) (pa mt : Nat) (bs : List Byte), s.boot.off = false → tget? s.writes id = some w →
    w.acc.id = id → w.acc.tgt = .glob pa mt → w.acc.arrived = none → w.kind = .store bs → s.staleAcc w.acc = false →
    s.maySend w = true → s.waitingAt (pa / 64) = [] → s.readsAt (pa / 64) = [] → s.lineTakes (pa / 64) w = true → (s.line (pa / 64)).block = none →
    (s.line (pa / 64)).invFor = none → s.sharers (pa / 64) = [] →
    ∃ t, exec (.writePerform id) s = .next t ∧
      ∀ a, byte t a = if pa ≤ a ∧ a < pa + bs.length then bs.getD (a - pa) 0#8 else byte s a) ∧
  (∀ (s : State) (id : Nat) (p : PLoad) (r : ThRef) (u : Wg) (d : Nat), s.boot.off = false → tget? s.loads id = some p → p.acc.id = id →
    s.staleAcc p.acc = false → s.canLoad p = true → p.acc.th = some r → s.wg? r.wg = some u → p.dst = some d → p.acc.n = 4 →
    p.acc.arrived = none → p.bob = none → p.sext = false → s.tgtPois p.acc.tgt 4 = false → (∀ dev o, p.acc.tgt ≠ .pod dev o) →
    ∃ t, exec (.loadReturn id) s = .next t ∧ (t.thread r).reg d = ⟨word (little (s.readNow p.acc)), BitVec.ofNat 6 p.tag⟩)

/-- R163: a PICOT_STEP without a `pinit` applies the arrivals and completed bytes that have reached the picot in one step; a phase that
leaves both counts at zero has a further step to come. Bytes for an allocation that has ended change nothing (R161, R187). That every
update that is ready reaches the picot in the same cycle is the model's choice (assumption 116). -/
def Obligations.PicotStepsByItsRule : Prop :=
  ∀ (s : State) (core addr : Nat), s.boot.off = false → s.picotBatch core addr ≠ [] →
    (∀ p ∈ s.picotBatch core addr, ∀ a b, p.act ≠ .init a b) →
    let ps := s.picotBatch core addr
    let p := s.picotAt core addr
    let arrivals := (ps.filter (fun q => match q.act with | .arrive _ _ => true | _ => false)).length
    let gen := (s.core core).genAt addr
    let live (q : PPicot) : Prop := ∀ m u g, q.act = .bytes m u (some g) → g = gen
    let bytes := ps.foldl (fun n q => match q.act with | .bytes m _ g => if g.getD gen = gen then n + m else n | _ => n) 0
    let added := ps.foldl (fun n q => match q.act with | .arrive x _ => n + x | _ => n) 0#32
    let n := min arrivals p.arr
    let byt := p.byt + added - BitVec.ofNat 32 bytes
    let left := arrivals - n
    let m := min left p.arrld
    ∃ t, exec (.picotStep core addr) s = .next t ∧ ((∀ q ∈ ps, ¬ live q) → t.picotAt core addr = p) ∧ ((∃ q ∈ ps, live q) →
      t.picotAt core addr = (if p.arr = n ∧ byt = 0#32 then
          { p with ph := !p.ph, arr := p.arrld - m, byt := p.bytld, ovr := p.ovr || decide (m < left) }
        else { p with arr := p.arr - n, byt := byt, ovr := p.ovr || decide (0 < left) }) ∧
      (p.arr = n → byt = 0#32 → p.arrld = m → p.bytld = 0#32 →
        ∃ q ∈ t.picots, q.2.acc.tgt = .scr core addr ∧ q.2.act = .bytes 0 none (some gen)))
end

