-- ==== Sys2Proof/Laws/State.lean ====
section
/-! SUPPORT. What each update of the state leaves alone: one lemma per field and update. -/

namespace Sys2Proof.Machine

variable (s : State)

@[simp] theorem State.setCore_now (c : Nat) (x : Core) : (s.setCore c x).now = s.now := rfl
@[simp] theorem State.setCore_cycles (c : Nat) (x : Core) : (s.setCore c x).cycles = s.cycles := rfl
@[simp] theorem State.setCore_agenda (c : Nat) (x : Core) : (s.setCore c x).agenda = s.agenda := rfl
@[simp] theorem State.setCore_cur (c : Nat) (x : Core) : (s.setCore c x).cur = s.cur := rfl
@[simp] theorem State.setCore_fresh (c : Nat) (x : Core) : (s.setCore c x).fresh = s.fresh := rfl
@[simp] theorem State.setCore_nextId (c : Nat) (x : Core) : (s.setCore c x).nextId = s.nextId := rfl
@[simp] theorem State.setCore_mem (c : Nat) (x : Core) : (s.setCore c x).mem = s.mem := rfl
@[simp] theorem State.setCore_pois (c : Nat) (x : Core) : (s.setCore c x).pois = s.pois := rfl
@[simp] theorem State.setCore_lines (c : Nat) (x : Core) : (s.setCore c x).lines = s.lines := rfl
@[simp] theorem State.setCore_tlb (c : Nat) (x : Core) : (s.setCore c x).tlb = s.tlb := rfl
@[simp] theorem State.setCore_dirs (c : Nat) (x : Core) : (s.setCore c x).dirs = s.dirs := rfl
@[simp] theorem State.setCore_filters (c : Nat) (x : Core) : (s.setCore c x).filters = s.filters := rfl
@[simp] theorem State.setCore_incs (c : Nat) (x : Core) : (s.setCore c x).incs = s.incs := rfl
@[simp] theorem State.setCore_retired (c : Nat) (x : Core) : (s.setCore c x).retired = s.retired := rfl
@[simp] theorem State.setCore_late (c : Nat) (x : Core) : (s.setCore c x).late = s.late := rfl
@[simp] theorem State.setCore_recsDue (c : Nat) (x : Core) : (s.setCore c x).recsDue = s.recsDue := rfl
@[simp] theorem State.setCore_dirsDue (c : Nat) (x : Core) : (s.setCore c x).dirsDue = s.dirsDue := rfl
@[simp] theorem State.setCore_groups (c : Nat) (x : Core) : (s.setCore c x).groups = s.groups := rfl
@[simp] theorem State.setCore_wgs (c : Nat) (x : Core) : (s.setCore c x).wgs = s.wgs := rfl
@[simp] theorem State.setCore_loads (c : Nat) (x : Core) : (s.setCore c x).loads = s.loads := rfl
@[simp] theorem State.setCore_writes (c : Nat) (x : Core) : (s.setCore c x).writes = s.writes := rfl
@[simp] theorem State.setCore_fences (c : Nat) (x : Core) : (s.setCore c x).fences = s.fences := rfl
@[simp] theorem State.setCore_picots (c : Nat) (x : Core) : (s.setCore c x).picots = s.picots := rfl
@[simp] theorem State.setCore_copies (c : Nat) (x : Core) : (s.setCore c x).copies = s.copies := rfl
@[simp] theorem State.setCore_batches (c : Nat) (x : Core) : (s.setCore c x).batches = s.batches := rfl
@[simp] theorem State.setCore_shqs (c : Nat) (x : Core) : (s.setCore c x).shqs = s.shqs := rfl
@[simp] theorem State.setCore_rts (c : Nat) (x : Core) : (s.setCore c x).rts = s.rts := rfl
@[simp] theorem State.setCore_msgs (c : Nat) (x : Core) : (s.setCore c x).msgs = s.msgs := rfl
@[simp] theorem State.setCore_migs (c : Nat) (x : Core) : (s.setCore c x).migs = s.migs := rfl
@[simp] theorem State.setCore_launches (c : Nat) (x : Core) : (s.setCore c x).launches = s.launches := rfl
@[simp] theorem State.setCore_deferred (c : Nat) (x : Core) : (s.setCore c x).deferred = s.deferred := rfl
@[simp] theorem State.setCore_fns (c : Nat) (x : Core) : (s.setCore c x).fns = s.fns := rfl
@[simp] theorem State.setCore_bobs (c : Nat) (x : Core) : (s.setCore c x).bobs = s.bobs := rfl
@[simp] theorem State.setCore_rtTurns (c : Nat) (x : Core) : (s.setCore c x).rtTurns = s.rtTurns := rfl
@[simp] theorem State.setCore_ctls (c : Nat) (x : Core) : (s.setCore c x).ctls = s.ctls := rfl
@[simp] theorem State.setCore_chans (c : Nat) (x : Core) : (s.setCore c x).chans = s.chans := rfl
@[simp] theorem State.setCore_acts (c : Nat) (x : Core) : (s.setCore c x).acts = s.acts := rfl
@[simp] theorem State.setCore_bwPeriods (c : Nat) (x : Core) : (s.setCore c x).bwPeriods = s.bwPeriods := rfl
@[simp] theorem State.setCore_enPeriods (c : Nat) (x : Core) : (s.setCore c x).enPeriods = s.enPeriods := rfl
@[simp] theorem State.setCore_enCharges (c : Nat) (x : Core) : (s.setCore c x).enCharges = s.enCharges := rfl
@[simp] theorem State.setCore_shade (c : Nat) (x : Core) : (s.setCore c x).shade = s.shade := rfl
@[simp] theorem State.setCore_err (c : Nat) (x : Core) : (s.setCore c x).err = s.err := rfl
@[simp] theorem State.setCore_boot (c : Nat) (x : Core) : (s.setCore c x).boot = s.boot := rfl
@[simp] theorem State.setCore_podid (c : Nat) (x : Core) : (s.setCore c x).podid = s.podid := rfl
@[simp] theorem State.setCore_halts (c : Nat) (x : Core) : (s.setCore c x).halts = s.halts := rfl
@[simp] theorem State.setCore_out (c : Nat) (x : Core) : (s.setCore c x).out = s.out := rfl
@[simp] theorem State.modCore_now (c : Nat) (f : Core → Core) : (s.modCore c f).now = s.now := rfl
@[simp] theorem State.modCore_cycles (c : Nat) (f : Core → Core) : (s.modCore c f).cycles = s.cycles := rfl
@[simp] theorem State.modCore_agenda (c : Nat) (f : Core → Core) : (s.modCore c f).agenda = s.agenda := rfl
@[simp] theorem State.modCore_cur (c : Nat) (f : Core → Core) : (s.modCore c f).cur = s.cur := rfl
@[simp] theorem State.modCore_fresh (c : Nat) (f : Core → Core) : (s.modCore c f).fresh = s.fresh := rfl
@[simp] theorem State.modCore_nextId (c : Nat) (f : Core → Core) : (s.modCore c f).nextId = s.nextId := rfl
@[simp] theorem State.modCore_mem (c : Nat) (f : Core → Core) : (s.modCore c f).mem = s.mem := rfl
@[simp] theorem State.modCore_pois (c : Nat) (f : Core → Core) : (s.modCore c f).pois = s.pois := rfl
@[simp] theorem State.modCore_lines (c : Nat) (f : Core → Core) : (s.modCore c f).lines = s.lines := rfl
@[simp] theorem State.modCore_tlb (c : Nat) (f : Core → Core) : (s.modCore c f).tlb = s.tlb := rfl
@[simp] theorem State.modCore_dirs (c : Nat) (f : Core → Core) : (s.modCore c f).dirs = s.dirs := rfl
@[simp] theorem State.modCore_filters (c : Nat) (f : Core → Core) : (s.modCore c f).filters = s.filters := rfl
@[simp] theorem State.modCore_incs (c : Nat) (f : Core → Core) : (s.modCore c f).incs = s.incs := rfl
@[simp] theorem State.modCore_retired (c : Nat) (f : Core → Core) : (s.modCore c f).retired = s.retired := rfl
@[simp] theorem State.modCore_late (c : Nat) (f : Core → Core) : (s.modCore c f).late = s.late := rfl
@[simp] theorem State.modCore_recsDue (c : Nat) (f : Core → Core) : (s.modCore c f).recsDue = s.recsDue := rfl
@[simp] theorem State.modCore_dirsDue (c : Nat) (f : Core → Core) : (s.modCore c f).dirsDue = s.dirsDue := rfl
@[simp] theorem State.modCore_groups (c : Nat) (f : Core → Core) : (s.modCore c f).groups = s.groups := rfl
@[simp] theorem State.modCore_wgs (c : Nat) (f : Core → Core) : (s.modCore c f).wgs = s.wgs := rfl
@[simp] theorem State.modCore_loads (c : Nat) (f : Core → Core) : (s.modCore c f).loads = s.loads := rfl
@[simp] theorem State.modCore_writes (c : Nat) (f : Core → Core) : (s.modCore c f).writes = s.writes := rfl
@[simp] theorem State.modCore_fences (c : Nat) (f : Core → Core) : (s.modCore c f).fences = s.fences := rfl
@[simp] theorem State.modCore_picots (c : Nat) (f : Core → Core) : (s.modCore c f).picots = s.picots := rfl
@[simp] theorem State.modCore_copies (c : Nat) (f : Core → Core) : (s.modCore c f).copies = s.copies := rfl
@[simp] theorem State.modCore_batches (c : Nat) (f : Core → Core) : (s.modCore c f).batches = s.batches := rfl
@[simp] theorem State.modCore_shqs (c : Nat) (f : Core → Core) : (s.modCore c f).shqs = s.shqs := rfl
@[simp] theorem State.modCore_rts (c : Nat) (f : Core → Core) : (s.modCore c f).rts = s.rts := rfl
@[simp] theorem State.modCore_msgs (c : Nat) (f : Core → Core) : (s.modCore c f).msgs = s.msgs := rfl
@[simp] theorem State.modCore_migs (c : Nat) (f : Core → Core) : (s.modCore c f).migs = s.migs := rfl
@[simp] theorem State.modCore_launches (c : Nat) (f : Core → Core) : (s.modCore c f).launches = s.launches := rfl
@[simp] theorem State.modCore_deferred (c : Nat) (f : Core → Core) : (s.modCore c f).deferred = s.deferred := rfl
@[simp] theorem State.modCore_fns (c : Nat) (f : Core → Core) : (s.modCore c f).fns = s.fns := rfl
@[simp] theorem State.modCore_bobs (c : Nat) (f : Core → Core) : (s.modCore c f).bobs = s.bobs := rfl
@[simp] theorem State.modCore_rtTurns (c : Nat) (f : Core → Core) : (s.modCore c f).rtTurns = s.rtTurns := rfl
@[simp] theorem State.modCore_ctls (c : Nat) (f : Core → Core) : (s.modCore c f).ctls = s.ctls := rfl
@[simp] theorem State.modCore_chans (c : Nat) (f : Core → Core) : (s.modCore c f).chans = s.chans := rfl
@[simp] theorem State.modCore_acts (c : Nat) (f : Core → Core) : (s.modCore c f).acts = s.acts := rfl
@[simp] theorem State.modCore_bwPeriods (c : Nat) (f : Core → Core) : (s.modCore c f).bwPeriods = s.bwPeriods := rfl
@[simp] theorem State.modCore_enPeriods (c : Nat) (f : Core → Core) : (s.modCore c f).enPeriods = s.enPeriods := rfl
@[simp] theorem State.modCore_enCharges (c : Nat) (f : Core → Core) : (s.modCore c f).enCharges = s.enCharges := rfl
@[simp] theorem State.modCore_shade (c : Nat) (f : Core → Core) : (s.modCore c f).shade = s.shade := rfl
@[simp] theorem State.modCore_err (c : Nat) (f : Core → Core) : (s.modCore c f).err = s.err := rfl
@[simp] theorem State.modCore_boot (c : Nat) (f : Core → Core) : (s.modCore c f).boot = s.boot := rfl
@[simp] theorem State.modCore_podid (c : Nat) (f : Core → Core) : (s.modCore c f).podid = s.podid := rfl
@[simp] theorem State.modCore_halts (c : Nat) (f : Core → Core) : (s.modCore c f).halts = s.halts := rfl
@[simp] theorem State.modCore_out (c : Nat) (f : Core → Core) : (s.modCore c f).out = s.out := rfl
@[simp] theorem State.setLine_now (l : Nat) (x : Line) : (s.setLine l x).now = s.now := rfl
@[simp] theorem State.setLine_cycles (l : Nat) (x : Line) : (s.setLine l x).cycles = s.cycles := rfl
@[simp] theorem State.setLine_agenda (l : Nat) (x : Line) : (s.setLine l x).agenda = s.agenda := rfl
@[simp] theorem State.setLine_cur (l : Nat) (x : Line) : (s.setLine l x).cur = s.cur := rfl
@[simp] theorem State.setLine_fresh (l : Nat) (x : Line) : (s.setLine l x).fresh = s.fresh := rfl
@[simp] theorem State.setLine_nextId (l : Nat) (x : Line) : (s.setLine l x).nextId = s.nextId := rfl
@[simp] theorem State.setLine_mem (l : Nat) (x : Line) : (s.setLine l x).mem = s.mem := rfl
@[simp] theorem State.setLine_pois (l : Nat) (x : Line) : (s.setLine l x).pois = s.pois := rfl
@[simp] theorem State.setLine_tlb (l : Nat) (x : Line) : (s.setLine l x).tlb = s.tlb := rfl
@[simp] theorem State.setLine_dirs (l : Nat) (x : Line) : (s.setLine l x).dirs = s.dirs := rfl
@[simp] theorem State.setLine_filters (l : Nat) (x : Line) : (s.setLine l x).filters = s.filters := rfl
@[simp] theorem State.setLine_incs (l : Nat) (x : Line) : (s.setLine l x).incs = s.incs := rfl
@[simp] theorem State.setLine_retired (l : Nat) (x : Line) : (s.setLine l x).retired = s.retired := rfl
@[simp] theorem State.setLine_late (l : Nat) (x : Line) : (s.setLine l x).late = s.late := rfl
@[simp] theorem State.setLine_recsDue (l : Nat) (x : Line) : (s.setLine l x).recsDue = s.recsDue := rfl
@[simp] theorem State.setLine_dirsDue (l : Nat) (x : Line) : (s.setLine l x).dirsDue = s.dirsDue := rfl
@[simp] theorem State.setLine_cores (l : Nat) (x : Line) : (s.setLine l x).cores = s.cores := rfl
@[simp] theorem State.setLine_groups (l : Nat) (x : Line) : (s.setLine l x).groups = s.groups := rfl
@[simp] theorem State.setLine_wgs (l : Nat) (x : Line) : (s.setLine l x).wgs = s.wgs := rfl
@[simp] theorem State.setLine_loads (l : Nat) (x : Line) : (s.setLine l x).loads = s.loads := rfl
@[simp] theorem State.setLine_writes (l : Nat) (x : Line) : (s.setLine l x).writes = s.writes := rfl
@[simp] theorem State.setLine_fences (l : Nat) (x : Line) : (s.setLine l x).fences = s.fences := rfl
@[simp] theorem State.setLine_picots (l : Nat) (x : Line) : (s.setLine l x).picots = s.picots := rfl
@[simp] theorem State.setLine_copies (l : Nat) (x : Line) : (s.setLine l x).copies = s.copies := rfl
@[simp] theorem State.setLine_batches (l : Nat) (x : Line) : (s.setLine l x).batches = s.batches := rfl
@[simp] theorem State.setLine_shqs (l : Nat) (x : Line) : (s.setLine l x).shqs = s.shqs := rfl
@[simp] theorem State.setLine_rts (l : Nat) (x : Line) : (s.setLine l x).rts = s.rts := rfl
@[simp] theorem State.setLine_msgs (l : Nat) (x : Line) : (s.setLine l x).msgs = s.msgs := rfl
@[simp] theorem State.setLine_migs (l : Nat) (x : Line) : (s.setLine l x).migs = s.migs := rfl
@[simp] theorem State.setLine_launches (l : Nat) (x : Line) : (s.setLine l x).launches = s.launches := rfl
@[simp] theorem State.setLine_deferred (l : Nat) (x : Line) : (s.setLine l x).deferred = s.deferred := rfl
@[simp] theorem State.setLine_fns (l : Nat) (x : Line) : (s.setLine l x).fns = s.fns := rfl
@[simp] theorem State.setLine_bobs (l : Nat) (x : Line) : (s.setLine l x).bobs = s.bobs := rfl
@[simp] theorem State.setLine_rtTurns (l : Nat) (x : Line) : (s.setLine l x).rtTurns = s.rtTurns := rfl
@[simp] theorem State.setLine_ctls (l : Nat) (x : Line) : (s.setLine l x).ctls = s.ctls := rfl
@[simp] theorem State.setLine_chans (l : Nat) (x : Line) : (s.setLine l x).chans = s.chans := rfl
@[simp] theorem State.setLine_acts (l : Nat) (x : Line) : (s.setLine l x).acts = s.acts := rfl
@[simp] theorem State.setLine_bwPeriods (l : Nat) (x : Line) : (s.setLine l x).bwPeriods = s.bwPeriods := rfl
@[simp] theorem State.setLine_enPeriods (l : Nat) (x : Line) : (s.setLine l x).enPeriods = s.enPeriods := rfl
@[simp] theorem State.setLine_enCharges (l : Nat) (x : Line) : (s.setLine l x).enCharges = s.enCharges := rfl
@[simp] theorem State.setLine_shade (l : Nat) (x : Line) : (s.setLine l x).shade = s.shade := rfl
@[simp] theorem State.setLine_err (l : Nat) (x : Line) : (s.setLine l x).err = s.err := rfl
@[simp] theorem State.setLine_boot (l : Nat) (x : Line) : (s.setLine l x).boot = s.boot := rfl
@[simp] theorem State.setLine_podid (l : Nat) (x : Line) : (s.setLine l x).podid = s.podid := rfl
@[simp] theorem State.setLine_halts (l : Nat) (x : Line) : (s.setLine l x).halts = s.halts := rfl
@[simp] theorem State.setLine_out (l : Nat) (x : Line) : (s.setLine l x).out = s.out := rfl
@[simp] theorem State.modLine_now (l : Nat) (f : Line → Line) : (s.modLine l f).now = s.now := rfl
@[simp] theorem State.modLine_cycles (l : Nat) (f : Line → Line) : (s.modLine l f).cycles = s.cycles := rfl
@[simp] theorem State.modLine_agenda (l : Nat) (f : Line → Line) : (s.modLine l f).agenda = s.agenda := rfl
@[simp] theorem State.modLine_cur (l : Nat) (f : Line → Line) : (s.modLine l f).cur = s.cur := rfl
@[simp] theorem State.modLine_fresh (l : Nat) (f : Line → Line) : (s.modLine l f).fresh = s.fresh := rfl
@[simp] theorem State.modLine_nextId (l : Nat) (f : Line → Line) : (s.modLine l f).nextId = s.nextId := rfl
@[simp] theorem State.modLine_mem (l : Nat) (f : Line → Line) : (s.modLine l f).mem = s.mem := rfl
@[simp] theorem State.modLine_pois (l : Nat) (f : Line → Line) : (s.modLine l f).pois = s.pois := rfl
@[simp] theorem State.modLine_tlb (l : Nat) (f : Line → Line) : (s.modLine l f).tlb = s.tlb := rfl
@[simp] theorem State.modLine_dirs (l : Nat) (f : Line → Line) : (s.modLine l f).dirs = s.dirs := rfl
@[simp] theorem State.modLine_filters (l : Nat) (f : Line → Line) : (s.modLine l f).filters = s.filters := rfl
@[simp] theorem State.modLine_incs (l : Nat) (f : Line → Line) : (s.modLine l f).incs = s.incs := rfl
@[simp] theorem State.modLine_retired (l : Nat) (f : Line → Line) : (s.modLine l f).retired = s.retired := rfl
@[simp] theorem State.modLine_late (l : Nat) (f : Line → Line) : (s.modLine l f).late = s.late := rfl
@[simp] theorem State.modLine_recsDue (l : Nat) (f : Line → Line) : (s.modLine l f).recsDue = s.recsDue := rfl
@[simp] theorem State.modLine_dirsDue (l : Nat) (f : Line → Line) : (s.modLine l f).dirsDue = s.dirsDue := rfl
@[simp] theorem State.modLine_cores (l : Nat) (f : Line → Line) : (s.modLine l f).cores = s.cores := rfl
@[simp] theorem State.modLine_groups (l : Nat) (f : Line → Line) : (s.modLine l f).groups = s.groups := rfl
@[simp] theorem State.modLine_wgs (l : Nat) (f : Line → Line) : (s.modLine l f).wgs = s.wgs := rfl
@[simp] theorem State.modLine_loads (l : Nat) (f : Line → Line) : (s.modLine l f).loads = s.loads := rfl
@[simp] theorem State.modLine_writes (l : Nat) (f : Line → Line) : (s.modLine l f).writes = s.writes := rfl
@[simp] theorem State.modLine_fences (l : Nat) (f : Line → Line) : (s.modLine l f).fences = s.fences := rfl
@[simp] theorem State.modLine_picots (l : Nat) (f : Line → Line) : (s.modLine l f).picots = s.picots := rfl
@[simp] theorem State.modLine_copies (l : Nat) (f : Line → Line) : (s.modLine l f).copies = s.copies := rfl
@[simp] theorem State.modLine_batches (l : Nat) (f : Line → Line) : (s.modLine l f).batches = s.batches := rfl
@[simp] theorem State.modLine_shqs (l : Nat) (f : Line → Line) : (s.modLine l f).shqs = s.shqs := rfl
@[simp] theorem State.modLine_rts (l : Nat) (f : Line → Line) : (s.modLine l f).rts = s.rts := rfl
@[simp] theorem State.modLine_msgs (l : Nat) (f : Line → Line) : (s.modLine l f).msgs = s.msgs := rfl
@[simp] theorem State.modLine_migs (l : Nat) (f : Line → Line) : (s.modLine l f).migs = s.migs := rfl
@[simp] theorem State.modLine_launches (l : Nat) (f : Line → Line) : (s.modLine l f).launches = s.launches := rfl
@[simp] theorem State.modLine_deferred (l : Nat) (f : Line → Line) : (s.modLine l f).deferred = s.deferred := rfl
@[simp] theorem State.modLine_fns (l : Nat) (f : Line → Line) : (s.modLine l f).fns = s.fns := rfl
@[simp] theorem State.modLine_bobs (l : Nat) (f : Line → Line) : (s.modLine l f).bobs = s.bobs := rfl
@[simp] theorem State.modLine_rtTurns (l : Nat) (f : Line → Line) : (s.modLine l f).rtTurns = s.rtTurns := rfl
@[simp] theorem State.modLine_ctls (l : Nat) (f : Line → Line) : (s.modLine l f).ctls = s.ctls := rfl
@[simp] theorem State.modLine_chans (l : Nat) (f : Line → Line) : (s.modLine l f).chans = s.chans := rfl
@[simp] theorem State.modLine_acts (l : Nat) (f : Line → Line) : (s.modLine l f).acts = s.acts := rfl
@[simp] theorem State.modLine_bwPeriods (l : Nat) (f : Line → Line) : (s.modLine l f).bwPeriods = s.bwPeriods := rfl
@[simp] theorem State.modLine_enPeriods (l : Nat) (f : Line → Line) : (s.modLine l f).enPeriods = s.enPeriods := rfl
@[simp] theorem State.modLine_enCharges (l : Nat) (f : Line → Line) : (s.modLine l f).enCharges = s.enCharges := rfl
@[simp] theorem State.modLine_shade (l : Nat) (f : Line → Line) : (s.modLine l f).shade = s.shade := rfl
@[simp] theorem State.modLine_err (l : Nat) (f : Line → Line) : (s.modLine l f).err = s.err := rfl
@[simp] theorem State.modLine_boot (l : Nat) (f : Line → Line) : (s.modLine l f).boot = s.boot := rfl
@[simp] theorem State.modLine_podid (l : Nat) (f : Line → Line) : (s.modLine l f).podid = s.podid := rfl
@[simp] theorem State.modLine_halts (l : Nat) (f : Line → Line) : (s.modLine l f).halts = s.halts := rfl
@[simp] theorem State.modLine_out (l : Nat) (f : Line → Line) : (s.modLine l f).out = s.out := rfl
@[simp] theorem State.setFn_now (i : Nat) (x : Fn) : (s.setFn i x).now = s.now := rfl
@[simp] theorem State.setFn_cycles (i : Nat) (x : Fn) : (s.setFn i x).cycles = s.cycles := rfl
@[simp] theorem State.setFn_agenda (i : Nat) (x : Fn) : (s.setFn i x).agenda = s.agenda := rfl
@[simp] theorem State.setFn_cur (i : Nat) (x : Fn) : (s.setFn i x).cur = s.cur := rfl
@[simp] theorem State.setFn_fresh (i : Nat) (x : Fn) : (s.setFn i x).fresh = s.fresh := rfl
@[simp] theorem State.setFn_nextId (i : Nat) (x : Fn) : (s.setFn i x).nextId = s.nextId := rfl
@[simp] theorem State.setFn_mem (i : Nat) (x : Fn) : (s.setFn i x).mem = s.mem := rfl
@[simp] theorem State.setFn_pois (i : Nat) (x : Fn) : (s.setFn i x).pois = s.pois := rfl
@[simp] theorem State.setFn_lines (i : Nat) (x : Fn) : (s.setFn i x).lines = s.lines := rfl
@[simp] theorem State.setFn_tlb (i : Nat) (x : Fn) : (s.setFn i x).tlb = s.tlb := rfl
@[simp] theorem State.setFn_dirs (i : Nat) (x : Fn) : (s.setFn i x).dirs = s.dirs := rfl
@[simp] theorem State.setFn_filters (i : Nat) (x : Fn) : (s.setFn i x).filters = s.filters := rfl
@[simp] theorem State.setFn_incs (i : Nat) (x : Fn) : (s.setFn i x).incs = s.incs := rfl
@[simp] theorem State.setFn_retired (i : Nat) (x : Fn) : (s.setFn i x).retired = s.retired := rfl
@[simp] theorem State.setFn_late (i : Nat) (x : Fn) : (s.setFn i x).late = s.late := rfl
@[simp] theorem State.setFn_recsDue (i : Nat) (x : Fn) : (s.setFn i x).recsDue = s.recsDue := rfl
@[simp] theorem State.setFn_dirsDue (i : Nat) (x : Fn) : (s.setFn i x).dirsDue = s.dirsDue := rfl
@[simp] theorem State.setFn_cores (i : Nat) (x : Fn) : (s.setFn i x).cores = s.cores := rfl
@[simp] theorem State.setFn_groups (i : Nat) (x : Fn) : (s.setFn i x).groups = s.groups := rfl
@[simp] theorem State.setFn_wgs (i : Nat) (x : Fn) : (s.setFn i x).wgs = s.wgs := rfl
@[simp] theorem State.setFn_loads (i : Nat) (x : Fn) : (s.setFn i x).loads = s.loads := rfl
@[simp] theorem State.setFn_writes (i : Nat) (x : Fn) : (s.setFn i x).writes = s.writes := rfl
@[simp] theorem State.setFn_fences (i : Nat) (x : Fn) : (s.setFn i x).fences = s.fences := rfl
@[simp] theorem State.setFn_picots (i : Nat) (x : Fn) : (s.setFn i x).picots = s.picots := rfl
@[simp] theorem State.setFn_copies (i : Nat) (x : Fn) : (s.setFn i x).copies = s.copies := rfl
@[simp] theorem State.setFn_batches (i : Nat) (x : Fn) : (s.setFn i x).batches = s.batches := rfl
@[simp] theorem State.setFn_shqs (i : Nat) (x : Fn) : (s.setFn i x).shqs = s.shqs := rfl
@[simp] theorem State.setFn_rts (i : Nat) (x : Fn) : (s.setFn i x).rts = s.rts := rfl
@[simp] theorem State.setFn_msgs (i : Nat) (x : Fn) : (s.setFn i x).msgs = s.msgs := rfl
@[simp] theorem State.setFn_migs (i : Nat) (x : Fn) : (s.setFn i x).migs = s.migs := rfl
@[simp] theorem State.setFn_launches (i : Nat) (x : Fn) : (s.setFn i x).launches = s.launches := rfl
@[simp] theorem State.setFn_deferred (i : Nat) (x : Fn) : (s.setFn i x).deferred = s.deferred := rfl
@[simp] theorem State.setFn_bobs (i : Nat) (x : Fn) : (s.setFn i x).bobs = s.bobs := rfl
@[simp] theorem State.setFn_rtTurns (i : Nat) (x : Fn) : (s.setFn i x).rtTurns = s.rtTurns := rfl
@[simp] theorem State.setFn_ctls (i : Nat) (x : Fn) : (s.setFn i x).ctls = s.ctls := rfl
@[simp] theorem State.setFn_chans (i : Nat) (x : Fn) : (s.setFn i x).chans = s.chans := rfl
@[simp] theorem State.setFn_acts (i : Nat) (x : Fn) : (s.setFn i x).acts = s.acts := rfl
@[simp] theorem State.setFn_bwPeriods (i : Nat) (x : Fn) : (s.setFn i x).bwPeriods = s.bwPeriods := rfl
@[simp] theorem State.setFn_enPeriods (i : Nat) (x : Fn) : (s.setFn i x).enPeriods = s.enPeriods := rfl
@[simp] theorem State.setFn_enCharges (i : Nat) (x : Fn) : (s.setFn i x).enCharges = s.enCharges := rfl
@[simp] theorem State.setFn_shade (i : Nat) (x : Fn) : (s.setFn i x).shade = s.shade := rfl
@[simp] theorem State.setFn_err (i : Nat) (x : Fn) : (s.setFn i x).err = s.err := rfl
@[simp] theorem State.setFn_boot (i : Nat) (x : Fn) : (s.setFn i x).boot = s.boot := rfl
@[simp] theorem State.setFn_podid (i : Nat) (x : Fn) : (s.setFn i x).podid = s.podid := rfl
@[simp] theorem State.setFn_halts (i : Nat) (x : Fn) : (s.setFn i x).halts = s.halts := rfl
@[simp] theorem State.setFn_out (i : Nat) (x : Fn) : (s.setFn i x).out = s.out := rfl
@[simp] theorem State.modFn_now (i : Nat) (f : Fn → Fn) : (s.modFn i f).now = s.now := rfl
@[simp] theorem State.modFn_cycles (i : Nat) (f : Fn → Fn) : (s.modFn i f).cycles = s.cycles := rfl
@[simp] theorem State.modFn_agenda (i : Nat) (f : Fn → Fn) : (s.modFn i f).agenda = s.agenda := rfl
@[simp] theorem State.modFn_cur (i : Nat) (f : Fn → Fn) : (s.modFn i f).cur = s.cur := rfl
@[simp] theorem State.modFn_fresh (i : Nat) (f : Fn → Fn) : (s.modFn i f).fresh = s.fresh := rfl
@[simp] theorem State.modFn_nextId (i : Nat) (f : Fn → Fn) : (s.modFn i f).nextId = s.nextId := rfl
@[simp] theorem State.modFn_mem (i : Nat) (f : Fn → Fn) : (s.modFn i f).mem = s.mem := rfl
@[simp] theorem State.modFn_pois (i : Nat) (f : Fn → Fn) : (s.modFn i f).pois = s.pois := rfl
@[simp] theorem State.modFn_lines (i : Nat) (f : Fn → Fn) : (s.modFn i f).lines = s.lines := rfl
@[simp] theorem State.modFn_tlb (i : Nat) (f : Fn → Fn) : (s.modFn i f).tlb = s.tlb := rfl
@[simp] theorem State.modFn_dirs (i : Nat) (f : Fn → Fn) : (s.modFn i f).dirs = s.dirs := rfl
@[simp] theorem State.modFn_filters (i : Nat) (f : Fn → Fn) : (s.modFn i f).filters = s.filters := rfl
@[simp] theorem State.modFn_incs (i : Nat) (f : Fn → Fn) : (s.modFn i f).incs = s.incs := rfl
@[simp] theorem State.modFn_retired (i : Nat) (f : Fn → Fn) : (s.modFn i f).retired = s.retired := rfl
@[simp] theorem State.modFn_late (i : Nat) (f : Fn → Fn) : (s.modFn i f).late = s.late := rfl
@[simp] theorem State.modFn_recsDue (i : Nat) (f : Fn → Fn) : (s.modFn i f).recsDue = s.recsDue := rfl
@[simp] theorem State.modFn_dirsDue (i : Nat) (f : Fn → Fn) : (s.modFn i f).dirsDue = s.dirsDue := rfl
@[simp] theorem State.modFn_cores (i : Nat) (f : Fn → Fn) : (s.modFn i f).cores = s.cores := rfl
@[simp] theorem State.modFn_groups (i : Nat) (f : Fn → Fn) : (s.modFn i f).groups = s.groups := rfl
@[simp] theorem State.modFn_wgs (i : Nat) (f : Fn → Fn) : (s.modFn i f).wgs = s.wgs := rfl
@[simp] theorem State.modFn_loads (i : Nat) (f : Fn → Fn) : (s.modFn i f).loads = s.loads := rfl
@[simp] theorem State.modFn_writes (i : Nat) (f : Fn → Fn) : (s.modFn i f).writes = s.writes := rfl
@[simp] theorem State.modFn_fences (i : Nat) (f : Fn → Fn) : (s.modFn i f).fences = s.fences := rfl
@[simp] theorem State.modFn_picots (i : Nat) (f : Fn → Fn) : (s.modFn i f).picots = s.picots := rfl
@[simp] theorem State.modFn_copies (i : Nat) (f : Fn → Fn) : (s.modFn i f).copies = s.copies := rfl
@[simp] theorem State.modFn_batches (i : Nat) (f : Fn → Fn) : (s.modFn i f).batches = s.batches := rfl
@[simp] theorem State.modFn_shqs (i : Nat) (f : Fn → Fn) : (s.modFn i f).shqs = s.shqs := rfl
@[simp] theorem State.modFn_rts (i : Nat) (f : Fn → Fn) : (s.modFn i f).rts = s.rts := rfl
@[simp] theorem State.modFn_msgs (i : Nat) (f : Fn → Fn) : (s.modFn i f).msgs = s.msgs := rfl
@[simp] theorem State.modFn_migs (i : Nat) (f : Fn → Fn) : (s.modFn i f).migs = s.migs := rfl
@[simp] theorem State.modFn_launches (i : Nat) (f : Fn → Fn) : (s.modFn i f).launches = s.launches := rfl
@[simp] theorem State.modFn_deferred (i : Nat) (f : Fn → Fn) : (s.modFn i f).deferred = s.deferred := rfl
@[simp] theorem State.modFn_bobs (i : Nat) (f : Fn → Fn) : (s.modFn i f).bobs = s.bobs := rfl
@[simp] theorem State.modFn_rtTurns (i : Nat) (f : Fn → Fn) : (s.modFn i f).rtTurns = s.rtTurns := rfl
@[simp] theorem State.modFn_ctls (i : Nat) (f : Fn → Fn) : (s.modFn i f).ctls = s.ctls := rfl
@[simp] theorem State.modFn_chans (i : Nat) (f : Fn → Fn) : (s.modFn i f).chans = s.chans := rfl
@[simp] theorem State.modFn_acts (i : Nat) (f : Fn → Fn) : (s.modFn i f).acts = s.acts := rfl
@[simp] theorem State.modFn_bwPeriods (i : Nat) (f : Fn → Fn) : (s.modFn i f).bwPeriods = s.bwPeriods := rfl
@[simp] theorem State.modFn_enPeriods (i : Nat) (f : Fn → Fn) : (s.modFn i f).enPeriods = s.enPeriods := rfl
@[simp] theorem State.modFn_enCharges (i : Nat) (f : Fn → Fn) : (s.modFn i f).enCharges = s.enCharges := rfl
@[simp] theorem State.modFn_shade (i : Nat) (f : Fn → Fn) : (s.modFn i f).shade = s.shade := rfl
@[simp] theorem State.modFn_err (i : Nat) (f : Fn → Fn) : (s.modFn i f).err = s.err := rfl
@[simp] theorem State.modFn_boot (i : Nat) (f : Fn → Fn) : (s.modFn i f).boot = s.boot := rfl
@[simp] theorem State.modFn_podid (i : Nat) (f : Fn → Fn) : (s.modFn i f).podid = s.podid := rfl
@[simp] theorem State.modFn_halts (i : Nat) (f : Fn → Fn) : (s.modFn i f).halts = s.halts := rfl
@[simp] theorem State.modFn_out (i : Nat) (f : Fn → Fn) : (s.modFn i f).out = s.out := rfl
@[simp] theorem State.setQueue_now (i q : Nat) (x : Queue) : (s.setQueue i q x).now = s.now := rfl
@[simp] theorem State.setQueue_cycles (i q : Nat) (x : Queue) : (s.setQueue i q x).cycles = s.cycles := rfl
@[simp] theorem State.setQueue_agenda (i q : Nat) (x : Queue) : (s.setQueue i q x).agenda = s.agenda := rfl
@[simp] theorem State.setQueue_cur (i q : Nat) (x : Queue) : (s.setQueue i q x).cur = s.cur := rfl
@[simp] theorem State.setQueue_fresh (i q : Nat) (x : Queue) : (s.setQueue i q x).fresh = s.fresh := rfl
@[simp] theorem State.setQueue_nextId (i q : Nat) (x : Queue) : (s.setQueue i q x).nextId = s.nextId := rfl
@[simp] theorem State.setQueue_mem (i q : Nat) (x : Queue) : (s.setQueue i q x).mem = s.mem := rfl
@[simp] theorem State.setQueue_pois (i q : Nat) (x : Queue) : (s.setQueue i q x).pois = s.pois := rfl
@[simp] theorem State.setQueue_lines (i q : Nat) (x : Queue) : (s.setQueue i q x).lines = s.lines := rfl
@[simp] theorem State.setQueue_tlb (i q : Nat) (x : Queue) : (s.setQueue i q x).tlb = s.tlb := rfl
@[simp] theorem State.setQueue_dirs (i q : Nat) (x : Queue) : (s.setQueue i q x).dirs = s.dirs := rfl
@[simp] theorem State.setQueue_filters (i q : Nat) (x : Queue) : (s.setQueue i q x).filters = s.filters := rfl
@[simp] theorem State.setQueue_incs (i q : Nat) (x : Queue) : (s.setQueue i q x).incs = s.incs := rfl
@[simp] theorem State.setQueue_retired (i q : Nat) (x : Queue) : (s.setQueue i q x).retired = s.retired := rfl
@[simp] theorem State.setQueue_late (i q : Nat) (x : Queue) : (s.setQueue i q x).late = s.late := rfl
@[simp] theorem State.setQueue_recsDue (i q : Nat) (x : Queue) : (s.setQueue i q x).recsDue = s.recsDue := rfl
@[simp] theorem State.setQueue_dirsDue (i q : Nat) (x : Queue) : (s.setQueue i q x).dirsDue = s.dirsDue := rfl
@[simp] theorem State.setQueue_cores (i q : Nat) (x : Queue) : (s.setQueue i q x).cores = s.cores := rfl
@[simp] theorem State.setQueue_groups (i q : Nat) (x : Queue) : (s.setQueue i q x).groups = s.groups := rfl
@[simp] theorem State.setQueue_wgs (i q : Nat) (x : Queue) : (s.setQueue i q x).wgs = s.wgs := rfl
@[simp] theorem State.setQueue_loads (i q : Nat) (x : Queue) : (s.setQueue i q x).loads = s.loads := rfl
@[simp] theorem State.setQueue_writes (i q : Nat) (x : Queue) : (s.setQueue i q x).writes = s.writes := rfl
@[simp] theorem State.setQueue_fences (i q : Nat) (x : Queue) : (s.setQueue i q x).fences = s.fences := rfl
@[simp] theorem State.setQueue_picots (i q : Nat) (x : Queue) : (s.setQueue i q x).picots = s.picots := rfl
@[simp] theorem State.setQueue_copies (i q : Nat) (x : Queue) : (s.setQueue i q x).copies = s.copies := rfl
@[simp] theorem State.setQueue_batches (i q : Nat) (x : Queue) : (s.setQueue i q x).batches = s.batches := rfl
@[simp] theorem State.setQueue_shqs (i q : Nat) (x : Queue) : (s.setQueue i q x).shqs = s.shqs := rfl
@[simp] theorem State.setQueue_rts (i q : Nat) (x : Queue) : (s.setQueue i q x).rts = s.rts := rfl
@[simp] theorem State.setQueue_msgs (i q : Nat) (x : Queue) : (s.setQueue i q x).msgs = s.msgs := rfl
@[simp] theorem State.setQueue_migs (i q : Nat) (x : Queue) : (s.setQueue i q x).migs = s.migs := rfl
@[simp] theorem State.setQueue_launches (i q : Nat) (x : Queue) : (s.setQueue i q x).launches = s.launches := rfl
@[simp] theorem State.setQueue_deferred (i q : Nat) (x : Queue) : (s.setQueue i q x).deferred = s.deferred := rfl
@[simp] theorem State.setQueue_bobs (i q : Nat) (x : Queue) : (s.setQueue i q x).bobs = s.bobs := rfl
@[simp] theorem State.setQueue_rtTurns (i q : Nat) (x : Queue) : (s.setQueue i q x).rtTurns = s.rtTurns := rfl
@[simp] theorem State.setQueue_ctls (i q : Nat) (x : Queue) : (s.setQueue i q x).ctls = s.ctls := rfl
@[simp] theorem State.setQueue_chans (i q : Nat) (x : Queue) : (s.setQueue i q x).chans = s.chans := rfl
@[simp] theorem State.setQueue_acts (i q : Nat) (x : Queue) : (s.setQueue i q x).acts = s.acts := rfl
@[simp] theorem State.setQueue_bwPeriods (i q : Nat) (x : Queue) : (s.setQueue i q x).bwPeriods = s.bwPeriods := rfl
@[simp] theorem State.setQueue_enPeriods (i q : Nat) (x : Queue) : (s.setQueue i q x).enPeriods = s.enPeriods := rfl
@[simp] theorem State.setQueue_enCharges (i q : Nat) (x : Queue) : (s.setQueue i q x).enCharges = s.enCharges := rfl
@[simp] theorem State.setQueue_shade (i q : Nat) (x : Queue) : (s.setQueue i q x).shade = s.shade := rfl
@[simp] theorem State.setQueue_err (i q : Nat) (x : Queue) : (s.setQueue i q x).err = s.err := rfl
@[simp] theorem State.setQueue_boot (i q : Nat) (x : Queue) : (s.setQueue i q x).boot = s.boot := rfl
@[simp] theorem State.setQueue_podid (i q : Nat) (x : Queue) : (s.setQueue i q x).podid = s.podid := rfl
@[simp] theorem State.setQueue_halts (i q : Nat) (x : Queue) : (s.setQueue i q x).halts = s.halts := rfl
@[simp] theorem State.setQueue_out (i q : Nat) (x : Queue) : (s.setQueue i q x).out = s.out := rfl
@[simp] theorem State.modQueue_now (i q : Nat) (f : Queue → Queue) : (s.modQueue i q f).now = s.now := rfl
@[simp] theorem State.modQueue_cycles (i q : Nat) (f : Queue → Queue) : (s.modQueue i q f).cycles = s.cycles := rfl
@[simp] theorem State.modQueue_agenda (i q : Nat) (f : Queue → Queue) : (s.modQueue i q f).agenda = s.agenda := rfl
@[simp] theorem State.modQueue_cur (i q : Nat) (f : Queue → Queue) : (s.modQueue i q f).cur = s.cur := rfl
@[simp] theorem State.modQueue_fresh (i q : Nat) (f : Queue → Queue) : (s.modQueue i q f).fresh = s.fresh := rfl
@[simp] theorem State.modQueue_nextId (i q : Nat) (f : Queue → Queue) : (s.modQueue i q f).nextId = s.nextId := rfl
@[simp] theorem State.modQueue_mem (i q : Nat) (f : Queue → Queue) : (s.modQueue i q f).mem = s.mem := rfl
@[simp] theorem State.modQueue_pois (i q : Nat) (f : Queue → Queue) : (s.modQueue i q f).pois = s.pois := rfl
@[simp] theorem State.modQueue_lines (i q : Nat) (f : Queue → Queue) : (s.modQueue i q f).lines = s.lines := rfl
@[simp] theorem State.modQueue_tlb (i q : Nat) (f : Queue → Queue) : (s.modQueue i q f).tlb = s.tlb := rfl
@[simp] theorem State.modQueue_dirs (i q : Nat) (f : Queue → Queue) : (s.modQueue i q f).dirs = s.dirs := rfl
@[simp] theorem State.modQueue_filters (i q : Nat) (f : Queue → Queue) : (s.modQueue i q f).filters = s.filters := rfl
@[simp] theorem State.modQueue_incs (i q : Nat) (f : Queue → Queue) : (s.modQueue i q f).incs = s.incs := rfl
@[simp] theorem State.modQueue_retired (i q : Nat) (f : Queue → Queue) : (s.modQueue i q f).retired = s.retired := rfl
@[simp] theorem State.modQueue_late (i q : Nat) (f : Queue → Queue) : (s.modQueue i q f).late = s.late := rfl
@[simp] theorem State.modQueue_recsDue (i q : Nat) (f : Queue → Queue) : (s.modQueue i q f).recsDue = s.recsDue := rfl
@[simp] theorem State.modQueue_dirsDue (i q : Nat) (f : Queue → Queue) : (s.modQueue i q f).dirsDue = s.dirsDue := rfl
@[simp] theorem State.modQueue_cores (i q : Nat) (f : Queue → Queue) : (s.modQueue i q f).cores = s.cores := rfl
@[simp] theorem State.modQueue_groups (i q : Nat) (f : Queue → Queue) : (s.modQueue i q f).groups = s.groups := rfl
@[simp] theorem State.modQueue_wgs (i q : Nat) (f : Queue → Queue) : (s.modQueue i q f).wgs = s.wgs := rfl
@[simp] theorem State.modQueue_loads (i q : Nat) (f : Queue → Queue) : (s.modQueue i q f).loads = s.loads := rfl
@[simp] theorem State.modQueue_writes (i q : Nat) (f : Queue → Queue) : (s.modQueue i q f).writes = s.writes := rfl
@[simp] theorem State.modQueue_fences (i q : Nat) (f : Queue → Queue) : (s.modQueue i q f).fences = s.fences := rfl
@[simp] theorem State.modQueue_picots (i q : Nat) (f : Queue → Queue) : (s.modQueue i q f).picots = s.picots := rfl
@[simp] theorem State.modQueue_copies (i q : Nat) (f : Queue → Queue) : (s.modQueue i q f).copies = s.copies := rfl
@[simp] theorem State.modQueue_batches (i q : Nat) (f : Queue → Queue) : (s.modQueue i q f).batches = s.batches := rfl
@[simp] theorem State.modQueue_shqs (i q : Nat) (f : Queue → Queue) : (s.modQueue i q f).shqs = s.shqs := rfl
@[simp] theorem State.modQueue_rts (i q : Nat) (f : Queue → Queue) : (s.modQueue i q f).rts = s.rts := rfl
@[simp] theorem State.modQueue_msgs (i q : Nat) (f : Queue → Queue) : (s.modQueue i q f).msgs = s.msgs := rfl
@[simp] theorem State.modQueue_migs (i q : Nat) (f : Queue → Queue) : (s.modQueue i q f).migs = s.migs := rfl
@[simp] theorem State.modQueue_launches (i q : Nat) (f : Queue → Queue) : (s.modQueue i q f).launches = s.launches := rfl
@[simp] theorem State.modQueue_deferred (i q : Nat) (f : Queue → Queue) : (s.modQueue i q f).deferred = s.deferred := rfl
@[simp] theorem State.modQueue_bobs (i q : Nat) (f : Queue → Queue) : (s.modQueue i q f).bobs = s.bobs := rfl
@[simp] theorem State.modQueue_rtTurns (i q : Nat) (f : Queue → Queue) : (s.modQueue i q f).rtTurns = s.rtTurns := rfl
@[simp] theorem State.modQueue_ctls (i q : Nat) (f : Queue → Queue) : (s.modQueue i q f).ctls = s.ctls := rfl
@[simp] theorem State.modQueue_chans (i q : Nat) (f : Queue → Queue) : (s.modQueue i q f).chans = s.chans := rfl
@[simp] theorem State.modQueue_acts (i q : Nat) (f : Queue → Queue) : (s.modQueue i q f).acts = s.acts := rfl
@[simp] theorem State.modQueue_bwPeriods (i q : Nat) (f : Queue → Queue) : (s.modQueue i q f).bwPeriods = s.bwPeriods := rfl
@[simp] theorem State.modQueue_enPeriods (i q : Nat) (f : Queue → Queue) : (s.modQueue i q f).enPeriods = s.enPeriods := rfl
@[simp] theorem State.modQueue_enCharges (i q : Nat) (f : Queue → Queue) : (s.modQueue i q f).enCharges = s.enCharges := rfl
@[simp] theorem State.modQueue_shade (i q : Nat) (f : Queue → Queue) : (s.modQueue i q f).shade = s.shade := rfl
@[simp] theorem State.modQueue_err (i q : Nat) (f : Queue → Queue) : (s.modQueue i q f).err = s.err := rfl
@[simp] theorem State.modQueue_boot (i q : Nat) (f : Queue → Queue) : (s.modQueue i q f).boot = s.boot := rfl
@[simp] theorem State.modQueue_podid (i q : Nat) (f : Queue → Queue) : (s.modQueue i q f).podid = s.podid := rfl
@[simp] theorem State.modQueue_halts (i q : Nat) (f : Queue → Queue) : (s.modQueue i q f).halts = s.halts := rfl
@[simp] theorem State.modQueue_out (i q : Nat) (f : Queue → Queue) : (s.modQueue i q f).out = s.out := rfl
@[simp] theorem State.setBob_now (k : Nat) (x : Bob) : (s.setBob k x).now = s.now := rfl
@[simp] theorem State.setBob_cycles (k : Nat) (x : Bob) : (s.setBob k x).cycles = s.cycles := rfl
@[simp] theorem State.setBob_agenda (k : Nat) (x : Bob) : (s.setBob k x).agenda = s.agenda := rfl
@[simp] theorem State.setBob_cur (k : Nat) (x : Bob) : (s.setBob k x).cur = s.cur := rfl
@[simp] theorem State.setBob_fresh (k : Nat) (x : Bob) : (s.setBob k x).fresh = s.fresh := rfl
@[simp] theorem State.setBob_nextId (k : Nat) (x : Bob) : (s.setBob k x).nextId = s.nextId := rfl
@[simp] theorem State.setBob_mem (k : Nat) (x : Bob) : (s.setBob k x).mem = s.mem := rfl
@[simp] theorem State.setBob_pois (k : Nat) (x : Bob) : (s.setBob k x).pois = s.pois := rfl
@[simp] theorem State.setBob_lines (k : Nat) (x : Bob) : (s.setBob k x).lines = s.lines := rfl
@[simp] theorem State.setBob_tlb (k : Nat) (x : Bob) : (s.setBob k x).tlb = s.tlb := rfl
@[simp] theorem State.setBob_dirs (k : Nat) (x : Bob) : (s.setBob k x).dirs = s.dirs := rfl
@[simp] theorem State.setBob_filters (k : Nat) (x : Bob) : (s.setBob k x).filters = s.filters := rfl
@[simp] theorem State.setBob_incs (k : Nat) (x : Bob) : (s.setBob k x).incs = s.incs := rfl
@[simp] theorem State.setBob_retired (k : Nat) (x : Bob) : (s.setBob k x).retired = s.retired := rfl
@[simp] theorem State.setBob_late (k : Nat) (x : Bob) : (s.setBob k x).late = s.late := rfl
@[simp] theorem State.setBob_recsDue (k : Nat) (x : Bob) : (s.setBob k x).recsDue = s.recsDue := rfl
@[simp] theorem State.setBob_dirsDue (k : Nat) (x : Bob) : (s.setBob k x).dirsDue = s.dirsDue := rfl
@[simp] theorem State.setBob_cores (k : Nat) (x : Bob) : (s.setBob k x).cores = s.cores := rfl
@[simp] theorem State.setBob_groups (k : Nat) (x : Bob) : (s.setBob k x).groups = s.groups := rfl
@[simp] theorem State.setBob_wgs (k : Nat) (x : Bob) : (s.setBob k x).wgs = s.wgs := rfl
@[simp] theorem State.setBob_loads (k : Nat) (x : Bob) : (s.setBob k x).loads = s.loads := rfl
@[simp] theorem State.setBob_writes (k : Nat) (x : Bob) : (s.setBob k x).writes = s.writes := rfl
@[simp] theorem State.setBob_fences (k : Nat) (x : Bob) : (s.setBob k x).fences = s.fences := rfl
@[simp] theorem State.setBob_picots (k : Nat) (x : Bob) : (s.setBob k x).picots = s.picots := rfl
@[simp] theorem State.setBob_copies (k : Nat) (x : Bob) : (s.setBob k x).copies = s.copies := rfl
@[simp] theorem State.setBob_batches (k : Nat) (x : Bob) : (s.setBob k x).batches = s.batches := rfl
@[simp] theorem State.setBob_shqs (k : Nat) (x : Bob) : (s.setBob k x).shqs = s.shqs := rfl
@[simp] theorem State.setBob_rts (k : Nat) (x : Bob) : (s.setBob k x).rts = s.rts := rfl
@[simp] theorem State.setBob_msgs (k : Nat) (x : Bob) : (s.setBob k x).msgs = s.msgs := rfl
@[simp] theorem State.setBob_migs (k : Nat) (x : Bob) : (s.setBob k x).migs = s.migs := rfl
@[simp] theorem State.setBob_launches (k : Nat) (x : Bob) : (s.setBob k x).launches = s.launches := rfl
@[simp] theorem State.setBob_deferred (k : Nat) (x : Bob) : (s.setBob k x).deferred = s.deferred := rfl
@[simp] theorem State.setBob_fns (k : Nat) (x : Bob) : (s.setBob k x).fns = s.fns := rfl
@[simp] theorem State.setBob_rtTurns (k : Nat) (x : Bob) : (s.setBob k x).rtTurns = s.rtTurns := rfl
@[simp] theorem State.setBob_ctls (k : Nat) (x : Bob) : (s.setBob k x).ctls = s.ctls := rfl
@[simp] theorem State.setBob_chans (k : Nat) (x : Bob) : (s.setBob k x).chans = s.chans := rfl
@[simp] theorem State.setBob_acts (k : Nat) (x : Bob) : (s.setBob k x).acts = s.acts := rfl
@[simp] theorem State.setBob_bwPeriods (k : Nat) (x : Bob) : (s.setBob k x).bwPeriods = s.bwPeriods := rfl
@[simp] theorem State.setBob_enPeriods (k : Nat) (x : Bob) : (s.setBob k x).enPeriods = s.enPeriods := rfl
@[simp] theorem State.setBob_enCharges (k : Nat) (x : Bob) : (s.setBob k x).enCharges = s.enCharges := rfl
@[simp] theorem State.setBob_shade (k : Nat) (x : Bob) : (s.setBob k x).shade = s.shade := rfl
@[simp] theorem State.setBob_err (k : Nat) (x : Bob) : (s.setBob k x).err = s.err := rfl
@[simp] theorem State.setBob_boot (k : Nat) (x : Bob) : (s.setBob k x).boot = s.boot := rfl
@[simp] theorem State.setBob_podid (k : Nat) (x : Bob) : (s.setBob k x).podid = s.podid := rfl
@[simp] theorem State.setBob_halts (k : Nat) (x : Bob) : (s.setBob k x).halts = s.halts := rfl
@[simp] theorem State.setBob_out (k : Nat) (x : Bob) : (s.setBob k x).out = s.out := rfl
@[simp] theorem State.modBob_now (k : Nat) (f : Bob → Bob) : (s.modBob k f).now = s.now := rfl
@[simp] theorem State.modBob_cycles (k : Nat) (f : Bob → Bob) : (s.modBob k f).cycles = s.cycles := rfl
@[simp] theorem State.modBob_agenda (k : Nat) (f : Bob → Bob) : (s.modBob k f).agenda = s.agenda := rfl
@[simp] theorem State.modBob_cur (k : Nat) (f : Bob → Bob) : (s.modBob k f).cur = s.cur := rfl
@[simp] theorem State.modBob_fresh (k : Nat) (f : Bob → Bob) : (s.modBob k f).fresh = s.fresh := rfl
@[simp] theorem State.modBob_nextId (k : Nat) (f : Bob → Bob) : (s.modBob k f).nextId = s.nextId := rfl
@[simp] theorem State.modBob_mem (k : Nat) (f : Bob → Bob) : (s.modBob k f).mem = s.mem := rfl
@[simp] theorem State.modBob_pois (k : Nat) (f : Bob → Bob) : (s.modBob k f).pois = s.pois := rfl
@[simp] theorem State.modBob_lines (k : Nat) (f : Bob → Bob) : (s.modBob k f).lines = s.lines := rfl
@[simp] theorem State.modBob_tlb (k : Nat) (f : Bob → Bob) : (s.modBob k f).tlb = s.tlb := rfl
@[simp] theorem State.modBob_dirs (k : Nat) (f : Bob → Bob) : (s.modBob k f).dirs = s.dirs := rfl
@[simp] theorem State.modBob_filters (k : Nat) (f : Bob → Bob) : (s.modBob k f).filters = s.filters := rfl
@[simp] theorem State.modBob_incs (k : Nat) (f : Bob → Bob) : (s.modBob k f).incs = s.incs := rfl
@[simp] theorem State.modBob_retired (k : Nat) (f : Bob → Bob) : (s.modBob k f).retired = s.retired := rfl
@[simp] theorem State.modBob_late (k : Nat) (f : Bob → Bob) : (s.modBob k f).late = s.late := rfl
@[simp] theorem State.modBob_recsDue (k : Nat) (f : Bob → Bob) : (s.modBob k f).recsDue = s.recsDue := rfl
@[simp] theorem State.modBob_dirsDue (k : Nat) (f : Bob → Bob) : (s.modBob k f).dirsDue = s.dirsDue := rfl
@[simp] theorem State.modBob_cores (k : Nat) (f : Bob → Bob) : (s.modBob k f).cores = s.cores := rfl
@[simp] theorem State.modBob_groups (k : Nat) (f : Bob → Bob) : (s.modBob k f).groups = s.groups := rfl
@[simp] theorem State.modBob_wgs (k : Nat) (f : Bob → Bob) : (s.modBob k f).wgs = s.wgs := rfl
@[simp] theorem State.modBob_loads (k : Nat) (f : Bob → Bob) : (s.modBob k f).loads = s.loads := rfl
@[simp] theorem State.modBob_writes (k : Nat) (f : Bob → Bob) : (s.modBob k f).writes = s.writes := rfl
@[simp] theorem State.modBob_fences (k : Nat) (f : Bob → Bob) : (s.modBob k f).fences = s.fences := rfl
@[simp] theorem State.modBob_picots (k : Nat) (f : Bob → Bob) : (s.modBob k f).picots = s.picots := rfl
@[simp] theorem State.modBob_copies (k : Nat) (f : Bob → Bob) : (s.modBob k f).copies = s.copies := rfl
@[simp] theorem State.modBob_batches (k : Nat) (f : Bob → Bob) : (s.modBob k f).batches = s.batches := rfl
@[simp] theorem State.modBob_shqs (k : Nat) (f : Bob → Bob) : (s.modBob k f).shqs = s.shqs := rfl
@[simp] theorem State.modBob_rts (k : Nat) (f : Bob → Bob) : (s.modBob k f).rts = s.rts := rfl
@[simp] theorem State.modBob_msgs (k : Nat) (f : Bob → Bob) : (s.modBob k f).msgs = s.msgs := rfl
@[simp] theorem State.modBob_migs (k : Nat) (f : Bob → Bob) : (s.modBob k f).migs = s.migs := rfl
@[simp] theorem State.modBob_launches (k : Nat) (f : Bob → Bob) : (s.modBob k f).launches = s.launches := rfl
@[simp] theorem State.modBob_deferred (k : Nat) (f : Bob → Bob) : (s.modBob k f).deferred = s.deferred := rfl
@[simp] theorem State.modBob_fns (k : Nat) (f : Bob → Bob) : (s.modBob k f).fns = s.fns := rfl
@[simp] theorem State.modBob_rtTurns (k : Nat) (f : Bob → Bob) : (s.modBob k f).rtTurns = s.rtTurns := rfl
@[simp] theorem State.modBob_ctls (k : Nat) (f : Bob → Bob) : (s.modBob k f).ctls = s.ctls := rfl
@[simp] theorem State.modBob_chans (k : Nat) (f : Bob → Bob) : (s.modBob k f).chans = s.chans := rfl
@[simp] theorem State.modBob_acts (k : Nat) (f : Bob → Bob) : (s.modBob k f).acts = s.acts := rfl
@[simp] theorem State.modBob_bwPeriods (k : Nat) (f : Bob → Bob) : (s.modBob k f).bwPeriods = s.bwPeriods := rfl
@[simp] theorem State.modBob_enPeriods (k : Nat) (f : Bob → Bob) : (s.modBob k f).enPeriods = s.enPeriods := rfl
@[simp] theorem State.modBob_enCharges (k : Nat) (f : Bob → Bob) : (s.modBob k f).enCharges = s.enCharges := rfl
@[simp] theorem State.modBob_shade (k : Nat) (f : Bob → Bob) : (s.modBob k f).shade = s.shade := rfl
@[simp] theorem State.modBob_err (k : Nat) (f : Bob → Bob) : (s.modBob k f).err = s.err := rfl
@[simp] theorem State.modBob_boot (k : Nat) (f : Bob → Bob) : (s.modBob k f).boot = s.boot := rfl
@[simp] theorem State.modBob_podid (k : Nat) (f : Bob → Bob) : (s.modBob k f).podid = s.podid := rfl
@[simp] theorem State.modBob_halts (k : Nat) (f : Bob → Bob) : (s.modBob k f).halts = s.halts := rfl
@[simp] theorem State.modBob_out (k : Nat) (f : Bob → Bob) : (s.modBob k f).out = s.out := rfl
@[simp] theorem State.setCtl_now (i : Nat) (x : Ctl) : (s.setCtl i x).now = s.now := rfl
@[simp] theorem State.setCtl_cycles (i : Nat) (x : Ctl) : (s.setCtl i x).cycles = s.cycles := rfl
@[simp] theorem State.setCtl_agenda (i : Nat) (x : Ctl) : (s.setCtl i x).agenda = s.agenda := rfl
@[simp] theorem State.setCtl_cur (i : Nat) (x : Ctl) : (s.setCtl i x).cur = s.cur := rfl
@[simp] theorem State.setCtl_fresh (i : Nat) (x : Ctl) : (s.setCtl i x).fresh = s.fresh := rfl
@[simp] theorem State.setCtl_nextId (i : Nat) (x : Ctl) : (s.setCtl i x).nextId = s.nextId := rfl
@[simp] theorem State.setCtl_mem (i : Nat) (x : Ctl) : (s.setCtl i x).mem = s.mem := rfl
@[simp] theorem State.setCtl_pois (i : Nat) (x : Ctl) : (s.setCtl i x).pois = s.pois := rfl
@[simp] theorem State.setCtl_lines (i : Nat) (x : Ctl) : (s.setCtl i x).lines = s.lines := rfl
@[simp] theorem State.setCtl_tlb (i : Nat) (x : Ctl) : (s.setCtl i x).tlb = s.tlb := rfl
@[simp] theorem State.setCtl_dirs (i : Nat) (x : Ctl) : (s.setCtl i x).dirs = s.dirs := rfl
@[simp] theorem State.setCtl_filters (i : Nat) (x : Ctl) : (s.setCtl i x).filters = s.filters := rfl
@[simp] theorem State.setCtl_incs (i : Nat) (x : Ctl) : (s.setCtl i x).incs = s.incs := rfl
@[simp] theorem State.setCtl_retired (i : Nat) (x : Ctl) : (s.setCtl i x).retired = s.retired := rfl
@[simp] theorem State.setCtl_late (i : Nat) (x : Ctl) : (s.setCtl i x).late = s.late := rfl
@[simp] theorem State.setCtl_recsDue (i : Nat) (x : Ctl) : (s.setCtl i x).recsDue = s.recsDue := rfl
@[simp] theorem State.setCtl_dirsDue (i : Nat) (x : Ctl) : (s.setCtl i x).dirsDue = s.dirsDue := rfl
@[simp] theorem State.setCtl_cores (i : Nat) (x : Ctl) : (s.setCtl i x).cores = s.cores := rfl
@[simp] theorem State.setCtl_groups (i : Nat) (x : Ctl) : (s.setCtl i x).groups = s.groups := rfl
@[simp] theorem State.setCtl_wgs (i : Nat) (x : Ctl) : (s.setCtl i x).wgs = s.wgs := rfl
@[simp] theorem State.setCtl_loads (i : Nat) (x : Ctl) : (s.setCtl i x).loads = s.loads := rfl
@[simp] theorem State.setCtl_writes (i : Nat) (x : Ctl) : (s.setCtl i x).writes = s.writes := rfl
@[simp] theorem State.setCtl_fences (i : Nat) (x : Ctl) : (s.setCtl i x).fences = s.fences := rfl
@[simp] theorem State.setCtl_picots (i : Nat) (x : Ctl) : (s.setCtl i x).picots = s.picots := rfl
@[simp] theorem State.setCtl_copies (i : Nat) (x : Ctl) : (s.setCtl i x).copies = s.copies := rfl
@[simp] theorem State.setCtl_batches (i : Nat) (x : Ctl) : (s.setCtl i x).batches = s.batches := rfl
@[simp] theorem State.setCtl_shqs (i : Nat) (x : Ctl) : (s.setCtl i x).shqs = s.shqs := rfl
@[simp] theorem State.setCtl_rts (i : Nat) (x : Ctl) : (s.setCtl i x).rts = s.rts := rfl
@[simp] theorem State.setCtl_msgs (i : Nat) (x : Ctl) : (s.setCtl i x).msgs = s.msgs := rfl
@[simp] theorem State.setCtl_migs (i : Nat) (x : Ctl) : (s.setCtl i x).migs = s.migs := rfl
@[simp] theorem State.setCtl_launches (i : Nat) (x : Ctl) : (s.setCtl i x).launches = s.launches := rfl
@[simp] theorem State.setCtl_deferred (i : Nat) (x : Ctl) : (s.setCtl i x).deferred = s.deferred := rfl
@[simp] theorem State.setCtl_fns (i : Nat) (x : Ctl) : (s.setCtl i x).fns = s.fns := rfl
@[simp] theorem State.setCtl_bobs (i : Nat) (x : Ctl) : (s.setCtl i x).bobs = s.bobs := rfl
@[simp] theorem State.setCtl_rtTurns (i : Nat) (x : Ctl) : (s.setCtl i x).rtTurns = s.rtTurns := rfl
@[simp] theorem State.setCtl_chans (i : Nat) (x : Ctl) : (s.setCtl i x).chans = s.chans := rfl
@[simp] theorem State.setCtl_acts (i : Nat) (x : Ctl) : (s.setCtl i x).acts = s.acts := rfl
@[simp] theorem State.setCtl_bwPeriods (i : Nat) (x : Ctl) : (s.setCtl i x).bwPeriods = s.bwPeriods := rfl
@[simp] theorem State.setCtl_enPeriods (i : Nat) (x : Ctl) : (s.setCtl i x).enPeriods = s.enPeriods := rfl
@[simp] theorem State.setCtl_enCharges (i : Nat) (x : Ctl) : (s.setCtl i x).enCharges = s.enCharges := rfl
@[simp] theorem State.setCtl_shade (i : Nat) (x : Ctl) : (s.setCtl i x).shade = s.shade := rfl
@[simp] theorem State.setCtl_err (i : Nat) (x : Ctl) : (s.setCtl i x).err = s.err := rfl
@[simp] theorem State.setCtl_boot (i : Nat) (x : Ctl) : (s.setCtl i x).boot = s.boot := rfl
@[simp] theorem State.setCtl_podid (i : Nat) (x : Ctl) : (s.setCtl i x).podid = s.podid := rfl
@[simp] theorem State.setCtl_halts (i : Nat) (x : Ctl) : (s.setCtl i x).halts = s.halts := rfl
@[simp] theorem State.setCtl_out (i : Nat) (x : Ctl) : (s.setCtl i x).out = s.out := rfl
@[simp] theorem State.modCtl_now (i : Nat) (f : Ctl → Ctl) : (s.modCtl i f).now = s.now := rfl
@[simp] theorem State.modCtl_cycles (i : Nat) (f : Ctl → Ctl) : (s.modCtl i f).cycles = s.cycles := rfl
@[simp] theorem State.modCtl_agenda (i : Nat) (f : Ctl → Ctl) : (s.modCtl i f).agenda = s.agenda := rfl
@[simp] theorem State.modCtl_cur (i : Nat) (f : Ctl → Ctl) : (s.modCtl i f).cur = s.cur := rfl
@[simp] theorem State.modCtl_fresh (i : Nat) (f : Ctl → Ctl) : (s.modCtl i f).fresh = s.fresh := rfl
@[simp] theorem State.modCtl_nextId (i : Nat) (f : Ctl → Ctl) : (s.modCtl i f).nextId = s.nextId := rfl
@[simp] theorem State.modCtl_mem (i : Nat) (f : Ctl → Ctl) : (s.modCtl i f).mem = s.mem := rfl
@[simp] theorem State.modCtl_pois (i : Nat) (f : Ctl → Ctl) : (s.modCtl i f).pois = s.pois := rfl
@[simp] theorem State.modCtl_lines (i : Nat) (f : Ctl → Ctl) : (s.modCtl i f).lines = s.lines := rfl
@[simp] theorem State.modCtl_tlb (i : Nat) (f : Ctl → Ctl) : (s.modCtl i f).tlb = s.tlb := rfl
@[simp] theorem State.modCtl_dirs (i : Nat) (f : Ctl → Ctl) : (s.modCtl i f).dirs = s.dirs := rfl
@[simp] theorem State.modCtl_filters (i : Nat) (f : Ctl → Ctl) : (s.modCtl i f).filters = s.filters := rfl
@[simp] theorem State.modCtl_incs (i : Nat) (f : Ctl → Ctl) : (s.modCtl i f).incs = s.incs := rfl
@[simp] theorem State.modCtl_retired (i : Nat) (f : Ctl → Ctl) : (s.modCtl i f).retired = s.retired := rfl
@[simp] theorem State.modCtl_late (i : Nat) (f : Ctl → Ctl) : (s.modCtl i f).late = s.late := rfl
@[simp] theorem State.modCtl_recsDue (i : Nat) (f : Ctl → Ctl) : (s.modCtl i f).recsDue = s.recsDue := rfl
@[simp] theorem State.modCtl_dirsDue (i : Nat) (f : Ctl → Ctl) : (s.modCtl i f).dirsDue = s.dirsDue := rfl
@[simp] theorem State.modCtl_cores (i : Nat) (f : Ctl → Ctl) : (s.modCtl i f).cores = s.cores := rfl
@[simp] theorem State.modCtl_groups (i : Nat) (f : Ctl → Ctl) : (s.modCtl i f).groups = s.groups := rfl
@[simp] theorem State.modCtl_wgs (i : Nat) (f : Ctl → Ctl) : (s.modCtl i f).wgs = s.wgs := rfl
@[simp] theorem State.modCtl_loads (i : Nat) (f : Ctl → Ctl) : (s.modCtl i f).loads = s.loads := rfl
@[simp] theorem State.modCtl_writes (i : Nat) (f : Ctl → Ctl) : (s.modCtl i f).writes = s.writes := rfl
@[simp] theorem State.modCtl_fences (i : Nat) (f : Ctl → Ctl) : (s.modCtl i f).fences = s.fences := rfl
@[simp] theorem State.modCtl_picots (i : Nat) (f : Ctl → Ctl) : (s.modCtl i f).picots = s.picots := rfl
@[simp] theorem State.modCtl_copies (i : Nat) (f : Ctl → Ctl) : (s.modCtl i f).copies = s.copies := rfl
@[simp] theorem State.modCtl_batches (i : Nat) (f : Ctl → Ctl) : (s.modCtl i f).batches = s.batches := rfl
@[simp] theorem State.modCtl_shqs (i : Nat) (f : Ctl → Ctl) : (s.modCtl i f).shqs = s.shqs := rfl
@[simp] theorem State.modCtl_rts (i : Nat) (f : Ctl → Ctl) : (s.modCtl i f).rts = s.rts := rfl
@[simp] theorem State.modCtl_msgs (i : Nat) (f : Ctl → Ctl) : (s.modCtl i f).msgs = s.msgs := rfl
@[simp] theorem State.modCtl_migs (i : Nat) (f : Ctl → Ctl) : (s.modCtl i f).migs = s.migs := rfl
@[simp] theorem State.modCtl_launches (i : Nat) (f : Ctl → Ctl) : (s.modCtl i f).launches = s.launches := rfl
@[simp] theorem State.modCtl_deferred (i : Nat) (f : Ctl → Ctl) : (s.modCtl i f).deferred = s.deferred := rfl
@[simp] theorem State.modCtl_fns (i : Nat) (f : Ctl → Ctl) : (s.modCtl i f).fns = s.fns := rfl
@[simp] theorem State.modCtl_bobs (i : Nat) (f : Ctl → Ctl) : (s.modCtl i f).bobs = s.bobs := rfl
@[simp] theorem State.modCtl_rtTurns (i : Nat) (f : Ctl → Ctl) : (s.modCtl i f).rtTurns = s.rtTurns := rfl
@[simp] theorem State.modCtl_chans (i : Nat) (f : Ctl → Ctl) : (s.modCtl i f).chans = s.chans := rfl
@[simp] theorem State.modCtl_acts (i : Nat) (f : Ctl → Ctl) : (s.modCtl i f).acts = s.acts := rfl
@[simp] theorem State.modCtl_bwPeriods (i : Nat) (f : Ctl → Ctl) : (s.modCtl i f).bwPeriods = s.bwPeriods := rfl
@[simp] theorem State.modCtl_enPeriods (i : Nat) (f : Ctl → Ctl) : (s.modCtl i f).enPeriods = s.enPeriods := rfl
@[simp] theorem State.modCtl_enCharges (i : Nat) (f : Ctl → Ctl) : (s.modCtl i f).enCharges = s.enCharges := rfl
@[simp] theorem State.modCtl_shade (i : Nat) (f : Ctl → Ctl) : (s.modCtl i f).shade = s.shade := rfl
@[simp] theorem State.modCtl_err (i : Nat) (f : Ctl → Ctl) : (s.modCtl i f).err = s.err := rfl
@[simp] theorem State.modCtl_boot (i : Nat) (f : Ctl → Ctl) : (s.modCtl i f).boot = s.boot := rfl
@[simp] theorem State.modCtl_podid (i : Nat) (f : Ctl → Ctl) : (s.modCtl i f).podid = s.podid := rfl
@[simp] theorem State.modCtl_halts (i : Nat) (f : Ctl → Ctl) : (s.modCtl i f).halts = s.halts := rfl
@[simp] theorem State.modCtl_out (i : Nat) (f : Ctl → Ctl) : (s.modCtl i f).out = s.out := rfl
@[simp] theorem State.setGroup_now (i : Nat) (x : Group) : (s.setGroup i x).now = s.now := rfl
@[simp] theorem State.setGroup_cycles (i : Nat) (x : Group) : (s.setGroup i x).cycles = s.cycles := rfl
@[simp] theorem State.setGroup_agenda (i : Nat) (x : Group) : (s.setGroup i x).agenda = s.agenda := rfl
@[simp] theorem State.setGroup_cur (i : Nat) (x : Group) : (s.setGroup i x).cur = s.cur := rfl
@[simp] theorem State.setGroup_fresh (i : Nat) (x : Group) : (s.setGroup i x).fresh = s.fresh := rfl
@[simp] theorem State.setGroup_nextId (i : Nat) (x : Group) : (s.setGroup i x).nextId = s.nextId := rfl
@[simp] theorem State.setGroup_mem (i : Nat) (x : Group) : (s.setGroup i x).mem = s.mem := rfl
@[simp] theorem State.setGroup_pois (i : Nat) (x : Group) : (s.setGroup i x).pois = s.pois := rfl
@[simp] theorem State.setGroup_lines (i : Nat) (x : Group) : (s.setGroup i x).lines = s.lines := rfl
@[simp] theorem State.setGroup_tlb (i : Nat) (x : Group) : (s.setGroup i x).tlb = s.tlb := rfl
@[simp] theorem State.setGroup_dirs (i : Nat) (x : Group) : (s.setGroup i x).dirs = s.dirs := rfl
@[simp] theorem State.setGroup_filters (i : Nat) (x : Group) : (s.setGroup i x).filters = s.filters := rfl
@[simp] theorem State.setGroup_incs (i : Nat) (x : Group) : (s.setGroup i x).incs = s.incs := rfl
@[simp] theorem State.setGroup_retired (i : Nat) (x : Group) : (s.setGroup i x).retired = s.retired := rfl
@[simp] theorem State.setGroup_late (i : Nat) (x : Group) : (s.setGroup i x).late = s.late := rfl
@[simp] theorem State.setGroup_recsDue (i : Nat) (x : Group) : (s.setGroup i x).recsDue = s.recsDue := rfl
@[simp] theorem State.setGroup_dirsDue (i : Nat) (x : Group) : (s.setGroup i x).dirsDue = s.dirsDue := rfl
@[simp] theorem State.setGroup_cores (i : Nat) (x : Group) : (s.setGroup i x).cores = s.cores := rfl
@[simp] theorem State.setGroup_wgs (i : Nat) (x : Group) : (s.setGroup i x).wgs = s.wgs := rfl
@[simp] theorem State.setGroup_loads (i : Nat) (x : Group) : (s.setGroup i x).loads = s.loads := rfl
@[simp] theorem State.setGroup_writes (i : Nat) (x : Group) : (s.setGroup i x).writes = s.writes := rfl
@[simp] theorem State.setGroup_fences (i : Nat) (x : Group) : (s.setGroup i x).fences = s.fences := rfl
@[simp] theorem State.setGroup_picots (i : Nat) (x : Group) : (s.setGroup i x).picots = s.picots := rfl
@[simp] theorem State.setGroup_copies (i : Nat) (x : Group) : (s.setGroup i x).copies = s.copies := rfl
@[simp] theorem State.setGroup_batches (i : Nat) (x : Group) : (s.setGroup i x).batches = s.batches := rfl
@[simp] theorem State.setGroup_shqs (i : Nat) (x : Group) : (s.setGroup i x).shqs = s.shqs := rfl
@[simp] theorem State.setGroup_rts (i : Nat) (x : Group) : (s.setGroup i x).rts = s.rts := rfl
@[simp] theorem State.setGroup_msgs (i : Nat) (x : Group) : (s.setGroup i x).msgs = s.msgs := rfl
@[simp] theorem State.setGroup_migs (i : Nat) (x : Group) : (s.setGroup i x).migs = s.migs := rfl
@[simp] theorem State.setGroup_launches (i : Nat) (x : Group) : (s.setGroup i x).launches = s.launches := rfl
@[simp] theorem State.setGroup_deferred (i : Nat) (x : Group) : (s.setGroup i x).deferred = s.deferred := rfl
@[simp] theorem State.setGroup_fns (i : Nat) (x : Group) : (s.setGroup i x).fns = s.fns := rfl
@[simp] theorem State.setGroup_bobs (i : Nat) (x : Group) : (s.setGroup i x).bobs = s.bobs := rfl
@[simp] theorem State.setGroup_rtTurns (i : Nat) (x : Group) : (s.setGroup i x).rtTurns = s.rtTurns := rfl
@[simp] theorem State.setGroup_ctls (i : Nat) (x : Group) : (s.setGroup i x).ctls = s.ctls := rfl
@[simp] theorem State.setGroup_chans (i : Nat) (x : Group) : (s.setGroup i x).chans = s.chans := rfl
@[simp] theorem State.setGroup_acts (i : Nat) (x : Group) : (s.setGroup i x).acts = s.acts := rfl
@[simp] theorem State.setGroup_bwPeriods (i : Nat) (x : Group) : (s.setGroup i x).bwPeriods = s.bwPeriods := rfl
@[simp] theorem State.setGroup_enPeriods (i : Nat) (x : Group) : (s.setGroup i x).enPeriods = s.enPeriods := rfl
@[simp] theorem State.setGroup_enCharges (i : Nat) (x : Group) : (s.setGroup i x).enCharges = s.enCharges := rfl
@[simp] theorem State.setGroup_shade (i : Nat) (x : Group) : (s.setGroup i x).shade = s.shade := rfl
@[simp] theorem State.setGroup_err (i : Nat) (x : Group) : (s.setGroup i x).err = s.err := rfl
@[simp] theorem State.setGroup_boot (i : Nat) (x : Group) : (s.setGroup i x).boot = s.boot := rfl
@[simp] theorem State.setGroup_podid (i : Nat) (x : Group) : (s.setGroup i x).podid = s.podid := rfl
@[simp] theorem State.setGroup_halts (i : Nat) (x : Group) : (s.setGroup i x).halts = s.halts := rfl
@[simp] theorem State.setGroup_out (i : Nat) (x : Group) : (s.setGroup i x).out = s.out := rfl
@[simp] theorem State.modGroup_now (i : Nat) (f : Group → Group) : (s.modGroup i f).now = s.now := rfl
@[simp] theorem State.modGroup_cycles (i : Nat) (f : Group → Group) : (s.modGroup i f).cycles = s.cycles := rfl
@[simp] theorem State.modGroup_agenda (i : Nat) (f : Group → Group) : (s.modGroup i f).agenda = s.agenda := rfl
@[simp] theorem State.modGroup_cur (i : Nat) (f : Group → Group) : (s.modGroup i f).cur = s.cur := rfl
@[simp] theorem State.modGroup_fresh (i : Nat) (f : Group → Group) : (s.modGroup i f).fresh = s.fresh := rfl
@[simp] theorem State.modGroup_nextId (i : Nat) (f : Group → Group) : (s.modGroup i f).nextId = s.nextId := rfl
@[simp] theorem State.modGroup_mem (i : Nat) (f : Group → Group) : (s.modGroup i f).mem = s.mem := rfl
@[simp] theorem State.modGroup_pois (i : Nat) (f : Group → Group) : (s.modGroup i f).pois = s.pois := rfl
@[simp] theorem State.modGroup_lines (i : Nat) (f : Group → Group) : (s.modGroup i f).lines = s.lines := rfl
@[simp] theorem State.modGroup_tlb (i : Nat) (f : Group → Group) : (s.modGroup i f).tlb = s.tlb := rfl
@[simp] theorem State.modGroup_dirs (i : Nat) (f : Group → Group) : (s.modGroup i f).dirs = s.dirs := rfl
@[simp] theorem State.modGroup_filters (i : Nat) (f : Group → Group) : (s.modGroup i f).filters = s.filters := rfl
@[simp] theorem State.modGroup_incs (i : Nat) (f : Group → Group) : (s.modGroup i f).incs = s.incs := rfl
@[simp] theorem State.modGroup_retired (i : Nat) (f : Group → Group) : (s.modGroup i f).retired = s.retired := rfl
@[simp] theorem State.modGroup_late (i : Nat) (f : Group → Group) : (s.modGroup i f).late = s.late := rfl
@[simp] theorem State.modGroup_recsDue (i : Nat) (f : Group → Group) : (s.modGroup i f).recsDue = s.recsDue := rfl
@[simp] theorem State.modGroup_dirsDue (i : Nat) (f : Group → Group) : (s.modGroup i f).dirsDue = s.dirsDue := rfl
@[simp] theorem State.modGroup_cores (i : Nat) (f : Group → Group) : (s.modGroup i f).cores = s.cores := rfl
@[simp] theorem State.modGroup_wgs (i : Nat) (f : Group → Group) : (s.modGroup i f).wgs = s.wgs := rfl
@[simp] theorem State.modGroup_loads (i : Nat) (f : Group → Group) : (s.modGroup i f).loads = s.loads := rfl
@[simp] theorem State.modGroup_writes (i : Nat) (f : Group → Group) : (s.modGroup i f).writes = s.writes := rfl
@[simp] theorem State.modGroup_fences (i : Nat) (f : Group → Group) : (s.modGroup i f).fences = s.fences := rfl
@[simp] theorem State.modGroup_picots (i : Nat) (f : Group → Group) : (s.modGroup i f).picots = s.picots := rfl
@[simp] theorem State.modGroup_copies (i : Nat) (f : Group → Group) : (s.modGroup i f).copies = s.copies := rfl
@[simp] theorem State.modGroup_batches (i : Nat) (f : Group → Group) : (s.modGroup i f).batches = s.batches := rfl
@[simp] theorem State.modGroup_shqs (i : Nat) (f : Group → Group) : (s.modGroup i f).shqs = s.shqs := rfl
@[simp] theorem State.modGroup_rts (i : Nat) (f : Group → Group) : (s.modGroup i f).rts = s.rts := rfl
@[simp] theorem State.modGroup_msgs (i : Nat) (f : Group → Group) : (s.modGroup i f).msgs = s.msgs := rfl
@[simp] theorem State.modGroup_migs (i : Nat) (f : Group → Group) : (s.modGroup i f).migs = s.migs := rfl
@[simp] theorem State.modGroup_launches (i : Nat) (f : Group → Group) : (s.modGroup i f).launches = s.launches := rfl
@[simp] theorem State.modGroup_deferred (i : Nat) (f : Group → Group) : (s.modGroup i f).deferred = s.deferred := rfl
@[simp] theorem State.modGroup_fns (i : Nat) (f : Group → Group) : (s.modGroup i f).fns = s.fns := rfl
@[simp] theorem State.modGroup_bobs (i : Nat) (f : Group → Group) : (s.modGroup i f).bobs = s.bobs := rfl
@[simp] theorem State.modGroup_rtTurns (i : Nat) (f : Group → Group) : (s.modGroup i f).rtTurns = s.rtTurns := rfl
@[simp] theorem State.modGroup_ctls (i : Nat) (f : Group → Group) : (s.modGroup i f).ctls = s.ctls := rfl
@[simp] theorem State.modGroup_chans (i : Nat) (f : Group → Group) : (s.modGroup i f).chans = s.chans := rfl
@[simp] theorem State.modGroup_acts (i : Nat) (f : Group → Group) : (s.modGroup i f).acts = s.acts := rfl
@[simp] theorem State.modGroup_bwPeriods (i : Nat) (f : Group → Group) : (s.modGroup i f).bwPeriods = s.bwPeriods := rfl
@[simp] theorem State.modGroup_enPeriods (i : Nat) (f : Group → Group) : (s.modGroup i f).enPeriods = s.enPeriods := rfl
@[simp] theorem State.modGroup_enCharges (i : Nat) (f : Group → Group) : (s.modGroup i f).enCharges = s.enCharges := rfl
@[simp] theorem State.modGroup_shade (i : Nat) (f : Group → Group) : (s.modGroup i f).shade = s.shade := rfl
@[simp] theorem State.modGroup_err (i : Nat) (f : Group → Group) : (s.modGroup i f).err = s.err := rfl
@[simp] theorem State.modGroup_boot (i : Nat) (f : Group → Group) : (s.modGroup i f).boot = s.boot := rfl
@[simp] theorem State.modGroup_podid (i : Nat) (f : Group → Group) : (s.modGroup i f).podid = s.podid := rfl
@[simp] theorem State.modGroup_halts (i : Nat) (f : Group → Group) : (s.modGroup i f).halts = s.halts := rfl
@[simp] theorem State.modGroup_out (i : Nat) (f : Group → Group) : (s.modGroup i f).out = s.out := rfl
@[simp] theorem State.delGroup_now (i : Nat) : (s.delGroup i).now = s.now := rfl
@[simp] theorem State.delGroup_cycles (i : Nat) : (s.delGroup i).cycles = s.cycles := rfl
@[simp] theorem State.delGroup_agenda (i : Nat) : (s.delGroup i).agenda = s.agenda := rfl
@[simp] theorem State.delGroup_cur (i : Nat) : (s.delGroup i).cur = s.cur := rfl
@[simp] theorem State.delGroup_fresh (i : Nat) : (s.delGroup i).fresh = s.fresh := rfl
@[simp] theorem State.delGroup_nextId (i : Nat) : (s.delGroup i).nextId = s.nextId := rfl
@[simp] theorem State.delGroup_mem (i : Nat) : (s.delGroup i).mem = s.mem := rfl
@[simp] theorem State.delGroup_pois (i : Nat) : (s.delGroup i).pois = s.pois := rfl
@[simp] theorem State.delGroup_lines (i : Nat) : (s.delGroup i).lines = s.lines := rfl
@[simp] theorem State.delGroup_tlb (i : Nat) : (s.delGroup i).tlb = s.tlb := rfl
@[simp] theorem State.delGroup_dirs (i : Nat) : (s.delGroup i).dirs = s.dirs := rfl
@[simp] theorem State.delGroup_filters (i : Nat) : (s.delGroup i).filters = s.filters := rfl
@[simp] theorem State.delGroup_incs (i : Nat) : (s.delGroup i).incs = s.incs := rfl
@[simp] theorem State.delGroup_retired (i : Nat) : (s.delGroup i).retired = s.retired := rfl
@[simp] theorem State.delGroup_late (i : Nat) : (s.delGroup i).late = s.late := rfl
@[simp] theorem State.delGroup_recsDue (i : Nat) : (s.delGroup i).recsDue = s.recsDue := rfl
@[simp] theorem State.delGroup_dirsDue (i : Nat) : (s.delGroup i).dirsDue = s.dirsDue := rfl
@[simp] theorem State.delGroup_cores (i : Nat) : (s.delGroup i).cores = s.cores := rfl
@[simp] theorem State.delGroup_wgs (i : Nat) : (s.delGroup i).wgs = s.wgs := rfl
@[simp] theorem State.delGroup_loads (i : Nat) : (s.delGroup i).loads = s.loads := rfl
@[simp] theorem State.delGroup_writes (i : Nat) : (s.delGroup i).writes = s.writes := rfl
@[simp] theorem State.delGroup_fences (i : Nat) : (s.delGroup i).fences = s.fences := rfl
@[simp] theorem State.delGroup_picots (i : Nat) : (s.delGroup i).picots = s.picots := rfl
@[simp] theorem State.delGroup_copies (i : Nat) : (s.delGroup i).copies = s.copies := rfl
@[simp] theorem State.delGroup_batches (i : Nat) : (s.delGroup i).batches = s.batches := rfl
@[simp] theorem State.delGroup_shqs (i : Nat) : (s.delGroup i).shqs = s.shqs := rfl
@[simp] theorem State.delGroup_rts (i : Nat) : (s.delGroup i).rts = s.rts := rfl
@[simp] theorem State.delGroup_msgs (i : Nat) : (s.delGroup i).msgs = s.msgs := rfl
@[simp] theorem State.delGroup_migs (i : Nat) : (s.delGroup i).migs = s.migs := rfl
@[simp] theorem State.delGroup_launches (i : Nat) : (s.delGroup i).launches = s.launches := rfl
@[simp] theorem State.delGroup_deferred (i : Nat) : (s.delGroup i).deferred = s.deferred := rfl
@[simp] theorem State.delGroup_fns (i : Nat) : (s.delGroup i).fns = s.fns := rfl
@[simp] theorem State.delGroup_bobs (i : Nat) : (s.delGroup i).bobs = s.bobs := rfl
@[simp] theorem State.delGroup_rtTurns (i : Nat) : (s.delGroup i).rtTurns = s.rtTurns := rfl
@[simp] theorem State.delGroup_ctls (i : Nat) : (s.delGroup i).ctls = s.ctls := rfl
@[simp] theorem State.delGroup_chans (i : Nat) : (s.delGroup i).chans = s.chans := rfl
@[simp] theorem State.delGroup_acts (i : Nat) : (s.delGroup i).acts = s.acts := rfl
@[simp] theorem State.delGroup_bwPeriods (i : Nat) : (s.delGroup i).bwPeriods = s.bwPeriods := rfl
@[simp] theorem State.delGroup_enPeriods (i : Nat) : (s.delGroup i).enPeriods = s.enPeriods := rfl
@[simp] theorem State.delGroup_enCharges (i : Nat) : (s.delGroup i).enCharges = s.enCharges := rfl
@[simp] theorem State.delGroup_shade (i : Nat) : (s.delGroup i).shade = s.shade := rfl
@[simp] theorem State.delGroup_err (i : Nat) : (s.delGroup i).err = s.err := rfl
@[simp] theorem State.delGroup_boot (i : Nat) : (s.delGroup i).boot = s.boot := rfl
@[simp] theorem State.delGroup_podid (i : Nat) : (s.delGroup i).podid = s.podid := rfl
@[simp] theorem State.delGroup_halts (i : Nat) : (s.delGroup i).halts = s.halts := rfl
@[simp] theorem State.delGroup_out (i : Nat) : (s.delGroup i).out = s.out := rfl
@[simp] theorem State.setWg_now (i : Nat) (x : Wg) : (s.setWg i x).now = s.now := rfl
@[simp] theorem State.setWg_cycles (i : Nat) (x : Wg) : (s.setWg i x).cycles = s.cycles := rfl
@[simp] theorem State.setWg_agenda (i : Nat) (x : Wg) : (s.setWg i x).agenda = s.agenda := rfl
@[simp] theorem State.setWg_cur (i : Nat) (x : Wg) : (s.setWg i x).cur = s.cur := rfl
@[simp] theorem State.setWg_fresh (i : Nat) (x : Wg) : (s.setWg i x).fresh = s.fresh := rfl
@[simp] theorem State.setWg_nextId (i : Nat) (x : Wg) : (s.setWg i x).nextId = s.nextId := rfl
@[simp] theorem State.setWg_mem (i : Nat) (x : Wg) : (s.setWg i x).mem = s.mem := rfl
@[simp] theorem State.setWg_pois (i : Nat) (x : Wg) : (s.setWg i x).pois = s.pois := rfl
@[simp] theorem State.setWg_lines (i : Nat) (x : Wg) : (s.setWg i x).lines = s.lines := rfl
@[simp] theorem State.setWg_tlb (i : Nat) (x : Wg) : (s.setWg i x).tlb = s.tlb := rfl
@[simp] theorem State.setWg_dirs (i : Nat) (x : Wg) : (s.setWg i x).dirs = s.dirs := rfl
@[simp] theorem State.setWg_filters (i : Nat) (x : Wg) : (s.setWg i x).filters = s.filters := rfl
@[simp] theorem State.setWg_incs (i : Nat) (x : Wg) : (s.setWg i x).incs = s.incs := rfl
@[simp] theorem State.setWg_retired (i : Nat) (x : Wg) : (s.setWg i x).retired = s.retired := rfl
@[simp] theorem State.setWg_late (i : Nat) (x : Wg) : (s.setWg i x).late = s.late := rfl
@[simp] theorem State.setWg_recsDue (i : Nat) (x : Wg) : (s.setWg i x).recsDue = s.recsDue := rfl
@[simp] theorem State.setWg_dirsDue (i : Nat) (x : Wg) : (s.setWg i x).dirsDue = s.dirsDue := rfl
@[simp] theorem State.setWg_cores (i : Nat) (x : Wg) : (s.setWg i x).cores = s.cores := rfl
@[simp] theorem State.setWg_groups (i : Nat) (x : Wg) : (s.setWg i x).groups = s.groups := rfl
@[simp] theorem State.setWg_loads (i : Nat) (x : Wg) : (s.setWg i x).loads = s.loads := rfl
@[simp] theorem State.setWg_writes (i : Nat) (x : Wg) : (s.setWg i x).writes = s.writes := rfl
@[simp] theorem State.setWg_fences (i : Nat) (x : Wg) : (s.setWg i x).fences = s.fences := rfl
@[simp] theorem State.setWg_picots (i : Nat) (x : Wg) : (s.setWg i x).picots = s.picots := rfl
@[simp] theorem State.setWg_copies (i : Nat) (x : Wg) : (s.setWg i x).copies = s.copies := rfl
@[simp] theorem State.setWg_batches (i : Nat) (x : Wg) : (s.setWg i x).batches = s.batches := rfl
@[simp] theorem State.setWg_shqs (i : Nat) (x : Wg) : (s.setWg i x).shqs = s.shqs := rfl
@[simp] theorem State.setWg_rts (i : Nat) (x : Wg) : (s.setWg i x).rts = s.rts := rfl
@[simp] theorem State.setWg_msgs (i : Nat) (x : Wg) : (s.setWg i x).msgs = s.msgs := rfl
@[simp] theorem State.setWg_migs (i : Nat) (x : Wg) : (s.setWg i x).migs = s.migs := rfl
@[simp] theorem State.setWg_launches (i : Nat) (x : Wg) : (s.setWg i x).launches = s.launches := rfl
@[simp] theorem State.setWg_deferred (i : Nat) (x : Wg) : (s.setWg i x).deferred = s.deferred := rfl
@[simp] theorem State.setWg_fns (i : Nat) (x : Wg) : (s.setWg i x).fns = s.fns := rfl
@[simp] theorem State.setWg_bobs (i : Nat) (x : Wg) : (s.setWg i x).bobs = s.bobs := rfl
@[simp] theorem State.setWg_rtTurns (i : Nat) (x : Wg) : (s.setWg i x).rtTurns = s.rtTurns := rfl
@[simp] theorem State.setWg_ctls (i : Nat) (x : Wg) : (s.setWg i x).ctls = s.ctls := rfl
@[simp] theorem State.setWg_chans (i : Nat) (x : Wg) : (s.setWg i x).chans = s.chans := rfl
@[simp] theorem State.setWg_acts (i : Nat) (x : Wg) : (s.setWg i x).acts = s.acts := rfl
@[simp] theorem State.setWg_bwPeriods (i : Nat) (x : Wg) : (s.setWg i x).bwPeriods = s.bwPeriods := rfl
@[simp] theorem State.setWg_enPeriods (i : Nat) (x : Wg) : (s.setWg i x).enPeriods = s.enPeriods := rfl
@[simp] theorem State.setWg_enCharges (i : Nat) (x : Wg) : (s.setWg i x).enCharges = s.enCharges := rfl
@[simp] theorem State.setWg_shade (i : Nat) (x : Wg) : (s.setWg i x).shade = s.shade := rfl
@[simp] theorem State.setWg_err (i : Nat) (x : Wg) : (s.setWg i x).err = s.err := rfl
@[simp] theorem State.setWg_boot (i : Nat) (x : Wg) : (s.setWg i x).boot = s.boot := rfl
@[simp] theorem State.setWg_podid (i : Nat) (x : Wg) : (s.setWg i x).podid = s.podid := rfl
@[simp] theorem State.setWg_halts (i : Nat) (x : Wg) : (s.setWg i x).halts = s.halts := rfl
@[simp] theorem State.setWg_out (i : Nat) (x : Wg) : (s.setWg i x).out = s.out := rfl
@[simp] theorem State.modWg_now (i : Nat) (f : Wg → Wg) : (s.modWg i f).now = s.now := rfl
@[simp] theorem State.modWg_cycles (i : Nat) (f : Wg → Wg) : (s.modWg i f).cycles = s.cycles := rfl
@[simp] theorem State.modWg_agenda (i : Nat) (f : Wg → Wg) : (s.modWg i f).agenda = s.agenda := rfl
@[simp] theorem State.modWg_cur (i : Nat) (f : Wg → Wg) : (s.modWg i f).cur = s.cur := rfl
@[simp] theorem State.modWg_fresh (i : Nat) (f : Wg → Wg) : (s.modWg i f).fresh = s.fresh := rfl
@[simp] theorem State.modWg_nextId (i : Nat) (f : Wg → Wg) : (s.modWg i f).nextId = s.nextId := rfl
@[simp] theorem State.modWg_mem (i : Nat) (f : Wg → Wg) : (s.modWg i f).mem = s.mem := rfl
@[simp] theorem State.modWg_pois (i : Nat) (f : Wg → Wg) : (s.modWg i f).pois = s.pois := rfl
@[simp] theorem State.modWg_lines (i : Nat) (f : Wg → Wg) : (s.modWg i f).lines = s.lines := rfl
@[simp] theorem State.modWg_tlb (i : Nat) (f : Wg → Wg) : (s.modWg i f).tlb = s.tlb := rfl
@[simp] theorem State.modWg_dirs (i : Nat) (f : Wg → Wg) : (s.modWg i f).dirs = s.dirs := rfl
@[simp] theorem State.modWg_filters (i : Nat) (f : Wg → Wg) : (s.modWg i f).filters = s.filters := rfl
@[simp] theorem State.modWg_incs (i : Nat) (f : Wg → Wg) : (s.modWg i f).incs = s.incs := rfl
@[simp] theorem State.modWg_retired (i : Nat) (f : Wg → Wg) : (s.modWg i f).retired = s.retired := rfl
@[simp] theorem State.modWg_late (i : Nat) (f : Wg → Wg) : (s.modWg i f).late = s.late := rfl
@[simp] theorem State.modWg_recsDue (i : Nat) (f : Wg → Wg) : (s.modWg i f).recsDue = s.recsDue := rfl
@[simp] theorem State.modWg_dirsDue (i : Nat) (f : Wg → Wg) : (s.modWg i f).dirsDue = s.dirsDue := rfl
@[simp] theorem State.modWg_cores (i : Nat) (f : Wg → Wg) : (s.modWg i f).cores = s.cores := rfl
@[simp] theorem State.modWg_groups (i : Nat) (f : Wg → Wg) : (s.modWg i f).groups = s.groups := rfl
@[simp] theorem State.modWg_loads (i : Nat) (f : Wg → Wg) : (s.modWg i f).loads = s.loads := rfl
@[simp] theorem State.modWg_writes (i : Nat) (f : Wg → Wg) : (s.modWg i f).writes = s.writes := rfl
@[simp] theorem State.modWg_fences (i : Nat) (f : Wg → Wg) : (s.modWg i f).fences = s.fences := rfl
@[simp] theorem State.modWg_picots (i : Nat) (f : Wg → Wg) : (s.modWg i f).picots = s.picots := rfl
@[simp] theorem State.modWg_copies (i : Nat) (f : Wg → Wg) : (s.modWg i f).copies = s.copies := rfl
@[simp] theorem State.modWg_batches (i : Nat) (f : Wg → Wg) : (s.modWg i f).batches = s.batches := rfl
@[simp] theorem State.modWg_shqs (i : Nat) (f : Wg → Wg) : (s.modWg i f).shqs = s.shqs := rfl
@[simp] theorem State.modWg_rts (i : Nat) (f : Wg → Wg) : (s.modWg i f).rts = s.rts := rfl
@[simp] theorem State.modWg_msgs (i : Nat) (f : Wg → Wg) : (s.modWg i f).msgs = s.msgs := rfl
@[simp] theorem State.modWg_migs (i : Nat) (f : Wg → Wg) : (s.modWg i f).migs = s.migs := rfl
@[simp] theorem State.modWg_launches (i : Nat) (f : Wg → Wg) : (s.modWg i f).launches = s.launches := rfl
@[simp] theorem State.modWg_deferred (i : Nat) (f : Wg → Wg) : (s.modWg i f).deferred = s.deferred := rfl
@[simp] theorem State.modWg_fns (i : Nat) (f : Wg → Wg) : (s.modWg i f).fns = s.fns := rfl
@[simp] theorem State.modWg_bobs (i : Nat) (f : Wg → Wg) : (s.modWg i f).bobs = s.bobs := rfl
@[simp] theorem State.modWg_rtTurns (i : Nat) (f : Wg → Wg) : (s.modWg i f).rtTurns = s.rtTurns := rfl
@[simp] theorem State.modWg_ctls (i : Nat) (f : Wg → Wg) : (s.modWg i f).ctls = s.ctls := rfl
@[simp] theorem State.modWg_chans (i : Nat) (f : Wg → Wg) : (s.modWg i f).chans = s.chans := rfl
@[simp] theorem State.modWg_acts (i : Nat) (f : Wg → Wg) : (s.modWg i f).acts = s.acts := rfl
@[simp] theorem State.modWg_bwPeriods (i : Nat) (f : Wg → Wg) : (s.modWg i f).bwPeriods = s.bwPeriods := rfl
@[simp] theorem State.modWg_enPeriods (i : Nat) (f : Wg → Wg) : (s.modWg i f).enPeriods = s.enPeriods := rfl
@[simp] theorem State.modWg_enCharges (i : Nat) (f : Wg → Wg) : (s.modWg i f).enCharges = s.enCharges := rfl
@[simp] theorem State.modWg_shade (i : Nat) (f : Wg → Wg) : (s.modWg i f).shade = s.shade := rfl
@[simp] theorem State.modWg_err (i : Nat) (f : Wg → Wg) : (s.modWg i f).err = s.err := rfl
@[simp] theorem State.modWg_boot (i : Nat) (f : Wg → Wg) : (s.modWg i f).boot = s.boot := rfl
@[simp] theorem State.modWg_podid (i : Nat) (f : Wg → Wg) : (s.modWg i f).podid = s.podid := rfl
@[simp] theorem State.modWg_halts (i : Nat) (f : Wg → Wg) : (s.modWg i f).halts = s.halts := rfl
@[simp] theorem State.modWg_out (i : Nat) (f : Wg → Wg) : (s.modWg i f).out = s.out := rfl
@[simp] theorem State.delWg_now (i : Nat) : (s.delWg i).now = s.now := rfl
@[simp] theorem State.delWg_cycles (i : Nat) : (s.delWg i).cycles = s.cycles := rfl
@[simp] theorem State.delWg_agenda (i : Nat) : (s.delWg i).agenda = s.agenda := rfl
@[simp] theorem State.delWg_cur (i : Nat) : (s.delWg i).cur = s.cur := rfl
@[simp] theorem State.delWg_fresh (i : Nat) : (s.delWg i).fresh = s.fresh := rfl
@[simp] theorem State.delWg_nextId (i : Nat) : (s.delWg i).nextId = s.nextId := rfl
@[simp] theorem State.delWg_mem (i : Nat) : (s.delWg i).mem = s.mem := rfl
@[simp] theorem State.delWg_pois (i : Nat) : (s.delWg i).pois = s.pois := rfl
@[simp] theorem State.delWg_lines (i : Nat) : (s.delWg i).lines = s.lines := rfl
@[simp] theorem State.delWg_tlb (i : Nat) : (s.delWg i).tlb = s.tlb := rfl
@[simp] theorem State.delWg_dirs (i : Nat) : (s.delWg i).dirs = s.dirs := rfl
@[simp] theorem State.delWg_filters (i : Nat) : (s.delWg i).filters = s.filters := rfl
@[simp] theorem State.delWg_incs (i : Nat) : (s.delWg i).incs = s.incs := rfl
@[simp] theorem State.delWg_retired (i : Nat) : (s.delWg i).retired = s.retired := rfl
@[simp] theorem State.delWg_late (i : Nat) : (s.delWg i).late = s.late := rfl
@[simp] theorem State.delWg_recsDue (i : Nat) : (s.delWg i).recsDue = s.recsDue := rfl
@[simp] theorem State.delWg_dirsDue (i : Nat) : (s.delWg i).dirsDue = s.dirsDue := rfl
@[simp] theorem State.delWg_cores (i : Nat) : (s.delWg i).cores = s.cores := rfl
@[simp] theorem State.delWg_groups (i : Nat) : (s.delWg i).groups = s.groups := rfl
@[simp] theorem State.delWg_loads (i : Nat) : (s.delWg i).loads = s.loads := rfl
@[simp] theorem State.delWg_writes (i : Nat) : (s.delWg i).writes = s.writes := rfl
@[simp] theorem State.delWg_fences (i : Nat) : (s.delWg i).fences = s.fences := rfl
@[simp] theorem State.delWg_picots (i : Nat) : (s.delWg i).picots = s.picots := rfl
@[simp] theorem State.delWg_copies (i : Nat) : (s.delWg i).copies = s.copies := rfl
@[simp] theorem State.delWg_batches (i : Nat) : (s.delWg i).batches = s.batches := rfl
@[simp] theorem State.delWg_shqs (i : Nat) : (s.delWg i).shqs = s.shqs := rfl
@[simp] theorem State.delWg_rts (i : Nat) : (s.delWg i).rts = s.rts := rfl
@[simp] theorem State.delWg_msgs (i : Nat) : (s.delWg i).msgs = s.msgs := rfl
@[simp] theorem State.delWg_migs (i : Nat) : (s.delWg i).migs = s.migs := rfl
@[simp] theorem State.delWg_launches (i : Nat) : (s.delWg i).launches = s.launches := rfl
@[simp] theorem State.delWg_deferred (i : Nat) : (s.delWg i).deferred = s.deferred := rfl
@[simp] theorem State.delWg_fns (i : Nat) : (s.delWg i).fns = s.fns := rfl
@[simp] theorem State.delWg_bobs (i : Nat) : (s.delWg i).bobs = s.bobs := rfl
@[simp] theorem State.delWg_rtTurns (i : Nat) : (s.delWg i).rtTurns = s.rtTurns := rfl
@[simp] theorem State.delWg_ctls (i : Nat) : (s.delWg i).ctls = s.ctls := rfl
@[simp] theorem State.delWg_chans (i : Nat) : (s.delWg i).chans = s.chans := rfl
@[simp] theorem State.delWg_acts (i : Nat) : (s.delWg i).acts = s.acts := rfl
@[simp] theorem State.delWg_bwPeriods (i : Nat) : (s.delWg i).bwPeriods = s.bwPeriods := rfl
@[simp] theorem State.delWg_enPeriods (i : Nat) : (s.delWg i).enPeriods = s.enPeriods := rfl
@[simp] theorem State.delWg_enCharges (i : Nat) : (s.delWg i).enCharges = s.enCharges := rfl
@[simp] theorem State.delWg_shade (i : Nat) : (s.delWg i).shade = s.shade := rfl
@[simp] theorem State.delWg_err (i : Nat) : (s.delWg i).err = s.err := rfl
@[simp] theorem State.delWg_boot (i : Nat) : (s.delWg i).boot = s.boot := rfl
@[simp] theorem State.delWg_podid (i : Nat) : (s.delWg i).podid = s.podid := rfl
@[simp] theorem State.delWg_halts (i : Nat) : (s.delWg i).halts = s.halts := rfl
@[simp] theorem State.delWg_out (i : Nat) : (s.delWg i).out = s.out := rfl
@[simp] theorem State.modThread_now (r : ThRef) (f : Thread → Thread) : (s.modThread r f).now = s.now := rfl
@[simp] theorem State.modThread_cycles (r : ThRef) (f : Thread → Thread) : (s.modThread r f).cycles = s.cycles := rfl
@[simp] theorem State.modThread_agenda (r : ThRef) (f : Thread → Thread) : (s.modThread r f).agenda = s.agenda := rfl
@[simp] theorem State.modThread_cur (r : ThRef) (f : Thread → Thread) : (s.modThread r f).cur = s.cur := rfl
@[simp] theorem State.modThread_fresh (r : ThRef) (f : Thread → Thread) : (s.modThread r f).fresh = s.fresh := rfl
@[simp] theorem State.modThread_nextId (r : ThRef) (f : Thread → Thread) : (s.modThread r f).nextId = s.nextId := rfl
@[simp] theorem State.modThread_mem (r : ThRef) (f : Thread → Thread) : (s.modThread r f).mem = s.mem := rfl
@[simp] theorem State.modThread_pois (r : ThRef) (f : Thread → Thread) : (s.modThread r f).pois = s.pois := rfl
@[simp] theorem State.modThread_lines (r : ThRef) (f : Thread → Thread) : (s.modThread r f).lines = s.lines := rfl
@[simp] theorem State.modThread_tlb (r : ThRef) (f : Thread → Thread) : (s.modThread r f).tlb = s.tlb := rfl
@[simp] theorem State.modThread_dirs (r : ThRef) (f : Thread → Thread) : (s.modThread r f).dirs = s.dirs := rfl
@[simp] theorem State.modThread_filters (r : ThRef) (f : Thread → Thread) : (s.modThread r f).filters = s.filters := rfl
@[simp] theorem State.modThread_incs (r : ThRef) (f : Thread → Thread) : (s.modThread r f).incs = s.incs := rfl
@[simp] theorem State.modThread_retired (r : ThRef) (f : Thread → Thread) : (s.modThread r f).retired = s.retired := rfl
@[simp] theorem State.modThread_late (r : ThRef) (f : Thread → Thread) : (s.modThread r f).late = s.late := rfl
@[simp] theorem State.modThread_recsDue (r : ThRef) (f : Thread → Thread) : (s.modThread r f).recsDue = s.recsDue := rfl
@[simp] theorem State.modThread_dirsDue (r : ThRef) (f : Thread → Thread) : (s.modThread r f).dirsDue = s.dirsDue := rfl
@[simp] theorem State.modThread_cores (r : ThRef) (f : Thread → Thread) : (s.modThread r f).cores = s.cores := rfl
@[simp] theorem State.modThread_groups (r : ThRef) (f : Thread → Thread) : (s.modThread r f).groups = s.groups := rfl
@[simp] theorem State.modThread_loads (r : ThRef) (f : Thread → Thread) : (s.modThread r f).loads = s.loads := rfl
@[simp] theorem State.modThread_writes (r : ThRef) (f : Thread → Thread) : (s.modThread r f).writes = s.writes := rfl
@[simp] theorem State.modThread_fences (r : ThRef) (f : Thread → Thread) : (s.modThread r f).fences = s.fences := rfl
@[simp] theorem State.modThread_picots (r : ThRef) (f : Thread → Thread) : (s.modThread r f).picots = s.picots := rfl
@[simp] theorem State.modThread_copies (r : ThRef) (f : Thread → Thread) : (s.modThread r f).copies = s.copies := rfl
@[simp] theorem State.modThread_batches (r : ThRef) (f : Thread → Thread) : (s.modThread r f).batches = s.batches := rfl
@[simp] theorem State.modThread_shqs (r : ThRef) (f : Thread → Thread) : (s.modThread r f).shqs = s.shqs := rfl
@[simp] theorem State.modThread_rts (r : ThRef) (f : Thread → Thread) : (s.modThread r f).rts = s.rts := rfl
@[simp] theorem State.modThread_msgs (r : ThRef) (f : Thread → Thread) : (s.modThread r f).msgs = s.msgs := rfl
@[simp] theorem State.modThread_migs (r : ThRef) (f : Thread → Thread) : (s.modThread r f).migs = s.migs := rfl
@[simp] theorem State.modThread_launches (r : ThRef) (f : Thread → Thread) : (s.modThread r f).launches = s.launches := rfl
@[simp] theorem State.modThread_deferred (r : ThRef) (f : Thread → Thread) : (s.modThread r f).deferred = s.deferred := rfl
@[simp] theorem State.modThread_fns (r : ThRef) (f : Thread → Thread) : (s.modThread r f).fns = s.fns := rfl
@[simp] theorem State.modThread_bobs (r : ThRef) (f : Thread → Thread) : (s.modThread r f).bobs = s.bobs := rfl
@[simp] theorem State.modThread_rtTurns (r : ThRef) (f : Thread → Thread) : (s.modThread r f).rtTurns = s.rtTurns := rfl
@[simp] theorem State.modThread_ctls (r : ThRef) (f : Thread → Thread) : (s.modThread r f).ctls = s.ctls := rfl
@[simp] theorem State.modThread_chans (r : ThRef) (f : Thread → Thread) : (s.modThread r f).chans = s.chans := rfl
@[simp] theorem State.modThread_acts (r : ThRef) (f : Thread → Thread) : (s.modThread r f).acts = s.acts := rfl
@[simp] theorem State.modThread_bwPeriods (r : ThRef) (f : Thread → Thread) : (s.modThread r f).bwPeriods = s.bwPeriods := rfl
@[simp] theorem State.modThread_enPeriods (r : ThRef) (f : Thread → Thread) : (s.modThread r f).enPeriods = s.enPeriods := rfl
@[simp] theorem State.modThread_enCharges (r : ThRef) (f : Thread → Thread) : (s.modThread r f).enCharges = s.enCharges := rfl
@[simp] theorem State.modThread_shade (r : ThRef) (f : Thread → Thread) : (s.modThread r f).shade = s.shade := rfl
@[simp] theorem State.modThread_err (r : ThRef) (f : Thread → Thread) : (s.modThread r f).err = s.err := rfl
@[simp] theorem State.modThread_boot (r : ThRef) (f : Thread → Thread) : (s.modThread r f).boot = s.boot := rfl
@[simp] theorem State.modThread_podid (r : ThRef) (f : Thread → Thread) : (s.modThread r f).podid = s.podid := rfl
@[simp] theorem State.modThread_halts (r : ThRef) (f : Thread → Thread) : (s.modThread r f).halts = s.halts := rfl
@[simp] theorem State.modThread_out (r : ThRef) (f : Thread → Thread) : (s.modThread r f).out = s.out := rfl
@[simp] theorem State.setLaunch_now (i : Nat) (x : Launch) : (s.setLaunch i x).now = s.now := rfl
@[simp] theorem State.setLaunch_cycles (i : Nat) (x : Launch) : (s.setLaunch i x).cycles = s.cycles := rfl
@[simp] theorem State.setLaunch_agenda (i : Nat) (x : Launch) : (s.setLaunch i x).agenda = s.agenda := rfl
@[simp] theorem State.setLaunch_cur (i : Nat) (x : Launch) : (s.setLaunch i x).cur = s.cur := rfl
@[simp] theorem State.setLaunch_fresh (i : Nat) (x : Launch) : (s.setLaunch i x).fresh = s.fresh := rfl
@[simp] theorem State.setLaunch_nextId (i : Nat) (x : Launch) : (s.setLaunch i x).nextId = s.nextId := rfl
@[simp] theorem State.setLaunch_mem (i : Nat) (x : Launch) : (s.setLaunch i x).mem = s.mem := rfl
@[simp] theorem State.setLaunch_pois (i : Nat) (x : Launch) : (s.setLaunch i x).pois = s.pois := rfl
@[simp] theorem State.setLaunch_lines (i : Nat) (x : Launch) : (s.setLaunch i x).lines = s.lines := rfl
@[simp] theorem State.setLaunch_tlb (i : Nat) (x : Launch) : (s.setLaunch i x).tlb = s.tlb := rfl
@[simp] theorem State.setLaunch_dirs (i : Nat) (x : Launch) : (s.setLaunch i x).dirs = s.dirs := rfl
@[simp] theorem State.setLaunch_filters (i : Nat) (x : Launch) : (s.setLaunch i x).filters = s.filters := rfl
@[simp] theorem State.setLaunch_incs (i : Nat) (x : Launch) : (s.setLaunch i x).incs = s.incs := rfl
@[simp] theorem State.setLaunch_retired (i : Nat) (x : Launch) : (s.setLaunch i x).retired = s.retired := rfl
@[simp] theorem State.setLaunch_late (i : Nat) (x : Launch) : (s.setLaunch i x).late = s.late := rfl
@[simp] theorem State.setLaunch_recsDue (i : Nat) (x : Launch) : (s.setLaunch i x).recsDue = s.recsDue := rfl
@[simp] theorem State.setLaunch_dirsDue (i : Nat) (x : Launch) : (s.setLaunch i x).dirsDue = s.dirsDue := rfl
@[simp] theorem State.setLaunch_cores (i : Nat) (x : Launch) : (s.setLaunch i x).cores = s.cores := rfl
@[simp] theorem State.setLaunch_groups (i : Nat) (x : Launch) : (s.setLaunch i x).groups = s.groups := rfl
@[simp] theorem State.setLaunch_wgs (i : Nat) (x : Launch) : (s.setLaunch i x).wgs = s.wgs := rfl
@[simp] theorem State.setLaunch_loads (i : Nat) (x : Launch) : (s.setLaunch i x).loads = s.loads := rfl
@[simp] theorem State.setLaunch_writes (i : Nat) (x : Launch) : (s.setLaunch i x).writes = s.writes := rfl
@[simp] theorem State.setLaunch_fences (i : Nat) (x : Launch) : (s.setLaunch i x).fences = s.fences := rfl
@[simp] theorem State.setLaunch_picots (i : Nat) (x : Launch) : (s.setLaunch i x).picots = s.picots := rfl
@[simp] theorem State.setLaunch_copies (i : Nat) (x : Launch) : (s.setLaunch i x).copies = s.copies := rfl
@[simp] theorem State.setLaunch_batches (i : Nat) (x : Launch) : (s.setLaunch i x).batches = s.batches := rfl
@[simp] theorem State.setLaunch_shqs (i : Nat) (x : Launch) : (s.setLaunch i x).shqs = s.shqs := rfl
@[simp] theorem State.setLaunch_rts (i : Nat) (x : Launch) : (s.setLaunch i x).rts = s.rts := rfl
@[simp] theorem State.setLaunch_msgs (i : Nat) (x : Launch) : (s.setLaunch i x).msgs = s.msgs := rfl
@[simp] theorem State.setLaunch_migs (i : Nat) (x : Launch) : (s.setLaunch i x).migs = s.migs := rfl
@[simp] theorem State.setLaunch_deferred (i : Nat) (x : Launch) : (s.setLaunch i x).deferred = s.deferred := rfl
@[simp] theorem State.setLaunch_fns (i : Nat) (x : Launch) : (s.setLaunch i x).fns = s.fns := rfl
@[simp] theorem State.setLaunch_bobs (i : Nat) (x : Launch) : (s.setLaunch i x).bobs = s.bobs := rfl
@[simp] theorem State.setLaunch_rtTurns (i : Nat) (x : Launch) : (s.setLaunch i x).rtTurns = s.rtTurns := rfl
@[simp] theorem State.setLaunch_ctls (i : Nat) (x : Launch) : (s.setLaunch i x).ctls = s.ctls := rfl
@[simp] theorem State.setLaunch_chans (i : Nat) (x : Launch) : (s.setLaunch i x).chans = s.chans := rfl
@[simp] theorem State.setLaunch_acts (i : Nat) (x : Launch) : (s.setLaunch i x).acts = s.acts := rfl
@[simp] theorem State.setLaunch_bwPeriods (i : Nat) (x : Launch) : (s.setLaunch i x).bwPeriods = s.bwPeriods := rfl
@[simp] theorem State.setLaunch_enPeriods (i : Nat) (x : Launch) : (s.setLaunch i x).enPeriods = s.enPeriods := rfl
@[simp] theorem State.setLaunch_enCharges (i : Nat) (x : Launch) : (s.setLaunch i x).enCharges = s.enCharges := rfl
@[simp] theorem State.setLaunch_shade (i : Nat) (x : Launch) : (s.setLaunch i x).shade = s.shade := rfl
@[simp] theorem State.setLaunch_err (i : Nat) (x : Launch) : (s.setLaunch i x).err = s.err := rfl
@[simp] theorem State.setLaunch_boot (i : Nat) (x : Launch) : (s.setLaunch i x).boot = s.boot := rfl
@[simp] theorem State.setLaunch_podid (i : Nat) (x : Launch) : (s.setLaunch i x).podid = s.podid := rfl
@[simp] theorem State.setLaunch_halts (i : Nat) (x : Launch) : (s.setLaunch i x).halts = s.halts := rfl
@[simp] theorem State.setLaunch_out (i : Nat) (x : Launch) : (s.setLaunch i x).out = s.out := rfl
@[simp] theorem State.modLaunch_now (i : Nat) (f : Launch → Launch) : (s.modLaunch i f).now = s.now := rfl
@[simp] theorem State.modLaunch_cycles (i : Nat) (f : Launch → Launch) : (s.modLaunch i f).cycles = s.cycles := rfl
@[simp] theorem State.modLaunch_agenda (i : Nat) (f : Launch → Launch) : (s.modLaunch i f).agenda = s.agenda := rfl
@[simp] theorem State.modLaunch_cur (i : Nat) (f : Launch → Launch) : (s.modLaunch i f).cur = s.cur := rfl
@[simp] theorem State.modLaunch_fresh (i : Nat) (f : Launch → Launch) : (s.modLaunch i f).fresh = s.fresh := rfl
@[simp] theorem State.modLaunch_nextId (i : Nat) (f : Launch → Launch) : (s.modLaunch i f).nextId = s.nextId := rfl
@[simp] theorem State.modLaunch_mem (i : Nat) (f : Launch → Launch) : (s.modLaunch i f).mem = s.mem := rfl
@[simp] theorem State.modLaunch_pois (i : Nat) (f : Launch → Launch) : (s.modLaunch i f).pois = s.pois := rfl
@[simp] theorem State.modLaunch_lines (i : Nat) (f : Launch → Launch) : (s.modLaunch i f).lines = s.lines := rfl
@[simp] theorem State.modLaunch_tlb (i : Nat) (f : Launch → Launch) : (s.modLaunch i f).tlb = s.tlb := rfl
@[simp] theorem State.modLaunch_dirs (i : Nat) (f : Launch → Launch) : (s.modLaunch i f).dirs = s.dirs := rfl
@[simp] theorem State.modLaunch_filters (i : Nat) (f : Launch → Launch) : (s.modLaunch i f).filters = s.filters := rfl
@[simp] theorem State.modLaunch_incs (i : Nat) (f : Launch → Launch) : (s.modLaunch i f).incs = s.incs := rfl
@[simp] theorem State.modLaunch_retired (i : Nat) (f : Launch → Launch) : (s.modLaunch i f).retired = s.retired := rfl
@[simp] theorem State.modLaunch_late (i : Nat) (f : Launch → Launch) : (s.modLaunch i f).late = s.late := rfl
@[simp] theorem State.modLaunch_recsDue (i : Nat) (f : Launch → Launch) : (s.modLaunch i f).recsDue = s.recsDue := rfl
@[simp] theorem State.modLaunch_dirsDue (i : Nat) (f : Launch → Launch) : (s.modLaunch i f).dirsDue = s.dirsDue := rfl
@[simp] theorem State.modLaunch_cores (i : Nat) (f : Launch → Launch) : (s.modLaunch i f).cores = s.cores := rfl
@[simp] theorem State.modLaunch_groups (i : Nat) (f : Launch → Launch) : (s.modLaunch i f).groups = s.groups := rfl
@[simp] theorem State.modLaunch_wgs (i : Nat) (f : Launch → Launch) : (s.modLaunch i f).wgs = s.wgs := rfl
@[simp] theorem State.modLaunch_loads (i : Nat) (f : Launch → Launch) : (s.modLaunch i f).loads = s.loads := rfl
@[simp] theorem State.modLaunch_writes (i : Nat) (f : Launch → Launch) : (s.modLaunch i f).writes = s.writes := rfl
@[simp] theorem State.modLaunch_fences (i : Nat) (f : Launch → Launch) : (s.modLaunch i f).fences = s.fences := rfl
@[simp] theorem State.modLaunch_picots (i : Nat) (f : Launch → Launch) : (s.modLaunch i f).picots = s.picots := rfl
@[simp] theorem State.modLaunch_copies (i : Nat) (f : Launch → Launch) : (s.modLaunch i f).copies = s.copies := rfl
@[simp] theorem State.modLaunch_batches (i : Nat) (f : Launch → Launch) : (s.modLaunch i f).batches = s.batches := rfl
@[simp] theorem State.modLaunch_shqs (i : Nat) (f : Launch → Launch) : (s.modLaunch i f).shqs = s.shqs := rfl
@[simp] theorem State.modLaunch_rts (i : Nat) (f : Launch → Launch) : (s.modLaunch i f).rts = s.rts := rfl
@[simp] theorem State.modLaunch_msgs (i : Nat) (f : Launch → Launch) : (s.modLaunch i f).msgs = s.msgs := rfl
@[simp] theorem State.modLaunch_migs (i : Nat) (f : Launch → Launch) : (s.modLaunch i f).migs = s.migs := rfl
@[simp] theorem State.modLaunch_deferred (i : Nat) (f : Launch → Launch) : (s.modLaunch i f).deferred = s.deferred := rfl
@[simp] theorem State.modLaunch_fns (i : Nat) (f : Launch → Launch) : (s.modLaunch i f).fns = s.fns := rfl
@[simp] theorem State.modLaunch_bobs (i : Nat) (f : Launch → Launch) : (s.modLaunch i f).bobs = s.bobs := rfl
@[simp] theorem State.modLaunch_rtTurns (i : Nat) (f : Launch → Launch) : (s.modLaunch i f).rtTurns = s.rtTurns := rfl
@[simp] theorem State.modLaunch_ctls (i : Nat) (f : Launch → Launch) : (s.modLaunch i f).ctls = s.ctls := rfl
@[simp] theorem State.modLaunch_chans (i : Nat) (f : Launch → Launch) : (s.modLaunch i f).chans = s.chans := rfl
@[simp] theorem State.modLaunch_acts (i : Nat) (f : Launch → Launch) : (s.modLaunch i f).acts = s.acts := rfl
@[simp] theorem State.modLaunch_bwPeriods (i : Nat) (f : Launch → Launch) : (s.modLaunch i f).bwPeriods = s.bwPeriods := rfl
@[simp] theorem State.modLaunch_enPeriods (i : Nat) (f : Launch → Launch) : (s.modLaunch i f).enPeriods = s.enPeriods := rfl
@[simp] theorem State.modLaunch_enCharges (i : Nat) (f : Launch → Launch) : (s.modLaunch i f).enCharges = s.enCharges := rfl
@[simp] theorem State.modLaunch_shade (i : Nat) (f : Launch → Launch) : (s.modLaunch i f).shade = s.shade := rfl
@[simp] theorem State.modLaunch_err (i : Nat) (f : Launch → Launch) : (s.modLaunch i f).err = s.err := rfl
@[simp] theorem State.modLaunch_boot (i : Nat) (f : Launch → Launch) : (s.modLaunch i f).boot = s.boot := rfl
@[simp] theorem State.modLaunch_podid (i : Nat) (f : Launch → Launch) : (s.modLaunch i f).podid = s.podid := rfl
@[simp] theorem State.modLaunch_halts (i : Nat) (f : Launch → Launch) : (s.modLaunch i f).halts = s.halts := rfl
@[simp] theorem State.modLaunch_out (i : Nat) (f : Launch → Launch) : (s.modLaunch i f).out = s.out := rfl
@[simp] theorem State.emit_now (o : Out) : (s.emit o).now = s.now := rfl
@[simp] theorem State.emit_cycles (o : Out) : (s.emit o).cycles = s.cycles := rfl
@[simp] theorem State.emit_agenda (o : Out) : (s.emit o).agenda = s.agenda := rfl
@[simp] theorem State.emit_cur (o : Out) : (s.emit o).cur = s.cur := rfl
@[simp] theorem State.emit_fresh (o : Out) : (s.emit o).fresh = s.fresh := rfl
@[simp] theorem State.emit_nextId (o : Out) : (s.emit o).nextId = s.nextId := rfl
@[simp] theorem State.emit_mem (o : Out) : (s.emit o).mem = s.mem := rfl
@[simp] theorem State.emit_pois (o : Out) : (s.emit o).pois = s.pois := rfl
@[simp] theorem State.emit_lines (o : Out) : (s.emit o).lines = s.lines := rfl
@[simp] theorem State.emit_tlb (o : Out) : (s.emit o).tlb = s.tlb := rfl
@[simp] theorem State.emit_dirs (o : Out) : (s.emit o).dirs = s.dirs := rfl
@[simp] theorem State.emit_filters (o : Out) : (s.emit o).filters = s.filters := rfl
@[simp] theorem State.emit_incs (o : Out) : (s.emit o).incs = s.incs := rfl
@[simp] theorem State.emit_retired (o : Out) : (s.emit o).retired = s.retired := rfl
@[simp] theorem State.emit_late (o : Out) : (s.emit o).late = s.late := rfl
@[simp] theorem State.emit_recsDue (o : Out) : (s.emit o).recsDue = s.recsDue := rfl
@[simp] theorem State.emit_dirsDue (o : Out) : (s.emit o).dirsDue = s.dirsDue := rfl
@[simp] theorem State.emit_cores (o : Out) : (s.emit o).cores = s.cores := rfl
@[simp] theorem State.emit_groups (o : Out) : (s.emit o).groups = s.groups := rfl
@[simp] theorem State.emit_wgs (o : Out) : (s.emit o).wgs = s.wgs := rfl
@[simp] theorem State.emit_loads (o : Out) : (s.emit o).loads = s.loads := rfl
@[simp] theorem State.emit_writes (o : Out) : (s.emit o).writes = s.writes := rfl
@[simp] theorem State.emit_fences (o : Out) : (s.emit o).fences = s.fences := rfl
@[simp] theorem State.emit_picots (o : Out) : (s.emit o).picots = s.picots := rfl
@[simp] theorem State.emit_copies (o : Out) : (s.emit o).copies = s.copies := rfl
@[simp] theorem State.emit_batches (o : Out) : (s.emit o).batches = s.batches := rfl
@[simp] theorem State.emit_shqs (o : Out) : (s.emit o).shqs = s.shqs := rfl
@[simp] theorem State.emit_rts (o : Out) : (s.emit o).rts = s.rts := rfl
@[simp] theorem State.emit_msgs (o : Out) : (s.emit o).msgs = s.msgs := rfl
@[simp] theorem State.emit_migs (o : Out) : (s.emit o).migs = s.migs := rfl
@[simp] theorem State.emit_launches (o : Out) : (s.emit o).launches = s.launches := rfl
@[simp] theorem State.emit_deferred (o : Out) : (s.emit o).deferred = s.deferred := rfl
@[simp] theorem State.emit_fns (o : Out) : (s.emit o).fns = s.fns := rfl
@[simp] theorem State.emit_bobs (o : Out) : (s.emit o).bobs = s.bobs := rfl
@[simp] theorem State.emit_rtTurns (o : Out) : (s.emit o).rtTurns = s.rtTurns := rfl
@[simp] theorem State.emit_ctls (o : Out) : (s.emit o).ctls = s.ctls := rfl
@[simp] theorem State.emit_chans (o : Out) : (s.emit o).chans = s.chans := rfl
@[simp] theorem State.emit_acts (o : Out) : (s.emit o).acts = s.acts := rfl
@[simp] theorem State.emit_bwPeriods (o : Out) : (s.emit o).bwPeriods = s.bwPeriods := rfl
@[simp] theorem State.emit_enPeriods (o : Out) : (s.emit o).enPeriods = s.enPeriods := rfl
@[simp] theorem State.emit_enCharges (o : Out) : (s.emit o).enCharges = s.enCharges := rfl
@[simp] theorem State.emit_shade (o : Out) : (s.emit o).shade = s.shade := rfl
@[simp] theorem State.emit_err (o : Out) : (s.emit o).err = s.err := rfl
@[simp] theorem State.emit_boot (o : Out) : (s.emit o).boot = s.boot := rfl
@[simp] theorem State.emit_podid (o : Out) : (s.emit o).podid = s.podid := rfl
@[simp] theorem State.emit_halts (o : Out) : (s.emit o).halts = s.halts := rfl
@[simp] theorem State.count_now (c i k n : Nat) : (s.count c i k n).now = s.now := rfl
@[simp] theorem State.count_cycles (c i k n : Nat) : (s.count c i k n).cycles = s.cycles := rfl
@[simp] theorem State.count_agenda (c i k n : Nat) : (s.count c i k n).agenda = s.agenda := rfl
@[simp] theorem State.count_cur (c i k n : Nat) : (s.count c i k n).cur = s.cur := rfl
@[simp] theorem State.count_fresh (c i k n : Nat) : (s.count c i k n).fresh = s.fresh := rfl
@[simp] theorem State.count_nextId (c i k n : Nat) : (s.count c i k n).nextId = s.nextId := rfl
@[simp] theorem State.count_mem (c i k n : Nat) : (s.count c i k n).mem = s.mem := rfl
@[simp] theorem State.count_pois (c i k n : Nat) : (s.count c i k n).pois = s.pois := rfl
@[simp] theorem State.count_lines (c i k n : Nat) : (s.count c i k n).lines = s.lines := rfl
@[simp] theorem State.count_tlb (c i k n : Nat) : (s.count c i k n).tlb = s.tlb := rfl
@[simp] theorem State.count_dirs (c i k n : Nat) : (s.count c i k n).dirs = s.dirs := rfl
@[simp] theorem State.count_filters (c i k n : Nat) : (s.count c i k n).filters = s.filters := rfl
@[simp] theorem State.count_incs (c i k n : Nat) : (s.count c i k n).incs = s.incs := rfl
@[simp] theorem State.count_retired (c i k n : Nat) : (s.count c i k n).retired = s.retired := rfl
@[simp] theorem State.count_late (c i k n : Nat) : (s.count c i k n).late = s.late := rfl
@[simp] theorem State.count_recsDue (c i k n : Nat) : (s.count c i k n).recsDue = s.recsDue := rfl
@[simp] theorem State.count_dirsDue (c i k n : Nat) : (s.count c i k n).dirsDue = s.dirsDue := rfl
@[simp] theorem State.count_groups (c i k n : Nat) : (s.count c i k n).groups = s.groups := rfl
@[simp] theorem State.count_wgs (c i k n : Nat) : (s.count c i k n).wgs = s.wgs := rfl
@[simp] theorem State.count_loads (c i k n : Nat) : (s.count c i k n).loads = s.loads := rfl
@[simp] theorem State.count_writes (c i k n : Nat) : (s.count c i k n).writes = s.writes := rfl
@[simp] theorem State.count_fences (c i k n : Nat) : (s.count c i k n).fences = s.fences := rfl
@[simp] theorem State.count_picots (c i k n : Nat) : (s.count c i k n).picots = s.picots := rfl
@[simp] theorem State.count_copies (c i k n : Nat) : (s.count c i k n).copies = s.copies := rfl
@[simp] theorem State.count_batches (c i k n : Nat) : (s.count c i k n).batches = s.batches := rfl
@[simp] theorem State.count_shqs (c i k n : Nat) : (s.count c i k n).shqs = s.shqs := rfl
@[simp] theorem State.count_rts (c i k n : Nat) : (s.count c i k n).rts = s.rts := rfl
@[simp] theorem State.count_msgs (c i k n : Nat) : (s.count c i k n).msgs = s.msgs := rfl
@[simp] theorem State.count_migs (c i k n : Nat) : (s.count c i k n).migs = s.migs := rfl
@[simp] theorem State.count_launches (c i k n : Nat) : (s.count c i k n).launches = s.launches := rfl
@[simp] theorem State.count_deferred (c i k n : Nat) : (s.count c i k n).deferred = s.deferred := rfl
@[simp] theorem State.count_fns (c i k n : Nat) : (s.count c i k n).fns = s.fns := rfl
@[simp] theorem State.count_bobs (c i k n : Nat) : (s.count c i k n).bobs = s.bobs := rfl
@[simp] theorem State.count_rtTurns (c i k n : Nat) : (s.count c i k n).rtTurns = s.rtTurns := rfl
@[simp] theorem State.count_ctls (c i k n : Nat) : (s.count c i k n).ctls = s.ctls := rfl
@[simp] theorem State.count_chans (c i k n : Nat) : (s.count c i k n).chans = s.chans := rfl
@[simp] theorem State.count_acts (c i k n : Nat) : (s.count c i k n).acts = s.acts := rfl
@[simp] theorem State.count_bwPeriods (c i k n : Nat) : (s.count c i k n).bwPeriods = s.bwPeriods := rfl
@[simp] theorem State.count_enPeriods (c i k n : Nat) : (s.count c i k n).enPeriods = s.enPeriods := rfl
@[simp] theorem State.count_enCharges (c i k n : Nat) : (s.count c i k n).enCharges = s.enCharges := rfl
@[simp] theorem State.count_shade (c i k n : Nat) : (s.count c i k n).shade = s.shade := rfl
@[simp] theorem State.count_err (c i k n : Nat) : (s.count c i k n).err = s.err := rfl
@[simp] theorem State.count_boot (c i k n : Nat) : (s.count c i k n).boot = s.boot := rfl
@[simp] theorem State.count_podid (c i k n : Nat) : (s.count c i k n).podid = s.podid := rfl
@[simp] theorem State.count_halts (c i k n : Nat) : (s.count c i k n).halts = s.halts := rfl
@[simp] theorem State.count_out (c i k n : Nat) : (s.count c i k n).out = s.out := rfl
@[simp] theorem State.put_now (a : Nat) (bs : List Byte) : (s.put a bs).now = s.now := rfl
@[simp] theorem State.put_cycles (a : Nat) (bs : List Byte) : (s.put a bs).cycles = s.cycles := rfl
@[simp] theorem State.put_agenda (a : Nat) (bs : List Byte) : (s.put a bs).agenda = s.agenda := rfl
@[simp] theorem State.put_cur (a : Nat) (bs : List Byte) : (s.put a bs).cur = s.cur := rfl
@[simp] theorem State.put_fresh (a : Nat) (bs : List Byte) : (s.put a bs).fresh = s.fresh := rfl
@[simp] theorem State.put_nextId (a : Nat) (bs : List Byte) : (s.put a bs).nextId = s.nextId := rfl
@[simp] theorem State.put_lines (a : Nat) (bs : List Byte) : (s.put a bs).lines = s.lines := rfl
@[simp] theorem State.put_tlb (a : Nat) (bs : List Byte) : (s.put a bs).tlb = s.tlb := rfl
@[simp] theorem State.put_dirs (a : Nat) (bs : List Byte) : (s.put a bs).dirs = s.dirs := rfl
@[simp] theorem State.put_filters (a : Nat) (bs : List Byte) : (s.put a bs).filters = s.filters := rfl
@[simp] theorem State.put_incs (a : Nat) (bs : List Byte) : (s.put a bs).incs = s.incs := rfl
@[simp] theorem State.put_retired (a : Nat) (bs : List Byte) : (s.put a bs).retired = s.retired := rfl
@[simp] theorem State.put_late (a : Nat) (bs : List Byte) : (s.put a bs).late = s.late := rfl
@[simp] theorem State.put_recsDue (a : Nat) (bs : List Byte) : (s.put a bs).recsDue = s.recsDue := rfl
@[simp] theorem State.put_dirsDue (a : Nat) (bs : List Byte) : (s.put a bs).dirsDue = s.dirsDue := rfl
@[simp] theorem State.put_cores (a : Nat) (bs : List Byte) : (s.put a bs).cores = s.cores := rfl
@[simp] theorem State.put_groups (a : Nat) (bs : List Byte) : (s.put a bs).groups = s.groups := rfl
@[simp] theorem State.put_wgs (a : Nat) (bs : List Byte) : (s.put a bs).wgs = s.wgs := rfl
@[simp] theorem State.put_loads (a : Nat) (bs : List Byte) : (s.put a bs).loads = s.loads := rfl
@[simp] theorem State.put_writes (a : Nat) (bs : List Byte) : (s.put a bs).writes = s.writes := rfl
@[simp] theorem State.put_fences (a : Nat) (bs : List Byte) : (s.put a bs).fences = s.fences := rfl
@[simp] theorem State.put_picots (a : Nat) (bs : List Byte) : (s.put a bs).picots = s.picots := rfl
@[simp] theorem State.put_copies (a : Nat) (bs : List Byte) : (s.put a bs).copies = s.copies := rfl
@[simp] theorem State.put_batches (a : Nat) (bs : List Byte) : (s.put a bs).batches = s.batches := rfl
@[simp] theorem State.put_shqs (a : Nat) (bs : List Byte) : (s.put a bs).shqs = s.shqs := rfl
@[simp] theorem State.put_rts (a : Nat) (bs : List Byte) : (s.put a bs).rts = s.rts := rfl
@[simp] theorem State.put_msgs (a : Nat) (bs : List Byte) : (s.put a bs).msgs = s.msgs := rfl
@[simp] theorem State.put_migs (a : Nat) (bs : List Byte) : (s.put a bs).migs = s.migs := rfl
@[simp] theorem State.put_launches (a : Nat) (bs : List Byte) : (s.put a bs).launches = s.launches := rfl
@[simp] theorem State.put_deferred (a : Nat) (bs : List Byte) : (s.put a bs).deferred = s.deferred := rfl
@[simp] theorem State.put_fns (a : Nat) (bs : List Byte) : (s.put a bs).fns = s.fns := rfl
@[simp] theorem State.put_bobs (a : Nat) (bs : List Byte) : (s.put a bs).bobs = s.bobs := rfl
@[simp] theorem State.put_rtTurns (a : Nat) (bs : List Byte) : (s.put a bs).rtTurns = s.rtTurns := rfl
@[simp] theorem State.put_ctls (a : Nat) (bs : List Byte) : (s.put a bs).ctls = s.ctls := rfl
@[simp] theorem State.put_chans (a : Nat) (bs : List Byte) : (s.put a bs).chans = s.chans := rfl
@[simp] theorem State.put_acts (a : Nat) (bs : List Byte) : (s.put a bs).acts = s.acts := rfl
@[simp] theorem State.put_bwPeriods (a : Nat) (bs : List Byte) : (s.put a bs).bwPeriods = s.bwPeriods := rfl
@[simp] theorem State.put_enPeriods (a : Nat) (bs : List Byte) : (s.put a bs).enPeriods = s.enPeriods := rfl
@[simp] theorem State.put_enCharges (a : Nat) (bs : List Byte) : (s.put a bs).enCharges = s.enCharges := rfl
@[simp] theorem State.put_shade (a : Nat) (bs : List Byte) : (s.put a bs).shade = s.shade := rfl
@[simp] theorem State.put_err (a : Nat) (bs : List Byte) : (s.put a bs).err = s.err := rfl
@[simp] theorem State.put_boot (a : Nat) (bs : List Byte) : (s.put a bs).boot = s.boot := rfl
@[simp] theorem State.put_podid (a : Nat) (bs : List Byte) : (s.put a bs).podid = s.podid := rfl
@[simp] theorem State.put_halts (a : Nat) (bs : List Byte) : (s.put a bs).halts = s.halts := rfl
@[simp] theorem State.put_out (a : Nat) (bs : List Byte) : (s.put a bs).out = s.out := rfl
@[simp] theorem State.putPois_now (a : Nat) (bs : List Byte) (p : Bool) : (s.putPois a bs p).now = s.now := rfl
@[simp] theorem State.putPois_cycles (a : Nat) (bs : List Byte) (p : Bool) : (s.putPois a bs p).cycles = s.cycles := rfl
@[simp] theorem State.putPois_agenda (a : Nat) (bs : List Byte) (p : Bool) : (s.putPois a bs p).agenda = s.agenda := rfl
@[simp] theorem State.putPois_cur (a : Nat) (bs : List Byte) (p : Bool) : (s.putPois a bs p).cur = s.cur := rfl
@[simp] theorem State.putPois_fresh (a : Nat) (bs : List Byte) (p : Bool) : (s.putPois a bs p).fresh = s.fresh := rfl
@[simp] theorem State.putPois_nextId (a : Nat) (bs : List Byte) (p : Bool) : (s.putPois a bs p).nextId = s.nextId := rfl
@[simp] theorem State.putPois_lines (a : Nat) (bs : List Byte) (p : Bool) : (s.putPois a bs p).lines = s.lines := rfl
@[simp] theorem State.putPois_tlb (a : Nat) (bs : List Byte) (p : Bool) : (s.putPois a bs p).tlb = s.tlb := rfl
@[simp] theorem State.putPois_dirs (a : Nat) (bs : List Byte) (p : Bool) : (s.putPois a bs p).dirs = s.dirs := rfl
@[simp] theorem State.putPois_filters (a : Nat) (bs : List Byte) (p : Bool) : (s.putPois a bs p).filters = s.filters := rfl
@[simp] theorem State.putPois_incs (a : Nat) (bs : List Byte) (p : Bool) : (s.putPois a bs p).incs = s.incs := rfl
@[simp] theorem State.putPois_retired (a : Nat) (bs : List Byte) (p : Bool) : (s.putPois a bs p).retired = s.retired := rfl
@[simp] theorem State.putPois_late (a : Nat) (bs : List Byte) (p : Bool) : (s.putPois a bs p).late = s.late := rfl
@[simp] theorem State.putPois_recsDue (a : Nat) (bs : List Byte) (p : Bool) : (s.putPois a bs p).recsDue = s.recsDue := rfl
@[simp] theorem State.putPois_dirsDue (a : Nat) (bs : List Byte) (p : Bool) : (s.putPois a bs p).dirsDue = s.dirsDue := rfl
@[simp] theorem State.putPois_cores (a : Nat) (bs : List Byte) (p : Bool) : (s.putPois a bs p).cores = s.cores := rfl
@[simp] theorem State.putPois_groups (a : Nat) (bs : List Byte) (p : Bool) : (s.putPois a bs p).groups = s.groups := rfl
@[simp] theorem State.putPois_wgs (a : Nat) (bs : List Byte) (p : Bool) : (s.putPois a bs p).wgs = s.wgs := rfl
@[simp] theorem State.putPois_loads (a : Nat) (bs : List Byte) (p : Bool) : (s.putPois a bs p).loads = s.loads := rfl
@[simp] theorem State.putPois_writes (a : Nat) (bs : List Byte) (p : Bool) : (s.putPois a bs p).writes = s.writes := rfl
@[simp] theorem State.putPois_fences (a : Nat) (bs : List Byte) (p : Bool) : (s.putPois a bs p).fences = s.fences := rfl
@[simp] theorem State.putPois_picots (a : Nat) (bs : List Byte) (p : Bool) : (s.putPois a bs p).picots = s.picots := rfl
@[simp] theorem State.putPois_copies (a : Nat) (bs : List Byte) (p : Bool) : (s.putPois a bs p).copies = s.copies := rfl
@[simp] theorem State.putPois_batches (a : Nat) (bs : List Byte) (p : Bool) : (s.putPois a bs p).batches = s.batches := rfl
@[simp] theorem State.putPois_shqs (a : Nat) (bs : List Byte) (p : Bool) : (s.putPois a bs p).shqs = s.shqs := rfl
@[simp] theorem State.putPois_rts (a : Nat) (bs : List Byte) (p : Bool) : (s.putPois a bs p).rts = s.rts := rfl
@[simp] theorem State.putPois_msgs (a : Nat) (bs : List Byte) (p : Bool) : (s.putPois a bs p).msgs = s.msgs := rfl
@[simp] theorem State.putPois_migs (a : Nat) (bs : List Byte) (p : Bool) : (s.putPois a bs p).migs = s.migs := rfl
@[simp] theorem State.putPois_launches (a : Nat) (bs : List Byte) (p : Bool) : (s.putPois a bs p).launches = s.launches := rfl
@[simp] theorem State.putPois_deferred (a : Nat) (bs : List Byte) (p : Bool) : (s.putPois a bs p).deferred = s.deferred := rfl
@[simp] theorem State.putPois_fns (a : Nat) (bs : List Byte) (p : Bool) : (s.putPois a bs p).fns = s.fns := rfl
@[simp] theorem State.putPois_bobs (a : Nat) (bs : List Byte) (p : Bool) : (s.putPois a bs p).bobs = s.bobs := rfl
@[simp] theorem State.putPois_rtTurns (a : Nat) (bs : List Byte) (p : Bool) : (s.putPois a bs p).rtTurns = s.rtTurns := rfl
@[simp] theorem State.putPois_ctls (a : Nat) (bs : List Byte) (p : Bool) : (s.putPois a bs p).ctls = s.ctls := rfl
@[simp] theorem State.putPois_chans (a : Nat) (bs : List Byte) (p : Bool) : (s.putPois a bs p).chans = s.chans := rfl
@[simp] theorem State.putPois_acts (a : Nat) (bs : List Byte) (p : Bool) : (s.putPois a bs p).acts = s.acts := rfl
@[simp] theorem State.putPois_bwPeriods (a : Nat) (bs : List Byte) (p : Bool) : (s.putPois a bs p).bwPeriods = s.bwPeriods := rfl
@[simp] theorem State.putPois_enPeriods (a : Nat) (bs : List Byte) (p : Bool) : (s.putPois a bs p).enPeriods = s.enPeriods := rfl
@[simp] theorem State.putPois_enCharges (a : Nat) (bs : List Byte) (p : Bool) : (s.putPois a bs p).enCharges = s.enCharges := rfl
@[simp] theorem State.putPois_shade (a : Nat) (bs : List Byte) (p : Bool) : (s.putPois a bs p).shade = s.shade := rfl
@[simp] theorem State.putPois_err (a : Nat) (bs : List Byte) (p : Bool) : (s.putPois a bs p).err = s.err := rfl
@[simp] theorem State.putPois_boot (a : Nat) (bs : List Byte) (p : Bool) : (s.putPois a bs p).boot = s.boot := rfl
@[simp] theorem State.putPois_podid (a : Nat) (bs : List Byte) (p : Bool) : (s.putPois a bs p).podid = s.podid := rfl
@[simp] theorem State.putPois_halts (a : Nat) (bs : List Byte) (p : Bool) : (s.putPois a bs p).halts = s.halts := rfl
@[simp] theorem State.putPois_out (a : Nat) (bs : List Byte) (p : Bool) : (s.putPois a bs p).out = s.out := rfl
@[simp] theorem State.scrPut_now (c o : Nat) (bs : List Byte) (p : Bool) : (s.scrPut c o bs p).now = s.now := rfl
@[simp] theorem State.scrPut_cycles (c o : Nat) (bs : List Byte) (p : Bool) : (s.scrPut c o bs p).cycles = s.cycles := rfl
@[simp] theorem State.scrPut_agenda (c o : Nat) (bs : List Byte) (p : Bool) : (s.scrPut c o bs p).agenda = s.agenda := rfl
@[simp] theorem State.scrPut_cur (c o : Nat) (bs : List Byte) (p : Bool) : (s.scrPut c o bs p).cur = s.cur := rfl
@[simp] theorem State.scrPut_fresh (c o : Nat) (bs : List Byte) (p : Bool) : (s.scrPut c o bs p).fresh = s.fresh := rfl
@[simp] theorem State.scrPut_nextId (c o : Nat) (bs : List Byte) (p : Bool) : (s.scrPut c o bs p).nextId = s.nextId := rfl
@[simp] theorem State.scrPut_mem (c o : Nat) (bs : List Byte) (p : Bool) : (s.scrPut c o bs p).mem = s.mem := rfl
@[simp] theorem State.scrPut_pois (c o : Nat) (bs : List Byte) (p : Bool) : (s.scrPut c o bs p).pois = s.pois := rfl
@[simp] theorem State.scrPut_lines (c o : Nat) (bs : List Byte) (p : Bool) : (s.scrPut c o bs p).lines = s.lines := rfl
@[simp] theorem State.scrPut_tlb (c o : Nat) (bs : List Byte) (p : Bool) : (s.scrPut c o bs p).tlb = s.tlb := rfl
@[simp] theorem State.scrPut_dirs (c o : Nat) (bs : List Byte) (p : Bool) : (s.scrPut c o bs p).dirs = s.dirs := rfl
@[simp] theorem State.scrPut_filters (c o : Nat) (bs : List Byte) (p : Bool) : (s.scrPut c o bs p).filters = s.filters := rfl
@[simp] theorem State.scrPut_incs (c o : Nat) (bs : List Byte) (p : Bool) : (s.scrPut c o bs p).incs = s.incs := rfl
@[simp] theorem State.scrPut_retired (c o : Nat) (bs : List Byte) (p : Bool) : (s.scrPut c o bs p).retired = s.retired := rfl
@[simp] theorem State.scrPut_late (c o : Nat) (bs : List Byte) (p : Bool) : (s.scrPut c o bs p).late = s.late := rfl
@[simp] theorem State.scrPut_recsDue (c o : Nat) (bs : List Byte) (p : Bool) : (s.scrPut c o bs p).recsDue = s.recsDue := rfl
@[simp] theorem State.scrPut_dirsDue (c o : Nat) (bs : List Byte) (p : Bool) : (s.scrPut c o bs p).dirsDue = s.dirsDue := rfl
@[simp] theorem State.scrPut_groups (c o : Nat) (bs : List Byte) (p : Bool) : (s.scrPut c o bs p).groups = s.groups := rfl
@[simp] theorem State.scrPut_wgs (c o : Nat) (bs : List Byte) (p : Bool) : (s.scrPut c o bs p).wgs = s.wgs := rfl
@[simp] theorem State.scrPut_loads (c o : Nat) (bs : List Byte) (p : Bool) : (s.scrPut c o bs p).loads = s.loads := rfl
@[simp] theorem State.scrPut_writes (c o : Nat) (bs : List Byte) (p : Bool) : (s.scrPut c o bs p).writes = s.writes := rfl
@[simp] theorem State.scrPut_fences (c o : Nat) (bs : List Byte) (p : Bool) : (s.scrPut c o bs p).fences = s.fences := rfl
@[simp] theorem State.scrPut_picots (c o : Nat) (bs : List Byte) (p : Bool) : (s.scrPut c o bs p).picots = s.picots := rfl
@[simp] theorem State.scrPut_copies (c o : Nat) (bs : List Byte) (p : Bool) : (s.scrPut c o bs p).copies = s.copies := rfl
@[simp] theorem State.scrPut_batches (c o : Nat) (bs : List Byte) (p : Bool) : (s.scrPut c o bs p).batches = s.batches := rfl
@[simp] theorem State.scrPut_shqs (c o : Nat) (bs : List Byte) (p : Bool) : (s.scrPut c o bs p).shqs = s.shqs := rfl
@[simp] theorem State.scrPut_rts (c o : Nat) (bs : List Byte) (p : Bool) : (s.scrPut c o bs p).rts = s.rts := rfl
@[simp] theorem State.scrPut_msgs (c o : Nat) (bs : List Byte) (p : Bool) : (s.scrPut c o bs p).msgs = s.msgs := rfl
@[simp] theorem State.scrPut_migs (c o : Nat) (bs : List Byte) (p : Bool) : (s.scrPut c o bs p).migs = s.migs := rfl
@[simp] theorem State.scrPut_launches (c o : Nat) (bs : List Byte) (p : Bool) : (s.scrPut c o bs p).launches = s.launches := rfl
@[simp] theorem State.scrPut_deferred (c o : Nat) (bs : List Byte) (p : Bool) : (s.scrPut c o bs p).deferred = s.deferred := rfl
@[simp] theorem State.scrPut_fns (c o : Nat) (bs : List Byte) (p : Bool) : (s.scrPut c o bs p).fns = s.fns := rfl
@[simp] theorem State.scrPut_bobs (c o : Nat) (bs : List Byte) (p : Bool) : (s.scrPut c o bs p).bobs = s.bobs := rfl
@[simp] theorem State.scrPut_rtTurns (c o : Nat) (bs : List Byte) (p : Bool) : (s.scrPut c o bs p).rtTurns = s.rtTurns := rfl
@[simp] theorem State.scrPut_ctls (c o : Nat) (bs : List Byte) (p : Bool) : (s.scrPut c o bs p).ctls = s.ctls := rfl
@[simp] theorem State.scrPut_chans (c o : Nat) (bs : List Byte) (p : Bool) : (s.scrPut c o bs p).chans = s.chans := rfl
@[simp] theorem State.scrPut_acts (c o : Nat) (bs : List Byte) (p : Bool) : (s.scrPut c o bs p).acts = s.acts := rfl
@[simp] theorem State.scrPut_bwPeriods (c o : Nat) (bs : List Byte) (p : Bool) : (s.scrPut c o bs p).bwPeriods = s.bwPeriods := rfl
@[simp] theorem State.scrPut_enPeriods (c o : Nat) (bs : List Byte) (p : Bool) : (s.scrPut c o bs p).enPeriods = s.enPeriods := rfl
@[simp] theorem State.scrPut_enCharges (c o : Nat) (bs : List Byte) (p : Bool) : (s.scrPut c o bs p).enCharges = s.enCharges := rfl
@[simp] theorem State.scrPut_shade (c o : Nat) (bs : List Byte) (p : Bool) : (s.scrPut c o bs p).shade = s.shade := rfl
@[simp] theorem State.scrPut_err (c o : Nat) (bs : List Byte) (p : Bool) : (s.scrPut c o bs p).err = s.err := rfl
@[simp] theorem State.scrPut_boot (c o : Nat) (bs : List Byte) (p : Bool) : (s.scrPut c o bs p).boot = s.boot := rfl
@[simp] theorem State.scrPut_podid (c o : Nat) (bs : List Byte) (p : Bool) : (s.scrPut c o bs p).podid = s.podid := rfl
@[simp] theorem State.scrPut_halts (c o : Nat) (bs : List Byte) (p : Bool) : (s.scrPut c o bs p).halts = s.halts := rfl
@[simp] theorem State.scrPut_out (c o : Nat) (bs : List Byte) (p : Bool) : (s.scrPut c o bs p).out = s.out := rfl
@[simp] theorem State.newId_now : s.newId.2.now = s.now := rfl
@[simp] theorem State.newId_cycles : s.newId.2.cycles = s.cycles := rfl
@[simp] theorem State.newId_agenda : s.newId.2.agenda = s.agenda := rfl
@[simp] theorem State.newId_cur : s.newId.2.cur = s.cur := rfl
@[simp] theorem State.newId_fresh : s.newId.2.fresh = s.fresh := rfl
@[simp] theorem State.newId_mem : s.newId.2.mem = s.mem := rfl
@[simp] theorem State.newId_pois : s.newId.2.pois = s.pois := rfl
@[simp] theorem State.newId_lines : s.newId.2.lines = s.lines := rfl
@[simp] theorem State.newId_tlb : s.newId.2.tlb = s.tlb := rfl
@[simp] theorem State.newId_dirs : s.newId.2.dirs = s.dirs := rfl
@[simp] theorem State.newId_filters : s.newId.2.filters = s.filters := rfl
@[simp] theorem State.newId_incs : s.newId.2.incs = s.incs := rfl
@[simp] theorem State.newId_retired : s.newId.2.retired = s.retired := rfl
@[simp] theorem State.newId_late : s.newId.2.late = s.late := rfl
@[simp] theorem State.newId_recsDue : s.newId.2.recsDue = s.recsDue := rfl
@[simp] theorem State.newId_dirsDue : s.newId.2.dirsDue = s.dirsDue := rfl
@[simp] theorem State.newId_cores : s.newId.2.cores = s.cores := rfl
@[simp] theorem State.newId_groups : s.newId.2.groups = s.groups := rfl
@[simp] theorem State.newId_wgs : s.newId.2.wgs = s.wgs := rfl
@[simp] theorem State.newId_loads : s.newId.2.loads = s.loads := rfl
@[simp] theorem State.newId_writes : s.newId.2.writes = s.writes := rfl
@[simp] theorem State.newId_fences : s.newId.2.fences = s.fences := rfl
@[simp] theorem State.newId_picots : s.newId.2.picots = s.picots := rfl
@[simp] theorem State.newId_copies : s.newId.2.copies = s.copies := rfl
@[simp] theorem State.newId_batches : s.newId.2.batches = s.batches := rfl
@[simp] theorem State.newId_shqs : s.newId.2.shqs = s.shqs := rfl
@[simp] theorem State.newId_rts : s.newId.2.rts = s.rts := rfl
@[simp] theorem State.newId_msgs : s.newId.2.msgs = s.msgs := rfl
@[simp] theorem State.newId_migs : s.newId.2.migs = s.migs := rfl
@[simp] theorem State.newId_launches : s.newId.2.launches = s.launches := rfl
@[simp] theorem State.newId_deferred : s.newId.2.deferred = s.deferred := rfl
@[simp] theorem State.newId_fns : s.newId.2.fns = s.fns := rfl
@[simp] theorem State.newId_bobs : s.newId.2.bobs = s.bobs := rfl
@[simp] theorem State.newId_rtTurns : s.newId.2.rtTurns = s.rtTurns := rfl
@[simp] theorem State.newId_ctls : s.newId.2.ctls = s.ctls := rfl
@[simp] theorem State.newId_chans : s.newId.2.chans = s.chans := rfl
@[simp] theorem State.newId_acts : s.newId.2.acts = s.acts := rfl
@[simp] theorem State.newId_bwPeriods : s.newId.2.bwPeriods = s.bwPeriods := rfl
@[simp] theorem State.newId_enPeriods : s.newId.2.enPeriods = s.enPeriods := rfl
@[simp] theorem State.newId_enCharges : s.newId.2.enCharges = s.enCharges := rfl
@[simp] theorem State.newId_shade : s.newId.2.shade = s.shade := rfl
@[simp] theorem State.newId_err : s.newId.2.err = s.err := rfl
@[simp] theorem State.newId_boot : s.newId.2.boot = s.boot := rfl
@[simp] theorem State.newId_podid : s.newId.2.podid = s.podid := rfl
@[simp] theorem State.newId_halts : s.newId.2.halts = s.halts := rfl
@[simp] theorem State.newId_out : s.newId.2.out = s.out := rfl
@[simp] theorem State.free_now : s.free.2.now = s.now := rfl
@[simp] theorem State.free_cycles : s.free.2.cycles = s.cycles := rfl
@[simp] theorem State.free_agenda : s.free.2.agenda = s.agenda := rfl
@[simp] theorem State.free_cur : s.free.2.cur = s.cur := rfl
@[simp] theorem State.free_nextId : s.free.2.nextId = s.nextId := rfl
@[simp] theorem State.free_mem : s.free.2.mem = s.mem := rfl
@[simp] theorem State.free_pois : s.free.2.pois = s.pois := rfl
@[simp] theorem State.free_lines : s.free.2.lines = s.lines := rfl
@[simp] theorem State.free_tlb : s.free.2.tlb = s.tlb := rfl
@[simp] theorem State.free_dirs : s.free.2.dirs = s.dirs := rfl
@[simp] theorem State.free_filters : s.free.2.filters = s.filters := rfl
@[simp] theorem State.free_incs : s.free.2.incs = s.incs := rfl
@[simp] theorem State.free_retired : s.free.2.retired = s.retired := rfl
@[simp] theorem State.free_late : s.free.2.late = s.late := rfl
@[simp] theorem State.free_recsDue : s.free.2.recsDue = s.recsDue := rfl
@[simp] theorem State.free_dirsDue : s.free.2.dirsDue = s.dirsDue := rfl
@[simp] theorem State.free_cores : s.free.2.cores = s.cores := rfl
@[simp] theorem State.free_groups : s.free.2.groups = s.groups := rfl
@[simp] theorem State.free_wgs : s.free.2.wgs = s.wgs := rfl
@[simp] theorem State.free_loads : s.free.2.loads = s.loads := rfl
@[simp] theorem State.free_writes : s.free.2.writes = s.writes := rfl
@[simp] theorem State.free_fences : s.free.2.fences = s.fences := rfl
@[simp] theorem State.free_picots : s.free.2.picots = s.picots := rfl
@[simp] theorem State.free_copies : s.free.2.copies = s.copies := rfl
@[simp] theorem State.free_batches : s.free.2.batches = s.batches := rfl
@[simp] theorem State.free_shqs : s.free.2.shqs = s.shqs := rfl
@[simp] theorem State.free_rts : s.free.2.rts = s.rts := rfl
@[simp] theorem State.free_msgs : s.free.2.msgs = s.msgs := rfl
@[simp] theorem State.free_migs : s.free.2.migs = s.migs := rfl
@[simp] theorem State.free_launches : s.free.2.launches = s.launches := rfl
@[simp] theorem State.free_deferred : s.free.2.deferred = s.deferred := rfl
@[simp] theorem State.free_fns : s.free.2.fns = s.fns := rfl
@[simp] theorem State.free_bobs : s.free.2.bobs = s.bobs := rfl
@[simp] theorem State.free_rtTurns : s.free.2.rtTurns = s.rtTurns := rfl
@[simp] theorem State.free_ctls : s.free.2.ctls = s.ctls := rfl
@[simp] theorem State.free_chans : s.free.2.chans = s.chans := rfl
@[simp] theorem State.free_acts : s.free.2.acts = s.acts := rfl
@[simp] theorem State.free_bwPeriods : s.free.2.bwPeriods = s.bwPeriods := rfl
@[simp] theorem State.free_enPeriods : s.free.2.enPeriods = s.enPeriods := rfl
@[simp] theorem State.free_enCharges : s.free.2.enCharges = s.enCharges := rfl
@[simp] theorem State.free_shade : s.free.2.shade = s.shade := rfl
@[simp] theorem State.free_err : s.free.2.err = s.err := rfl
@[simp] theorem State.free_boot : s.free.2.boot = s.boot := rfl
@[simp] theorem State.free_podid : s.free.2.podid = s.podid := rfl
@[simp] theorem State.free_halts : s.free.2.halts = s.halts := rfl
@[simp] theorem State.free_out : s.free.2.out = s.out := rfl
@[simp] theorem State.choose_now (n : Nat) : (s.choose n).2.now = s.now := rfl
@[simp] theorem State.choose_cycles (n : Nat) : (s.choose n).2.cycles = s.cycles := rfl
@[simp] theorem State.choose_agenda (n : Nat) : (s.choose n).2.agenda = s.agenda := rfl
@[simp] theorem State.choose_cur (n : Nat) : (s.choose n).2.cur = s.cur := rfl
@[simp] theorem State.choose_nextId (n : Nat) : (s.choose n).2.nextId = s.nextId := rfl
@[simp] theorem State.choose_mem (n : Nat) : (s.choose n).2.mem = s.mem := rfl
@[simp] theorem State.choose_pois (n : Nat) : (s.choose n).2.pois = s.pois := rfl
@[simp] theorem State.choose_lines (n : Nat) : (s.choose n).2.lines = s.lines := rfl
@[simp] theorem State.choose_tlb (n : Nat) : (s.choose n).2.tlb = s.tlb := rfl
@[simp] theorem State.choose_dirs (n : Nat) : (s.choose n).2.dirs = s.dirs := rfl
@[simp] theorem State.choose_filters (n : Nat) : (s.choose n).2.filters = s.filters := rfl
@[simp] theorem State.choose_incs (n : Nat) : (s.choose n).2.incs = s.incs := rfl
@[simp] theorem State.choose_retired (n : Nat) : (s.choose n).2.retired = s.retired := rfl
@[simp] theorem State.choose_late (n : Nat) : (s.choose n).2.late = s.late := rfl
@[simp] theorem State.choose_recsDue (n : Nat) : (s.choose n).2.recsDue = s.recsDue := rfl
@[simp] theorem State.choose_dirsDue (n : Nat) : (s.choose n).2.dirsDue = s.dirsDue := rfl
@[simp] theorem State.choose_cores (n : Nat) : (s.choose n).2.cores = s.cores := rfl
@[simp] theorem State.choose_groups (n : Nat) : (s.choose n).2.groups = s.groups := rfl
@[simp] theorem State.choose_wgs (n : Nat) : (s.choose n).2.wgs = s.wgs := rfl
@[simp] theorem State.choose_loads (n : Nat) : (s.choose n).2.loads = s.loads := rfl
@[simp] theorem State.choose_writes (n : Nat) : (s.choose n).2.writes = s.writes := rfl
@[simp] theorem State.choose_fences (n : Nat) : (s.choose n).2.fences = s.fences := rfl
@[simp] theorem State.choose_picots (n : Nat) : (s.choose n).2.picots = s.picots := rfl
@[simp] theorem State.choose_copies (n : Nat) : (s.choose n).2.copies = s.copies := rfl
@[simp] theorem State.choose_batches (n : Nat) : (s.choose n).2.batches = s.batches := rfl
@[simp] theorem State.choose_shqs (n : Nat) : (s.choose n).2.shqs = s.shqs := rfl
@[simp] theorem State.choose_rts (n : Nat) : (s.choose n).2.rts = s.rts := rfl
@[simp] theorem State.choose_msgs (n : Nat) : (s.choose n).2.msgs = s.msgs := rfl
@[simp] theorem State.choose_migs (n : Nat) : (s.choose n).2.migs = s.migs := rfl
@[simp] theorem State.choose_launches (n : Nat) : (s.choose n).2.launches = s.launches := rfl
@[simp] theorem State.choose_deferred (n : Nat) : (s.choose n).2.deferred = s.deferred := rfl
@[simp] theorem State.choose_fns (n : Nat) : (s.choose n).2.fns = s.fns := rfl
@[simp] theorem State.choose_bobs (n : Nat) : (s.choose n).2.bobs = s.bobs := rfl
@[simp] theorem State.choose_rtTurns (n : Nat) : (s.choose n).2.rtTurns = s.rtTurns := rfl
@[simp] theorem State.choose_ctls (n : Nat) : (s.choose n).2.ctls = s.ctls := rfl
@[simp] theorem State.choose_chans (n : Nat) : (s.choose n).2.chans = s.chans := rfl
@[simp] theorem State.choose_acts (n : Nat) : (s.choose n).2.acts = s.acts := rfl
@[simp] theorem State.choose_bwPeriods (n : Nat) : (s.choose n).2.bwPeriods = s.bwPeriods := rfl
@[simp] theorem State.choose_enPeriods (n : Nat) : (s.choose n).2.enPeriods = s.enPeriods := rfl
@[simp] theorem State.choose_enCharges (n : Nat) : (s.choose n).2.enCharges = s.enCharges := rfl
@[simp] theorem State.choose_shade (n : Nat) : (s.choose n).2.shade = s.shade := rfl
@[simp] theorem State.choose_err (n : Nat) : (s.choose n).2.err = s.err := rfl
@[simp] theorem State.choose_boot (n : Nat) : (s.choose n).2.boot = s.boot := rfl
@[simp] theorem State.choose_podid (n : Nat) : (s.choose n).2.podid = s.podid := rfl
@[simp] theorem State.choose_halts (n : Nat) : (s.choose n).2.halts = s.halts := rfl
@[simp] theorem State.choose_out (n : Nat) : (s.choose n).2.out = s.out := rfl

end Sys2Proof.Machine
end

