-- ==== Sys2Proof/Laws/MemoryKeeps.lean ====
section
/-! SUPPORT. What it means that an answer keeps memory, and the laws of folds and identities. -/

namespace Sys2Proof.Machine

/-- A fold of updates that keep memory keeps memory. -/
theorem foldl_mem {α : Type} {f : State → α → State} (h : ∀ s a, (f s a).mem = s.mem) (l : List α) (s : State) :
    (l.foldl f s).mem = s.mem := by
  induction l generalizing s with
  | nil => rfl
  | cons a l ih => rw [List.foldl_cons, ih, h]
theorem foldl_mem2 {α β : Type} {f : β × State → α → β × State} (h : ∀ s a, (f s a).2.mem = s.2.mem) (l : List α) (s : β × State) :
    (l.foldl f s).2.mem = s.2.mem := by
  induction l generalizing s with
  | nil => rfl
  | cons a l ih => rw [List.foldl_cons, ih, h]

/-- Whatever state an answer carries has the memory `m`. -/
def Res.keeps (m : List Host.Cell) : Res → Prop
  | .ok t => t.mem = m
  | .jump t => t.mem = m
  | .stall _ => True
  | .wait t => t.mem = m
  | .hold t _ => t.mem = m
  | .trap _ => True
  | .trapIn _ t => t.mem = m
  | .fault _ t => t.mem = m
  | .refuse _ => True
def CRes.keeps (m : List Host.Cell) : CRes → Prop
  | .ok t => t.mem = m
  | .fault t => t.mem = m
  | .wait t => t.mem = m
def BRes.keeps (m : List Host.Cell) : BRes → Prop
  | .ok t => t.mem = m
  | .jump _ t => t.mem = m
  | .stall _ t => t.mem = m
  | .abort _ t => t.mem = m
  | _ => True
def Fetched.keeps (m : List Host.Cell) : Fetched → Prop
  | .run _ t => t.mem = m
  | .pass t => t.mem = m
def RingRes.keeps (m : List Host.Cell) : RingRes → Prop
  | .ok t => t.mem = m
  | _ => True
def LineRes.keeps (m : List Host.Cell) : LineRes → Prop
  | .ok _ _ t => t.mem = m
  | .fault t => t.mem = m
  | .wait t => t.mem = m
  | _ => True
def PieceRes.keeps (m : List Host.Cell) : PieceRes → Prop
  | .ok _ _ t => t.mem = m
  | .refuse _ t => t.mem = m
  | _ => True
/-- Every next state has the memory `m`. -/
def KeepsMem (m : List Host.Cell) (o : Host.Outcome State Fault Refusal) : Prop := ∀ t, o = .next t → t.mem = m

theorem getD_mem {s : State} {o : Option State} {m : List Host.Cell} (hs : s.mem = m) (h : ∀ t, o = some t → t.mem = m) :
    (o.getD s).mem = m := by
  cases o with
  | none => exact hs
  | some t => exact h t rfl

theorem State.newId_keep {s : State} {a t} (h : s.newId = (a, t)) : t.mem = s.mem := by cases h; rfl
theorem State.free_keep {s : State} {a t} (h : s.free = (a, t)) : t.mem = s.mem := by cases h; rfl
theorem State.choose_keep {s : State} {n a t} (h : s.choose n = (a, t)) : t.mem = s.mem := by cases h; rfl

theorem ite_keep {c : Prop} [Decidable c] {a b : State} {m : List Host.Cell} (ha : a.mem = m) (hb : b.mem = m) :
    (if c then a else b).mem = m := by
  split <;> assumption

/-- Checks in a row keep memory when each of them does. -/
theorem ChkRes.andThen_mem {r : ChkRes × State} {k : State → ChkRes × State} (hk : ∀ s, (k s).2.mem = s.mem) :
    (ChkRes.andThen r k).2.mem = r.2.mem := by
  unfold ChkRes.andThen; split
  · exact hk _
  · rename_i s
    have := hk s
    split <;> simp_all
  · rfl

end Sys2Proof.Machine
end

