-- ==== Sys2Proof/Laws/Tables.lean ====
section
/-! SUPPORT. Laws of sparse tables and of bytes in canonical form: a read after a write, and that writes keep the form. -/

namespace Sys2Proof

variable {α : Type}

theorem tget?_tset (m : Tab α) (k j : Nat) (v : α) : tget? (tset m k v) j = if k = j then some v else tget? m j := by
  induction m with
  | nil => simp [tset, tget?]
  | cons p m ih =>
    obtain ⟨i, x⟩ := p
    simp only [tset]
    split
    · simp [tget?]
    · split
      · subst_vars; by_cases h : i = j <;> simp [tget?, h]
      · by_cases h : i = j
        · subst h; simp [tget?]; intro h; omega
        · simp [tget?, h, ih]
@[simp] theorem tget?_tset_self (m : Tab α) (k : Nat) (v : α) : tget? (tset m k v) k = some v := by simp [tget?_tset]
theorem tget?_tset_ne (m : Tab α) {k j : Nat} (v : α) (h : k ≠ j) : tget? (tset m k v) j = tget? m j := by simp [tget?_tset, h]
theorem tgetD_tset (m : Tab α) (k j : Nat) (v z : α) : tgetD (tset m k v) j z = if k = j then v else tgetD m j z := by
  unfold tgetD; rw [tget?_tset]; split <;> rfl
@[simp] theorem tgetD_tset_self (m : Tab α) (k : Nat) (v z : α) : tgetD (tset m k v) k z = v := by simp [tgetD_tset]
theorem tgetD_tset_ne (m : Tab α) {k j : Nat} (v z : α) (h : k ≠ j) : tgetD (tset m k v) j z = tgetD m j z := by simp [tgetD_tset, h]
theorem tset_tset (m : Tab α) (k : Nat) (v w : α) : tset (tset m k v) k w = tset m k w := by
  induction m with
  | nil => simp [tset]
  | cons p m ih =>
    obtain ⟨i, x⟩ := p
    simp only [tset]
    split
    · simp [tset]
    · split
      · simp [tset]
      · rename_i h1 h2; simp [tset, h1, h2, ih]
theorem tget?_tmod (m : Tab α) (k j : Nat) (f : α → α) :
    tget? (tmod m k f) j = if k = j then (tget? m j).map f else tget? m j := by
  unfold tmod
  split
  · rename_i v h; rw [tget?_tset]; split
    · subst_vars; simp [h]
    · rfl
  · rename_i h; split
    · subst_vars; simp [h]
    · rfl
@[simp] theorem tget?_tmod_self (m : Tab α) (k : Nat) (f : α → α) : tget? (tmod m k f) k = (tget? m k).map f := by
  simp [tget?_tmod]
theorem tget?_tmod_ne (m : Tab α) {k j : Nat} (f : α → α) (h : k ≠ j) : tget? (tmod m k f) j = tget? m j := by
  simp [tget?_tmod, h]
theorem tget?_mem {m : Tab α} {k : Nat} {v : α} (h : tget? m k = some v) : (k, v) ∈ m := by
  induction m with
  | nil => simp [tget?] at h
  | cons p m ih =>
    obtain ⟨i, x⟩ := p
    simp only [tget?] at h
    split at h
    · subst_vars; cases h; simp
    · exact List.mem_cons_of_mem _ (ih h)
theorem tset_subset {m : Tab α} {k : Nat} {v : α} {p : Nat × α} (h : p ∈ tset m k v) : p = (k, v) ∨ p ∈ m := by
  induction m with
  | nil => simp [tset] at h; exact .inl h
  | cons q m ih =>
    obtain ⟨i, x⟩ := q
    simp only [tset] at h
    split at h
    · simpa using h
    · split at h
      · rcases List.mem_cons.mp h with h | h
        · exact .inl h
        · exact .inr (List.mem_cons_of_mem _ h)
      · rcases List.mem_cons.mp h with h | h
        · exact .inr (h ▸ List.mem_cons_self)
        · rcases ih h with h | h
          · exact .inl h
          · exact .inr (List.mem_cons_of_mem _ h)
theorem terase_subset {m : Tab α} {k : Nat} {p : Nat × α} (h : p ∈ terase m k) : p ∈ m := by
  induction m with
  | nil => simp [terase] at h
  | cons q m ih =>
    obtain ⟨i, x⟩ := q
    simp only [terase] at h
    split at h
    · exact List.mem_cons_of_mem _ h
    · rcases List.mem_cons.mp h with h | h
      · exact h ▸ List.mem_cons_self
      · exact List.mem_cons_of_mem _ (ih h)
theorem mem_spanN {a n k : Nat} : k ∈ spanN a n ↔ a ≤ k ∧ k < a + n := by
  induction n generalizing a with
  | zero => simp [spanN]
  | succ n ih => simp only [spanN, List.mem_cons, ih]; omega
theorem mem_upTo {n k : Nat} : k ∈ upTo n ↔ k < n := by simp [upTo, mem_spanN]
theorem length_spanN (a n : Nat) : (spanN a n).length = n := by
  induction n generalizing a with
  | zero => rfl
  | succ n ih => simp [spanN, ih]

namespace Machine

/-! ### Bytes -/

theorem cellsFrom_mono {m : List Host.Cell} {a b : Nat} (h : a ≤ b) (hm : cellsFrom b m = true) : cellsFrom a m = true := by
  cases m with
  | nil => rfl
  | cons p m => obtain ⟨k, v⟩ := p; simp [cellsFrom] at *; exact ⟨⟨by omega, hm.1.2⟩, hm.2⟩
theorem cellsFrom_cdel {m : List Host.Cell} {lo : Nat} (k : Nat) (hm : cellsFrom lo m = true) : cellsFrom lo (cdel m k) = true := by
  induction m generalizing lo with
  | nil => rfl
  | cons p m ih =>
    obtain ⟨a, b⟩ := p
    simp only [cellsFrom, Bool.and_eq_true, decide_eq_true_eq] at hm
    simp only [cdel]
    split
    · exact cellsFrom_mono (by omega) (ih hm.2)
    · simpa [cellsFrom, hm.1.1, hm.1.2] using ih hm.2
theorem cellsFrom_cins {m : List Host.Cell} {lo k : Nat} {v : Byte} (hv : v ≠ 0#8) (hk : lo ≤ k) (hm : cellsFrom lo m = true) :
    cellsFrom lo (cins m k v) = true := by
  induction m generalizing lo with
  | nil => simp [cins, cellsFrom, hv, hk]
  | cons p m ih =>
    obtain ⟨a, b⟩ := p
    simp only [cellsFrom, Bool.and_eq_true, decide_eq_true_eq, bne_iff_ne] at hm
    obtain ⟨⟨h1, h2⟩, h3⟩ := hm
    simp only [cins]
    split
    · simp [cellsFrom, hv, hk, h2, h3]; omega
    · split
      · subst_vars; simp [cellsFrom, hv, h1, h3]
      · simp [cellsFrom, h1, h2, ih (by omega) h3]
/-- A write of one byte keeps the canonical form. -/
theorem wf_cput {m : List Host.Cell} (k : Nat) (v : Byte) (h : Memory.wf m = true) : Memory.wf (cput m k v) = true := by
  unfold cput
  split
  · exact cellsFrom_cdel k h
  · rename_i hv; exact cellsFrom_cins hv (Nat.zero_le _) h
/-- A write of bytes keeps the canonical form. -/
theorem wf_cwrite (bs : List Byte) {m : List Host.Cell} (a : Nat) (h : Memory.wf m = true) : Memory.wf (cwrite m a bs) = true := by
  induction bs generalizing m a with
  | nil => exact h
  | cons b bs ih => exact ih (a + 1) (wf_cput a b h)

theorem cget_cdel (m : List Host.Cell) (k j : Nat) : cget (cdel m k) j = if k = j then 0#8 else cget m j := by
  induction m with
  | nil => simp [cdel, cget]
  | cons p m ih =>
    obtain ⟨a, b⟩ := p
    simp only [cdel]
    by_cases h : a = k
    · subst h; rw [if_pos rfl, ih]; by_cases hj : a = j <;> simp [cget, hj]
    · rw [if_neg h]; simp only [cget, ih]
      by_cases hj : a = j
      · subst hj; rw [if_pos rfl, if_neg (fun e => h e.symm), if_pos rfl]
      · simp [hj]
theorem cget_cins (m : List Host.Cell) (k j : Nat) (v : Byte) : cget (cins m k v) j = if k = j then v else cget m j := by
  induction m with
  | nil => simp [cins, cget]
  | cons p m ih =>
    obtain ⟨a, b⟩ := p
    simp only [cins]
    split
    · simp [cget]
    · split
      · subst_vars; by_cases hj : a = j <;> simp [cget, hj]
      · rename_i h1 h2; simp only [cget, ih]
        by_cases hj : a = j
        · subst hj; rw [if_pos rfl, if_neg h2, if_pos rfl]
        · simp [hj]
/-- A read after a write of one byte. -/
theorem cget_cput (m : List Host.Cell) (k j : Nat) (v : Byte) : cget (cput m k v) j = if k = j then v else cget m j := by
  unfold cput
  split
  · subst_vars; exact cget_cdel m k j
  · exact cget_cins m k j v
/-- A read after a write of bytes. -/
theorem cget_cwrite (m : List Host.Cell) (bs : List Byte) (a j : Nat) :
    cget (cwrite m a bs) j = if a ≤ j ∧ j < a + bs.length then bs.getD (j - a) 0#8 else cget m j := by
  induction bs generalizing m a with
  | nil => rw [if_neg (by simp)]; rfl
  | cons b bs ih =>
    rw [cwrite, ih, cget_cput]
    by_cases h : a = j
    · subst h; rw [if_neg (by omega), if_pos rfl, if_pos (by simp)]; simp
    · by_cases h1 : a + 1 ≤ j ∧ j < a + 1 + bs.length
      · rw [if_pos h1, if_pos (by simp only [List.length_cons]; omega), show j - a = (j - (a + 1)) + 1 by omega]; rfl
      · rw [if_neg h1, if_neg h, if_neg (by simp only [List.length_cons]; omega)]
theorem cget_cwrite_out (m : List Host.Cell) {bs : List Byte} {a j : Nat} (h : j < a ∨ a + bs.length ≤ j) :
    cget (cwrite m a bs) j = cget m j := by rw [cget_cwrite, if_neg (by omega)]
theorem length_cread (m : List Host.Cell) (a n : Nat) : (cread m a n).length = n := by
  induction n generalizing a with
  | zero => rfl
  | succ n ih => simp [cread, ih]
theorem cread_congr {m m' : List Host.Cell} {a n : Nat} (h : ∀ j, a ≤ j → j < a + n → cget m j = cget m' j) :
    cread m a n = cread m' a n := by
  induction n generalizing a with
  | zero => rfl
  | succ n ih => simp only [cread]; rw [h a (by omega) (by omega), ih (fun j h1 h2 => h j (by omega) (by omega))]

end Machine
end Sys2Proof
end

