-- ==== Sys2Proof/Laws/MemoryOps.lean ====
section
/-! SUPPORT. The shared operations keep memory: what each leaves of it, stated once (R139). -/

namespace Sys2Proof.Machine
/-- An event whose effect keeps memory keeps memory. -/
theorem runEvent_mem {name can} {eff : State → State} {s : State} (he : (eff s).mem = s.mem) : KeepsMem s.mem (runEvent name can eff s) := by
  unfold runEvent; repeat' split
  all_goals first | (intro t ht; cases ht; done) | (intro t ht; cases ht; exact he)
theorem State.dropPath_mem (s a1 a2) : (State.dropPath s a1 a2).mem = s.mem := by rfl
theorem execTranslationInvalidation_mem (a0 a1 s) : KeepsMem s.mem (execTranslationInvalidation a0 a1 s) := runEvent_mem (by simp only [State.dropPath_mem])
theorem State.charge_mem (s a1 a2) : (State.charge s a1 a2).mem = s.mem := by rfl
theorem State.burst_mem (s a1 a2 a3) : (State.burst s a1 a2 a3).mem = s.mem := by unfold State.burst; grind [= State.charge_mem]
theorem State.fetchIn_mem (s a1 a2) : (State.fetchIn s a1 a2).mem = s.mem := by unfold State.fetchIn; grind [= State.burst_mem]
theorem State.touch_mem (s a1 a2 a3) : (State.touch s a1 a2 a3).mem = s.mem := by unfold State.touch; grind [= State.modLine_mem,
    = State.fetchIn_mem]
theorem State.sawPath_mem (s a1 a2) : (State.sawPath s a1 a2).mem = s.mem := by
  unfold State.sawPath; simp (disch := (intros; grind [= State.touch_mem])) only [foldl_mem]
theorem State.walked_mem (s a1 a2) : (State.walked s a1 a2).mem = s.mem := by
  unfold State.walked; simp (disch := (intros; grind [= State.sawPath_mem])) only [foldl_mem]
theorem State.sawGo_mem (a0 a1 s a3 a4) : (State.sawGo a0 a1 s a3 a4).mem = s.mem := by
  induction a1 generalizing a0 s a3 a4 with
  | zero => unfold State.sawGo; grind [= State.walked_mem, = State.touch_mem]
  | succ _ ih => unfold State.sawGo; grind [= State.walked_mem, = State.touch_mem]
theorem State.frontSaw_mem (s a1 a2 a3) : (State.frontSaw s a1 a2 a3).mem = s.mem := by unfold State.frontSaw; simp only [State.sawGo_mem]
theorem State.devWrite_mem (s a1 a2 a3) : (State.devWrite s a1 a2 a3).mem = s.mem := by rfl
theorem State.errorRecord_mem (s a1 a2 a3 a4 a5 a6 a7) : (State.errorRecord s a1 a2 a3 a4 a5 a6 a7).mem = s.mem := by
  unfold State.errorRecord; grind [= State.emit_mem, = State.devWrite_mem]
theorem State.settleFences_mem (s a1) : (State.settleFences s a1).mem = s.mem := by
  unfold State.settleFences; simp (disch := (intros; grind [= State.modThread_mem])) only [foldl_mem]
theorem State.frontWrite_mem (s a1 a2 a3) : (State.frontWrite s a1 a2 a3).mem = s.mem := by unfold State.frontWrite; simp only [State.newId_mem, State.sawPath_mem]
theorem State.frontWrites_mem (s a1 a2) : (State.frontWrites s a1 a2).mem = s.mem := by
  unfold State.frontWrites; simp (disch := (intros; grind [= State.frontWrite_mem])) only [foldl_mem]
theorem State.putRecord_mem {s a1 a2 t} (h : State.putRecord s a1 a2 = some t) : t.mem = s.mem := by unfold State.putRecord at h; grind [= State.emit_mem, = State.modFn_mem, = State.frontWrites_mem, = State.walked_mem, = Option.map_eq_some_iff]
theorem State.faultRecord_mem (s : State) (a1 a2) : (State.faultRecord s a1 a2).mem = s.mem := by
  unfold State.faultRecord; dsimp only; split
  · rfl
  · exact getD_mem rfl fun _ h => State.putRecord_mem h
theorem State.launchRecord_mem (s a1 a2) : (State.launchRecord s a1 a2).mem = s.mem := by unfold State.launchRecord; grind [= State.faultRecord_mem]
theorem State.taskFault_mem (s a1 a2) : (State.taskFault s a1 a2).mem = s.mem := by unfold State.taskFault; simp only [State.modLaunch_mem, State.launchRecord_mem]
theorem State.trimDir_mem (s a1 a2) : (State.trimDir s a1 a2).mem = s.mem := by unfold State.trimDir; grind
theorem State.backInvalidate_mem (s a1 a2) : (State.backInvalidate s a1 a2).mem = s.mem := by rfl
theorem State.evictFilter_mem (s a1) : (State.evictFilter s a1).mem = s.mem := by unfold State.evictFilter; simp only [State.trimDir_mem, State.backInvalidate_mem]
theorem State.filtRoom_mem (s a1) : (State.filtRoom s a1).mem = s.mem := by unfold State.filtRoom; grind [= State.choose_mem,
    → State.choose_keep, = State.evictFilter_mem]
theorem State.evictRegion_mem (s : State) (a1) : (State.evictRegion s a1).mem = s.mem := by
  unfold State.evictRegion
  show State.mem (List.foldl _ _ _) = _
  exact foldl_mem (fun u l => foldl_mem (fun v k => State.backInvalidate_mem ..) _ u) _ s
theorem State.dirRoom_mem (s a1) : (State.dirRoom s a1).mem = s.mem := by unfold State.dirRoom; grind [= State.choose_mem,
    → State.choose_keep, = State.evictRegion_mem]
theorem State.enrol_mem (a0 s a2) : (State.enrol a0 s a2).mem = s.mem := by unfold State.enrol; simp only [State.filtRoom_mem,
    State.dirRoom_mem]
theorem State.cacheEnt_mem (s a1) : (State.cacheEnt s a1).mem = s.mem := by unfold State.cacheEnt; grind
theorem State.noteRead_mem (a0 a1 a2 s a4) : (State.noteRead a0 a1 a2 s a4).mem = s.mem := by
  unfold State.noteRead; (try dsimp only); repeat' split
  all_goals first
    | rfl
    | grind [= State.enrol_mem, = State.touch_mem, = State.cacheEnt_mem]
    | (simp (disch := (intros; grind [= State.enrol_mem, = State.touch_mem, = State.cacheEnt_mem])) only [foldl_mem, State.cacheEnt_mem]; done)
    | (simp (disch := (intros; grind [= State.enrol_mem, = State.touch_mem, = State.cacheEnt_mem])) only [foldl_mem, foldl_mem2, State.enrol_mem, State.touch_mem, State.cacheEnt_mem]; grind [= State.enrol_mem, = State.touch_mem, = State.cacheEnt_mem])
theorem State.lookup_mem (s a1 a2 a3 a4) : (State.lookup s a1 a2 a3 a4).2.mem = s.mem := by
  unfold State.lookup; (try dsimp only); repeat' split
  all_goals first
    | rfl
    | grind [= State.noteRead_mem, = State.cacheEnt_mem, = State.enrol_mem]
    | (simp (disch := (intros; grind [= State.noteRead_mem, = State.cacheEnt_mem, = State.enrol_mem])) only [foldl_mem, State.cacheEnt_mem]; done)
    | (simp (disch := (intros; grind [= State.noteRead_mem, = State.cacheEnt_mem, = State.enrol_mem])) only [foldl_mem, foldl_mem2, State.noteRead_mem, State.cacheEnt_mem, State.enrol_mem]; grind [= State.noteRead_mem, = State.cacheEnt_mem, = State.enrol_mem])
theorem State.lookup_keep {s a1 a2 a3 a4 a t} (h : State.lookup s a1 a2 a3 a4 = (a, t)) : t.mem = s.mem := by
  have := State.lookup_mem s a1 a2 a3 a4; rw [h] at this; exact this
theorem State.exportAccess_mem (s a1 a2 a3 a4 a5) : (State.exportAccess s a1 a2 a3 a4 a5).2.mem = s.mem := by unfold State.exportAccess; grind [= State.lookup_mem, → State.lookup_keep]
theorem State.exportAccess_keep {s a1 a2 a3 a4 a5 a t} (h : State.exportAccess s a1 a2 a3 a4 a5 = (a, t)) : t.mem = s.mem := by
  have := State.exportAccess_mem s a1 a2 a3 a4 a5; rw [h] at this; exact this
theorem State.access_mem (s a1 a2 a3 a4 a5 a6) : (State.access s a1 a2 a3 a4 a5 a6).2.mem = s.mem := by unfold State.access; grind [= State.exportAccess_mem, → State.exportAccess_keep, = State.lookup_mem, → State.lookup_keep]
theorem State.access_keep {s a1 a2 a3 a4 a5 a6 a t} (h : State.access s a1 a2 a3 a4 a5 a6 = (a, t)) : t.mem = s.mem := by
  have := State.access_mem s a1 a2 a3 a4 a5 a6; rw [h] at this; exact this
theorem State.storeTarget_mem (s a1 a2 a3) : (State.storeTarget s a1 a2 a3).2.mem = s.mem := by unfold State.storeTarget; grind [= State.access_mem, → State.access_keep]
theorem State.storeTarget_keep {s a1 a2 a3 a t} (h : State.storeTarget s a1 a2 a3 = (a, t)) : t.mem = s.mem := by
  have := State.storeTarget_mem s a1 a2 a3; rw [h] at this; exact this
theorem State.commitGo_mem (s : State) (g w wid bs acc) : (State.commitGo s g w wid bs acc).2.mem = s.mem := by
  induction bs generalizing s acc with
  | nil => rfl
  | cons b bs ih => simp only [State.commitGo]; split <;> grind [→ State.storeTarget_keep]
theorem State.commitGo_keep {s : State} {g w wid bs acc a t} (h : State.commitGo s g w wid bs acc = (a, t)) : t.mem = s.mem := by
  have := State.commitGo_mem s g w wid bs acc; rw [h] at this; exact this
theorem State.commit_mem (s : State) (gid) : (s.commit gid).keeps s.mem := by
  unfold State.commit; repeat' split
  all_goals grind [CRes.keeps, → State.commitGo_keep, = State.setGroup_mem, = State.taskFault_mem]
theorem Ctx.boundary_mem {x : Ctx} {s : State} {start : W64} {k : State → Res} {m : List Host.Cell} (h : s.mem = m)
    (hk : ∀ t, t.mem = m → (k t).keeps m) : (x.boundary s start k).keeps m := by
  have := State.commit_mem s x.gid
  unfold Ctx.boundary; split
  · exact hk _ (by grind [CRes.keeps, = State.modGroup_mem])
  · grind [CRes.keeps, Res.keeps]
  · grind [CRes.keeps, Res.keeps]
theorem State.sawPends_mem (s a1) : (State.sawPends s a1).mem = s.mem := by
  unfold State.sawPends; simp (disch := (intros; grind [= State.frontSaw_mem])) only [foldl_mem]
theorem State.haltSpent_mem (s a1 a2) : (State.haltSpent s a1 a2).mem = s.mem := by unfold State.haltSpent; grind
theorem State.placeWg_mem (s a1) : (State.placeWg s a1).2.mem = s.mem := by unfold State.placeWg; simp only [State.newId_mem,
    State.haltSpent_mem, State.setWg_mem, State.modCore_mem]
theorem State.placeWg_keep {s a1 a t} (h : State.placeWg s a1 = (a, t)) : t.mem = s.mem := by
  have := State.placeWg_mem s a1; rw [h] at this; exact this
theorem State.formGroup_mem (s a1 a2 a3 a4 a5) : (State.formGroup s a1 a2 a3 a4 a5).mem = s.mem := by unfold State.formGroup; grind [= State.newId_mem, → State.newId_keep, = State.setGroup_mem]
theorem State.startGroups_mem (s a1 a2) : (State.startGroups s a1 a2).mem = s.mem := by
  unfold State.startGroups; (try dsimp only); repeat' split
  all_goals first
    | rfl
    | grind [= State.formGroup_mem]
    | (simp (disch := (intros; grind [= State.formGroup_mem])) only [foldl_mem]; done)
    | (simp (disch := (intros; grind [= State.formGroup_mem])) only [foldl_mem, foldl_mem2, State.formGroup_mem]; grind [= State.formGroup_mem])
theorem State.askPod_mem (s a1 a2) : (State.askPod s a1 a2).mem = s.mem := by unfold State.askPod; grind [= State.emit_mem]
theorem State.podLost_mem (s a1) : (State.podLost s a1).mem = s.mem := by unfold State.podLost; simp only [State.free_mem,
    State.errorRecord_mem]
theorem State.stalls_mem (s a1 a2) : (State.stalls s a1 a2).mem = s.mem := by rfl
theorem State.prologue_mem (s a1 a2 a3) : (State.prologue s a1 a2 a3).mem = s.mem := by unfold State.prologue; grind [= State.launchRecord_mem, = State.modLaunch_mem]
theorem State.enterTrap_mem (s a1 a2 a3) : (State.enterTrap s a1 a2 a3).mem = s.mem := by unfold State.enterTrap; grind [= State.modWg_mem, = State.setGroup_mem, = State.count_mem]
theorem State.takeTrap_mem (s : State) (gid t) : (s.takeTrap gid t).keeps s.mem := by
  have := State.commit_mem s gid
  unfold State.takeTrap; repeat' split
  all_goals grind [CRes.keeps, = State.prologue_mem, = State.enterTrap_mem]
theorem Ctx.trapped_mem {x : Ctx} {s : State} {t} {m : List Host.Cell} (h : s.mem = m) : KeepsMem m (x.trapped s t) := by
  have := State.takeTrap_mem s x.gid t
  unfold Ctx.trapped; split <;> grind [KeepsMem, CRes.keeps, = State.stalls_mem]
theorem State.passBefore_mem (s a1 a2) : (State.passBefore s a1 a2).mem = s.mem := by rfl
theorem State.passSigners_mem (s a1 a2 a3) : (State.passSigners s a1 a2 a3).mem = s.mem := by
  unfold State.passSigners; simp (disch := (intros; grind [= State.passBefore_mem])) only [foldl_mem]
theorem Ctx.update_mem (a0 s a2) : (Ctx.update a0 s a2).mem = s.mem := by rfl
theorem State.loadReplied_mem (s a1 a2) : (State.loadReplied s a1 a2).mem = s.mem := by unfold State.loadReplied; grind [= State.emit_mem]
theorem State.fetchHeld_mem (s a1 a2 a3 a4) : (State.fetchHeld s a1 a2 a3 a4).2.mem = s.mem := by unfold State.fetchHeld; grind [= State.choose_mem, → State.choose_keep]
theorem State.fetchHeld_keep {s a1 a2 a3 a4 a t} (h : State.fetchHeld s a1 a2 a3 a4 = (a, t)) : t.mem = s.mem := by
  have := State.fetchHeld_mem s a1 a2 a3 a4; rw [h] at this; exact this
theorem State.pollLoaded_mem (s a1 a2) : (State.pollLoaded s a1 a2).mem = s.mem := by unfold State.pollLoaded; grind [= State.modGroup_mem, = State.modLine_mem]
theorem State.loadPolled_mem (s a1) : (State.loadPolled s a1).mem = s.mem := by unfold State.loadPolled; grind [= State.pollLoaded_mem]
theorem State.release_mem (s a1 a2 a3) : (State.release s a1 a2 a3).mem = s.mem := by unfold State.release; grind [= State.modThread_mem]
theorem State.dropStale_mem (s a1 a2 a3) : (State.dropStale s a1 a2 a3).mem = s.mem := by unfold State.dropStale; simp only [State.release_mem]
theorem State.copyDone_mem (s a1) : (State.copyDone s a1).mem = s.mem := by unfold State.copyDone; grind
theorem State.unitDone_mem (s a1 a2) : (State.unitDone s a1 a2).mem = s.mem := by unfold State.unitDone; grind [= State.copyDone_mem]
theorem State.bobWrites_mem (s a1 a2 a3 a4) : (State.bobWrites s a1 a2 a3 a4).mem = s.mem := by rfl
theorem State.dropWrite_mem (s a1) : (State.dropWrite s a1).mem = s.mem := by unfold State.dropWrite; grind [= State.dropStale_mem, = State.modLine_mem, = State.unitDone_mem, = State.copyDone_mem, = State.bobWrites_mem]
theorem State.dropDead_mem (s a1) : (State.dropDead s a1).mem = s.mem := by
  unfold State.dropDead; simp (disch := (intros; grind [= State.dropWrite_mem])) only [foldl_mem]
theorem State.podAnswer_mem (s a1 a2) : (State.podAnswer s a1 a2).2.2.mem = s.mem := by unfold State.podAnswer; simp only [State.choose_mem, State.free_mem]
theorem State.podAnswer_keep {s a1 a2 a b t} (h : State.podAnswer s a1 a2 = (a, b, t)) : t.mem = s.mem := by
  have := State.podAnswer_mem s a1 a2; rw [h] at this; exact this
theorem State.markBatch_mem (s a1 a2 a3) : (State.markBatch s a1 a2 a3).mem = s.mem := by unfold State.markBatch; grind
theorem State.copyFails_mem (s a1) : (State.copyFails s a1).mem = s.mem := by
  unfold State.copyFails; (try dsimp only); repeat' split
  all_goals first
    | rfl
    | grind [= State.modWg_mem, = State.copyDone_mem]
    | (simp (disch := (intros; grind [= State.modWg_mem, = State.copyDone_mem])) only [foldl_mem, State.copyDone_mem]; done)
    | (simp (disch := (intros; grind [= State.modWg_mem, = State.copyDone_mem])) only [foldl_mem, foldl_mem2, State.modWg_mem, State.copyDone_mem]; grind [= State.modWg_mem, = State.copyDone_mem])
theorem State.copyLost_mem (s a1 a2 a3) : (State.copyLost s a1 a2 a3).mem = s.mem := by unfold State.copyLost; grind [= State.podLost_mem, = State.taskFault_mem, = State.copyFails_mem]
theorem State.deliver_mem (s a1 a2 a3 a4) : (State.deliver s a1 a2 a3 a4).mem = s.mem := by unfold State.deliver; grind [= State.modThread_mem]
theorem State.accFault_mem (s a1 a2 a3) : (State.accFault s a1 a2 a3).mem = s.mem := by unfold State.accFault; simp only [State.taskFault_mem]
theorem State.podFails_mem (s a1 a2) : (State.podFails s a1 a2).mem = s.mem := by unfold State.podFails; grind [= State.accFault_mem, = State.podLost_mem]
theorem State.writePod_mem (s a1) : (State.writePod s a1).mem = s.mem := by unfold State.writePod; grind [= State.podAnswer_mem,
    → State.podAnswer_keep, = State.askPod_mem, = State.unitDone_mem, = State.markBatch_mem, = State.copyLost_mem,
        = State.copyDone_mem, = State.deliver_mem, = State.podFails_mem, = State.release_mem]
theorem State.wake_mem (s a1) : (State.wake s a1).mem = s.mem := by rfl
theorem State.wakeWatchers_mem (s a1) : (State.wakeWatchers s a1).mem = s.mem := by
  unfold State.wakeWatchers; simp (disch := (intros; grind [= State.wake_mem, = State.modLine_mem])) only [foldl_mem,
      State.modLine_mem]
theorem State.modifies_mem {s : State} {a d go} {m : List Host.Cell} (h : s.mem = m) (hg : go.mem = m) : (State.modifies s a d go).mem = m := by
  unfold State.modifies; split
  · rw [State.accFault_mem, State.release_mem, h]
  · exact hg
theorem State.migDone_mem (s a1 a2 a3) : (State.migDone s a1 a2 a3).mem = s.mem := by unfold State.migDone; grind [= State.modThread_mem]
theorem State.pteDone_mem (s a1) : (State.pteDone s a1).mem = s.mem := by unfold State.pteDone; grind [= State.migDone_mem,
    = State.modLine_mem]
theorem State.writeReplied_mem (s a1 a2) : (State.writeReplied s a1 a2).mem = s.mem := by unfold State.writeReplied; grind [= State.emit_mem]
theorem State.fillPending_mem (s a1 a2) : (State.fillPending s a1 a2).mem = s.mem := by unfold State.fillPending; grind [= State.setGroup_mem]
theorem State.dropGroup_mem (s a1) : (State.dropGroup s a1).mem = s.mem := by unfold State.dropGroup; grind [= State.fillPending_mem, = State.delGroup_mem]
theorem execReservationStarvation_mem (a0 s) : KeepsMem s.mem (execReservationStarvation a0 s) := runEvent_mem (by simp only [State.modLaunch_mem])
theorem State.passQueries_mem (s a1) : (State.passQueries s a1).mem = s.mem := by unfold State.passQueries; grind [= State.passBefore_mem]
theorem State.entryCheck_mem (s a1 a2 a3) : (State.entryCheck s a1 a2 a3).2.mem = s.mem := by unfold State.entryCheck; grind [= State.access_mem, → State.access_keep, = State.touch_mem]
theorem State.entryCheck_keep {s a1 a2 a3 a t} (h : State.entryCheck s a1 a2 a3 = (a, t)) : t.mem = s.mem := by
  have := State.entryCheck_mem s a1 a2 a3; rw [h] at this; exact this
theorem State.beginTask_mem (s a1 a2 a3 a4 a5) : (State.beginTask s a1 a2 a3 a4 a5).mem = s.mem := by unfold State.beginTask; simp only [State.startGroups_mem, State.modLaunch_mem, State.setWg_mem]
theorem State.dispatchTask_mem {s a1 a2 t} (h : State.dispatchTask s a1 a2 = some t) : t.mem = s.mem := by
  unfold State.dispatchTask at h; repeat' split at h
  all_goals first
    | (cases h; done)
    | (cases h; rfl)
    | grind [= State.entryCheck_mem, → State.entryCheck_keep, = State.beginTask_mem, = State.modLaunch_mem, = State.taskFault_mem, = Option.map_eq_some_iff]
    | (simp only [Option.some.injEq, Prod.mk.injEq] at h; (try obtain ⟨rfl, rfl⟩ := h); (try subst h); first | grind [= State.entryCheck_mem, → State.entryCheck_keep, = State.beginTask_mem, = State.modLaunch_mem, = State.taskFault_mem, = Option.map_eq_some_iff] | (simp (disch := (intros; grind [= State.entryCheck_mem, → State.entryCheck_keep, = State.beginTask_mem, = State.modLaunch_mem, = State.taskFault_mem, = Option.map_eq_some_iff])) only [foldl_mem, foldl_mem2, State.entryCheck_mem, State.beginTask_mem, State.modLaunch_mem, State.taskFault_mem, Option.map_eq_some_iff]; done) | (simp (disch := (intros; grind [= State.entryCheck_mem, → State.entryCheck_keep, = State.beginTask_mem, = State.modLaunch_mem, = State.taskFault_mem, = Option.map_eq_some_iff])) only [foldl_mem, foldl_mem2, State.entryCheck_mem, State.beginTask_mem, State.modLaunch_mem, State.taskFault_mem, Option.map_eq_some_iff]; grind [= State.entryCheck_mem, → State.entryCheck_keep, = State.beginTask_mem, = State.modLaunch_mem, = State.taskFault_mem, = Option.map_eq_some_iff]))
theorem State.grantLease_mem (s a1 a2) : (State.grantLease s a1 a2).mem = s.mem := by unfold State.grantLease; simp only [State.touch_mem, State.modCore_mem, State.setLine_mem]
theorem State.flushRecs_mem (s) : (State.flushRecs s).mem = s.mem := by
  unfold State.flushRecs; simp (disch := (intros; grind [= State.faultRecord_mem])) only [foldl_mem]
theorem State.devWrites_mem (s a1 a2) : (State.devWrites s a1 a2).mem = s.mem := by
  unfold State.devWrites; simp (disch := (intros; grind [= State.devWrite_mem])) only [foldl_mem]
theorem State.endTasksOn_mem (s a1 a2) : (State.endTasksOn s a1 a2).mem = s.mem := by
  unfold State.endTasksOn; simp (disch := (intros; grind [= State.taskFault_mem])) only [foldl_mem]
theorem State.pass_mem (s a1 a2) : (State.pass s a1 a2).mem = s.mem := by rfl
theorem State.codeQuarter_mem (s a1 a2 a3) : (State.codeQuarter s a1 a2 a3).2.mem = s.mem := by unfold State.codeQuarter; grind [= State.choose_mem, → State.choose_keep]
theorem State.codeQuarter_keep {s a1 a2 a3 a t} (h : State.codeQuarter s a1 a2 a3 = (a, t)) : t.mem = s.mem := by
  have := State.codeQuarter_mem s a1 a2 a3; rw [h] at this; exact this
theorem State.codeBytes_mem (s a1 a2) : (State.codeBytes s a1 a2).2.mem = s.mem := by
  unfold State.codeBytes; simp (disch := (intros; grind [= State.codeQuarter_mem, → State.codeQuarter_keep, = State.modWg_mem])) only [foldl_mem2, State.modWg_mem]
theorem State.codeBytes_keep {s a1 a2 a t} (h : State.codeBytes s a1 a2 = (a, t)) : t.mem = s.mem := by
  have := State.codeBytes_mem s a1 a2; rw [h] at this; exact this
theorem State.codeLine_mem (s a1 a2 a3) : (State.codeLine s a1 a2 a3).2.mem = s.mem := by unfold State.codeLine; grind [= State.access_mem, → State.access_keep, = State.fetchHeld_mem, → State.fetchHeld_keep, = State.codeBytes_mem, → State.codeBytes_keep, = State.touch_mem]
theorem State.codeLine_keep {s a1 a2 a3 a t} (h : State.codeLine s a1 a2 a3 = (a, t)) : t.mem = s.mem := by
  have := State.codeLine_mem s a1 a2 a3; rw [h] at this; exact this
theorem Ctx.updateActive_mem (a0 s a2) : (Ctx.updateActive a0 s a2).mem = s.mem := by rfl
theorem State.park_mem (s a1 a2) : (State.park s a1 a2).mem = s.mem := by unfold State.park; grind [= State.setGroup_mem]
theorem State.sendPend_mem (a0 a1 a2 s a4) : (State.sendPend a0 a1 a2 s a4).mem = s.mem := by unfold State.sendPend; simp only [State.newId_mem, State.sawPath_mem]
theorem State.endIdle_mem (s a1) : (State.endIdle s a1).mem = s.mem := by rfl
theorem State.taskSettle_mem {s wid t} (h : State.taskSettle s wid = some t) : t.mem = s.mem := by
  have hf : ∀ (o l f) (ps : List (Nat × Acced)) (u : State), (ps.foldl (State.sendPend o l f) u).mem = u.mem :=
    fun o l f ps u => foldl_mem (fun v a => State.sendPend_mem ..) ps u
  unfold State.taskSettle at h; dsimp only at h; repeat' split at h
  all_goals first
    | (cases h; done)
    | (cases h; rfl)
    | (cases h; repeat' split
       all_goals simp only [State.endIdle_mem, State.modLaunch_mem, hf, State.setWg_mem])
theorem State.queueLoad_mem (s a1) : (State.queueLoad s a1).mem = s.mem := by rfl
theorem State.toMsc_mem (s a1 a2) : (State.toMsc s a1 a2).mem = s.mem := by unfold State.toMsc; simp only [State.modLine_mem,
    State.fetchIn_mem]
theorem State.qerr_mem (s a1 a2) : (State.qerr s a1 a2).mem = s.mem := by unfold State.qerr; grind [= State.modQueue_mem]
theorem State.dropPool_mem (s a1 a2) : (State.dropPool s a1 a2).mem = s.mem := by unfold State.dropPool; grind [= State.setQueue_mem]
theorem State.killLaunch_mem (s a1) : (State.killLaunch s a1).mem = s.mem := by rfl
theorem State.killQueue_mem (s a1 a2) : (State.killQueue s a1 a2).mem = s.mem := by
  unfold State.killQueue; simp (disch := (intros; grind [= State.killLaunch_mem])) only [foldl_mem]
theorem State.reclaim_mem (s a1) : (State.reclaim s a1).mem = s.mem := by unfold State.reclaim; grind
theorem State.leafAnswer_mem (s a1 a2 a3) : (State.leafAnswer s a1 a2 a3).mem = s.mem := by unfold State.leafAnswer; grind [= State.setLaunch_mem]
theorem State.ask_mem (s a1 a2 a3) : (State.ask s a1 a2 a3).mem = s.mem := by unfold State.ask; grind [= State.modQueue_mem,
    = State.setLaunch_mem, = State.reclaim_mem, = State.leafAnswer_mem]
theorem State.hear_mem (s a1 a2) : (State.hear s a1 a2).mem = s.mem := by unfold State.hear; grind [= State.leafAnswer_mem,
    = State.setLaunch_mem]
theorem execReservationAnswer_mem (a0 a1 s) : KeepsMem s.mem (execReservationAnswer a0 a1 s) := runEvent_mem (by simp only [State.hear_mem])
theorem execReservationTimeout_mem (a0 s) : KeepsMem s.mem (execReservationTimeout a0 s) := runEvent_mem (by simp only [State.modLaunch_mem])
theorem State.startWg_mem (s a1 a2 a3) : (State.startWg s a1 a2 a3).mem = s.mem := by unfold State.startWg; grind [= State.placeWg_mem, → State.placeWg_keep, = State.modWg_mem, = State.startGroups_mem]
theorem State.entriesCheck_mem (a0 a1 s a3) : (State.entriesCheck a0 a1 s a3).2.mem = s.mem := by
  induction a3 generalizing a0 a1 s with
  | nil => unfold State.entriesCheck; grind [= State.entryCheck_mem, → State.entryCheck_keep]
  | cons _ _ ih => unfold State.entriesCheck; grind [= State.entryCheck_mem, → State.entryCheck_keep]
theorem State.entriesCheck_keep {a0 a1 s a3 a t} (h : State.entriesCheck a0 a1 s a3 = (a, t)) : t.mem = s.mem := by
  have := State.entriesCheck_mem a0 a1 s a3; rw [h] at this; exact this
theorem State.unblock_mem (s) : (State.unblock s).mem = s.mem := by rfl
theorem State.resumeWg_mem (a0 s a2) : (State.resumeWg a0 s a2).mem = s.mem := by
  unfold State.resumeWg; (try dsimp only); repeat' split
  all_goals first
    | rfl
    | grind [= State.setGroup_mem, = State.modCore_mem, = State.setWg_mem]
    | (simp (disch := (intros; grind [= State.setGroup_mem, = State.modCore_mem, = State.setWg_mem])) only [foldl_mem, State.modCore_mem, State.setWg_mem]; done)
    | (simp (disch := (intros; grind [= State.setGroup_mem, = State.modCore_mem, = State.setWg_mem])) only [foldl_mem, foldl_mem2, State.setGroup_mem, State.modCore_mem, State.setWg_mem]; grind [= State.setGroup_mem, = State.modCore_mem, = State.setWg_mem])
theorem State.removeWg_mem (s a1) : (State.removeWg s a1).mem = s.mem := by
  unfold State.removeWg; (try dsimp only); repeat' split
  all_goals first
    | rfl
    | grind [= State.dropGroup_mem, = State.delWg_mem, = State.modCore_mem, = State.resumeWg_mem]
    | (simp (disch := (intros; grind [= State.dropGroup_mem, = State.delWg_mem, = State.modCore_mem, = State.resumeWg_mem])) only [foldl_mem, State.delWg_mem, State.modCore_mem]; done)
    | (simp (disch := (intros; grind [= State.dropGroup_mem, = State.delWg_mem, = State.modCore_mem, = State.resumeWg_mem])) only [foldl_mem, foldl_mem2, State.dropGroup_mem, State.delWg_mem, State.modCore_mem, State.resumeWg_mem]; grind [= State.dropGroup_mem, = State.delWg_mem, = State.modCore_mem, = State.resumeWg_mem])
theorem execResourcesFreed_mem (a0 s) : KeepsMem s.mem (execResourcesFreed a0 s) := by
  unfold execResourcesFreed; apply runEvent_mem; (try dsimp only); repeat' split
  all_goals first
    | trivial
    | assumption
    | rfl
    | grind [= State.unblock_mem, = State.removeWg_mem, Res.keeps, CRes.keeps, BRes.keeps, RingRes.keeps, LineRes.keeps, PieceRes.keeps, Fetched.keeps]
    | (simp (disch := (intros; grind [= State.unblock_mem, = State.removeWg_mem, Res.keeps, CRes.keeps, BRes.keeps, RingRes.keeps, LineRes.keeps, PieceRes.keeps, Fetched.keeps])) only [foldl_mem, State.unblock_mem]; done)
    | (simp (disch := (intros; grind [= State.unblock_mem, = State.removeWg_mem, Res.keeps, CRes.keeps, BRes.keeps, RingRes.keeps, LineRes.keeps, PieceRes.keeps, Fetched.keeps])) only [Res.keeps, CRes.keeps, BRes.keeps, Fetched.keeps, foldl_mem, foldl_mem2, State.unblock_mem, State.removeWg_mem]; grind [= State.unblock_mem, = State.removeWg_mem, Res.keeps, CRes.keeps, BRes.keeps, RingRes.keeps, LineRes.keeps, PieceRes.keeps, Fetched.keeps])
theorem State.sawEntry_mem (s a1 a2) : (State.sawEntry s a1 a2).mem = s.mem := by unfold State.sawEntry; grind [= State.frontSaw_mem]
theorem execTaskDispatch_mem (a0 a1 a2 s) : KeepsMem s.mem (execTaskDispatch a0 a1 a2 s) := by
  unfold execTaskDispatch; apply runEvent_mem; (try dsimp only); repeat' split
  all_goals first | rfl | (exact getD_mem rfl fun _ h => State.dispatchTask_mem h) | (exact State.dispatchTask_mem ‹_›)
theorem State.ringPut_mem {s a1 a2 a3 a4 m} (h : s.mem = m) : (State.ringPut s a1 a2 a3 a4).keeps m := by
  unfold State.ringPut; grind [= State.setQueue_mem, = State.frontWrite_mem, Res.keeps, CRes.keeps, BRes.keeps, Fetched.keeps,
      PieceRes.keeps, RingRes.keeps, LineRes.keeps]
theorem State.ringPut_ok {s a1 a2 a3 a4 t} (h : State.ringPut s a1 a2 a3 a4 = .ok t) : t.mem = s.mem := by have := @State.ringPut_mem s a1 a2 a3 a4 _ rfl ; grind [RingRes.keeps]
theorem State.ringRefused_mem (s a1 a2 a3) : (State.ringRefused s a1 a2 a3).mem = s.mem := by unfold State.ringRefused; grind [= State.qerr_mem, = State.walked_mem]
theorem State.moveDeferred_mem {s a1 t} (h : State.moveDeferred s a1 = some t) : t.mem = s.mem := by unfold State.moveDeferred at h; grind [State.ringPut_mem, → State.ringPut_ok, = State.ringRefused_mem, Res.keeps, CRes.keeps, BRes.keeps, RingRes.keeps, LineRes.keeps, PieceRes.keeps, Fetched.keeps, = Option.map_eq_some_iff]
theorem execDeferredPacketMove_mem (a0 s) : KeepsMem s.mem (execDeferredPacketMove a0 s) := by
  unfold execDeferredPacketMove; apply runEvent_mem; (try dsimp only); repeat' split
  all_goals first | rfl | (exact getD_mem rfl fun _ h => State.moveDeferred_mem h) | (exact State.moveDeferred_mem ‹_›)
theorem State.disenrol_mem (s a1 a2) : (State.disenrol s a1 a2).mem = s.mem := by unfold State.disenrol; simp only [State.trimDir_mem]
theorem State.testAgent_mem (s a1) : (State.testAgent s a1).mem = s.mem := by unfold State.testAgent; grind [= State.choose_mem,
    → State.choose_keep]
theorem State.retranslate_mem {s a1 a2 a t} (h : State.retranslate s a1 a2 = some (a, t)) : t.mem = s.mem := by
  unfold State.retranslate at h; dsimp only at h; repeat' split at h
  all_goals first | (cases h; done) | (cases h; grind [→ State.access_keep])
theorem State.loadAgain_mem {s a1 t} (h : State.loadAgain s a1 = some t) : t.mem = s.mem := by unfold State.loadAgain at h; grind [= State.accFault_mem, = State.release_mem, → State.retranslate_mem, = Option.map_eq_some_iff]
theorem State.dropLoad_mem (s a1) : (State.dropLoad s a1).mem = s.mem := by unfold State.dropLoad; simp only [State.dropStale_mem]
theorem State.bobLoaded_mem (s a1 a2) : (State.bobLoaded s a1 a2).mem = s.mem := by unfold State.bobLoaded; grind [= State.bobWrites_mem, = State.modBob_mem]
theorem State.loadData_mem (s a1) : (State.loadData s a1).mem = s.mem := by unfold State.loadData; grind [= State.bobLoaded_mem,
    = State.deliver_mem, = State.podAnswer_mem, → State.podAnswer_keep, = State.askPod_mem, = State.podFails_mem,
        = State.release_mem, = State.accFault_mem]
theorem State.loadSeen_mem (s a1 a2 a3) : (State.loadSeen s a1 a2 a3).mem = s.mem := by unfold State.loadSeen; grind [= State.touch_mem, = State.count_mem]
theorem execReadLeaseRequest_mem (a0 a1 s) : KeepsMem s.mem (execReadLeaseRequest a0 a1 s) := runEvent_mem (by simp only [State.grantLease_mem])
theorem State.writeAgain_mem {s a1 t} (h : State.writeAgain s a1 = some t) : t.mem = s.mem := by unfold State.writeAgain at h; grind [= State.accFault_mem, = State.release_mem, → State.retranslate_mem, = Option.map_eq_some_iff]
theorem State.grantOwner_mem (s a1 a2) : (State.grantOwner s a1 a2).mem = s.mem := by unfold State.grantOwner; simp only [State.modLine_mem, State.touch_mem]
theorem execOwnershipGrant_mem (a0 a1 s) : KeepsMem s.mem (execOwnershipGrant a0 a1 s) := runEvent_mem (by simp only [State.grantOwner_mem])
theorem State.dropLate_mem (s a1 a2) : (State.dropLate s a1 a2).mem = s.mem := by rfl
theorem execPageWalk_mem (a0 a1 a2 s) : KeepsMem s.mem (execPageWalk a0 a1 a2 s) := runEvent_mem (by simp only [State.lookup_mem])
theorem State.forgetPath_mem (s a1 a2) : (State.forgetPath s a1 a2).mem = s.mem := by rfl
theorem State.inPort_mem (s) : (State.inPort s).2.mem = s.mem := by unfold State.inPort; grind [= State.choose_mem, → State.choose_keep]
theorem State.inPort_keep {s a t} (h : State.inPort s = (a, t)) : t.mem = s.mem := by
  have := State.inPort_mem s; rw [h] at this; exact this
theorem State.remoteArrives_mem {s a1 a2 a3 t} (h : State.remoteArrives s a1 a2 a3 = some t) : t.mem = s.mem := by unfold State.remoteArrives at h; grind [= State.inPort_mem, → State.inPort_keep, = State.exportAccess_mem, → State.exportAccess_keep, = State.emit_mem, = State.newId_mem, → State.newId_keep, = Option.map_eq_some_iff]
theorem execRemoteRequest_mem (a0 a1 a2 s) : KeepsMem s.mem (execRemoteRequest a0 a1 a2 s) := by
  unfold execRemoteRequest; apply runEvent_mem; (try dsimp only); repeat' split
  all_goals first | rfl | (exact getD_mem rfl fun _ h => State.remoteArrives_mem h) | (exact State.remoteArrives_mem ‹_›)
theorem State.fetchTrap_mem (s a1 a2) : (State.fetchTrap s a1 a2).mem = s.mem := by unfold State.fetchTrap; grind [State.takeTrap_mem, = State.stalls_mem, Res.keeps, CRes.keeps, BRes.keeps, RingRes.keeps, LineRes.keeps, PieceRes.keeps, Fetched.keeps]
theorem State.fetchSlot_mem {s a1 a2 m} (h : s.mem = m) : (State.fetchSlot s a1 a2).keeps m := by
  unfold State.fetchSlot; grind [= State.fetchTrap_mem, Res.keeps, CRes.keeps, BRes.keeps, Fetched.keeps, PieceRes.keeps,
      RingRes.keeps, LineRes.keeps]
theorem State.refetched_mem (s a1 a2 a3 a4) : (State.refetched s a1 a2 a3 a4).2.mem = s.mem := by unfold State.refetched; grind [= State.errorRecord_mem, = State.modWg_mem]
theorem State.refetched_keep {s a1 a2 a3 a4 a t} (h : State.refetched s a1 a2 a3 a4 = (a, t)) : t.mem = s.mem := by
  have := State.refetched_mem s a1 a2 a3 a4; rw [h] at this; exact this
theorem State.enterLine_mem {s a1 a2 a3 a4 m} (h : s.mem = m) : (State.enterLine s a1 a2 a3 a4).keeps m := by unfold State.enterLine; grind [State.fetchSlot_mem, = State.fetchTrap_mem, = State.park_mem, = State.setGroup_mem, Res.keeps, CRes.keeps, BRes.keeps, RingRes.keeps, LineRes.keeps, PieceRes.keeps, Fetched.keeps]
theorem State.fetchStop_mem (s a1 a2 a3 a4) : (State.fetchStop s a1 a2 a3 a4).mem = s.mem := by unfold State.fetchStop; grind [= State.taskFault_mem, = State.modGroup_mem, = State.stalls_mem]
theorem State.fetchGroup_mem {s a1 m} (h : s.mem = m) : (State.fetchGroup s a1).keeps m := by unfold State.fetchGroup; grind [State.fetchSlot_mem, = State.codeLine_mem, → State.codeLine_keep, = State.refetched_mem, → State.refetched_keep, State.enterLine_mem, = State.fetchStop_mem, Res.keeps, CRes.keeps, BRes.keeps, RingRes.keeps, LineRes.keeps, PieceRes.keeps, Fetched.keeps]
theorem State.hostWrite_mem (s a1 a2) : (State.hostWrite s a1 a2).mem = s.mem := by unfold State.hostWrite; simp only [State.devWrites_mem]

end Sys2Proof.Machine
end

