-- ==== Sys2Proof/Laws/MemoryThrum.lean ====
section
/-! SUPPORT. The instructions of the threads keep memory: their stores are buffered or go to their homes (R139, R332). -/

namespace Sys2Proof.Machine
theorem State.reportMiss_mem (s a1 a2 a3) : (State.reportMiss s a1 a2 a3).mem = s.mem := by
  unfold State.reportMiss; simp (disch := (intros; grind [= State.errorRecord_mem, = State.modCore_mem])) only [foldl_mem
      ]
theorem State.setEntry_mem (s a1 a2) : (State.setEntry s a1 a2).mem = s.mem := by rfl
theorem State.killEntry_mem (s a1) : (State.killEntry s a1).mem = s.mem := by rfl
theorem State.takeWay_mem {s ctl set a t} (h : State.takeWay s ctl set = some (a, t)) : t.mem = s.mem := by
  unfold State.takeWay at h; dsimp only at h; split at h
  · cases h; rfl
  · split at h
    · cases h
    · cases h
      simp only [State.modCtl_mem, State.killEntry_mem]
      rw [foldl_mem (by intros; exact State.setEntry_mem ..)]
theorem State.allocate_mem {s a1 a2 a t} (h : State.allocate s a1 a2 = some (a, t)) : t.mem = s.mem := by
  unfold State.allocate at h; dsimp only at h; repeat' split at h
  all_goals first
    | (cases h; done)
    | (have hw := State.takeWay_mem ‹State.takeWay s _ _ = some _›
       cases h; simpa using hw)
    | (have hw := State.takeWay_mem ‹State.takeWay s _ _ = some _›
       cases h; simpa [State.choose] using hw)
theorem State.answerQuery_mem (s a1 a2 a3 a4) : (State.answerQuery s a1 a2 a3 a4).mem = s.mem := by unfold State.answerQuery; simp only [State.settleFences_mem, State.modThread_mem]
theorem State.allocateStep_mem (s a1) : (State.allocateStep s a1).mem = s.mem := by unfold State.allocateStep; grind [= State.answerQuery_mem, → State.allocate_mem, = State.taskFault_mem, = State.killEntry_mem, = State.setEntry_mem]
theorem execShqAllocate_mem (a0 s) : KeepsMem s.mem (execShqAllocate a0 s) := by
  unfold execShqAllocate; apply runEvent_mem; split
  all_goals first | exact State.allocateStep_mem .. | rfl
theorem State.releaseParked_mem (s a1 a2 a3) : (State.releaseParked s a1 a2 a3).mem = s.mem := by
  unfold State.releaseParked; simp (disch := (intros; grind [= State.modCtl_mem])) only [foldl_mem]
theorem State.dropEntry_mem (s a1) : (State.dropEntry s a1).mem = s.mem := by unfold State.dropEntry; simp only [State.killEntry_mem, State.releaseParked_mem]
theorem State.fillOne_mem (a0 s a2) : (State.fillOne a0 s a2).2.mem = s.mem := by unfold State.fillOne; grind [= State.setEntry_mem, = State.releaseParked_mem, = State.dropEntry_mem]
theorem State.fillOne_keep {a0 s a2 a t} (h : State.fillOne a0 s a2 = (a, t)) : t.mem = s.mem := by
  have := State.fillOne_mem a0 s a2; rw [h] at this; exact this
theorem State.parkOne_mem {s a1 a2 t} (h : State.parkOne s a1 a2 = some t) : t.mem = s.mem := by unfold State.parkOne at h; grind [= State.setEntry_mem, = State.modCtl_mem, = Option.map_eq_some_iff]
theorem State.lowerFlags_mem (s a1 a2) : (State.lowerFlags s a1 a2).mem = s.mem := by rfl
theorem State.opFlags_mem (s a1) : (State.opFlags s a1).mem = s.mem := by rfl
theorem Ctx.sendPicot_mem (a0 a1 a2 s a4) : (Ctx.sendPicot a0 a1 a2 s a4).mem = s.mem := by rfl
theorem pinitGo_mem {a0 s m} (h : s.mem = m) : (pinitGo a0 s).keeps m := by
  unfold pinitGo
  repeat' first
    | split
    | (refine Ctx.boundary_mem (by first | assumption | rfl | (grind [= Ctx.sendPicot_mem, Res.keeps, CRes.keeps, BRes.keeps, RingRes.keeps, LineRes.keeps, PieceRes.keeps, Fetched.keeps, = State.modGroup_mem])) ?_; intro _ _)
  all_goals first
    | trivial
    | assumption
    | rfl
    | grind [= Ctx.sendPicot_mem, Res.keeps, CRes.keeps, BRes.keeps, RingRes.keeps, LineRes.keeps, PieceRes.keeps, Fetched.keeps, = State.modGroup_mem]
    | (simp (disch := (intros; grind [= Ctx.sendPicot_mem, Res.keeps, CRes.keeps, BRes.keeps, RingRes.keeps, LineRes.keeps, PieceRes.keeps, Fetched.keeps, = State.modGroup_mem])) only [Res.keeps, foldl_mem]; done)
    | (simp (disch := (intros; grind [= Ctx.sendPicot_mem, Res.keeps, CRes.keeps, BRes.keeps, RingRes.keeps, LineRes.keeps, PieceRes.keeps, Fetched.keeps, = State.modGroup_mem])) only [Res.keeps, foldl_mem]; grind [= Ctx.sendPicot_mem, Res.keeps, CRes.keeps, BRes.keeps, RingRes.keeps, LineRes.keeps, PieceRes.keeps, Fetched.keeps, = State.modGroup_mem])
theorem State.startContinuation_mem (s a1 a2 a3) : (State.startContinuation s a1 a2 a3).mem = s.mem := by unfold State.startContinuation; grind [= State.setEntry_mem]
theorem State.drawBin_mem (s a1 a2 a3 a4) : (State.drawBin s a1 a2 a3 a4).mem = s.mem := by
  unfold State.drawBin; (try dsimp only); repeat' split
  all_goals first
    | rfl
    | grind [= State.newId_mem, → State.newId_keep, = State.placeWg_mem, → State.placeWg_keep, = State.setLaunch_mem, = State.startGroups_mem, = State.modWg_mem, = State.startContinuation_mem, = State.modQueue_mem]
    | (simp (disch := (intros; grind [= State.newId_mem, → State.newId_keep, = State.placeWg_mem, → State.placeWg_keep, = State.setLaunch_mem, = State.startGroups_mem, = State.modWg_mem, = State.startContinuation_mem, = State.modQueue_mem])) only [foldl_mem, State.newId_mem, State.placeWg_mem, State.setLaunch_mem, State.startGroups_mem, State.modWg_mem, State.modQueue_mem]; done)
    | (simp (disch := (intros; grind [= State.newId_mem, → State.newId_keep, = State.placeWg_mem, → State.placeWg_keep, = State.setLaunch_mem, = State.startGroups_mem, = State.modWg_mem, = State.startContinuation_mem, = State.modQueue_mem])) only [foldl_mem, foldl_mem2, State.newId_mem, State.placeWg_mem, State.setLaunch_mem, State.startGroups_mem, State.modWg_mem, State.startContinuation_mem, State.modQueue_mem]; grind [= State.newId_mem, → State.newId_keep, = State.placeWg_mem, → State.placeWg_keep, = State.setLaunch_mem, = State.startGroups_mem, = State.modWg_mem, = State.startContinuation_mem, = State.modQueue_mem])
theorem State.fullBin_mem (s a1 a2 a3) : (State.fullBin s a1 a2 a3).mem = s.mem := by unfold State.fullBin; grind [= State.choose_mem, → State.choose_keep, = State.drawBin_mem]
theorem State.fullBins_mem (s a1 a2) : (State.fullBins s a1 a2).mem = s.mem := by
  unfold State.fullBins; simp (disch := (intros; grind [= State.fullBin_mem])) only [foldl_mem]
theorem Ctx.reach1_mem {a0 s a2 a3 a4 a5 a t} (h : Ctx.reach1 a0 s a2 a3 a4 a5 = .ok (a, t)) : t.mem = s.mem := by unfold Ctx.reach1 at h; grind [= State.access_mem, → State.access_keep, = Option.map_eq_some_iff]
theorem Ctx.reach1_err {x : Ctx} {s m n need p e t} (h : x.reach1 s m n need p = .error (e, t)) : t.mem = s.mem := by
  unfold Ctx.reach1 at h; dsimp only at h; repeat' split at h
  all_goals first | (cases h; done) | (cases h; rfl) | (cases h; grind [→ State.access_keep])
theorem Ctx.reach_mem {x : Ctx} {m n need s l r t} (h : x.reach m n need s l = .ok (r, t)) : t.mem = s.mem := by
  induction l generalizing s r t with
  | nil => simp only [Ctx.reach, Except.ok.injEq, Prod.mk.injEq] at h; exact h.2 ▸ rfl
  | cons p ps ih =>
    unfold Ctx.reach at h
    split at h
    · cases h
    · split at h
      · cases h
      · grind [→ Ctx.reach1_mem]
theorem Ctx.reach_err {x : Ctx} {m n need s l e t} (h : x.reach m n need s l = .error (e, t)) : t.mem = s.mem := by
  induction l generalizing s e t with
  | nil => cases h
  | cons p ps ih =>
    unfold Ctx.reach at h
    split at h
    · cases h; grind [→ Ctx.reach1_err]
    · split at h
      · cases h; grind [→ Ctx.reach1_mem]
      · cases h
theorem Ctx.unready_mem {x : Ctx} {strong : Bool} {e : ReadyErr × State} {m : List Host.Cell} (h : e.2.mem = m) : (x.unready strong e).keeps m := by
  unfold Ctx.unready; repeat' split
  all_goals first | trivial | exact h
theorem Ctx.accesses_mem {x : Ctx} {s : State} {md n need strong at_} {go : List Ready → State → Res} {m : List Host.Cell} (h : s.mem = m)
    (hg : ∀ rs t, t.mem = m → (go rs t).keeps m) : (x.accesses s md n need strong at_ go).keeps m := by
  have run : ∀ t : State, t.mem = m → Res.keeps m (match x.reach md n need t x.active with
      | .error e => x.unready strong e
      | .ok (rs, t1) =>
        if anyDev rs && !at_ then .refuse .deviceWindow
        else if anyIO rs && !strong then x.boundary t1 x.next (go rs)
        else go rs t1) := by
    intro t ht
    split
    · rename_i e he
      exact Ctx.unready_mem ((Ctx.reach_err (e := e.1) (t := e.2) he).trans ht)
    · rename_i rs t1 he
      have ht1 : t1.mem = m := by grind [→ Ctx.reach_mem]
      split
      · trivial
      · split
        · exact Ctx.boundary_mem ht1 (hg rs)
        · exact hg rs t1 ht1
  unfold Ctx.accesses
  split
  · exact Ctx.boundary_mem h run
  · exact run s h
theorem Ctx.startWrite_mem (a0 a1 a2 a3 s a5) : (Ctx.startWrite a0 a1 a2 a3 s a5).mem = s.mem := by unfold Ctx.startWrite; grind [= State.newId_mem, → State.newId_keep, = State.modCore_mem, = State.modThread_mem]
theorem lowLines_mem (a0 s a2) : (lowLines a0 s a2).mem = s.mem := by
  unfold lowLines; (try dsimp only); repeat' split
  all_goals first
    | rfl
    | grind [= State.modLine_mem]
    | (simp (disch := (intros; grind [= State.modLine_mem])) only [foldl_mem]; done)
    | (simp (disch := (intros; grind [= State.modLine_mem])) only [foldl_mem, foldl_mem2, State.modLine_mem]; grind [= State.modLine_mem])
theorem Ctx.walked_mem (a0 s a2) : (Ctx.walked a0 s a2).mem = s.mem := by unfold Ctx.walked; simp only [State.access_mem]
theorem Ctx.walks_mem (a0 a1 s) : (Ctx.walks a0 a1 s).mem = s.mem := by
  unfold Ctx.walks; simp (disch := (intros; grind [= Ctx.walked_mem])) only [foldl_mem]
theorem State.noteStore_mem (s a1 a2 a3 a4) : (State.noteStore s a1 a2 a3 a4).mem = s.mem := by unfold State.noteStore; grind [= State.modCore_mem, = State.modLine_mem]
theorem Ctx.bufferOne_mem (a0 a1 a2 a3 a4 s a6) : (Ctx.bufferOne a0 a1 a2 a3 a4 s a6).mem = s.mem := by unfold Ctx.bufferOne; grind [= State.newId_mem, → State.newId_keep, = State.modGroup_mem, = State.noteStore_mem]
theorem storeBody_mem {a0 a1 s m} (h : s.mem = m) : (storeBody a0 a1 s).keeps m := by
  unfold storeBody; (try dsimp only)
  repeat' first
    | split
    | (refine Ctx.accesses_mem (by first | assumption | rfl | (grind [= Ctx.startWrite_mem, = lowLines_mem, = Ctx.walks_mem, = Ctx.bufferOne_mem, Res.keeps, CRes.keeps, BRes.keeps, RingRes.keeps, LineRes.keeps, PieceRes.keeps, Fetched.keeps, = State.modGroup_mem])) ?_; intro _ _ _)
    | (refine Ctx.boundary_mem (by first | assumption | rfl | (grind [= Ctx.startWrite_mem, = lowLines_mem, = Ctx.walks_mem, = Ctx.bufferOne_mem, Res.keeps, CRes.keeps, BRes.keeps, RingRes.keeps, LineRes.keeps, PieceRes.keeps, Fetched.keeps, = State.modGroup_mem])) ?_; intro _ _)
  all_goals first
    | trivial
    | assumption
    | rfl
    | grind [= Ctx.startWrite_mem, = lowLines_mem, = Ctx.walks_mem, = Ctx.bufferOne_mem, Res.keeps, CRes.keeps, BRes.keeps, RingRes.keeps, LineRes.keeps, PieceRes.keeps, Fetched.keeps, = State.modGroup_mem]
    | (simp (disch := (intros; grind [= Ctx.startWrite_mem, = lowLines_mem, = Ctx.walks_mem, = Ctx.bufferOne_mem, Res.keeps, CRes.keeps, BRes.keeps, RingRes.keeps, LineRes.keeps, PieceRes.keeps, Fetched.keeps, = State.modGroup_mem])) only [Res.keeps, foldl_mem, lowLines_mem]; done)
    | (simp (disch := (intros; grind [= Ctx.startWrite_mem, = lowLines_mem, = Ctx.walks_mem, = Ctx.bufferOne_mem, Res.keeps, CRes.keeps, BRes.keeps, RingRes.keeps, LineRes.keeps, PieceRes.keeps, Fetched.keeps, = State.modGroup_mem])) only [Res.keeps, foldl_mem, lowLines_mem]; grind [= Ctx.startWrite_mem, = lowLines_mem, = Ctx.walks_mem, = Ctx.bufferOne_mem, Res.keeps, CRes.keeps, BRes.keeps, RingRes.keeps, LineRes.keeps, PieceRes.keeps, Fetched.keeps, = State.modGroup_mem])
theorem ldfmtBody_mem {a0 s m} (h : s.mem = m) : (ldfmtBody a0 s).keeps m := by
  unfold ldfmtBody; grind [= State.modWg_mem, Res.keeps, CRes.keeps, BRes.keeps, Fetched.keeps, PieceRes.keeps, RingRes.keeps,
      LineRes.keeps]
theorem Ctx.metUnread_mem {α : Type} (x : Ctx) (s : State) (rs : List (Nat × Answer α)) : (x.metUnread s rs).mem = s.mem := by
  unfold Ctx.metUnread
  refine foldl_mem (fun t q => ?_) _ s
  split
  · exact Ctx.walked_mem ..
  · rfl
theorem Ctx.sawBytes_mem (a0 s a2 a3 a4) : (Ctx.sawBytes a0 s a2 a3 a4).mem = s.mem := by unfold Ctx.sawBytes; grind [= State.access_mem, → State.access_keep, = State.touch_mem, = State.askPod_mem, = State.free_mem, → State.free_keep, = State.podLost_mem]
theorem Ctx.settle_mem {α : Type} {x : Ctx} {s : State} {rs : List (Nat × Answer α)} {go : List (Nat × α) → Res} {m : List Host.Cell}
    (h : s.mem = m) (hg : ∀ l, (go l).keeps m) : (x.settle s rs go).keeps m := by
  unfold Ctx.settle; repeat' split
  all_goals first | trivial | exact hg _ | exact h | exact (Ctx.metUnread_mem ..).trans h | exact (Ctx.sawBytes_mem ..).trans h
theorem State.probe_mem (s a1) : (State.probe s a1).2.mem = s.mem := by unfold State.probe; grind [= State.killEntry_mem]
theorem State.probe_keep {s a1 a t} (h : State.probe s a1 = (a, t)) : t.mem = s.mem := by
  have := State.probe_mem s a1; rw [h] at this; exact this
theorem State.probes_mem (s a1) : (State.probes s a1).2.mem = s.mem := by
  induction a1 generalizing s with
  | nil => unfold State.probes; grind [= State.probe_mem, → State.probe_keep]
  | cons _ _ ih => unfold State.probes; grind [= State.probe_mem, → State.probe_keep]
theorem State.probes_keep {s a1 a t} (h : State.probes s a1 = (a, t)) : t.mem = s.mem := by
  have := State.probes_mem s a1; rw [h] at this; exact this
theorem Ctx.sawKeys_mem (a0 s a2) : (Ctx.sawKeys a0 s a2).mem = s.mem := by
  unfold Ctx.sawKeys; simp (disch := (intros; grind [= Ctx.sawBytes_mem])) only [foldl_mem]
theorem keepProbes_mem {s : State} {r : Res} {m : List Host.Cell} (h : s.mem = m) (hr : r.keeps m) : (keepProbes s r).keeps m := by
  unfold keepProbes; split <;> first | exact h | exact hr
theorem Ctx.sawMaterials_mem (a0 s a2) : (Ctx.sawMaterials a0 s a2).mem = s.mem := by
  unfold Ctx.sawMaterials; simp (disch := (intros; grind [= Ctx.sawBytes_mem])) only [foldl_mem]
theorem Ctx.sendQuery_mem (a0 a1 s a3) : (Ctx.sendQuery a0 a1 s a3).mem = s.mem := by rfl
theorem shqBody_mem {a0 s m} (h : s.mem = m) : (shqBody a0 s).keeps m := by
  unfold shqBody
  repeat' first
    | split
    | (refine keepProbes_mem (by first | assumption | rfl | (grind [= State.probes_mem, → State.probes_keep, = Ctx.sawKeys_mem, = Ctx.sawMaterials_mem, = Ctx.sendQuery_mem, Res.keeps, CRes.keeps, BRes.keeps, RingRes.keeps, LineRes.keeps, PieceRes.keeps, Fetched.keeps, = State.modGroup_mem])) ?_)
    | (refine Ctx.settle_mem (by first | assumption | rfl | (grind [= State.probes_mem, → State.probes_keep, = Ctx.sawKeys_mem, = Ctx.sawMaterials_mem, = Ctx.sendQuery_mem, Res.keeps, CRes.keeps, BRes.keeps, RingRes.keeps, LineRes.keeps, PieceRes.keeps, Fetched.keeps, = State.modGroup_mem])) ?_; intro _)
    | (refine Ctx.boundary_mem (by first | assumption | rfl | (grind [= State.probes_mem, → State.probes_keep, = Ctx.sawKeys_mem, = Ctx.sawMaterials_mem, = Ctx.sendQuery_mem, Res.keeps, CRes.keeps, BRes.keeps, RingRes.keeps, LineRes.keeps, PieceRes.keeps, Fetched.keeps, = State.modGroup_mem])) ?_; intro _ _)
  all_goals first
    | trivial
    | assumption
    | rfl
    | grind [= State.probes_mem, → State.probes_keep, = Ctx.sawKeys_mem, = Ctx.sawMaterials_mem, = Ctx.sendQuery_mem, Res.keeps, CRes.keeps, BRes.keeps, RingRes.keeps, LineRes.keeps, PieceRes.keeps, Fetched.keeps, = State.modGroup_mem]
    | (simp (disch := (intros; grind [= State.probes_mem, → State.probes_keep, = Ctx.sawKeys_mem, = Ctx.sawMaterials_mem, = Ctx.sendQuery_mem, Res.keeps, CRes.keeps, BRes.keeps, RingRes.keeps, LineRes.keeps, PieceRes.keeps, Fetched.keeps, = State.modGroup_mem])) only [Res.keeps, foldl_mem, Ctx.sawMaterials_mem]; done)
    | (simp (disch := (intros; grind [= State.probes_mem, → State.probes_keep, = Ctx.sawKeys_mem, = Ctx.sawMaterials_mem, = Ctx.sendQuery_mem, Res.keeps, CRes.keeps, BRes.keeps, RingRes.keeps, LineRes.keeps, PieceRes.keeps, Fetched.keeps, = State.modGroup_mem])) only [Res.keeps, foldl_mem, Ctx.sawMaterials_mem]; grind [= State.probes_mem, → State.probes_keep, = Ctx.sawKeys_mem, = Ctx.sawMaterials_mem, = Ctx.sendQuery_mem, Res.keeps, CRes.keeps, BRes.keeps, RingRes.keeps, LineRes.keeps, PieceRes.keeps, Fetched.keeps, = State.modGroup_mem])
theorem regionBody_mem {a0 s m} (h : s.mem = m) : (regionBody a0 s).keeps m := by
  unfold regionBody
  repeat' first
    | split
    | (refine Ctx.boundary_mem (by first | assumption | rfl | (grind [Res.keeps, CRes.keeps, BRes.keeps, RingRes.keeps, LineRes.keeps, PieceRes.keeps, Fetched.keeps, = State.modGroup_mem])) ?_; intro _ _)
  all_goals first
    | trivial
    | assumption
    | rfl
    | grind [Res.keeps, CRes.keeps, BRes.keeps, RingRes.keeps, LineRes.keeps, PieceRes.keeps, Fetched.keeps, = State.modGroup_mem]
    | (simp (disch := (intros; grind [Res.keeps, CRes.keeps, BRes.keeps, RingRes.keeps, LineRes.keeps, PieceRes.keeps, Fetched.keeps, = State.modGroup_mem])) only [Res.keeps, CRes.keeps, BRes.keeps, Fetched.keeps, foldl_mem, foldl_mem2, State.modGroup_mem]; done)
    | (simp (disch := (intros; grind [Res.keeps, CRes.keeps, BRes.keeps, RingRes.keeps, LineRes.keeps, PieceRes.keeps, Fetched.keeps, = State.modGroup_mem])) only [Res.keeps, CRes.keeps, BRes.keeps, Fetched.keeps, foldl_mem, foldl_mem2, State.modGroup_mem]; grind [Res.keeps, CRes.keeps, BRes.keeps, RingRes.keeps, LineRes.keeps, PieceRes.keeps, Fetched.keeps, = State.modGroup_mem])
theorem Ctx.putOp_mem (a0 s a2) : (Ctx.putOp a0 s a2).mem = s.mem := by rfl
theorem signBody_mem {a0 a1 s m} (h : s.mem = m) : (signBody a0 a1 s).keeps m := by
  unfold signBody
  split
  · trivial
  · split
    · exact regionBody_mem h
    · split
      · trivial
      · extract_lets
        split
        · trivial
        · split
          · trivial
          · refine Ctx.boundary_mem h fun t ht => ?_
            split
            · exact ht
            · split
              · trivial
              · extract_lets c t1 t2 t3
                split
                · exact ht
                · have h1 : t1.mem = m := by
                    refine (foldl_mem (by intro s a; exact Ctx.putOp_mem _ _ _) _ _).trans ?_
                    split
                    · exact (State.passSigners_mem ..).trans ht
                    · exact ht
                  have h3 : t3.mem = m := (Ctx.update_mem ..).trans ((State.modWg_mem ..).trans h1)
                  split <;> exact (State.modGroup_mem ..).trans h3
theorem aluBody_mem {d : AluDef} {x : Ctx} {s : State} {m : List Host.Cell} (h : s.mem = m) : (aluBody d x s).keeps m := by
  unfold aluBody; split
  · trivial
  · exact (Ctx.update_mem x s _).trans h
theorem Ctx.parkAll_mem (a0 s a2) : (Ctx.parkAll a0 s a2).2.mem = s.mem := by
  induction a2 generalizing a0 s with
  | nil => unfold Ctx.parkAll; grind [→ State.parkOne_mem, = State.modThread_mem]
  | cons _ _ ih => unfold Ctx.parkAll; grind [→ State.parkOne_mem, = State.modThread_mem]
theorem Ctx.parkAll_keep {a0 s a2 a t} (h : Ctx.parkAll a0 s a2 = (a, t)) : t.mem = s.mem := by
  have := Ctx.parkAll_mem a0 s a2; rw [h] at this; exact this
theorem State.chkGlobal_mem (s a1 a2 a3 a4) : (State.chkGlobal s a1 a2 a3 a4).2.mem = s.mem := by unfold State.chkGlobal; grind [= State.access_mem, → State.access_keep, = State.choose_mem, → State.choose_keep]
theorem State.chkGlobal_keep {s a1 a2 a3 a4 a t} (h : State.chkGlobal s a1 a2 a3 a4 = (a, t)) : t.mem = s.mem := by
  have := State.chkGlobal_mem s a1 a2 a3 a4; rw [h] at this; exact this
theorem State.chkAll_mem (c need) (s : State) (l) : (State.chkAll c need s l).2.mem = s.mem := by
  induction l generalizing s with
  | nil => rfl
  | cons p l ih =>
    unfold State.chkAll
    rw [ChkRes.andThen_mem ih, State.chkGlobal_mem]
theorem State.chkAll_keep {a0 a1 s a3 a t} (h : State.chkAll a0 a1 s a3 = (a, t)) : t.mem = s.mem := by
  have := State.chkAll_mem a0 a1 s a3; rw [h] at this; exact this
theorem State.chkCopy_mem (s : State) (c) : (State.chkCopy s c).2.mem = s.mem := by
  unfold State.chkCopy; dsimp only
  rw [ChkRes.andThen_mem, State.chkAll_mem]
  intro t
  rw [ChkRes.andThen_mem]
  intro t
  rw [ChkRes.andThen_mem, State.chkAll_mem]
  intro t
  rw [ChkRes.andThen_mem]
  intro t
  split
  · exact State.chkGlobal_mem ..
  · rfl
theorem State.chkCopy_keep {s a1 a t} (h : State.chkCopy s a1 = (a, t)) : t.mem = s.mem := by
  have := State.chkCopy_mem s a1; rw [h] at this; exact this
theorem State.dropTiles_mem (s a1) : (State.dropTiles s a1).mem = s.mem := by
  unfold State.dropTiles; simp (disch := (intros; grind [= State.dropEntry_mem])) only [foldl_mem]
theorem State.dropStarted_mem (s a1) : (State.dropStarted s a1).mem = s.mem := by unfold State.dropStarted; simp only [State.dropTiles_mem]
theorem State.addPart_mem (s a1 a2) : (State.addPart s a1 a2).mem = s.mem := by rfl
theorem Ctx.splitTo_mem {x : Ctx} {s : State} {ps : List Part} {m : List Host.Cell} (h : s.mem = m) : (x.splitTo s ps).keeps m := by
  unfold Ctx.splitTo; split
  · exact h
  · simpa [Res.keeps] using h
  · refine Ctx.boundary_mem h fun t ht => ?_
    simp only [Res.keeps]
    rw [foldl_mem (by intro s a; exact State.addPart_mem _ _ _), State.modGroup_mem, ht]
theorem Ctx.sawRecords_mem (a0 s) : (Ctx.sawRecords a0 s).mem = s.mem := by
  unfold Ctx.sawRecords; simp (disch := (intros; grind [= Ctx.sawBytes_mem])) only [foldl_mem]
theorem Ctx.metRecords_mem (a0 s) : (Ctx.metRecords a0 s).mem = s.mem := by
  unfold Ctx.metRecords; simp (disch := (intros; grind [= Ctx.walked_mem])) only [foldl_mem]
theorem Ctx.zeroOthers_mem (a0 a1 a2 s) : (Ctx.zeroOthers a0 a1 a2 s).mem = s.mem := by unfold Ctx.zeroOthers; grind [= Ctx.update_mem]
theorem Ctx.joinBatch_mem (a0 s a2) : (Ctx.joinBatch a0 s a2).2.mem = s.mem := by unfold Ctx.joinBatch; grind [= State.newId_mem,
    → State.newId_keep, = State.modThread_mem]
theorem Ctx.joinBatch_keep {a0 s a2 a t} (h : Ctx.joinBatch a0 s a2 = (a, t)) : t.mem = s.mem := by
  have := Ctx.joinBatch_mem a0 s a2; rw [h] at this; exact this
theorem Ctx.startCopy_mem (a0 s a2) : (Ctx.startCopy a0 s a2).mem = s.mem := by unfold Ctx.startCopy; grind [= Ctx.joinBatch_mem,
    → Ctx.joinBatch_keep, = State.modThread_mem, = State.newId_mem, → State.newId_keep]
theorem copyBody_mem {plan : Ctx → Nat × Thread → State → PlanRes} {x : Ctx} {s : State} {tensor : Bool} {m : List Host.Cell}
    (h : s.mem = m) : (copyBody plan x s tensor).keeps m := by
  have hs := (Ctx.sawRecords_mem x s).trans h
  have hm := (Ctx.metRecords_mem x s).trans h
  unfold copyBody; dsimp only; repeat' split
  all_goals first
    | trivial
    | exact h
    | exact hs
    | exact hm
    | (refine Ctx.boundary_mem h fun t ht => ?_
       simp only [Res.keeps]
       rw [Ctx.zeroOthers_mem, foldl_mem (by intro s a; exact Ctx.startCopy_mem _ _ _)]
       first
         | exact (Ctx.sawRecords_mem x t).trans ht
         | exact ht)
theorem State.clockEvict_mem (s a1) : (State.clockEvict s a1).mem = s.mem := by
  unfold State.clockEvict; (try dsimp only); repeat' split
  all_goals first
    | rfl
    | grind [= State.killEntry_mem, = State.setEntry_mem]
    | (simp (disch := (intros; grind [= State.killEntry_mem, = State.setEntry_mem])) only [foldl_mem, State.killEntry_mem]; done)
    | (simp (disch := (intros; grind [= State.killEntry_mem, = State.setEntry_mem])) only [foldl_mem, foldl_mem2, State.killEntry_mem, State.setEntry_mem]; grind [= State.killEntry_mem, = State.setEntry_mem])
theorem execPoolClockEviction_mem (a0 s) : KeepsMem s.mem (execPoolClockEviction a0 s) := runEvent_mem (by simp only [State.clockEvict_mem])
theorem State.draw_mem (s a1 a2 a3) : (State.draw s a1 a2 a3).mem = s.mem := by unfold State.draw; grind [= State.newId_mem,
    → State.newId_keep, = State.modCore_mem, = State.modWg_mem, = State.setGroup_mem]
theorem State.fullDraw_mem (s a1 a2 a3) : (State.fullDraw s a1 a2 a3).mem = s.mem := by unfold State.fullDraw; grind [= State.draw_mem]
theorem State.fullDraws_mem (s : State) : (State.fullDraws s).mem = s.mem := by
  unfold State.fullDraws
  exact foldl_mem (fun u c => foldl_mem (fun v b => State.fullDraw_mem ..) _ u) _ s
theorem State.wakePwait_mem (s a1 a2 a3) : (State.wakePwait s a1 a2 a3).mem = s.mem := by
  unfold State.wakePwait; simp (disch := (intros; grind [= State.modGroup_mem, = State.lowerFlags_mem])) only [foldl_mem
      ]
theorem State.wakePwaits_mem (s : State) : (State.wakePwaits s).mem = s.mem := by
  unfold State.wakePwaits
  refine foldl_mem (fun u c => ?_) _ s
  split
  · exact foldl_mem (fun v b => State.wakePwait_mem ..) _ u
  · rfl
theorem Ctx.tgtCheck_mem (a0 s a2) : (Ctx.tgtCheck a0 s a2).2.mem = s.mem := by unfold Ctx.tgtCheck; grind [= State.codeLine_mem,
    → State.codeLine_keep]
theorem Ctx.tgtCheck_keep {a0 s a2 a t} (h : Ctx.tgtCheck a0 s a2 = (a, t)) : t.mem = s.mem := by
  have := Ctx.tgtCheck_mem a0 s a2; rw [h] at this; exact this
theorem relPre_mem {x : Ctx} {s : State} {r : Res} {m : List Host.Cell} (h : s.mem = m) (hr : relPre x s = some r) : r.keeps m := by
  unfold relPre at hr; dsimp only at hr; repeat' split at hr
  all_goals first
    | (cases hr; done)
    | (cases hr; first | trivial | exact h | (show State.mem _ = m; grind [→ Ctx.tgtCheck_keep]))
theorem relBranch_mem {first : Bool} {wr : Ctx → State → State} {x : Ctx} {s : State} {m : List Host.Cell} (h : s.mem = m)
    (hw : ∀ t, (wr x t).mem = t.mem) : (relBranch first wr x s).keeps m := by
  unfold relBranch; dsimp only; split
  · exact h
  · exact Ctx.splitTo_mem ((hw _).trans ((Ctx.tgtCheck_mem x s _).trans h))
theorem noWrite_mem (a0 s) : (noWrite a0 s).mem = s.mem := by rfl
theorem Ctx.checkTargets_mem (a0 s a2) : (Ctx.checkTargets a0 s a2).2.mem = s.mem := by
  induction a2 generalizing a0 s with
  | nil => unfold Ctx.checkTargets; grind [= Ctx.tgtCheck_mem, → Ctx.tgtCheck_keep]
  | cons _ _ ih => unfold Ctx.checkTargets; grind [= Ctx.tgtCheck_mem, → Ctx.tgtCheck_keep]
theorem Ctx.checkTargets_keep {a0 s a2 a t} (h : Ctx.checkTargets a0 s a2 = (a, t)) : t.mem = s.mem := by
  have := Ctx.checkTargets_mem a0 s a2; rw [h] at this; exact this
theorem pairBranch_mem {wr : Ctx → State → State} {x : Ctx} {s : State} {m : List Host.Cell} (h : s.mem = m)
    (hw : ∀ t, (wr x t).mem = t.mem) : (pairBranch wr x s).keeps m := by
  have hc := Ctx.checkTargets_mem x s (pairTargets x)
  unfold pairBranch; dsimp only; repeat' split
  all_goals first
    | trivial
    | exact h
    | exact hc.trans h
    | exact Ctx.splitTo_mem ((hw _).trans (hc.trans h))
theorem writeReturn_mem (a0 s) : (writeReturn a0 s).mem = s.mem := by rfl
theorem State.loseThreads_mem (s a1 a2) : (State.loseThreads s a1 a2).mem = s.mem := by unfold State.loseThreads; grind [= State.dropGroup_mem, = State.setGroup_mem]
theorem reformBody_mem {a0 s m} (h : s.mem = m) : (reformBody a0 s).keeps m := by
  unfold reformBody
  repeat' first
    | split
    | (refine Ctx.boundary_mem (by first | assumption | rfl | (grind [= State.modGroup_mem, = State.modCore_mem, = Ctx.updateActive_mem, = State.count_mem, = State.fullDraw_mem, = State.loseThreads_mem, Res.keeps, CRes.keeps, BRes.keeps, RingRes.keeps, LineRes.keeps, PieceRes.keeps, Fetched.keeps])) ?_; intro _ _)
  all_goals first
    | trivial
    | assumption
    | rfl
    | grind [= State.modGroup_mem, = State.modCore_mem, = Ctx.updateActive_mem, = State.count_mem, = State.fullDraw_mem, = State.loseThreads_mem, Res.keeps, CRes.keeps, BRes.keeps, RingRes.keeps, LineRes.keeps, PieceRes.keeps, Fetched.keeps]
    | (simp (disch := (intros; grind [= State.modGroup_mem, = State.modCore_mem, = Ctx.updateActive_mem, = State.count_mem, = State.fullDraw_mem, = State.loseThreads_mem, Res.keeps, CRes.keeps, BRes.keeps, RingRes.keeps, LineRes.keeps, PieceRes.keeps, Fetched.keeps])) only [Res.keeps]; done)
    | (simp (disch := (intros; grind [= State.modGroup_mem, = State.modCore_mem, = Ctx.updateActive_mem, = State.count_mem, = State.fullDraw_mem, = State.loseThreads_mem, Res.keeps, CRes.keeps, BRes.keeps, RingRes.keeps, LineRes.keeps, PieceRes.keeps, Fetched.keeps])) only [Res.keeps]; grind [= State.modGroup_mem, = State.modCore_mem, = Ctx.updateActive_mem, = State.count_mem, = State.fullDraw_mem, = State.loseThreads_mem, Res.keeps, CRes.keeps, BRes.keeps, RingRes.keeps, LineRes.keeps, PieceRes.keeps, Fetched.keeps])
theorem yieldBody_mem {a0 s m} (h : s.mem = m) : (yieldBody a0 s).keeps m := by
  unfold yieldBody
  repeat' first
    | split
    | (refine Ctx.boundary_mem (by first | assumption | rfl | (grind [= State.modGroup_mem, = State.park_mem, Res.keeps, CRes.keeps, BRes.keeps, RingRes.keeps, LineRes.keeps, PieceRes.keeps, Fetched.keeps])) ?_; intro _ _)
  all_goals first
    | trivial
    | assumption
    | rfl
    | grind [= State.modGroup_mem, = State.park_mem, Res.keeps, CRes.keeps, BRes.keeps, RingRes.keeps, LineRes.keeps, PieceRes.keeps, Fetched.keeps]
    | (simp (disch := (intros; grind [= State.modGroup_mem, = State.park_mem, Res.keeps, CRes.keeps, BRes.keeps, RingRes.keeps, LineRes.keeps, PieceRes.keeps, Fetched.keeps])) only [Res.keeps, CRes.keeps, BRes.keeps, Fetched.keeps, foldl_mem, foldl_mem2, State.modGroup_mem, State.park_mem, State.modGroup_mem]; done)
    | (simp (disch := (intros; grind [= State.modGroup_mem, = State.park_mem, Res.keeps, CRes.keeps, BRes.keeps, RingRes.keeps, LineRes.keeps, PieceRes.keeps, Fetched.keeps])) only [Res.keeps, CRes.keeps, BRes.keeps, Fetched.keeps, foldl_mem, foldl_mem2, State.modGroup_mem, State.park_mem, State.modGroup_mem]; grind [= State.modGroup_mem, = State.park_mem, Res.keeps, CRes.keeps, BRes.keeps, RingRes.keeps, LineRes.keeps, PieceRes.keeps, Fetched.keeps])
theorem Ctx.startLoad_mem (a0 a1 a2 a3 a4 a5 s a7) : (Ctx.startLoad a0 a1 a2 a3 a4 a5 s a7).mem = s.mem := by rfl
theorem pollBody_mem {a0 s m} (h : s.mem = m) : (pollBody a0 s).keeps m := by
  unfold pollBody; (try dsimp only)
  repeat' first
    | split
    | (refine Ctx.accesses_mem (by first | assumption | rfl | (grind [= Ctx.startLoad_mem, = State.park_mem, Res.keeps, CRes.keeps, BRes.keeps, RingRes.keeps, LineRes.keeps, PieceRes.keeps, Fetched.keeps])) ?_; intro _ _ _)
  all_goals first
    | trivial
    | assumption
    | rfl
    | grind [= Ctx.startLoad_mem, = State.park_mem, Res.keeps, CRes.keeps, BRes.keeps, RingRes.keeps, LineRes.keeps, PieceRes.keeps, Fetched.keeps]
    | (simp (disch := (intros; grind [= Ctx.startLoad_mem, = State.park_mem, Res.keeps, CRes.keeps, BRes.keeps, RingRes.keeps, LineRes.keeps, PieceRes.keeps, Fetched.keeps])) only [Res.keeps, foldl_mem, State.park_mem]; done)
    | (simp (disch := (intros; grind [= Ctx.startLoad_mem, = State.park_mem, Res.keeps, CRes.keeps, BRes.keeps, RingRes.keeps, LineRes.keeps, PieceRes.keeps, Fetched.keeps])) only [Res.keeps, foldl_mem, State.park_mem]; grind [= Ctx.startLoad_mem, = State.park_mem, Res.keeps, CRes.keeps, BRes.keeps, RingRes.keeps, LineRes.keeps, PieceRes.keeps, Fetched.keeps])
theorem Ctx.raiseFlags_mem (a0 s) : (Ctx.raiseFlags a0 s).mem = s.mem := by rfl
theorem sleepBody_mem {a0 s m} (h : s.mem = m) : (sleepBody a0 s).keeps m := by
  unfold sleepBody
  repeat' first
    | split
    | (refine Ctx.boundary_mem (by first | assumption | rfl | (grind [yieldBody_mem, = State.park_mem, = Ctx.raiseFlags_mem, Res.keeps, CRes.keeps, BRes.keeps, RingRes.keeps, LineRes.keeps, PieceRes.keeps, Fetched.keeps, = State.modGroup_mem])) ?_; intro _ _)
  all_goals first
    | trivial
    | assumption
    | rfl
    | grind [yieldBody_mem, = State.park_mem, = Ctx.raiseFlags_mem, Res.keeps, CRes.keeps, BRes.keeps, RingRes.keeps, LineRes.keeps, PieceRes.keeps, Fetched.keeps, = State.modGroup_mem]
    | (simp (disch := (intros; grind [yieldBody_mem, = State.park_mem, = Ctx.raiseFlags_mem, Res.keeps, CRes.keeps, BRes.keeps, RingRes.keeps, LineRes.keeps, PieceRes.keeps, Fetched.keeps, = State.modGroup_mem])) only [Res.keeps, CRes.keeps, BRes.keeps, Fetched.keeps, foldl_mem, foldl_mem2, State.park_mem, Ctx.raiseFlags_mem, State.modGroup_mem]; done)
    | (simp (disch := (intros; grind [yieldBody_mem, = State.park_mem, = Ctx.raiseFlags_mem, Res.keeps, CRes.keeps, BRes.keeps, RingRes.keeps, LineRes.keeps, PieceRes.keeps, Fetched.keeps, = State.modGroup_mem])) only [Res.keeps, CRes.keeps, BRes.keeps, Fetched.keeps, foldl_mem, foldl_mem2, State.park_mem, Ctx.raiseFlags_mem, State.modGroup_mem]; grind [yieldBody_mem, = State.park_mem, = Ctx.raiseFlags_mem, Res.keeps, CRes.keeps, BRes.keeps, RingRes.keeps, LineRes.keeps, PieceRes.keeps, Fetched.keeps, = State.modGroup_mem])
theorem State.endThreads_mem (s a1 a2) : (State.endThreads s a1 a2).mem = s.mem := by rfl
theorem exitBody_mem {a0 s m} (h : s.mem = m) : (exitBody a0 s).keeps m := by
  unfold exitBody
  repeat' first
    | split
    | (refine Ctx.boundary_mem (by first | assumption | rfl | (grind [→ State.taskSettle_mem, = State.endThreads_mem, = State.loseThreads_mem, = State.modGroup_mem, Res.keeps, CRes.keeps, BRes.keeps, RingRes.keeps, LineRes.keeps, PieceRes.keeps, Fetched.keeps])) ?_; intro _ _)
  all_goals first
    | trivial
    | assumption
    | rfl
    | grind [→ State.taskSettle_mem, = State.endThreads_mem, = State.loseThreads_mem, = State.modGroup_mem, Res.keeps, CRes.keeps, BRes.keeps, RingRes.keeps, LineRes.keeps, PieceRes.keeps, Fetched.keeps]
    | (simp (disch := (intros; grind [→ State.taskSettle_mem, = State.endThreads_mem, = State.loseThreads_mem, = State.modGroup_mem, Res.keeps, CRes.keeps, BRes.keeps, RingRes.keeps, LineRes.keeps, PieceRes.keeps, Fetched.keeps])) only [Res.keeps, CRes.keeps, BRes.keeps, Fetched.keeps, foldl_mem, foldl_mem2, State.endThreads_mem, State.loseThreads_mem, State.modGroup_mem, State.modGroup_mem]; done)
    | (simp (disch := (intros; grind [→ State.taskSettle_mem, = State.endThreads_mem, = State.loseThreads_mem, = State.modGroup_mem, Res.keeps, CRes.keeps, BRes.keeps, RingRes.keeps, LineRes.keeps, PieceRes.keeps, Fetched.keeps])) only [Res.keeps, CRes.keeps, BRes.keeps, Fetched.keeps, foldl_mem, foldl_mem2, State.endThreads_mem, State.loseThreads_mem, State.modGroup_mem, State.modGroup_mem]; grind [→ State.taskSettle_mem, = State.endThreads_mem, = State.loseThreads_mem, = State.modGroup_mem, Res.keeps, CRes.keeps, BRes.keeps, RingRes.keeps, LineRes.keeps, PieceRes.keeps, Fetched.keeps])
theorem softTrap_mem {a0 a1 a2 s m} (h : s.mem = m) : (softTrap a0 a1 a2 s).keeps m := by unfold softTrap; grind [regionBody_mem,
    Res.keeps, CRes.keeps, BRes.keeps, RingRes.keeps, LineRes.keeps, PieceRes.keeps, Fetched.keeps]
theorem trapBody_mem {a0 s m} (h : s.mem = m) : (trapBody a0 s).keeps m := by unfold trapBody; grind [softTrap_mem, Res.keeps,
    CRes.keeps, BRes.keeps, RingRes.keeps, LineRes.keeps, PieceRes.keeps, Fetched.keeps]
theorem bkptBody_mem {a0 s m} (h : s.mem = m) : (bkptBody a0 s).keeps m := by unfold bkptBody; grind [softTrap_mem,
    regionBody_mem, Res.keeps, CRes.keeps, BRes.keeps, RingRes.keeps, LineRes.keeps, PieceRes.keeps, Fetched.keeps]
theorem loadBody_mem {a0 a1 s m} (h : s.mem = m) : (loadBody a0 a1 s).keeps m := by
  unfold loadBody; (try dsimp only)
  repeat' first
    | split
    | (refine Ctx.accesses_mem (by first | assumption | rfl | (grind [= Ctx.zeroOthers_mem, = Ctx.startLoad_mem, = lowLines_mem, Res.keeps, CRes.keeps, BRes.keeps, RingRes.keeps, LineRes.keeps, PieceRes.keeps, Fetched.keeps])) ?_; intro _ _ _)
  all_goals first
    | trivial
    | assumption
    | rfl
    | grind [= Ctx.zeroOthers_mem, = Ctx.startLoad_mem, = lowLines_mem, Res.keeps, CRes.keeps, BRes.keeps, RingRes.keeps, LineRes.keeps, PieceRes.keeps, Fetched.keeps]
    | (simp (disch := (intros; grind [= Ctx.zeroOthers_mem, = Ctx.startLoad_mem, = lowLines_mem, Res.keeps, CRes.keeps, BRes.keeps, RingRes.keeps, LineRes.keeps, PieceRes.keeps, Fetched.keeps])) only [Res.keeps, foldl_mem, Ctx.zeroOthers_mem, lowLines_mem]; done)
    | (simp (disch := (intros; grind [= Ctx.zeroOthers_mem, = Ctx.startLoad_mem, = lowLines_mem, Res.keeps, CRes.keeps, BRes.keeps, RingRes.keeps, LineRes.keeps, PieceRes.keeps, Fetched.keeps])) only [Res.keeps, foldl_mem, Ctx.zeroOthers_mem, lowLines_mem]; grind [= Ctx.zeroOthers_mem, = Ctx.startLoad_mem, = lowLines_mem, Res.keeps, CRes.keeps, BRes.keeps, RingRes.keeps, LineRes.keeps, PieceRes.keeps, Fetched.keeps])
theorem hintBody_mem {one : Ctx → State → Nat × Thread → State} {x : Ctx} {s : State} {m : List Host.Cell} (h : s.mem = m)
    (ho : ∀ x t p, (one x t p).mem = t.mem) : (hintBody one x s).keeps m := by
  unfold hintBody; dsimp only; repeat' split
  all_goals first
    | trivial
    | exact (Ctx.walks_mem ..).trans h
    | (simp only [Res.keeps]; rw [foldl_mem (by intro s a; exact ho _ _ _), h])
theorem Ctx.hintLine_mem (a0 s a2) : (Ctx.hintLine a0 s a2).2.mem = s.mem := by unfold Ctx.hintLine; grind [= State.access_mem,
    → State.access_keep]
theorem Ctx.hintLine_keep {a0 s a2 a t} (h : Ctx.hintLine a0 s a2 = (a, t)) : t.mem = s.mem := by
  have := Ctx.hintLine_mem a0 s a2; rw [h] at this; exact this
theorem Ctx.prefetch_mem (a0 s a2) : (Ctx.prefetch a0 s a2).mem = s.mem := by unfold Ctx.prefetch; grind [= Ctx.hintLine_mem,
    → Ctx.hintLine_keep, = State.newId_mem, → State.newId_keep]
theorem Ctx.evict_mem (a0 s a2) : (Ctx.evict a0 s a2).mem = s.mem := by unfold Ctx.evict; grind [= Ctx.hintLine_mem,
    → Ctx.hintLine_keep, = State.modCore_mem, = State.modLine_mem]
theorem Ctx.rmw_mem {x : Ctx} {s : State} {md n} {go : List Ready → State → Res} {m : List Host.Cell} (h : s.mem = m)
    (hg : ∀ rs t, t.mem = m → (go rs t).keeps m) : (x.rmw s md n go).keeps m := by
  unfold Ctx.rmw
  refine Ctx.accesses_mem h fun rs t ht => ?_
  split
  · exact hg rs t ht
  · dsimp only; repeat' split
    all_goals first | trivial | exact hg _ _ ht | exact ht
theorem atomBody_mem {a0 a1 a2 s m} (h : s.mem = m) : (atomBody a0 a1 a2 s).keeps m := by
  unfold atomBody; (try dsimp only)
  repeat' first
    | split
    | (refine Ctx.rmw_mem (by first | assumption | rfl | (grind [= Ctx.zeroOthers_mem, = Ctx.startWrite_mem, Res.keeps, CRes.keeps, BRes.keeps, RingRes.keeps, LineRes.keeps, PieceRes.keeps, Fetched.keeps])) ?_; intro _ _ _)
  all_goals first
    | trivial
    | assumption
    | rfl
    | grind [= Ctx.zeroOthers_mem, = Ctx.startWrite_mem, Res.keeps, CRes.keeps, BRes.keeps, RingRes.keeps, LineRes.keeps, PieceRes.keeps, Fetched.keeps]
    | (simp (disch := (intros; grind [= Ctx.zeroOthers_mem, = Ctx.startWrite_mem, Res.keeps, CRes.keeps, BRes.keeps, RingRes.keeps, LineRes.keeps, PieceRes.keeps, Fetched.keeps])) only [Res.keeps, foldl_mem, Ctx.zeroOthers_mem]; done)
    | (simp (disch := (intros; grind [= Ctx.zeroOthers_mem, = Ctx.startWrite_mem, Res.keeps, CRes.keeps, BRes.keeps, RingRes.keeps, LineRes.keeps, PieceRes.keeps, Fetched.keeps])) only [Res.keeps, foldl_mem, Ctx.zeroOthers_mem]; grind [= Ctx.zeroOthers_mem, = Ctx.startWrite_mem, Res.keeps, CRes.keeps, BRes.keeps, RingRes.keeps, LineRes.keeps, PieceRes.keeps, Fetched.keeps])
theorem casBody_mem {a0 a1 s m} (h : s.mem = m) : (casBody a0 a1 s).keeps m := by
  unfold casBody; (try dsimp only)
  repeat' first
    | split
    | (refine Ctx.rmw_mem (by first | assumption | rfl | (grind [= Ctx.zeroOthers_mem, = Ctx.startWrite_mem, Res.keeps, CRes.keeps, BRes.keeps, RingRes.keeps, LineRes.keeps, PieceRes.keeps, Fetched.keeps])) ?_; intro _ _ _)
  all_goals first
    | trivial
    | assumption
    | rfl
    | grind [= Ctx.zeroOthers_mem, = Ctx.startWrite_mem, Res.keeps, CRes.keeps, BRes.keeps, RingRes.keeps, LineRes.keeps, PieceRes.keeps, Fetched.keeps]
    | (simp (disch := (intros; grind [= Ctx.zeroOthers_mem, = Ctx.startWrite_mem, Res.keeps, CRes.keeps, BRes.keeps, RingRes.keeps, LineRes.keeps, PieceRes.keeps, Fetched.keeps])) only [Res.keeps, foldl_mem, Ctx.zeroOthers_mem]; done)
    | (simp (disch := (intros; grind [= Ctx.zeroOthers_mem, = Ctx.startWrite_mem, Res.keeps, CRes.keeps, BRes.keeps, RingRes.keeps, LineRes.keeps, PieceRes.keeps, Fetched.keeps])) only [Res.keeps, foldl_mem, Ctx.zeroOthers_mem]; grind [= Ctx.zeroOthers_mem, = Ctx.startWrite_mem, Res.keeps, CRes.keeps, BRes.keeps, RingRes.keeps, LineRes.keeps, PieceRes.keeps, Fetched.keeps])
theorem Ctx.waitDone_mem {x : Ctx} {s : State} {done} {k : State → Res} {m : List Host.Cell} (h : s.mem = m)
    (hk : ∀ t, t.mem = m → (k t).keeps m) : (x.waitDone s done k).keeps m := by
  unfold Ctx.waitDone
  refine Ctx.boundary_mem h fun t ht => ?_
  split
  · exact hk _ (by simpa using ht)
  · exact ht
theorem Ctx.fenceRel_mem (a0 s) : (Ctx.fenceRel a0 s).mem = s.mem := by
  unfold Ctx.fenceRel; simp (disch := (intros; grind [= State.newId_mem, → State.newId_keep, = State.modThread_mem])) only [foldl_mem, State.newId_mem]
theorem fenceBody_mem {a0 s m} (h : s.mem = m) : (fenceBody a0 s).keeps m := by
  unfold fenceBody
  repeat' first
    | split
    | (refine Ctx.waitDone_mem (by first | assumption | rfl | (grind [= Ctx.fenceRel_mem, Res.keeps, CRes.keeps, BRes.keeps, RingRes.keeps, LineRes.keeps, PieceRes.keeps, Fetched.keeps, = State.modGroup_mem])) ?_; intro _ _)
    | (refine Ctx.boundary_mem (by first | assumption | rfl | (grind [= Ctx.fenceRel_mem, Res.keeps, CRes.keeps, BRes.keeps, RingRes.keeps, LineRes.keeps, PieceRes.keeps, Fetched.keeps, = State.modGroup_mem])) ?_; intro _ _)
  all_goals first
    | trivial
    | assumption
    | rfl
    | grind [= Ctx.fenceRel_mem, Res.keeps, CRes.keeps, BRes.keeps, RingRes.keeps, LineRes.keeps, PieceRes.keeps, Fetched.keeps, = State.modGroup_mem]
    | (simp (disch := (intros; grind [= Ctx.fenceRel_mem, Res.keeps, CRes.keeps, BRes.keeps, RingRes.keeps, LineRes.keeps, PieceRes.keeps, Fetched.keeps, = State.modGroup_mem])) only [Res.keeps, CRes.keeps, BRes.keeps, Fetched.keeps, foldl_mem, foldl_mem2, Ctx.fenceRel_mem, State.modGroup_mem]; done)
    | (simp (disch := (intros; grind [= Ctx.fenceRel_mem, Res.keeps, CRes.keeps, BRes.keeps, RingRes.keeps, LineRes.keeps, PieceRes.keeps, Fetched.keeps, = State.modGroup_mem])) only [Res.keeps, CRes.keeps, BRes.keeps, Fetched.keeps, foldl_mem, foldl_mem2, Ctx.fenceRel_mem, State.modGroup_mem]; grind [= Ctx.fenceRel_mem, Res.keeps, CRes.keeps, BRes.keeps, RingRes.keeps, LineRes.keeps, PieceRes.keeps, Fetched.keeps, = State.modGroup_mem])
theorem picotBody_mem {fs more} {go : Ctx → State → Res} {x : Ctx} {s : State} {m : List Host.Cell} (h : s.mem = m)
    (hg : (go x s).keeps m) : (picotBody fs more go x s).keeps m := by
  unfold picotBody; repeat' split
  all_goals first | trivial | exact h | exact hg
theorem parrGo_mem {a0 a1 s m} (h : s.mem = m) : (parrGo a0 a1 s).keeps m := by
  unfold parrGo
  repeat' first
    | split
    | (refine Ctx.boundary_mem (by first | assumption | rfl | (grind [= Ctx.zeroOthers_mem, = Ctx.sendPicot_mem, Res.keeps, CRes.keeps, BRes.keeps, RingRes.keeps, LineRes.keeps, PieceRes.keeps, Fetched.keeps, = State.modGroup_mem])) ?_; intro _ _)
  all_goals first
    | trivial
    | assumption
    | rfl
    | grind [= Ctx.zeroOthers_mem, = Ctx.sendPicot_mem, Res.keeps, CRes.keeps, BRes.keeps, RingRes.keeps, LineRes.keeps, PieceRes.keeps, Fetched.keeps, = State.modGroup_mem]
    | (simp (disch := (intros; grind [= Ctx.zeroOthers_mem, = Ctx.sendPicot_mem, Res.keeps, CRes.keeps, BRes.keeps, RingRes.keeps, LineRes.keeps, PieceRes.keeps, Fetched.keeps, = State.modGroup_mem])) only [Res.keeps, foldl_mem, Ctx.zeroOthers_mem]; done)
    | (simp (disch := (intros; grind [= Ctx.zeroOthers_mem, = Ctx.sendPicot_mem, Res.keeps, CRes.keeps, BRes.keeps, RingRes.keeps, LineRes.keeps, PieceRes.keeps, Fetched.keeps, = State.modGroup_mem])) only [Res.keeps, foldl_mem, Ctx.zeroOthers_mem]; grind [= Ctx.zeroOthers_mem, = Ctx.sendPicot_mem, Res.keeps, CRes.keeps, BRes.keeps, RingRes.keeps, LineRes.keeps, PieceRes.keeps, Fetched.keeps, = State.modGroup_mem])
theorem pwaitGo_mem {a0 s m} (h : s.mem = m) : (pwaitGo a0 s).keeps m := by
  unfold pwaitGo
  repeat' first
    | split
    | (refine Ctx.waitDone_mem (by first | assumption | rfl | (grind [= State.modGroup_mem, = State.park_mem, = Ctx.raiseFlags_mem, Res.keeps, CRes.keeps, BRes.keeps, RingRes.keeps, LineRes.keeps, PieceRes.keeps, Fetched.keeps])) ?_; intro _ _)
  all_goals first
    | trivial
    | assumption
    | rfl
    | grind [= State.modGroup_mem, = State.park_mem, = Ctx.raiseFlags_mem, Res.keeps, CRes.keeps, BRes.keeps, RingRes.keeps, LineRes.keeps, PieceRes.keeps, Fetched.keeps]
    | (simp (disch := (intros; grind [= State.modGroup_mem, = State.park_mem, = Ctx.raiseFlags_mem, Res.keeps, CRes.keeps, BRes.keeps, RingRes.keeps, LineRes.keeps, PieceRes.keeps, Fetched.keeps])) only [Res.keeps, CRes.keeps, BRes.keeps, Fetched.keeps, foldl_mem, foldl_mem2, State.modGroup_mem, State.park_mem, Ctx.raiseFlags_mem, State.modGroup_mem]; done)
    | (simp (disch := (intros; grind [= State.modGroup_mem, = State.park_mem, = Ctx.raiseFlags_mem, Res.keeps, CRes.keeps, BRes.keeps, RingRes.keeps, LineRes.keeps, PieceRes.keeps, Fetched.keeps])) only [Res.keeps, CRes.keeps, BRes.keeps, Fetched.keeps, foldl_mem, foldl_mem2, State.modGroup_mem, State.park_mem, Ctx.raiseFlags_mem, State.modGroup_mem]; grind [= State.modGroup_mem, = State.park_mem, = Ctx.raiseFlags_mem, Res.keeps, CRes.keeps, BRes.keeps, RingRes.keeps, LineRes.keeps, PieceRes.keeps, Fetched.keeps])
theorem ptestGo_mem {a0 s m} (h : s.mem = m) : (ptestGo a0 s).keeps m := by
  unfold ptestGo
  repeat' first
    | split
    | (refine Ctx.waitDone_mem (by first | assumption | rfl | (grind [= Ctx.update_mem, Res.keeps, CRes.keeps, BRes.keeps, RingRes.keeps, LineRes.keeps, PieceRes.keeps, Fetched.keeps, = State.modGroup_mem])) ?_; intro _ _)
  all_goals first
    | trivial
    | assumption
    | rfl
    | grind [= Ctx.update_mem, Res.keeps, CRes.keeps, BRes.keeps, RingRes.keeps, LineRes.keeps, PieceRes.keeps, Fetched.keeps, = State.modGroup_mem]
    | (simp (disch := (intros; grind [= Ctx.update_mem, Res.keeps, CRes.keeps, BRes.keeps, RingRes.keeps, LineRes.keeps, PieceRes.keeps, Fetched.keeps, = State.modGroup_mem])) only [Res.keeps, CRes.keeps, BRes.keeps, Fetched.keeps, foldl_mem, foldl_mem2, Ctx.update_mem, State.modGroup_mem]; done)
    | (simp (disch := (intros; grind [= Ctx.update_mem, Res.keeps, CRes.keeps, BRes.keeps, RingRes.keeps, LineRes.keeps, PieceRes.keeps, Fetched.keeps, = State.modGroup_mem])) only [Res.keeps, CRes.keeps, BRes.keeps, Fetched.keeps, foldl_mem, foldl_mem2, Ctx.update_mem, State.modGroup_mem]; grind [= Ctx.update_mem, Res.keeps, CRes.keeps, BRes.keeps, RingRes.keeps, LineRes.keeps, PieceRes.keeps, Fetched.keeps, = State.modGroup_mem])
theorem cinitBody_mem {a0 s m} (h : s.mem = m) : (cinitBody a0 s).keeps m := by
  unfold cinitBody; (try dsimp only); repeat' split
  all_goals first
    | trivial
    | grind [= State.modWg_mem, Res.keeps, CRes.keeps, BRes.keeps, Fetched.keeps, PieceRes.keeps, RingRes.keeps, LineRes.keeps]
    | (simp (disch := (intros; grind [= State.modWg_mem])) only [Res.keeps, foldl_mem]; done)
    | (simp (disch := (intros; grind [= State.modWg_mem])) only [Res.keeps, foldl_mem]; grind [= State.modWg_mem, Res.keeps, CRes.keeps, BRes.keeps, Fetched.keeps, PieceRes.keeps, RingRes.keeps, LineRes.keeps])
theorem Ctx.startUnit_mem (a0 s a2) : (Ctx.startUnit a0 s a2).mem = s.mem := by
  unfold Ctx.startUnit; simp (disch := (intros; grind [= State.newId_mem, → State.newId_keep, = Ctx.sawBytes_mem, = State.modThread_mem])) only [foldl_mem, State.newId_mem, State.modThread_mem]
theorem unitBody_mem {one : Ctx → State → Nat × Thread → Answer UnitOut} {x : Ctx} {s : State} {m : List Host.Cell} (h : s.mem = m) :
    (unitBody one x s).keeps m := by
  unfold unitBody
  refine Ctx.boundary_mem h fun t ht => ?_
  split
  · exact ht
  · refine Ctx.settle_mem ht fun l => ?_
    simp only [Res.keeps]
    rw [State.modGroup_mem, foldl_mem (by intro s a; exact Ctx.startUnit_mem _ _ _), State.passSigners_mem, ht]
theorem Ctx.sendNode_mem (a0 s a2) : (Ctx.sendNode a0 s a2).mem = s.mem := by unfold Ctx.sendNode; grind [= State.access_mem,
    → State.access_keep, = State.newId_mem, → State.newId_keep]
theorem travBody_mem {x s m} (h : s.mem = m) : (travBody x s).keeps m := by
  have hu := unitBody_mem (one := travOne) (x := x) h
  unfold travBody; split
  · grind [Res.keeps]
  · rename_i hf; rw [hf] at hu; split
    · simp only [Res.keeps, Ctx.sendNode_mem]; exact hu
    · exact hu
  · exact hu
theorem shparkBody_mem {a0 s m} (h : s.mem = m) : (shparkBody a0 s).keeps m := by
  unfold shparkBody
  repeat' first
    | split
    | (refine Ctx.settle_mem (by first | assumption | rfl | (grind [= Ctx.parkAll_mem, → Ctx.parkAll_keep, = Ctx.sawKeys_mem, → State.taskSettle_mem, = State.endThreads_mem, = State.loseThreads_mem, = State.modGroup_mem, Res.keeps, CRes.keeps, BRes.keeps, RingRes.keeps, LineRes.keeps, PieceRes.keeps, Fetched.keeps])) ?_; intro _)
    | (refine Ctx.boundary_mem (by first | assumption | rfl | (grind [= Ctx.parkAll_mem, → Ctx.parkAll_keep, = Ctx.sawKeys_mem, → State.taskSettle_mem, = State.endThreads_mem, = State.loseThreads_mem, = State.modGroup_mem, Res.keeps, CRes.keeps, BRes.keeps, RingRes.keeps, LineRes.keeps, PieceRes.keeps, Fetched.keeps])) ?_; intro _ _)
  all_goals first
    | trivial
    | assumption
    | rfl
    | grind [= Ctx.parkAll_mem, → Ctx.parkAll_keep, = Ctx.sawKeys_mem, → State.taskSettle_mem, = State.endThreads_mem, = State.loseThreads_mem, = State.modGroup_mem, Res.keeps, CRes.keeps, BRes.keeps, RingRes.keeps, LineRes.keeps, PieceRes.keeps, Fetched.keeps]
    | (simp (disch := (intros; grind [= Ctx.parkAll_mem, → Ctx.parkAll_keep, = Ctx.sawKeys_mem, → State.taskSettle_mem, = State.endThreads_mem, = State.loseThreads_mem, = State.modGroup_mem, Res.keeps, CRes.keeps, BRes.keeps, RingRes.keeps, LineRes.keeps, PieceRes.keeps, Fetched.keeps])) only [Res.keeps, CRes.keeps, BRes.keeps, Fetched.keeps, foldl_mem, foldl_mem2, Ctx.parkAll_mem, Ctx.sawKeys_mem, State.endThreads_mem, State.loseThreads_mem, State.modGroup_mem, State.modGroup_mem]; done)
    | (simp (disch := (intros; grind [= Ctx.parkAll_mem, → Ctx.parkAll_keep, = Ctx.sawKeys_mem, → State.taskSettle_mem, = State.endThreads_mem, = State.loseThreads_mem, = State.modGroup_mem, Res.keeps, CRes.keeps, BRes.keeps, RingRes.keeps, LineRes.keeps, PieceRes.keeps, Fetched.keeps])) only [Res.keeps, CRes.keeps, BRes.keeps, Fetched.keeps, foldl_mem, foldl_mem2, Ctx.parkAll_mem, Ctx.sawKeys_mem, State.endThreads_mem, State.loseThreads_mem, State.modGroup_mem, State.modGroup_mem]; grind [= Ctx.parkAll_mem, → Ctx.parkAll_keep, = Ctx.sawKeys_mem, → State.taskSettle_mem, = State.endThreads_mem, = State.loseThreads_mem, = State.modGroup_mem, Res.keeps, CRes.keeps, BRes.keeps, RingRes.keeps, LineRes.keeps, PieceRes.keeps, Fetched.keeps])
theorem shfillBody_mem {a0 a1 s m} (h : s.mem = m) : (shfillBody a0 a1 s).keeps m := by
  unfold shfillBody
  repeat' first
    | split
    | (refine Ctx.waitDone_mem (by first | assumption | rfl | (grind [= State.fillOne_mem, → State.fillOne_keep, = State.modThread_mem, = Ctx.sawKeys_mem, Res.keeps, CRes.keeps, BRes.keeps, RingRes.keeps, LineRes.keeps, PieceRes.keeps, Fetched.keeps, = State.modGroup_mem])) ?_; intro _ _)
    | (refine Ctx.settle_mem (by first | assumption | rfl | (grind [= State.fillOne_mem, → State.fillOne_keep, = State.modThread_mem, = Ctx.sawKeys_mem, Res.keeps, CRes.keeps, BRes.keeps, RingRes.keeps, LineRes.keeps, PieceRes.keeps, Fetched.keeps, = State.modGroup_mem])) ?_; intro _)
  all_goals first
    | trivial
    | assumption
    | rfl
    | grind [= State.fillOne_mem, → State.fillOne_keep, = State.modThread_mem, = Ctx.sawKeys_mem, Res.keeps, CRes.keeps, BRes.keeps, RingRes.keeps, LineRes.keeps, PieceRes.keeps, Fetched.keeps, = State.modGroup_mem]
    | (simp (disch := (intros; grind [= State.fillOne_mem, → State.fillOne_keep, = State.modThread_mem, = Ctx.sawKeys_mem, Res.keeps, CRes.keeps, BRes.keeps, RingRes.keeps, LineRes.keeps, PieceRes.keeps, Fetched.keeps, = State.modGroup_mem])) only [Res.keeps, foldl_mem, Ctx.sawKeys_mem]; done)
    | (simp (disch := (intros; grind [= State.fillOne_mem, → State.fillOne_keep, = State.modThread_mem, = Ctx.sawKeys_mem, Res.keeps, CRes.keeps, BRes.keeps, RingRes.keeps, LineRes.keeps, PieceRes.keeps, Fetched.keeps, = State.modGroup_mem])) only [Res.keeps, foldl_mem, Ctx.sawKeys_mem]; grind [= State.fillOne_mem, → State.fillOne_keep, = State.modThread_mem, = Ctx.sawKeys_mem, Res.keeps, CRes.keeps, BRes.keeps, RingRes.keeps, LineRes.keeps, PieceRes.keeps, Fetched.keeps, = State.modGroup_mem])
theorem State.invalidateEntry_mem (s a1) : (State.invalidateEntry s a1).mem = s.mem := by unfold State.invalidateEntry; grind [= State.killEntry_mem, = State.setEntry_mem]
theorem State.invalidate_mem (s a1) : (State.invalidate s a1).mem = s.mem := by
  unfold State.invalidate; (try dsimp only); repeat' split
  all_goals first
    | rfl
    | grind [= State.modCtl_mem, = State.invalidateEntry_mem]
    | (simp (disch := (intros; grind [= State.modCtl_mem, = State.invalidateEntry_mem])) only [foldl_mem]; done)
    | (simp (disch := (intros; grind [= State.modCtl_mem, = State.invalidateEntry_mem])) only [foldl_mem, foldl_mem2, State.modCtl_mem, State.invalidateEntry_mem]; grind [= State.modCtl_mem, = State.invalidateEntry_mem])
theorem State.recordRanges_mem (s a1) : (State.recordRanges s a1).2.mem = s.mem := by
  induction a1 generalizing s with
  | nil => unfold State.recordRanges; grind [= State.invalidate_mem]
  | cons _ _ ih => unfold State.recordRanges; grind [= State.invalidate_mem]
theorem State.recordRanges_keep {s a1 a t} (h : State.recordRanges s a1 = (a, t)) : t.mem = s.mem := by
  have := State.recordRanges_mem s a1; rw [h] at this; exact this
theorem shinvBody_mem {a0 s m} (h : s.mem = m) : (shinvBody a0 s).keeps m := by
  unfold shinvBody
  repeat' first
    | split
    | (refine Ctx.waitDone_mem (by first | assumption | rfl | (grind [= State.recordRanges_mem, → State.recordRanges_keep, = State.modGroup_mem, Res.keeps, CRes.keeps, BRes.keeps, RingRes.keeps, LineRes.keeps, PieceRes.keeps, Fetched.keeps])) ?_; intro _ _)
    | (refine Ctx.settle_mem (by first | assumption | rfl | (grind [= State.recordRanges_mem, → State.recordRanges_keep, = State.modGroup_mem, Res.keeps, CRes.keeps, BRes.keeps, RingRes.keeps, LineRes.keeps, PieceRes.keeps, Fetched.keeps])) ?_; intro _)
  all_goals first
    | trivial
    | assumption
    | rfl
    | grind [= State.recordRanges_mem, → State.recordRanges_keep, = State.modGroup_mem, Res.keeps, CRes.keeps, BRes.keeps, RingRes.keeps, LineRes.keeps, PieceRes.keeps, Fetched.keeps]
    | (simp (disch := (intros; grind [= State.recordRanges_mem, → State.recordRanges_keep, = State.modGroup_mem, Res.keeps, CRes.keeps, BRes.keeps, RingRes.keeps, LineRes.keeps, PieceRes.keeps, Fetched.keeps])) only [Res.keeps, CRes.keeps, BRes.keeps, Fetched.keeps, foldl_mem, foldl_mem2, State.recordRanges_mem, State.modGroup_mem, State.modGroup_mem]; done)
    | (simp (disch := (intros; grind [= State.recordRanges_mem, → State.recordRanges_keep, = State.modGroup_mem, Res.keeps, CRes.keeps, BRes.keeps, RingRes.keeps, LineRes.keeps, PieceRes.keeps, Fetched.keeps])) only [Res.keeps, CRes.keeps, BRes.keeps, Fetched.keeps, foldl_mem, foldl_mem2, State.recordRanges_mem, State.modGroup_mem, State.modGroup_mem]; grind [= State.recordRanges_mem, → State.recordRanges_keep, = State.modGroup_mem, Res.keeps, CRes.keeps, BRes.keeps, RingRes.keeps, LineRes.keeps, PieceRes.keeps, Fetched.keeps])
theorem State.scrubEntry_mem (s a1) : (State.scrubEntry s a1).mem = s.mem := by unfold State.scrubEntry; grind [= State.killEntry_mem, = State.setEntry_mem]
theorem State.scrubCtl_mem (s a1) : (State.scrubCtl s a1).mem = s.mem := by
  unfold State.scrubCtl; simp (disch := (intros; grind [= State.modCtl_mem, = State.scrubEntry_mem])) only [foldl_mem,
      State.modCtl_mem]
theorem State.tickFrame_mem (s) : (State.tickFrame s).mem = s.mem := by
  unfold State.tickFrame; simp (disch := (intros; grind [= State.scrubCtl_mem])) only [foldl_mem]
theorem shtickBody_mem {a0 s m} (h : s.mem = m) : (shtickBody a0 s).keeps m := by
  unfold shtickBody
  repeat' first
    | split
    | (refine Ctx.waitDone_mem (by first | assumption | rfl | (grind [= State.tickFrame_mem, = State.modThread_mem, Res.keeps, CRes.keeps, BRes.keeps, RingRes.keeps, LineRes.keeps, PieceRes.keeps, Fetched.keeps, = State.modGroup_mem])) ?_; intro _ _)
    | (refine Ctx.settle_mem (by first | assumption | rfl | (grind [= State.tickFrame_mem, = State.modThread_mem, Res.keeps, CRes.keeps, BRes.keeps, RingRes.keeps, LineRes.keeps, PieceRes.keeps, Fetched.keeps, = State.modGroup_mem])) ?_; intro _)
  all_goals first
    | trivial
    | assumption
    | rfl
    | grind [= State.tickFrame_mem, = State.modThread_mem, Res.keeps, CRes.keeps, BRes.keeps, RingRes.keeps, LineRes.keeps, PieceRes.keeps, Fetched.keeps, = State.modGroup_mem]
    | (simp (disch := (intros; grind [= State.tickFrame_mem, = State.modThread_mem, Res.keeps, CRes.keeps, BRes.keeps, RingRes.keeps, LineRes.keeps, PieceRes.keeps, Fetched.keeps, = State.modGroup_mem])) only [Res.keeps, foldl_mem]; done)
    | (simp (disch := (intros; grind [= State.tickFrame_mem, = State.modThread_mem, Res.keeps, CRes.keeps, BRes.keeps, RingRes.keeps, LineRes.keeps, PieceRes.keeps, Fetched.keeps, = State.modGroup_mem])) only [Res.keeps, foldl_mem]; grind [= State.tickFrame_mem, = State.modThread_mem, Res.keeps, CRes.keeps, BRes.keeps, RingRes.keeps, LineRes.keeps, PieceRes.keeps, Fetched.keeps, = State.modGroup_mem])
theorem Ctx.launchOne_mem (a0 a1 s a3) : (Ctx.launchOne a0 a1 s a3).mem = s.mem := by unfold Ctx.launchOne; grind [= State.modThread_mem, = State.newId_mem, → State.newId_keep, = State.modLaunch_mem]
theorem launchBody_mem {a0 s m} (h : s.mem = m) : (launchBody a0 s).keeps m := by
  unfold launchBody
  repeat' first
    | split
    | (refine Ctx.waitDone_mem (by first | assumption | rfl | (grind [= Ctx.launchOne_mem, Res.keeps, CRes.keeps, BRes.keeps, RingRes.keeps, LineRes.keeps, PieceRes.keeps, Fetched.keeps, = State.modGroup_mem])) ?_; intro _ _)
    | (refine Ctx.settle_mem (by first | assumption | rfl | (grind [= Ctx.launchOne_mem, Res.keeps, CRes.keeps, BRes.keeps, RingRes.keeps, LineRes.keeps, PieceRes.keeps, Fetched.keeps, = State.modGroup_mem])) ?_; intro _)
  all_goals first
    | trivial
    | assumption
    | rfl
    | grind [= Ctx.launchOne_mem, Res.keeps, CRes.keeps, BRes.keeps, RingRes.keeps, LineRes.keeps, PieceRes.keeps, Fetched.keeps, = State.modGroup_mem]
    | (simp (disch := (intros; grind [= Ctx.launchOne_mem, Res.keeps, CRes.keeps, BRes.keeps, RingRes.keeps, LineRes.keeps, PieceRes.keeps, Fetched.keeps, = State.modGroup_mem])) only [Res.keeps, foldl_mem]; done)
    | (simp (disch := (intros; grind [= Ctx.launchOne_mem, Res.keeps, CRes.keeps, BRes.keeps, RingRes.keeps, LineRes.keeps, PieceRes.keeps, Fetched.keeps, = State.modGroup_mem])) only [Res.keeps, foldl_mem]; grind [= Ctx.launchOne_mem, Res.keeps, CRes.keeps, BRes.keeps, RingRes.keeps, LineRes.keeps, PieceRes.keeps, Fetched.keeps, = State.modGroup_mem])
theorem tdoneBody_mem {a0 s m} (h : s.mem = m) : (tdoneBody a0 s).keeps m := by
  unfold tdoneBody
  repeat' first
    | split
    | (refine Ctx.boundary_mem (by first | assumption | rfl | (grind [→ State.taskSettle_mem, = Ctx.updateActive_mem, = State.loseThreads_mem, = State.modGroup_mem, Res.keeps, CRes.keeps, BRes.keeps, RingRes.keeps, LineRes.keeps, PieceRes.keeps, Fetched.keeps])) ?_; intro _ _)
  all_goals first
    | trivial
    | assumption
    | rfl
    | grind [→ State.taskSettle_mem, = Ctx.updateActive_mem, = State.loseThreads_mem, = State.modGroup_mem, Res.keeps, CRes.keeps, BRes.keeps, RingRes.keeps, LineRes.keeps, PieceRes.keeps, Fetched.keeps]
    | (simp (disch := (intros; grind [→ State.taskSettle_mem, = Ctx.updateActive_mem, = State.loseThreads_mem, = State.modGroup_mem, Res.keeps, CRes.keeps, BRes.keeps, RingRes.keeps, LineRes.keeps, PieceRes.keeps, Fetched.keeps])) only [Res.keeps, CRes.keeps, BRes.keeps, Fetched.keeps, foldl_mem, foldl_mem2, Ctx.updateActive_mem, State.loseThreads_mem, State.modGroup_mem, State.modGroup_mem]; done)
    | (simp (disch := (intros; grind [→ State.taskSettle_mem, = Ctx.updateActive_mem, = State.loseThreads_mem, = State.modGroup_mem, Res.keeps, CRes.keeps, BRes.keeps, RingRes.keeps, LineRes.keeps, PieceRes.keeps, Fetched.keeps])) only [Res.keeps, CRes.keeps, BRes.keeps, Fetched.keeps, foldl_mem, foldl_mem2, Ctx.updateActive_mem, State.loseThreads_mem, State.modGroup_mem, State.modGroup_mem]; grind [→ State.taskSettle_mem, = Ctx.updateActive_mem, = State.loseThreads_mem, = State.modGroup_mem, Res.keeps, CRes.keeps, BRes.keeps, RingRes.keeps, LineRes.keeps, PieceRes.keeps, Fetched.keeps])
theorem sigdecBody_mem {a0 s m} (h : s.mem = m) : (sigdecBody a0 s).keeps m := by
  unfold sigdecBody; (try dsimp only)
  repeat' first
    | split
    | (refine Ctx.rmw_mem (by first | assumption | rfl | (grind [= Ctx.startWrite_mem, Res.keeps, CRes.keeps, BRes.keeps, RingRes.keeps, LineRes.keeps, PieceRes.keeps, Fetched.keeps])) ?_; intro _ _ _)
  all_goals first
    | trivial
    | assumption
    | rfl
    | grind [= Ctx.startWrite_mem, Res.keeps, CRes.keeps, BRes.keeps, RingRes.keeps, LineRes.keeps, PieceRes.keeps, Fetched.keeps]
    | (simp (disch := (intros; grind [= Ctx.startWrite_mem, Res.keeps, CRes.keeps, BRes.keeps, RingRes.keeps, LineRes.keeps, PieceRes.keeps, Fetched.keeps])) only [Res.keeps, foldl_mem]; done)
    | (simp (disch := (intros; grind [= Ctx.startWrite_mem, Res.keeps, CRes.keeps, BRes.keeps, RingRes.keeps, LineRes.keeps, PieceRes.keeps, Fetched.keeps])) only [Res.keeps, foldl_mem]; grind [= Ctx.startWrite_mem, Res.keeps, CRes.keeps, BRes.keeps, RingRes.keeps, LineRes.keeps, PieceRes.keeps, Fetched.keeps])
theorem roleBody_mem {a0 s m} (h : s.mem = m) : (roleBody a0 s).keeps m := by
  unfold roleBody
  repeat' first
    | split
    | (refine aluBody_mem (by first | assumption | rfl | (grind [Res.keeps, CRes.keeps, BRes.keeps, RingRes.keeps, LineRes.keeps, PieceRes.keeps, Fetched.keeps, = State.modGroup_mem])))
    | (refine Ctx.boundary_mem (by first | assumption | rfl | (grind [Res.keeps, CRes.keeps, BRes.keeps, RingRes.keeps, LineRes.keeps, PieceRes.keeps, Fetched.keeps, = State.modGroup_mem])) ?_; intro _ _)
  all_goals first
    | trivial
    | assumption
    | rfl
    | grind [Res.keeps, CRes.keeps, BRes.keeps, RingRes.keeps, LineRes.keeps, PieceRes.keeps, Fetched.keeps, = State.modGroup_mem]
    | (simp (disch := (intros; grind [Res.keeps, CRes.keeps, BRes.keeps, RingRes.keeps, LineRes.keeps, PieceRes.keeps, Fetched.keeps, = State.modGroup_mem])) only [Res.keeps, CRes.keeps, BRes.keeps, Fetched.keeps, foldl_mem, foldl_mem2, State.modGroup_mem]; done)
    | (simp (disch := (intros; grind [Res.keeps, CRes.keeps, BRes.keeps, RingRes.keeps, LineRes.keeps, PieceRes.keeps, Fetched.keeps, = State.modGroup_mem])) only [Res.keeps, CRes.keeps, BRes.keeps, Fetched.keeps, foldl_mem, foldl_mem2, State.modGroup_mem]; grind [Res.keeps, CRes.keeps, BRes.keeps, RingRes.keeps, LineRes.keeps, PieceRes.keeps, Fetched.keeps, = State.modGroup_mem])
theorem sysrBody_mem {a0 a1 s m} (h : s.mem = m) : (sysrBody a0 a1 s).keeps m := by
  unfold sysrBody
  repeat' first
    | split
    | (refine aluBody_mem (by first | assumption | rfl | (grind [Res.keeps, CRes.keeps, BRes.keeps, RingRes.keeps, LineRes.keeps, PieceRes.keeps, Fetched.keeps])))
  all_goals first
    | trivial
    | assumption
    | rfl
    | grind [Res.keeps, CRes.keeps, BRes.keeps, RingRes.keeps, LineRes.keeps, PieceRes.keeps, Fetched.keeps]
    | (simp (disch := (intros; grind [Res.keeps, CRes.keeps, BRes.keeps, RingRes.keeps, LineRes.keeps, PieceRes.keeps, Fetched.keeps])) only [Res.keeps, CRes.keeps, BRes.keeps, Fetched.keeps, foldl_mem, foldl_mem2]; done)
    | (simp (disch := (intros; grind [Res.keeps, CRes.keeps, BRes.keeps, RingRes.keeps, LineRes.keeps, PieceRes.keeps, Fetched.keeps])) only [Res.keeps, CRes.keeps, BRes.keeps, Fetched.keeps, foldl_mem, foldl_mem2]; grind [Res.keeps, CRes.keeps, BRes.keeps, RingRes.keeps, LineRes.keeps, PieceRes.keeps, Fetched.keeps])
theorem syswBody_mem {a0 a1 s m} (h : s.mem = m) : (syswBody a0 a1 s).keeps m := by
  unfold syswBody; grind [= Ctx.updateActive_mem, = State.modWg_mem, Res.keeps, CRes.keeps, BRes.keeps, Fetched.keeps,
      PieceRes.keeps, RingRes.keeps, LineRes.keeps]
theorem ldfmtClrBody_mem {a0 s m} (h : s.mem = m) : (ldfmtClrBody a0 s).keeps m := by
  unfold ldfmtClrBody; grind [= State.modWg_mem, Res.keeps, CRes.keeps, BRes.keeps, Fetched.keeps, PieceRes.keeps, RingRes.keeps,
      LineRes.keeps]
theorem ldovfBody_mem {a0 s m} (h : s.mem = m) : (ldovfBody a0 s).keeps m := by
  unfold ldovfBody; grind [= State.modWg_mem, Res.keeps, CRes.keeps, BRes.keeps, Fetched.keeps, PieceRes.keeps, RingRes.keeps,
      LineRes.keeps]
theorem xsyncBody_mem {a0 s m} (h : s.mem = m) : (xsyncBody a0 s).keeps m := by
  unfold xsyncBody
  repeat' first
    | split
    | (refine Ctx.waitDone_mem (by first | assumption | rfl | (grind [Res.keeps, CRes.keeps, BRes.keeps, RingRes.keeps, LineRes.keeps, PieceRes.keeps, Fetched.keeps, = State.modGroup_mem])) ?_; intro _ _)
  all_goals first
    | trivial
    | assumption
    | rfl
    | grind [Res.keeps, CRes.keeps, BRes.keeps, RingRes.keeps, LineRes.keeps, PieceRes.keeps, Fetched.keeps, = State.modGroup_mem]
    | (simp (disch := (intros; grind [Res.keeps, CRes.keeps, BRes.keeps, RingRes.keeps, LineRes.keeps, PieceRes.keeps, Fetched.keeps, = State.modGroup_mem])) only [Res.keeps, CRes.keeps, BRes.keeps, Fetched.keeps, foldl_mem, foldl_mem2, State.modGroup_mem]; done)
    | (simp (disch := (intros; grind [Res.keeps, CRes.keeps, BRes.keeps, RingRes.keeps, LineRes.keeps, PieceRes.keeps, Fetched.keeps, = State.modGroup_mem])) only [Res.keeps, CRes.keeps, BRes.keeps, Fetched.keeps, foldl_mem, foldl_mem2, State.modGroup_mem]; grind [Res.keeps, CRes.keeps, BRes.keeps, RingRes.keeps, LineRes.keeps, PieceRes.keeps, Fetched.keeps, = State.modGroup_mem])
theorem Ctx.queueMig_mem (a0 a1 s a3) : (Ctx.queueMig a0 a1 s a3).mem = s.mem := by rfl
theorem tretBody_mem {a0 s m} (h : s.mem = m) : (tretBody a0 s).keeps m := by
  unfold tretBody; (try dsimp only)
  repeat' first
    | split
    | (refine Ctx.boundary_mem (by first | assumption | rfl | (grind [= State.addPart_mem, = State.modGroup_mem, Res.keeps, CRes.keeps, BRes.keeps, RingRes.keeps, LineRes.keeps, PieceRes.keeps, Fetched.keeps])) ?_; intro _ _)
  all_goals first
    | trivial
    | assumption
    | rfl
    | grind [= State.addPart_mem, = State.modGroup_mem, Res.keeps, CRes.keeps, BRes.keeps, RingRes.keeps, LineRes.keeps, PieceRes.keeps, Fetched.keeps]
    | (simp (disch := (intros; grind [= State.addPart_mem, = State.modGroup_mem, Res.keeps, CRes.keeps, BRes.keeps, RingRes.keeps, LineRes.keeps, PieceRes.keeps, Fetched.keeps])) only [Res.keeps, foldl_mem, State.modGroup_mem, State.modGroup_mem]; done)
    | (simp (disch := (intros; grind [= State.addPart_mem, = State.modGroup_mem, Res.keeps, CRes.keeps, BRes.keeps, RingRes.keeps, LineRes.keeps, PieceRes.keeps, Fetched.keeps])) only [Res.keeps, foldl_mem, State.modGroup_mem, State.modGroup_mem]; grind [= State.addPart_mem, = State.modGroup_mem, Res.keeps, CRes.keeps, BRes.keeps, RingRes.keeps, LineRes.keeps, PieceRes.keeps, Fetched.keeps])
theorem Ctx.sendMsg_mem (a0 s a2) : (Ctx.sendMsg a0 s a2).mem = s.mem := by rfl
theorem bmsgBody_mem {a0 s m} (h : s.mem = m) : (bmsgBody a0 s).keeps m := by
  unfold bmsgBody; (try dsimp only)
  repeat' first
    | split
    | (refine Ctx.waitDone_mem (by first | assumption | rfl | (grind [= Ctx.sendMsg_mem, Res.keeps, CRes.keeps, BRes.keeps, RingRes.keeps, LineRes.keeps, PieceRes.keeps, Fetched.keeps, = State.modGroup_mem])) ?_; intro _ _)
  all_goals first
    | trivial
    | assumption
    | rfl
    | grind [= Ctx.sendMsg_mem, Res.keeps, CRes.keeps, BRes.keeps, RingRes.keeps, LineRes.keeps, PieceRes.keeps, Fetched.keeps, = State.modGroup_mem]
    | (simp (disch := (intros; grind [= Ctx.sendMsg_mem, Res.keeps, CRes.keeps, BRes.keeps, RingRes.keeps, LineRes.keeps, PieceRes.keeps, Fetched.keeps, = State.modGroup_mem])) only [Res.keeps, foldl_mem]; done)
    | (simp (disch := (intros; grind [= Ctx.sendMsg_mem, Res.keeps, CRes.keeps, BRes.keeps, RingRes.keeps, LineRes.keeps, PieceRes.keeps, Fetched.keeps, = State.modGroup_mem])) only [Res.keeps, foldl_mem]; grind [= Ctx.sendMsg_mem, Res.keeps, CRes.keeps, BRes.keeps, RingRes.keeps, LineRes.keeps, PieceRes.keeps, Fetched.keeps, = State.modGroup_mem])
theorem execPoolAgedDraw_mem (a0 a1 a2 a3 s) : KeepsMem s.mem (execPoolAgedDraw a0 a1 a2 a3 s) := runEvent_mem (by simp only [State.drawBin_mem])
theorem State.register_mem (s a1 a2) : (State.register s a1 a2).mem = s.mem := by
  unfold State.register; (try dsimp only); repeat' split
  all_goals first
    | rfl
    | grind [= State.modWg_mem, = State.markBatch_mem, = State.copyDone_mem]
    | (simp (disch := (intros; grind [= State.modWg_mem, = State.markBatch_mem, = State.copyDone_mem])) only [foldl_mem, State.markBatch_mem]; done)
    | (simp (disch := (intros; grind [= State.modWg_mem, = State.markBatch_mem, = State.copyDone_mem])) only [foldl_mem, foldl_mem2, State.modWg_mem, State.markBatch_mem, State.copyDone_mem]; grind [= State.modWg_mem, = State.markBatch_mem, = State.copyDone_mem])
theorem State.checkCopy_mem (s a1) : (State.checkCopy s a1).mem = s.mem := by unfold State.checkCopy; grind [= State.chkCopy_mem,
    → State.chkCopy_keep, = State.register_mem, = State.taskFault_mem, = State.copyFails_mem]
theorem execCopyCheck_mem (id) (s : State) : KeepsMem s.mem (execCopyCheck id s) := by
  unfold execCopyCheck; repeat' split
  all_goals first
    | (intro t ht; cases ht; done)
    | exact runEvent_mem rfl
    | exact runEvent_mem (State.checkCopy_mem ..)
theorem State.modUnit_mem (s a1 a2 a3) : (State.modUnit s a1 a2 a3).mem = s.mem := by rfl
theorem State.queuePiece_mem {s a1 a2 a3 a t} (h : State.queuePiece s a1 a2 a3 = some (a, t)) : t.mem = s.mem := by unfold State.queuePiece at h; grind [= State.access_mem, → State.access_keep, = State.newId_mem, → State.newId_keep, = Option.map_eq_some_iff]
theorem State.queueRead_mem {s a1 a2 a3 a4 t} (h : State.queueRead s a1 a2 a3 a4 = some t) : t.mem = s.mem := by
  have hc : ∀ (l : List CPiece) (r), changeFirst (s.queuePiece a1 a3) l = some r → r.2.mem = s.mem := by
    intro l; induction l with
    | nil => intro r h; cases h
    | cons q qs ih =>
      intro r h; unfold changeFirst at h; split at h
      · cases h; exact State.queuePiece_mem ‹_›
      · obtain ⟨p, hp, rfl⟩ := Option.map_eq_some_iff.1 h; exact ih p hp
  unfold State.queueRead at h
  obtain ⟨r, hr, rfl⟩ := Option.map_eq_some_iff.1 h
  rw [State.modUnit_mem, State.passBefore_mem, hc _ _ hr]
theorem State.readPiece_mem {s a1 a2 a3 m} (h : s.mem = m) : (State.readPiece s a1 a2 a3).keeps m := by
  unfold State.readPiece; grind [= State.access_mem, → State.access_keep, = State.podAnswer_mem, → State.podAnswer_keep,
      = State.askPod_mem, = State.podLost_mem, = State.touch_mem, Res.keeps, CRes.keeps, BRes.keeps, Fetched.keeps,
          PieceRes.keeps, RingRes.keeps, LineRes.keeps]
theorem State.readPiece_ok {s a1 a2 a3 a b t} (h : State.readPiece s a1 a2 a3 = .ok a b t) : t.mem = s.mem := by have := @State.readPiece_mem s a1 a2 a3 _ rfl ; grind [PieceRes.keeps]
theorem State.readPiece_refuse {s a1 a2 a3 a t} (h : State.readPiece s a1 a2 a3 = .refuse a t) : t.mem = s.mem := by have := @State.readPiece_mem s a1 a2 a3 _ rfl ; grind [PieceRes.keeps]
theorem State.readPieces_mem {id c s qs m} (h : s.mem = m) : (State.readPieces id c s qs).keeps m := by
  induction qs generalizing s with
  | nil => exact h
  | cons q qs ih =>
    have hp := State.readPiece_mem (a1 := id) (a2 := c) (a3 := q) h
    unfold State.readPieces; split
    · rename_i he; rw [he] at hp
      have hq := ih hp
      split
      · rename_i he2; rw [he2] at hq; exact hq
      · exact hq
    · exact hp
theorem State.engineMoved_mem (s a1 a2 a3) : (State.engineMoved s a1 a2 a3).mem = s.mem := by rfl
theorem State.shareChunk_mem (s a1 a2 a3 a4) : (State.shareChunk s a1 a2 a3 a4).mem = s.mem := by unfold State.shareChunk; grind
theorem State.landScratch_mem (s a1 a2 a3 a4 a5 a6 a7 a8 a9 a10) : (State.landScratch s a1 a2 a3 a4 a5 a6 a7 a8 a9 a10).mem = s.mem := by unfold State.landScratch; grind [= State.modWg_mem, = State.scrPut_mem, = State.newId_mem, → State.newId_keep, = State.unitDone_mem, = State.markBatch_mem]
theorem State.closeBatch_mem (s a1) : (State.closeBatch s a1).mem = s.mem := by unfold State.closeBatch; grind [= State.modThread_mem]
theorem execBatchClose_mem (a0 s) : KeepsMem s.mem (execBatchClose a0 s) := runEvent_mem (by simp only [State.closeBatch_mem])
theorem State.finishPicots_mem (s a1 a2) : (State.finishPicots s a1 a2).mem = s.mem := by
  unfold State.finishPicots; simp (disch := (intros; grind [= State.deliver_mem, = State.modWg_mem, = State.release_mem, = State.settleFences_mem])) only [foldl_mem]
theorem State.stepAgain_mem (s a1 a2) : (State.stepAgain s a1 a2).mem = s.mem := by rfl
theorem State.picotStep_mem (s a1 a2) : (State.picotStep s a1 a2).mem = s.mem := by
  unfold State.picotStep; (try dsimp only); repeat' split
  all_goals first
    | rfl
    | grind [= State.choose_mem, → State.choose_keep, = State.passQueries_mem, = State.wakePwait_mem, = State.finishPicots_mem, = State.scrPut_mem, = State.stepAgain_mem]
    | (simp (disch := (intros; grind [= State.choose_mem, → State.choose_keep, = State.passQueries_mem, = State.wakePwait_mem, = State.finishPicots_mem, = State.scrPut_mem, = State.stepAgain_mem])) only [foldl_mem, State.choose_mem, State.wakePwait_mem, State.finishPicots_mem, State.scrPut_mem, State.stepAgain_mem]; done)
    | (simp (disch := (intros; grind [= State.choose_mem, → State.choose_keep, = State.passQueries_mem, = State.wakePwait_mem, = State.finishPicots_mem, = State.scrPut_mem, = State.stepAgain_mem])) only [foldl_mem, foldl_mem2, State.choose_mem, State.passQueries_mem, State.wakePwait_mem, State.finishPicots_mem, State.scrPut_mem, State.stepAgain_mem]; grind [= State.choose_mem, → State.choose_keep, = State.passQueries_mem, = State.wakePwait_mem, = State.finishPicots_mem, = State.scrPut_mem, = State.stepAgain_mem])
theorem execPicotStep_mem (a0 a1 s) : KeepsMem s.mem (execPicotStep a0 a1 s) := runEvent_mem (by simp only [State.picotStep_mem])
theorem State.startOp_mem (s a1 a2) : (State.startOp s a1 a2).mem = s.mem := by unfold State.startOp; grind [= State.modCore_mem,
    = State.passSigners_mem]
theorem execArrayOperationStart_mem (a0 a1 s) : KeepsMem s.mem (execArrayOperationStart a0 a1 s) := runEvent_mem (by simp only [State.startOp_mem])
theorem State.emitNext_mem {s a1 t} (h : State.emitNext s a1 = some t) : t.mem = s.mem := by unfold State.emitNext at h; grind [= State.modCtl_mem, State.ringPut_mem, → State.ringPut_ok, = State.modQueue_mem, = State.ringRefused_mem, = State.dropEntry_mem, Res.keeps, CRes.keeps, BRes.keeps, RingRes.keeps, LineRes.keeps, PieceRes.keeps, Fetched.keeps, = Option.map_eq_some_iff]
theorem execContinuationEmit_mem (a0 s) : KeepsMem s.mem (execContinuationEmit a0 s) := by
  unfold execContinuationEmit; apply runEvent_mem; (try dsimp only); repeat' split
  all_goals first | rfl | (exact getD_mem rfl fun _ h => State.emitNext_mem h) | (exact State.emitNext_mem ‹_›)
theorem State.deliverOne_mem {s a1 a2 t} (h : State.deliverOne s a1 a2 = some t) : t.mem = s.mem := by unfold State.deliverOne at h; grind [= State.modCtl_mem, State.ringPut_mem, → State.ringPut_ok, = State.ringRefused_mem, Res.keeps, CRes.keeps, BRes.keeps, RingRes.keeps, LineRes.keeps, PieceRes.keeps, Fetched.keeps, = Option.map_eq_some_iff]
theorem State.deliverNext_mem {s c t} (h : State.deliverNext s c = some t) : t.mem = s.mem := by
  obtain ⟨_, _, hq⟩ := List.exists_of_findSome?_eq_some h; exact State.deliverOne_mem hq
theorem execReleasedRecordDelivery_mem (a0 s) : KeepsMem s.mem (execReleasedRecordDelivery a0 s) := by
  unfold execReleasedRecordDelivery; apply runEvent_mem; (try dsimp only); repeat' split
  all_goals first | rfl | (exact getD_mem rfl fun _ h => State.deliverNext_mem h) | (exact State.deliverNext_mem ‹_›)
theorem execShinvScanDone_mem (a0 a1 s) : KeepsMem s.mem (execShinvScanDone a0 a1 s) := runEvent_mem (by simp only [State.modCtl_mem])
theorem State.applyRecord_mem (s a1) : (State.applyRecord s a1).mem = s.mem := by unfold State.applyRecord; grind
theorem execShadingRecordApply_mem (a0 s) : KeepsMem s.mem (execShadingRecordApply a0 s) := runEvent_mem (by simp only [State.applyRecord_mem])
theorem State.unitResult_mem (s a1) : (State.unitResult s a1).mem = s.mem := by
  unfold State.unitResult; simp (disch := (intros; grind [= State.scrPut_mem, = State.modThread_mem])) only [foldl_mem,
      State.modThread_mem]
theorem State.rtEnds_mem (s a1) : (State.rtEnds s a1).mem = s.mem := by unfold State.rtEnds; simp only [State.unitResult_mem]
theorem execRastTravResult_mem (a0 s) : KeepsMem s.mem (execRastTravResult a0 s) := by
  unfold execRastTravResult; apply runEvent_mem; split
  all_goals first | exact State.unitResult_mem .. | rfl

end Sys2Proof.Machine
end

