-- ==== Sys2Proof/Laws/Issue.lean ====
section
/-! SUPPORT. How an instruction of a thread issues: from the frame to its body, and from a body's answer to the state. -/

namespace Sys2Proof.Machine

/-- An instruction that issues answers what its body answers (R37). -/
theorem runThrum_eq {sg : Sig} {w : TWord} {extra body} {s : State} {x : Ctx} (on : s.boot.off = false) (hx : s.ctx? sg w = some x)
    (hl : encTrap sg w (x.enc s) = none) (hf : x.blocked extra = false) :
    runThrum sg w extra body s = x.finish s (body x s) := by
  simp [runThrum, runThrumWith, on, hx, hl, hf]
/-- The same where a cause of R37 item 2 comes first. -/
theorem runThrumWith_eq {sg : Sig} {w : TWord} {extra pre body} {s : State} {x : Ctx} (on : s.boot.off = false)
    (hx : s.ctx? sg w = some x) (hp : pre x s = none) (hl : encTrap sg w (x.enc s) = none) (hf : x.blocked extra = false) :
    runThrumWith sg w extra pre body s = x.finish s (body x s) := by
  simp [runThrumWith, on, hx, hp, hl, hf]

@[simp] theorem pickTrap_nil : pickTrap [] = none := rfl
theorem pickTrap_eq_none {l : List (Nat × LaneFault)} : pickTrap l = none ↔ l = [] := by
  cases l <;> simp [pickTrap]
/-- No cause: no executing thread raises one. -/
theorem causes_eq_none {x : Ctx} {chk} : x.causes chk = none ↔ ∀ p ∈ x.active, chk p = none := by
  simp [Ctx.causes, pickTrap_eq_none, List.filterMap_eq_nil_iff]

theorem ctx?_word {s : State} {sg w x} (h : s.ctx? sg w = some x) : x.w = w ∧ x.sg = sg := by
  unfold State.ctx? at h; repeat' split at h
  all_goals first | (cases h; done) | (cases h; exact ⟨rfl, rfl⟩)
/-- The context of the current group: its record, its workgroup's and a live thread. -/
theorem ctx?_group {s : State} {sg w x} (h : s.ctx? sg w = some x) :
    s.cur = .group x.gid ∧ s.group? x.gid = some x.g ∧ x.wid = x.g.wg ∧ s.wg? x.wid = some x.wg ∧ x.g.tids ≠ [] := by
  unfold State.ctx? at h; repeat' split at h
  all_goals first
    | (cases h; done)
    | (rename_i ht; cases h; exact ⟨‹_›, ‹_›, rfl, ‹_›, by simpa using ht⟩)

@[simp] theorem finish_ok (x : Ctx) (s t : State) : x.finish s (.ok t) =
    .next ((x.counted t).modGroup x.gid (fun g => { g with pc := nextPc g.pc, stall := none, lastIssue := s.cycles })) := rfl
@[simp] theorem finish_jump (x : Ctx) (s t : State) : x.finish s (.jump t) =
    .next ((x.counted t).modGroup x.gid (fun g => { g with stall := none, lastIssue := s.cycles })) := rfl
@[simp] theorem finish_stall (x : Ctx) (s : State) (on) : x.finish s (.stall on) = .next (s.stalls x.gid on) := rfl
@[simp] theorem finish_wait (x : Ctx) (s t : State) : x.finish s (.wait t) = .next (t.stalls x.gid .other) := rfl
@[simp] theorem finish_hold (x : Ctx) (s t : State) (on) : x.finish s (.hold t on) =
    .next (t.modGroup x.gid (fun g =>
      { g with rstart := g.pc, stall := some (g.stall.getD s.cycles), stallOn := on, triedAt := s.cycles })) := rfl
@[simp] theorem finish_trap (x : Ctx) (s : State) (t) : x.finish s (.trap t) = x.trapped s t := rfl

/-- A group with nothing buffered has nothing to commit (R332). -/
theorem commit_of_nothing {s : State} {gid g} (h : s.group? gid = some g) (hb : g.buf = []) : s.commit gid = .ok s := by
  simp [State.commit, h, hb]
theorem boundary_eq {x : Ctx} {s s1 : State} {start k} (h : s.commit x.gid = .ok s1) :
    x.boundary s start k = k (s1.modGroup x.gid (fun g => { g with rstart := start })) := by simp [Ctx.boundary, h]
theorem aluBody_eq {d : AluDef} {x : Ctx} {s : State} (h : x.causes (d.fault x) = none) :
    aluBody d x s = .ok (x.update s (d.thread x)) := by simp [aluBody, h]
theorem waitDone_eq {x : Ctx} {s s1 : State} {done k} (h : s.commit x.gid = .ok s1)
    (hd : ∀ p ∈ x.active, done (s1.modGroup x.gid (fun g => { g with rstart := x.g.pc })) (x.ref p.1) = true) :
    x.waitDone s done k = k ((s1.modGroup x.gid (fun g => { g with rstart := x.g.pc })).modGroup x.gid (fun g => { g with rstart := x.next })) := by
  have : (x.active.all fun p => done (s1.modGroup x.gid (fun g => { g with rstart := x.g.pc })) (x.ref p.1)) = true := by
    simpa [List.all_eq_true] using hd
  rw [Ctx.waitDone, boundary_eq h]; simp only [this, if_true]

/-- Ordered accesses that go out: the region is committed first (R332). -/
theorem accesses_strong {x : Ctx} {s s1 t : State} {m n need at_ rs go} (h : s.commit x.gid = .ok s1)
    (hr : x.reach m n need (s1.modGroup x.gid (fun g => { g with rstart := x.next })) x.active = .ok (rs, t)) (hd : (anyDev rs && !at_) = false) :
    x.accesses s m n need true at_ go = go rs t := by
  simp only [Ctx.accesses, if_true, boundary_eq h, hr, hd]; simp
/-- Other accesses that go out. -/
theorem accesses_weak {x : Ctx} {s t : State} {m n need at_ rs go} (hr : x.reach m n need s x.active = .ok (rs, t)) (hd : (anyDev rs && !at_) = false)
    (hi : anyIO rs = false) : x.accesses s m n need false at_ go = go rs t := by
  simp only [Ctx.accesses, hr, hd, hi]; simp
/-- Accesses to I/O pages commit the region before they go out (R332). -/
theorem accesses_io {x : Ctx} {s u s1 : State} {m n need at_ rs go} (hr : x.reach m n need s x.active = .ok (rs, u)) (hd : (anyDev rs && !at_) = false)
    (hi : anyIO rs = true) (h : u.commit x.gid = .ok s1) :
    x.accesses s m n need false at_ go = go rs (s1.modGroup x.gid (fun g => { g with rstart := x.next })) := by
  simp only [Ctx.accesses, hr, hd, hi]; simp [boundary_eq h]

end Sys2Proof.Machine
end

