-- ==== Sys2Proof/Laws/Cases.lean ====
section
/-! SUPPORT. What the shared frames can do: for each, everything it may answer when it answers a next state. -/

namespace Sys2Proof.Machine

/-- An event that happens: the device was on, its condition held, and its effect is the next state. -/
theorem runEvent_cases {name can eff} {s t : State} (h : runEvent name can eff s = .next t) :
    s.boot.off = false ∧ can s = true ∧ t = eff s := by
  unfold runEvent at h; split at h
  · cases h
  · split at h
    · cases h; exact ⟨by simpa using ‹¬ s.boot.off = true›, ‹_›, rfl⟩
    · cases h

/-- An event happens where its condition holds. -/
theorem runEvent_eq {name can eff} {s : State} (on : s.boot.off = false) (h : can s = true) :
    runEvent name can eff s = .next (eff s) := by simp [runEvent, on, h]

/-- An instruction of a thread that answers a next state: it trapped on its encoding (R37), waited (R27, R28), or its body
answered. -/
theorem runThrum_cases {sg w extra body} {s t : State} (h : runThrum sg w extra body s = .next t) :
    s.boot.off = false ∧ ∃ x, s.ctx? sg w = some x ∧
      ((∃ e, encTrap sg w (x.enc s) = some e ∧ x.trapped s e = .next t) ∨
       (encTrap sg w (x.enc s) = none ∧ x.blocked extra = true ∧ t = s.stalls x.gid (.keys (x.awaited extra))) ∨
       (encTrap sg w (x.enc s) = none ∧ x.blocked extra = false ∧ x.finish s (body x s) = .next t)) := by
  unfold runThrum runThrumWith at h
  split at h
  · cases h
  · refine ⟨by simpa using ‹¬ s.boot.off = true›, ?_⟩
    split at h
    · cases h
    · rename_i x hx
      refine ⟨x, hx, ?_⟩
      dsimp only at h
      split at h
      · exact .inl ⟨_, ‹_›, h⟩
      · split at h
        · exact .inr (.inl ⟨‹_›, ‹_›, by simpa using h.symm⟩)
        · exact .inr (.inr ⟨‹_›, by simpa using ‹¬ x.blocked extra = true›, h⟩)

/-- A trap: the region's stores commit and the group enters the prologue; or a store's translation ends the task; or it waits. -/
theorem trapped_cases {x : Ctx} {s t : State} {e} (h : x.trapped s e = .next t) :
    (∃ u, s.takeTrap x.gid e = .ok u ∧ t = u) ∨ (∃ u, s.takeTrap x.gid e = .fault u ∧ t = u) ∨
      (∃ u, s.takeTrap x.gid e = .wait u ∧ t = u.stalls x.gid .other) := by
  unfold Ctx.trapped at h; split at h <;> cases h <;> simp_all

/-- Taking a trap: with the region committed, every live thread's trap registers are written and the prologue acts (R366). -/
theorem takeTrap_cases {s u : State} {gid e} (h : s.takeTrap gid e = .ok u) :
    (s.group? gid = none ∧ u = s) ∨
      ∃ g s1, s.group? gid = some g ∧ s.commit gid = .ok s1 ∧ u = (s1.enterTrap gid e g.pc).prologue gid e g.pc := by
  unfold State.takeTrap at h; split at h
  · cases h; exact .inl ⟨‹_›, rfl⟩
  · rename_i g hg
    split at h
    · cases h; exact .inr ⟨g, _, hg, ‹_›, rfl⟩
    · simp_all

/-- A register-to-register body: it traps on the first cause, or updates the threads of the group (R41). -/
theorem aluBody_cases (d : AluDef) (x : Ctx) (s : State) :
    (∃ e, x.causes (d.fault x) = some e ∧ aluBody d x s = .trap e) ∨
      (x.causes (d.fault x) = none ∧ aluBody d x s = .ok (x.update s (d.thread x))) := by
  unfold aluBody; split <;> simp_all

/-- A Bobbin instruction that answers a next state: it waited for the core's own accesses, its invocation had been ended, or its body
answered. -/
theorem runBobbin_cases {len body} {s t : State} (h : runBobbin len body s = .next t) :
    s.boot.off = false ∧ ∃ k r, s.cur = .bobbin k ∧ (s.bob k).run = some r ∧
      (((s.bobPending k || r.ends.isSome) = true ∧ t = s) ∨ (s.bobPending k = false ∧ r.ends = none ∧
        ((∃ u, body k (s.bob k) r s = .ok u) ∨ (∃ pc u, body k (s.bob k) r s = .jump pc u) ∨
         (∃ b u, body k (s.bob k) r s = .stall b u) ∨
         (∃ c u, body k (s.bob k) r s = .abort c u ∧ t = u.abortInvocation k c) ∨
         (body k (s.bob k) r s = .fin ∧
            t = (s.modBob k (fun b => { b with instret := b.instret + 1#64 })).endInvocation k)))) := by
  unfold runBobbin at h
  split at h
  · cases h
  · refine ⟨by simpa using ‹¬ s.boot.off = true›, ?_⟩
    split at h
    · rename_i k hk
      split at h
      · cases h
      · rename_i r hr
        refine ⟨k, r, hk, hr, ?_⟩
        dsimp only at h
        split at h
        · cases h; exact .inl ⟨‹_›, rfl⟩
        · rename_i hp
          simp only [Bool.or_eq_true, not_or, Bool.not_eq_true, Option.isSome_eq_false_iff, Option.isNone_iff_eq_none] at hp
          refine .inr ⟨hp.1, hp.2, ?_⟩
          split at h <;> cases h <;> first
            | exact .inl ⟨_, ‹_›⟩
            | exact .inr (.inl ⟨_, _, ‹_›⟩)
            | exact .inr (.inr (.inl ⟨_, _, ‹_›⟩))
            | exact .inr (.inr (.inr (.inl ⟨_, _, ‹_›, rfl⟩)))
            | exact .inr (.inr (.inr (.inr ⟨‹_›, rfl⟩)))
    · cases h

/-- A boundary: the region commits and the body goes on; or a store's translation ends the task; or it waits (R332). -/
theorem boundary_cases (x : Ctx) (s : State) (start : W64) (k : State → Res) :
    (∃ s1, s.commit x.gid = .ok s1 ∧ x.boundary s start k = k (s1.modGroup x.gid (fun g => { g with rstart := start }))) ∨
      (∃ s1, s.commit x.gid = .fault s1 ∧ x.boundary s start k = .jump s1) ∨
      (∃ s1, s.commit x.gid = .wait s1 ∧ x.boundary s start k = .wait s1) := by
  unfold Ctx.boundary; split <;> simp_all

end Sys2Proof.Machine
end

