-- ==== Sys2Proof/Laws/MemoryEvents.lean ====
section
/-! SUPPORT. The handlers' instructions keep memory, and so do the events of the device that perform no write (R139). -/

namespace Sys2Proof.Machine
theorem State.settleDestroy_mem (s a1 a2) : (State.settleDestroy s a1 a2).mem = s.mem := by unfold State.settleDestroy; grind [= State.setQueue_mem]
theorem State.abandon_mem (s a1) : (State.abandon s a1).mem = s.mem := by unfold State.abandon; grind [= State.settleDestroy_mem,
    = State.modQueue_mem]
theorem State.cancelAt_mem (s a1 a2) : (State.cancelAt s a1 a2).mem = s.mem := by unfold State.cancelAt; grind [= State.setLaunch_mem, = State.abandon_mem]
theorem execCancel_mem (a0 a1 s) : KeepsMem s.mem (execCancel a0 a1 s) := runEvent_mem (by simp only [State.cancelAt_mem])
theorem State.sawRoles_mem (a0 a1 s a3) : (State.sawRoles a0 a1 s a3).mem = s.mem := by
  induction a1 generalizing a0 s a3 with
  | zero => unfold State.sawRoles; grind [= State.frontSaw_mem]
  | succ _ ih => unfold State.sawRoles; grind [= State.frontSaw_mem]
theorem State.sawLrec_mem (s a1 a2 a3 a4) : (State.sawLrec s a1 a2 a3 a4).mem = s.mem := by unfold State.sawLrec; grind [= State.frontSaw_mem]
theorem State.sawRanges_mem (s : State) (a1 a2) : (State.sawRanges s a1 a2).mem = s.mem := by
  unfold State.sawRanges
  exact foldl_mem (fun u g => foldl_mem (fun v i => State.walked_mem ..) _ u) _ s
theorem State.enableQueue_mem {s a1 a2 t} (h : State.enableQueue s a1 a2 = some t) : t.mem = s.mem := by unfold State.enableQueue at h; grind [= State.setQueue_mem, = State.sawLrec_mem, = State.sawRanges_mem, = State.newId_mem, → State.newId_keep, = State.fullBins_mem, = State.setLaunch_mem, = Option.map_eq_some_iff]
theorem execQueueEnable_mem (a0 a1 s) : KeepsMem s.mem (execQueueEnable a0 a1 s) := by
  unfold execQueueEnable; apply runEvent_mem; (try dsimp only); repeat' split
  all_goals first | rfl | (exact getD_mem rfl fun _ h => State.enableQueue_mem h) | (exact State.enableQueue_mem ‹_›)
theorem State.act_mem (s a1 a2 a3 a4) : (State.act s a1 a2 a3 a4).mem = s.mem := by rfl
theorem Ctx.counted_mem (x : Ctx) (s : State) : (x.counted s).mem = s.mem := by
  unfold Ctx.counted; extract_lets n t
  rw [State.modGroup_mem, State.act_mem, State.modCore_mem]
  exact (State.count_mem ..).trans (State.count_mem ..)
/-- Whatever an answer's state keeps of memory, the state after it keeps. -/
theorem Ctx.finish_mem {x : Ctx} {s : State} {r : Res} {m : List Host.Cell} (h : s.mem = m) (hr : r.keeps m) :
    KeepsMem m (x.finish s r) := by
  unfold Ctx.finish; split
  case h_6 => exact Ctx.trapped_mem h
  case h_7 => exact Ctx.trapped_mem hr
  all_goals grind [KeepsMem, Res.keeps, = State.modGroup_mem, = State.stalls_mem, = Ctx.counted_mem, = State.taskFault_mem]
theorem runThrumWith_mem {sg w extra} {pre : Ctx → State → Option Res} {body : Ctx → State → Res} {s : State}
    (hp : ∀ x r, pre x s = some r → r.keeps s.mem) (hb : ∀ x, (body x s).keeps s.mem) :
    KeepsMem s.mem (runThrumWith sg w extra pre body s) := by
  unfold runThrumWith; repeat' split
  all_goals first
    | (intro t ht; cases ht; done)
    | (apply Ctx.finish_mem rfl; first | trivial | exact hb _ | exact hp _ _ ‹_›)
/-- An instruction whose body keeps memory keeps memory. -/
theorem runThrum_mem {sg w extra} {body : Ctx → State → Res} {s : State} (hb : ∀ x, (body x s).keeps s.mem) :
    KeepsMem s.mem (runThrum sg w extra body s) :=
  runThrumWith_mem (fun _ _ h => by cases h) hb
theorem execMrowLd_mem (a0 s) : KeepsMem s.mem (execMrowLd a0 s) := runThrum_mem fun _ => signBody_mem rfl
theorem execDcmp_mem (a0 s) : KeepsMem s.mem (execDcmp a0 s) := runThrum_mem fun _ => aluBody_mem rfl
theorem State.unhold_mem (s a1) : (State.unhold s a1).mem = s.mem := by
  unfold State.unhold; simp (disch := (intros; grind)) only [foldl_mem]
theorem State.poisonLine_mem (s a1) : (State.poisonLine s a1).mem = s.mem := by rfl
theorem State.leaveSram_mem (s a1) : (State.leaveSram s a1).mem = s.mem := by unfold State.leaveSram; grind [= State.poisonLine_mem]
theorem State.defaultAction_mem (s a1) : (State.defaultAction s a1).mem = s.mem := by unfold State.defaultAction; grind [= State.unhold_mem, = State.modLine_mem, = State.leaveSram_mem]
theorem State.modHand_mem (s a1 a2) : (State.modHand s a1 a2).mem = s.mem := by rfl
theorem State.raiseEvent_mem (s a1 a2) : (State.raiseEvent s a1 a2).mem = s.mem := by unfold State.raiseEvent; grind [= State.defaultAction_mem, = State.modHand_mem, = State.modBob_mem]
theorem State.msgArrives_mem (s a1) : (State.msgArrives s a1).mem = s.mem := by unfold State.msgArrives; grind [= State.modThread_mem, = State.raiseEvent_mem]
theorem execMsgEvent_mem (a0 s) : KeepsMem s.mem (execMsgEvent a0 s) := by
  unfold execMsgEvent; apply runEvent_mem; split
  all_goals first | exact State.msgArrives_mem .. | rfl
theorem State.joinQueues_mem (s a1 a2) : (State.joinQueues s a1 a2).mem = s.mem := by rfl
theorem State.gapUnit_mem (s a1) : (State.gapUnit s a1).mem = s.mem := by unfold State.gapUnit; grind [= State.free_mem,
    → State.free_keep]
theorem State.bobAccess_mem (s a1 a2 a3 a4 a5) : (State.bobAccess s a1 a2 a3 a4 a5).2.mem = s.mem := by unfold State.bobAccess; grind [= State.access_mem, → State.access_keep]
theorem State.bobAccess_keep {s a1 a2 a3 a4 a5 a t} (h : State.bobAccess s a1 a2 a3 a4 a5 = (a, t)) : t.mem = s.mem := by
  have := State.bobAccess_mem s a1 a2 a3 a4 a5; rw [h] at this; exact this
theorem State.bobCode_mem (s a1 a2 a3 a4) : (State.bobCode s a1 a2 a3 a4).2.mem = s.mem := by unfold State.bobCode; grind [= State.bobAccess_mem, → State.bobAccess_keep, = State.fetchHeld_mem, → State.fetchHeld_keep, = State.touch_mem]
theorem State.bobCode_keep {s a1 a2 a3 a4 a t} (h : State.bobCode s a1 a2 a3 a4 = (a, t)) : t.mem = s.mem := by
  have := State.bobCode_mem s a1 a2 a3 a4; rw [h] at this; exact this
theorem State.modInvoc_mem (s a1 a2) : (State.modInvoc s a1 a2).mem = s.mem := by rfl
theorem State.discardQueue_mem (s a1 a2) : (State.discardQueue s a1 a2).mem = s.mem := by
  unfold State.discardQueue; simp (disch := (intros; grind [= State.defaultAction_mem, = State.modBob_mem])) only [foldl_mem,
      State.modBob_mem]
theorem State.discardAll_mem (s a1) : (State.discardAll s a1).mem = s.mem := by
  unfold State.discardAll; simp (disch := (intros; grind [= State.discardQueue_mem])) only [foldl_mem
      ]
theorem State.endInvocation_mem (s a1) : (State.endInvocation s a1).mem = s.mem := by unfold State.endInvocation; grind [= State.defaultAction_mem, = State.modBob_mem]
theorem State.abortInvocation_mem (s a1 a2) : (State.abortInvocation s a1 a2).mem = s.mem := by unfold State.abortInvocation; grind [= State.modHand_mem, = State.discardAll_mem, = State.endInvocation_mem]
theorem State.bobFetchStop_mem {s a1 a2 a3 m} (h : s.mem = m) : (State.bobFetchStop s a1 a2 a3).keeps m := by
  unfold State.bobFetchStop; grind [= State.modInvoc_mem, = State.abortInvocation_mem, Res.keeps, CRes.keeps, BRes.keeps,
      Fetched.keeps, PieceRes.keeps, RingRes.keeps, LineRes.keeps]
theorem State.fetchBobbin_mem {s a1 m} (h : s.mem = m) : (State.fetchBobbin s a1).keeps m := by
  unfold State.fetchBobbin; (try dsimp only); repeat' split
  all_goals first
    | trivial
    | grind [= State.bobCode_mem, → State.bobCode_keep, = State.modInvoc_mem, State.bobFetchStop_mem, = State.abortInvocation_mem, Res.keeps, CRes.keeps, BRes.keeps, RingRes.keeps, LineRes.keeps, PieceRes.keeps, Fetched.keeps]
    | (simp (disch := (intros; grind [= State.bobCode_mem, → State.bobCode_keep, = State.modInvoc_mem, State.bobFetchStop_mem, = State.abortInvocation_mem, Res.keeps, CRes.keeps, BRes.keeps, RingRes.keeps, LineRes.keeps, PieceRes.keeps, Fetched.keeps])) only [Res.keeps, CRes.keeps, BRes.keeps, Fetched.keeps, foldl_mem, foldl_mem2, State.bobCode_mem, State.modInvoc_mem, State.abortInvocation_mem]; done)
    | (simp (disch := (intros; grind [= State.bobCode_mem, → State.bobCode_keep, = State.modInvoc_mem, State.bobFetchStop_mem, = State.abortInvocation_mem, Res.keeps, CRes.keeps, BRes.keeps, RingRes.keeps, LineRes.keeps, PieceRes.keeps, Fetched.keeps])) only [Res.keeps, foldl_mem, foldl_mem2, State.bobCode_mem, State.modInvoc_mem, State.abortInvocation_mem]; grind [= State.bobCode_mem, → State.bobCode_keep, = State.modInvoc_mem, State.bobFetchStop_mem, = State.abortInvocation_mem, Res.keeps, CRes.keeps, BRes.keeps, RingRes.keeps, LineRes.keeps, PieceRes.keeps, Fetched.keeps])
theorem State.actOf_mem (s a1 a2 a3) : (State.actOf s a1 a2 a3).mem = s.mem := by unfold State.actOf; grind [= State.act_mem]
theorem State.lineWritten_mem (s a1) : (State.lineWritten s a1).mem = s.mem := by unfold State.lineWritten; grind [= State.fetchIn_mem, = State.modLine_mem, = State.leaveSram_mem]
theorem execSt_mem (a0 s) : KeepsMem s.mem (execSt a0 s) := runThrum_mem fun _ => storeBody_mem rfl
theorem State.discardWg_mem (s a1) : (State.discardWg s a1).mem = s.mem := by
  unfold State.discardWg; (try dsimp only); repeat' split
  all_goals first
    | rfl
    | grind [= State.dropGroup_mem, = State.count_mem, = State.modCore_mem, = State.modWg_mem]
    | (simp (disch := (intros; grind [= State.dropGroup_mem, = State.count_mem, = State.modCore_mem, = State.modWg_mem])) only [foldl_mem, State.modCore_mem, State.modWg_mem]; done)
    | (simp (disch := (intros; grind [= State.dropGroup_mem, = State.count_mem, = State.modCore_mem, = State.modWg_mem])) only [foldl_mem, foldl_mem2, State.dropGroup_mem, State.count_mem, State.modCore_mem, State.modWg_mem]; grind [= State.dropGroup_mem, = State.count_mem, = State.modCore_mem, = State.modWg_mem])
theorem State.writeDir_mem (s a1) : (State.writeDir s a1).mem = s.mem := by unfold State.writeDir; grind [= State.frontWrites_mem,
    = State.walked_mem]
theorem State.setImages_mem (s a1 a2) : (State.setImages s a1 a2).mem = s.mem := by unfold State.setImages; simp only [State.writeDir_mem, State.modFn_mem]
theorem State.dropImage_mem (s a1 a2) : (State.dropImage s a1 a2).mem = s.mem := by unfold State.dropImage; grind [= State.setImages_mem, = State.modFn_mem]
theorem State.endTask_mem (s a1) : (State.endTask s a1).mem = s.mem := by
  unfold State.endTask; (try dsimp only); repeat' split
  all_goals first
    | rfl
    | grind [= State.discardWg_mem, = State.dropImage_mem, = State.dropStarted_mem, = State.modLaunch_mem]
    | (simp (disch := (intros; grind [= State.discardWg_mem, = State.dropImage_mem, = State.dropStarted_mem, = State.modLaunch_mem])) only [foldl_mem, State.dropStarted_mem, State.modLaunch_mem]; done)
    | (simp (disch := (intros; grind [= State.discardWg_mem, = State.dropImage_mem, = State.dropStarted_mem, = State.modLaunch_mem])) only [foldl_mem, foldl_mem2, State.discardWg_mem, State.dropImage_mem, State.dropStarted_mem, State.modLaunch_mem]; grind [= State.discardWg_mem, = State.dropImage_mem, = State.dropStarted_mem, = State.modLaunch_mem])
theorem execTaskEnd_mem (a0 s) : KeepsMem s.mem (execTaskEnd a0 s) := runEvent_mem (by simp only [State.endTask_mem])
theorem execRcp_mem (a0 s) : KeepsMem s.mem (execRcp a0 s) := runThrum_mem fun _ => copyBody_mem rfl
theorem State.haltGroup_mem (s a1 a2) : (State.haltGroup s a1 a2).mem = s.mem := by unfold State.haltGroup; grind [= State.count_mem, = State.lowerFlags_mem, = State.setGroup_mem, = State.newId_mem, → State.newId_keep]
theorem State.haltWg_mem (a0 s a2) : (State.haltWg a0 s a2).mem = s.mem := by
  unfold State.haltWg; (try dsimp only); repeat' split
  all_goals first
    | rfl
    | grind [= State.haltGroup_mem, = State.modWg_mem]
    | (simp (disch := (intros; grind [= State.haltGroup_mem, = State.modWg_mem])) only [foldl_mem, State.modWg_mem]; done)
    | (simp (disch := (intros; grind [= State.haltGroup_mem, = State.modWg_mem])) only [foldl_mem, foldl_mem2, State.haltGroup_mem, State.modWg_mem]; grind [= State.haltGroup_mem, = State.modWg_mem])
theorem State.haltAll_mem (s a1) : (State.haltAll s a1).mem = s.mem := by
  unfold State.haltAll; (try dsimp only); repeat' split
  all_goals first
    | rfl
    | grind [= State.haltWg_mem]
    | (simp (disch := (intros; grind [= State.haltWg_mem])) only [foldl_mem]; done)
    | (simp (disch := (intros; grind [= State.haltWg_mem])) only [foldl_mem, foldl_mem2, State.haltWg_mem]; grind [= State.haltWg_mem])
theorem State.flushDirs_mem (s) : (State.flushDirs s).mem = s.mem := by
  unfold State.flushDirs; simp (disch := (intros; grind [= State.writeDir_mem])) only [foldl_mem]
theorem State.beginMigrate_mem (s a1) : (State.beginMigrate s a1).mem = s.mem := by
  unfold State.beginMigrate; simp (disch := (intros; grind [= State.newId_mem, → State.newId_keep, = State.modLine_mem])) only [foldl_mem, State.newId_mem]
theorem State.sendPte_mem (s a1 a2 a3) : (State.sendPte s a1 a2 a3).mem = s.mem := by rfl
theorem State.beginSplinter_mem (s a1 a2) : (State.beginSplinter s a1 a2).mem = s.mem := by unfold State.beginSplinter; simp only [State.devWrites_mem, State.sendPte_mem]
theorem State.startMig_mem (s a1) : (State.startMig s a1).mem = s.mem := by unfold State.startMig; grind [= State.migDone_mem,
    = State.modLine_mem, = State.beginMigrate_mem, = State.beginSplinter_mem]
theorem State.startMigs_mem (s) : (State.startMigs s).mem = s.mem := by
  unfold State.startMigs; simp (disch := (intros; grind [= State.startMig_mem])) only [foldl_mem]
theorem State.unitFails_mem (s a1) : (State.unitFails s a1).mem = s.mem := by
  unfold State.unitFails; simp (disch := (intros; grind [= State.modCore_mem, = State.endTasksOn_mem, = State.free_mem, → State.free_keep, = State.errorRecord_mem])) only [foldl_mem, State.free_mem, State.errorRecord_mem]
theorem State.detectGaps_mem (s) : (State.detectGaps s).mem = s.mem := by
  unfold State.detectGaps; simp (disch := (intros; grind [= State.unitFails_mem])) only [foldl_mem]
theorem State.thawNow_mem {s a1 t} (h : State.thawNow s a1 = some t) : t.mem = s.mem := by
  unfold State.thawNow at h; dsimp only at h; split at h
  · cases h
  · cases h; simp only [State.modFn_mem, State.faultRecord_mem, State.frontSaw_mem]
  · cases h; simp only [State.modFn_mem, State.frontSaw_mem]
theorem State.heldThaw_mem (s : State) (a1) : (State.heldThaw s a1).mem = s.mem := by
  unfold State.heldThaw; split
  · exact getD_mem rfl fun _ h => State.thawNow_mem h
  · rfl
theorem State.endStopped_mem (s a1) : (State.endStopped s a1).mem = s.mem := by unfold State.endStopped; grind [= State.endInvocation_mem, = State.abortInvocation_mem]
theorem State.tick_mem (s a1 a2) : (State.tick s a1 a2).mem = s.mem := by
  unfold State.tick; simp (disch := (intros; grind [= State.fullDraws_mem, = State.wakePwaits_mem, = State.flushDirs_mem, = State.flushRecs_mem, = State.startMigs_mem, = State.detectGaps_mem, = State.pass_mem, = State.heldThaw_mem, = State.endStopped_mem])) only [foldl_mem, State.fullDraws_mem, State.wakePwaits_mem, State.flushDirs_mem, State.flushRecs_mem, State.startMigs_mem, State.detectGaps_mem, State.pass_mem]
theorem execAdd_mem (a0 s) : KeepsMem s.mem (execAdd a0 s) := runThrum_mem fun _ => aluBody_mem rfl
theorem execSub_mem (a0 s) : KeepsMem s.mem (execSub a0 s) := runThrum_mem fun _ => aluBody_mem rfl
theorem execMul_mem (a0 s) : KeepsMem s.mem (execMul a0 s) := runThrum_mem fun _ => aluBody_mem rfl
theorem execMulhi_mem (a0 s) : KeepsMem s.mem (execMulhi a0 s) := runThrum_mem fun _ => aluBody_mem rfl
theorem execMad_mem (a0 s) : KeepsMem s.mem (execMad a0 s) := runThrum_mem fun _ => aluBody_mem rfl
theorem execMulw_mem (a0 s) : KeepsMem s.mem (execMulw a0 s) := runThrum_mem fun _ => aluBody_mem rfl
theorem execMadw_mem (a0 s) : KeepsMem s.mem (execMadw a0 s) := runThrum_mem fun _ => aluBody_mem rfl
theorem execAddc_mem (a0 s) : KeepsMem s.mem (execAddc a0 s) := runThrum_mem fun _ => aluBody_mem rfl
theorem execSubc_mem (a0 s) : KeepsMem s.mem (execSubc a0 s) := runThrum_mem fun _ => aluBody_mem rfl
theorem execMin_mem (a0 s) : KeepsMem s.mem (execMin a0 s) := runThrum_mem fun _ => aluBody_mem rfl
theorem execMax_mem (a0 s) : KeepsMem s.mem (execMax a0 s) := runThrum_mem fun _ => aluBody_mem rfl
theorem execAbs_mem (a0 s) : KeepsMem s.mem (execAbs a0 s) := runThrum_mem fun _ => aluBody_mem rfl
theorem execNeg_mem (a0 s) : KeepsMem s.mem (execNeg a0 s) := runThrum_mem fun _ => aluBody_mem rfl
theorem execCmp_mem (a0 s) : KeepsMem s.mem (execCmp a0 s) := runThrum_mem fun _ => aluBody_mem rfl
theorem execSel_mem (a0 s) : KeepsMem s.mem (execSel a0 s) := runThrum_mem fun _ => aluBody_mem rfl
theorem execAnd_mem (a0 s) : KeepsMem s.mem (execAnd a0 s) := runThrum_mem fun _ => aluBody_mem rfl
theorem execOr_mem (a0 s) : KeepsMem s.mem (execOr a0 s) := runThrum_mem fun _ => aluBody_mem rfl
theorem execXor_mem (a0 s) : KeepsMem s.mem (execXor a0 s) := runThrum_mem fun _ => aluBody_mem rfl
theorem execNot_mem (a0 s) : KeepsMem s.mem (execNot a0 s) := runThrum_mem fun _ => aluBody_mem rfl
theorem execLop3_mem (a0 s) : KeepsMem s.mem (execLop3 a0 s) := runThrum_mem fun _ => aluBody_mem rfl
theorem execShl_mem (a0 s) : KeepsMem s.mem (execShl a0 s) := runThrum_mem fun _ => aluBody_mem rfl
theorem execShr_mem (a0 s) : KeepsMem s.mem (execShr a0 s) := runThrum_mem fun _ => aluBody_mem rfl
theorem execFsh_mem (a0 s) : KeepsMem s.mem (execFsh a0 s) := runThrum_mem fun _ => aluBody_mem rfl
theorem execBfe_mem (a0 s) : KeepsMem s.mem (execBfe a0 s) := runThrum_mem fun _ => aluBody_mem rfl
theorem execBfi_mem (a0 s) : KeepsMem s.mem (execBfi a0 s) := runThrum_mem fun _ => aluBody_mem rfl
theorem execPopc_mem (a0 s) : KeepsMem s.mem (execPopc a0 s) := runThrum_mem fun _ => aluBody_mem rfl
theorem execClz_mem (a0 s) : KeepsMem s.mem (execClz a0 s) := runThrum_mem fun _ => aluBody_mem rfl
theorem execCtz_mem (a0 s) : KeepsMem s.mem (execCtz a0 s) := runThrum_mem fun _ => aluBody_mem rfl
theorem execBrev_mem (a0 s) : KeepsMem s.mem (execBrev a0 s) := runThrum_mem fun _ => aluBody_mem rfl
theorem execMov_mem (a0 s) : KeepsMem s.mem (execMov a0 s) := runThrum_mem fun _ => aluBody_mem rfl
theorem execPlop_mem (a0 s) : KeepsMem s.mem (execPlop a0 s) := runThrum_mem fun _ => aluBody_mem rfl
theorem execP2r_mem (a0 s) : KeepsMem s.mem (execP2r a0 s) := runThrum_mem fun _ => aluBody_mem rfl
theorem execR2p_mem (a0 s) : KeepsMem s.mem (execR2p a0 s) := runThrum_mem fun _ => aluBody_mem rfl
theorem execFadd_mem (a0 s) : KeepsMem s.mem (execFadd a0 s) := runThrum_mem fun _ => aluBody_mem rfl
theorem execFsub_mem (a0 s) : KeepsMem s.mem (execFsub a0 s) := runThrum_mem fun _ => aluBody_mem rfl
theorem execFmul_mem (a0 s) : KeepsMem s.mem (execFmul a0 s) := runThrum_mem fun _ => aluBody_mem rfl
theorem execFfma_mem (a0 s) : KeepsMem s.mem (execFfma a0 s) := runThrum_mem fun _ => aluBody_mem rfl
theorem execFmin_mem (a0 s) : KeepsMem s.mem (execFmin a0 s) := runThrum_mem fun _ => aluBody_mem rfl
theorem execFmax_mem (a0 s) : KeepsMem s.mem (execFmax a0 s) := runThrum_mem fun _ => aluBody_mem rfl
theorem execFcmp_mem (a0 s) : KeepsMem s.mem (execFcmp a0 s) := runThrum_mem fun _ => aluBody_mem rfl
theorem execCvt_mem (a0 s) : KeepsMem s.mem (execCvt a0 s) := runThrum_mem fun _ => aluBody_mem rfl
theorem execCvtnPack_mem (a0 s) : KeepsMem s.mem (execCvtnPack a0 s) := runThrum_mem fun _ => aluBody_mem rfl
theorem execCvtnUnpack_mem (a0 s) : KeepsMem s.mem (execCvtnUnpack a0 s) := runThrum_mem fun _ => aluBody_mem rfl
theorem execSettag_mem (a0 s) : KeepsMem s.mem (execSettag a0 s) := runThrum_mem fun _ => aluBody_mem rfl
theorem execGettag_mem (a0 s) : KeepsMem s.mem (execGettag a0 s) := runThrum_mem fun _ => aluBody_mem rfl
theorem execFrcp_mem (a0 s) : KeepsMem s.mem (execFrcp a0 s) := runThrum_mem fun _ => aluBody_mem rfl
theorem execFrsqrt_mem (a0 s) : KeepsMem s.mem (execFrsqrt a0 s) := runThrum_mem fun _ => aluBody_mem rfl
theorem execFsqrt_mem (a0 s) : KeepsMem s.mem (execFsqrt a0 s) := runThrum_mem fun _ => aluBody_mem rfl
theorem execFexp2_mem (a0 s) : KeepsMem s.mem (execFexp2 a0 s) := runThrum_mem fun _ => aluBody_mem rfl
theorem execFlog2_mem (a0 s) : KeepsMem s.mem (execFlog2 a0 s) := runThrum_mem fun _ => aluBody_mem rfl
theorem execFsin_mem (a0 s) : KeepsMem s.mem (execFsin a0 s) := runThrum_mem fun _ => aluBody_mem rfl
theorem execFcos_mem (a0 s) : KeepsMem s.mem (execFcos a0 s) := runThrum_mem fun _ => aluBody_mem rfl
theorem execHadd2_mem (a0 s) : KeepsMem s.mem (execHadd2 a0 s) := runThrum_mem fun _ => aluBody_mem rfl
theorem execHsub2_mem (a0 s) : KeepsMem s.mem (execHsub2 a0 s) := runThrum_mem fun _ => aluBody_mem rfl
theorem execHmul2_mem (a0 s) : KeepsMem s.mem (execHmul2 a0 s) := runThrum_mem fun _ => aluBody_mem rfl
theorem execHfma2_mem (a0 s) : KeepsMem s.mem (execHfma2 a0 s) := runThrum_mem fun _ => aluBody_mem rfl
theorem execHmin2_mem (a0 s) : KeepsMem s.mem (execHmin2 a0 s) := runThrum_mem fun _ => aluBody_mem rfl
theorem execHmax2_mem (a0 s) : KeepsMem s.mem (execHmax2 a0 s) := runThrum_mem fun _ => aluBody_mem rfl
theorem execDp4a_mem (a0 s) : KeepsMem s.mem (execDp4a a0 s) := runThrum_mem fun _ => aluBody_mem rfl
theorem execDp2bf_mem (a0 s) : KeepsMem s.mem (execDp2bf a0 s) := runThrum_mem fun _ => aluBody_mem rfl
theorem execDadd_mem (a0 s) : KeepsMem s.mem (execDadd a0 s) := runThrum_mem fun _ => aluBody_mem rfl
theorem execDsub_mem (a0 s) : KeepsMem s.mem (execDsub a0 s) := runThrum_mem fun _ => aluBody_mem rfl
theorem execDmul_mem (a0 s) : KeepsMem s.mem (execDmul a0 s) := runThrum_mem fun _ => aluBody_mem rfl
theorem execDfma_mem (a0 s) : KeepsMem s.mem (execDfma a0 s) := runThrum_mem fun _ => aluBody_mem rfl
theorem execDmin_mem (a0 s) : KeepsMem s.mem (execDmin a0 s) := runThrum_mem fun _ => aluBody_mem rfl
theorem execDmax_mem (a0 s) : KeepsMem s.mem (execDmax a0 s) := runThrum_mem fun _ => aluBody_mem rfl
theorem execDcvt_mem (a0 s) : KeepsMem s.mem (execDcvt a0 s) := runThrum_mem fun _ => aluBody_mem rfl
theorem execShfl_mem (a0 s) : KeepsMem s.mem (execShfl a0 s) := runThrum_mem fun _ => aluBody_mem rfl
theorem execPush_mem (a0 s) : KeepsMem s.mem (execPush a0 s) := runThrum_mem fun _ => aluBody_mem rfl
theorem execVote_mem (a0 s) : KeepsMem s.mem (execVote a0 s) := runThrum_mem fun _ => aluBody_mem rfl
theorem execMatchOp_mem (a0 s) : KeepsMem s.mem (execMatchOp a0 s) := runThrum_mem fun _ => aluBody_mem rfl
theorem execXred_mem (a0 s) : KeepsMem s.mem (execXred a0 s) := runThrum_mem fun _ => aluBody_mem rfl
theorem execXscan_mem (a0 s) : KeepsMem s.mem (execXscan a0 s) := runThrum_mem fun _ => aluBody_mem rfl
theorem execNop_mem (a0 s) : KeepsMem s.mem (execNop a0 s) := by
  unfold execNop; first | (apply runThrum_mem; intro _) | (apply runBobbin_mem; intro _ _ _); (try dsimp only); repeat' split
  all_goals first
    | trivial
    | assumption
    | rfl
    | grind [Res.keeps, CRes.keeps, BRes.keeps, RingRes.keeps, LineRes.keeps, PieceRes.keeps, Fetched.keeps]
    | (simp (disch := (intros; grind [Res.keeps, CRes.keeps, BRes.keeps, RingRes.keeps, LineRes.keeps, PieceRes.keeps, Fetched.keeps])) only [Res.keeps, CRes.keeps, BRes.keeps, Fetched.keeps, foldl_mem, foldl_mem2]; done)
    | (simp (disch := (intros; grind [Res.keeps, CRes.keeps, BRes.keeps, RingRes.keeps, LineRes.keeps, PieceRes.keeps, Fetched.keeps])) only [Res.keeps, CRes.keeps, BRes.keeps, Fetched.keeps, foldl_mem, foldl_mem2]; grind [Res.keeps, CRes.keeps, BRes.keeps, RingRes.keeps, LineRes.keeps, PieceRes.keeps, Fetched.keeps])
theorem execBra_mem (a0 s) : KeepsMem s.mem (execBra a0 s) := runThrumWith_mem (fun _ _ h => relPre_mem rfl h) fun _ => relBranch_mem rfl (fun _ => rfl)
theorem execBrx_mem (a0 s) : KeepsMem s.mem (execBrx a0 s) := by apply runThrum_mem; intro _; apply pairBranch_mem rfl; grind [= noWrite_mem, Res.keeps, CRes.keeps, BRes.keeps, RingRes.keeps, LineRes.keeps, PieceRes.keeps, Fetched.keeps]
theorem execCall_mem (a0 s) : KeepsMem s.mem (execCall a0 s) := runThrumWith_mem (fun _ _ h => relPre_mem rfl h) fun _ => relBranch_mem rfl (fun _ => rfl)
theorem execCallInd_mem (a0 s) : KeepsMem s.mem (execCallInd a0 s) := by apply runThrum_mem; intro _; apply pairBranch_mem rfl; grind [= writeReturn_mem, Res.keeps, CRes.keeps, BRes.keeps, RingRes.keeps, LineRes.keeps, PieceRes.keeps, Fetched.keeps]
theorem execRet_mem (a0 s) : KeepsMem s.mem (execRet a0 s) := by apply runThrum_mem; intro _; apply pairBranch_mem rfl; grind [= noWrite_mem, Res.keeps, CRes.keeps, BRes.keeps, RingRes.keeps, LineRes.keeps, PieceRes.keeps, Fetched.keeps]
theorem execReform_mem (a0 s) : KeepsMem s.mem (execReform a0 s) := runThrum_mem fun _ => reformBody_mem rfl
theorem execYield_mem (a0 s) : KeepsMem s.mem (execYield a0 s) := runThrum_mem fun _ => yieldBody_mem rfl
theorem execPoll_mem (a0 s) : KeepsMem s.mem (execPoll a0 s) := runThrum_mem fun _ => pollBody_mem rfl
theorem execSleep_mem (a0 s) : KeepsMem s.mem (execSleep a0 s) := runThrum_mem fun _ => sleepBody_mem rfl
theorem execRegion_mem (a0 s) : KeepsMem s.mem (execRegion a0 s) := runThrum_mem fun _ => regionBody_mem rfl
theorem execExit_mem (a0 s) : KeepsMem s.mem (execExit a0 s) := runThrum_mem fun _ => exitBody_mem rfl
theorem execTrap_mem (a0 s) : KeepsMem s.mem (execTrap a0 s) := runThrum_mem fun _ => trapBody_mem rfl
theorem execBkpt_mem (a0 s) : KeepsMem s.mem (execBkpt a0 s) := runThrum_mem fun _ => bkptBody_mem rfl
theorem execLd_mem (a0 s) : KeepsMem s.mem (execLd a0 s) := runThrum_mem fun _ => loadBody_mem rfl
theorem execLds_mem (a0 s) : KeepsMem s.mem (execLds a0 s) := runThrum_mem fun _ => loadBody_mem rfl
theorem execSts_mem (a0 s) : KeepsMem s.mem (execSts a0 s) := runThrum_mem fun _ => storeBody_mem rfl
theorem execPf_mem (w s) : KeepsMem s.mem (execPf w s) := runThrum_mem fun _ => hintBody_mem rfl Ctx.prefetch_mem
theorem execEvict_mem (w s) : KeepsMem s.mem (execEvict w s) := runThrum_mem fun _ => hintBody_mem rfl Ctx.evict_mem
theorem execAtom_mem (a0 s) : KeepsMem s.mem (execAtom a0 s) := runThrum_mem fun _ => atomBody_mem rfl
theorem execAtomn_mem (a0 s) : KeepsMem s.mem (execAtomn a0 s) := runThrum_mem fun _ => atomBody_mem rfl
theorem execCas_mem (a0 s) : KeepsMem s.mem (execCas a0 s) := runThrum_mem fun _ => casBody_mem rfl
theorem execAtoms_mem (a0 s) : KeepsMem s.mem (execAtoms a0 s) := runThrum_mem fun _ => atomBody_mem rfl
theorem execCass_mem (a0 s) : KeepsMem s.mem (execCass a0 s) := runThrum_mem fun _ => casBody_mem rfl
theorem execFence_mem (a0 s) : KeepsMem s.mem (execFence a0 s) := runThrum_mem fun _ => fenceBody_mem rfl
theorem execAcp_mem (a0 s) : KeepsMem s.mem (execAcp a0 s) := runThrum_mem fun _ => copyBody_mem rfl
theorem execTcp_mem (w s) : KeepsMem s.mem (execTcp w s) := runThrum_mem fun _ => copyBody_mem rfl
theorem execTmc_mem (w s) : KeepsMem s.mem (execTmc w s) := runThrum_mem fun _ => copyBody_mem rfl
theorem execTsf_mem (w s) : KeepsMem s.mem (execTsf w s) := runThrum_mem fun _ => copyBody_mem rfl
theorem execTst_mem (w s) : KeepsMem s.mem (execTst w s) := runThrum_mem fun _ => copyBody_mem rfl
theorem execTrst_mem (w s) : KeepsMem s.mem (execTrst w s) := runThrum_mem fun _ => copyBody_mem rfl
theorem execPinit_mem (a0 s) : KeepsMem s.mem (execPinit a0 s) := by apply runThrum_mem; intro _; apply picotBody_mem rfl; grind [pinitGo_mem, Res.keeps, CRes.keeps, BRes.keeps, RingRes.keeps, LineRes.keeps, PieceRes.keeps, Fetched.keeps]
theorem execParr_mem (a0 s) : KeepsMem s.mem (execParr a0 s) := by apply runThrum_mem; intro _; apply picotBody_mem rfl; grind [parrGo_mem, Res.keeps, CRes.keeps, BRes.keeps, RingRes.keeps, LineRes.keeps, PieceRes.keeps, Fetched.keeps]
theorem execParrb_mem (a0 s) : KeepsMem s.mem (execParrb a0 s) := by apply runThrum_mem; intro _; apply picotBody_mem rfl; grind [parrGo_mem, Res.keeps, CRes.keeps, BRes.keeps, RingRes.keeps, LineRes.keeps, PieceRes.keeps, Fetched.keeps]
theorem execPwait_mem (a0 s) : KeepsMem s.mem (execPwait a0 s) := by apply runThrum_mem; intro _; apply picotBody_mem rfl; grind [pwaitGo_mem, Res.keeps, CRes.keeps, BRes.keeps, RingRes.keeps, LineRes.keeps, PieceRes.keeps, Fetched.keeps]
theorem execPtest_mem (a0 s) : KeepsMem s.mem (execPtest a0 s) := by apply runThrum_mem; intro _; apply picotBody_mem rfl; grind [ptestGo_mem, Res.keeps, CRes.keeps, BRes.keeps, RingRes.keeps, LineRes.keeps, PieceRes.keeps, Fetched.keeps]
theorem execCinit_mem (a0 s) : KeepsMem s.mem (execCinit a0 s) := runThrum_mem fun _ => cinitBody_mem rfl
theorem execMjoin_mem (a0 s) : KeepsMem s.mem (execMjoin a0 s) := runThrum_mem fun _ => signBody_mem rfl
theorem execMld_mem (a0 s) : KeepsMem s.mem (execMld a0 s) := runThrum_mem fun _ => signBody_mem rfl
theorem execMldq_mem (a0 s) : KeepsMem s.mem (execMldq a0 s) := runThrum_mem fun _ => signBody_mem rfl
theorem execMswap_mem (a0 s) : KeepsMem s.mem (execMswap a0 s) := runThrum_mem fun _ => signBody_mem rfl
theorem execMstream_mem (a0 s) : KeepsMem s.mem (execMstream a0 s) := runThrum_mem fun _ => signBody_mem rfl
theorem execMdrain_mem (a0 s) : KeepsMem s.mem (execMdrain a0 s) := runThrum_mem fun _ => signBody_mem rfl
theorem execMzero_mem (a0 s) : KeepsMem s.mem (execMzero a0 s) := runThrum_mem fun _ => signBody_mem rfl
theorem execMrowSt_mem (a0 s) : KeepsMem s.mem (execMrowSt a0 s) := runThrum_mem fun _ => signBody_mem rfl
theorem execRast_mem (a0 s) : KeepsMem s.mem (execRast a0 s) := runThrum_mem fun _ => unitBody_mem rfl
theorem execTrav_mem (a0 s) : KeepsMem s.mem (execTrav a0 s) := runThrum_mem fun _ => travBody_mem rfl
theorem execShq_mem (a0 s) : KeepsMem s.mem (execShq a0 s) := runThrum_mem fun _ => shqBody_mem rfl
theorem execShpark_mem (a0 s) : KeepsMem s.mem (execShpark a0 s) := runThrum_mem fun _ => shparkBody_mem rfl
theorem execShfill_mem (a0 s) : KeepsMem s.mem (execShfill a0 s) := runThrum_mem fun _ => shfillBody_mem rfl
theorem execShfillDrop_mem (a0 s) : KeepsMem s.mem (execShfillDrop a0 s) := runThrum_mem fun _ => shfillBody_mem rfl
theorem execShinv_mem (a0 s) : KeepsMem s.mem (execShinv a0 s) := runThrum_mem fun _ => shinvBody_mem rfl
theorem execShtick_mem (a0 s) : KeepsMem s.mem (execShtick a0 s) := runThrum_mem fun _ => shtickBody_mem rfl
theorem execLaunch_mem (a0 s) : KeepsMem s.mem (execLaunch a0 s) := runThrum_mem fun _ => launchBody_mem rfl
theorem execTdone_mem (a0 s) : KeepsMem s.mem (execTdone a0 s) := runThrum_mem fun _ => tdoneBody_mem rfl
theorem execSigdec_mem (a0 s) : KeepsMem s.mem (execSigdec a0 s) := runThrum_mem fun _ => sigdecBody_mem rfl
theorem execRole_mem (a0 s) : KeepsMem s.mem (execRole a0 s) := runThrum_mem fun _ => roleBody_mem rfl
theorem execSysr_mem (a0 s) : KeepsMem s.mem (execSysr a0 s) := runThrum_mem fun _ => sysrBody_mem rfl
theorem execSysw_mem (a0 s) : KeepsMem s.mem (execSysw a0 s) := runThrum_mem fun _ => syswBody_mem rfl
theorem execLdfmt_mem (a0 s) : KeepsMem s.mem (execLdfmt a0 s) := runThrum_mem fun _ => ldfmtBody_mem rfl
theorem execLdfmtClr_mem (a0 s) : KeepsMem s.mem (execLdfmtClr a0 s) := runThrum_mem fun _ => ldfmtClrBody_mem rfl
theorem execLdovf_mem (a0 s) : KeepsMem s.mem (execLdovf a0 s) := runThrum_mem fun _ => ldovfBody_mem rfl
theorem execXsync_mem (a0 s) : KeepsMem s.mem (execXsync a0 s) := runThrum_mem fun _ => xsyncBody_mem rfl
theorem migBody_mem {a0 a1 s m} (h : s.mem = m) : (migBody a0 a1 s).keeps m := by
  unfold migBody; (try dsimp only)
  repeat' first
    | split
    | (refine Ctx.boundary_mem (by first | assumption | rfl | (grind [= State.startMigs_mem, = Ctx.queueMig_mem, Res.keeps, CRes.keeps, BRes.keeps, RingRes.keeps, LineRes.keeps, PieceRes.keeps, Fetched.keeps, = State.modGroup_mem])) ?_; intro _ _)
  all_goals first
    | trivial
    | assumption
    | rfl
    | grind [= State.startMigs_mem, = Ctx.queueMig_mem, Res.keeps, CRes.keeps, BRes.keeps, RingRes.keeps, LineRes.keeps, PieceRes.keeps, Fetched.keeps, = State.modGroup_mem]
    | (simp (disch := (intros; grind [= State.startMigs_mem, = Ctx.queueMig_mem, Res.keeps, CRes.keeps, BRes.keeps, RingRes.keeps, LineRes.keeps, PieceRes.keeps, Fetched.keeps, = State.modGroup_mem])) only [Res.keeps, foldl_mem, State.startMigs_mem]; done)
    | (simp (disch := (intros; grind [= State.startMigs_mem, = Ctx.queueMig_mem, Res.keeps, CRes.keeps, BRes.keeps, RingRes.keeps, LineRes.keeps, PieceRes.keeps, Fetched.keeps, = State.modGroup_mem])) only [Res.keeps, foldl_mem, State.startMigs_mem]; grind [= State.startMigs_mem, = Ctx.queueMig_mem, Res.keeps, CRes.keeps, BRes.keeps, RingRes.keeps, LineRes.keeps, PieceRes.keeps, Fetched.keeps, = State.modGroup_mem])
theorem execSplinter_mem (a0 s) : KeepsMem s.mem (execSplinter a0 s) := runThrum_mem fun _ => migBody_mem rfl
theorem execMigrate_mem (a0 s) : KeepsMem s.mem (execMigrate a0 s) := runThrum_mem fun _ => migBody_mem rfl
theorem execCtrr_mem (a0 s) : KeepsMem s.mem (execCtrr a0 s) := runThrum_mem fun _ => aluBody_mem rfl
theorem execTret_mem (a0 s) : KeepsMem s.mem (execTret a0 s) := runThrum_mem fun _ => tretBody_mem rfl
theorem execBmsg_mem (a0 s) : KeepsMem s.mem (execBmsg a0 s) := runThrum_mem fun _ => bmsgBody_mem rfl
/-- A Bobbin instruction whose body keeps memory keeps memory. -/
theorem runBobbin_mem {len body} {s : State} (hb : ∀ k b r, (body k b r s).keeps s.mem) : KeepsMem s.mem (runBobbin len body s) := by
  unfold runBobbin
  split
  · intro t ht; cases ht
  split
  · split
    · intro t ht; cases ht
    · rename_i k _ _ r _
      dsimp only
      split
      · intro t ht; cases ht; rfl
      · have := hb k (s.bob k) r
        split <;> intro t ht <;> cases ht <;> (try simp only [State.modBob_mem]) <;>
          grind [BRes.keeps, = State.abortInvocation_mem, = State.endInvocation_mem, = State.modBob_mem]
  · intro t ht; cases ht
theorem State.bobLine_mem {s a1 a2 a3 a4 a5 m} (h : s.mem = m) : (State.bobLine s a1 a2 a3 a4 a5).keeps m := by
  unfold State.bobLine; grind [= State.bobAccess_mem, → State.bobAccess_keep, Res.keeps, CRes.keeps, BRes.keeps, Fetched.keeps,
      PieceRes.keeps, RingRes.keeps, LineRes.keeps]
theorem State.bobLine_ok {s a1 a2 a3 a4 a5 a b t} (h : State.bobLine s a1 a2 a3 a4 a5 = .ok a b t) : t.mem = s.mem := by have := @State.bobLine_mem s a1 a2 a3 a4 a5 _ rfl ; grind [LineRes.keeps]
theorem State.bobLine_fault {s a1 a2 a3 a4 a5 t} (h : State.bobLine s a1 a2 a3 a4 a5 = .fault t) : t.mem = s.mem := by have := @State.bobLine_mem s a1 a2 a3 a4 a5 _ rfl ; grind [LineRes.keeps]
theorem State.bobLine_wait {s a1 a2 a3 a4 a5 t} (h : State.bobLine s a1 a2 a3 a4 a5 = .wait t) : t.mem = s.mem := by have := @State.bobLine_mem s a1 a2 a3 a4 a5 _ rfl ; grind [LineRes.keeps]
theorem BRes.status_mem {a0 a1 a2 s m} (h : s.mem = m) : (BRes.status a0 a1 a2 s).keeps m := by
  unfold BRes.status; grind [= State.modBob_mem, Res.keeps, CRes.keeps, BRes.keeps, Fetched.keeps, PieceRes.keeps, RingRes.keeps,
      LineRes.keeps]
theorem BRes.waits_mem {a0 a1 s m} (h : s.mem = m) : (BRes.waits a0 a1 s).keeps m := by
  unfold BRes.waits; grind [Res.keeps, CRes.keeps, BRes.keeps, Fetched.keeps, PieceRes.keeps, RingRes.keeps, LineRes.keeps]
theorem State.bobQueues_mem (s a1 a2 a3 a4 a5 a6 a7) : (State.bobQueues s a1 a2 a3 a4 a5 a6 a7).mem = s.mem := by rfl
theorem lnrdBody_mem {a0 a1 a2 a3 a4 a5 a6 s m} (h : s.mem = m) : (lnrdBody a0 a1 a2 a3 a4 a5 a6 s).keeps m := by unfold lnrdBody; grind [State.bobLine_mem, → State.bobLine_ok, → State.bobLine_fault, → State.bobLine_wait, BRes.status_mem, BRes.waits_mem, = State.bobQueues_mem, = State.modBob_mem, = State.touch_mem, Res.keeps, CRes.keeps, BRes.keeps, RingRes.keeps, LineRes.keeps, PieceRes.keeps, Fetched.keeps]
theorem execLnrd_mem (a0 a1 a2 a3 s) : KeepsMem s.mem (execLnrd a0 a1 a2 a3 s) := runBobbin_mem fun _ _ _ => lnrdBody_mem rfl
theorem lnwrBody_mem {a0 a1 a2 a3 a4 a5 a6 s m} (h : s.mem = m) : (lnwrBody a0 a1 a2 a3 a4 a5 a6 s).keeps m := by unfold lnwrBody; grind [State.bobLine_mem, → State.bobLine_ok, → State.bobLine_fault, → State.bobLine_wait, BRes.status_mem, BRes.waits_mem, = State.newId_mem, → State.newId_keep, = State.modBob_mem, Res.keeps, CRes.keeps, BRes.keeps, RingRes.keeps, LineRes.keeps, PieceRes.keeps, Fetched.keeps]
theorem execLnwr_mem (a0 a1 a2 a3 s) : KeepsMem s.mem (execLnwr a0 a1 a2 a3 s) := runBobbin_mem fun _ _ _ => lnwrBody_mem rfl
theorem lnpfBody_mem {a0 a1 a2 a3 a4 a5 a6 s m} (h : s.mem = m) : (lnpfBody a0 a1 a2 a3 a4 a5 a6 s).keeps m := by unfold lnpfBody; grind [State.bobLine_mem, → State.bobLine_ok, → State.bobLine_fault, → State.bobLine_wait, BRes.status_mem, BRes.waits_mem, = State.touch_mem, = State.toMsc_mem, Res.keeps, CRes.keeps, BRes.keeps, RingRes.keeps, LineRes.keeps, PieceRes.keeps, Fetched.keeps]
theorem execLnpf_mem (a0 a1 a2 a3 s) : KeepsMem s.mem (execLnpf a0 a1 a2 a3 s) := runBobbin_mem fun _ _ _ => lnpfBody_mem rfl
theorem lsqBody_mem {a0 a1 a2 a3 a4 a5 s m} (h : s.mem = m) : (lsqBody a0 a1 a2 a3 a4 a5 s).keeps m := by unfold lsqBody; grind [State.bobLine_mem, → State.bobLine_ok, → State.bobLine_fault, → State.bobLine_wait, BRes.status_mem, BRes.waits_mem, Res.keeps, CRes.keeps, BRes.keeps, RingRes.keeps, LineRes.keeps, PieceRes.keeps, Fetched.keeps]
theorem execLsq_mem (a0 a1 a2 s) : KeepsMem s.mem (execLsq a0 a1 a2 s) := runBobbin_mem fun _ _ _ => lsqBody_mem rfl
theorem mrepBody_mem {a0 a1 a2 a3 a4 s m} (h : s.mem = m) : (mrepBody a0 a1 a2 a3 a4 s).keeps m := by unfold mrepBody; grind [BRes.status_mem, = State.modBob_mem, Res.keeps, CRes.keeps, BRes.keeps, RingRes.keeps, LineRes.keeps, PieceRes.keeps, Fetched.keeps]
theorem execMrep_mem (a0 a1 s) : KeepsMem s.mem (execMrep a0 a1 s) := runBobbin_mem fun _ _ _ => mrepBody_mem rfl
theorem execHfin_mem (s) : KeepsMem s.mem (execHfin s) := by
  unfold execHfin; first | (apply runThrum_mem; intro _) | (apply runBobbin_mem; intro _ _ _); (try dsimp only); repeat' split
  all_goals first
    | trivial
    | assumption
    | rfl
    | grind [Res.keeps, CRes.keeps, BRes.keeps, RingRes.keeps, LineRes.keeps, PieceRes.keeps, Fetched.keeps]
    | (simp (disch := (intros; grind [Res.keeps, CRes.keeps, BRes.keeps, RingRes.keeps, LineRes.keeps, PieceRes.keeps, Fetched.keeps])) only [Res.keeps, CRes.keeps, BRes.keeps, Fetched.keeps, foldl_mem, foldl_mem2]; done)
    | (simp (disch := (intros; grind [Res.keeps, CRes.keeps, BRes.keeps, RingRes.keeps, LineRes.keeps, PieceRes.keeps, Fetched.keeps])) only [Res.keeps, CRes.keeps, BRes.keeps, Fetched.keeps, foldl_mem, foldl_mem2]; grind [Res.keeps, CRes.keeps, BRes.keeps, RingRes.keeps, LineRes.keeps, PieceRes.keeps, Fetched.keeps])
theorem rvLoad_mem {a0 a1 a2 a3 a4 a5 s m} (h : s.mem = m) : (rvLoad a0 a1 a2 a3 a4 a5 s).keeps m := by unfold rvLoad; grind [BRes.status_mem, = State.bobAccess_mem, → State.bobAccess_keep, BRes.waits_mem, = State.bobQueues_mem, = State.touch_mem, Res.keeps, CRes.keeps, BRes.keeps, RingRes.keeps, LineRes.keeps, PieceRes.keeps, Fetched.keeps]
theorem rvStore_mem {a0 a1 a2 a3 a4 s m} (h : s.mem = m) : (rvStore a0 a1 a2 a3 a4 s).keeps m := by unfold rvStore; grind [= State.modBob_mem, = State.bobAccess_mem, → State.bobAccess_keep, BRes.waits_mem, = State.newId_mem, → State.newId_keep, Res.keeps, CRes.keeps, BRes.keeps, RingRes.keeps, LineRes.keeps, PieceRes.keeps, Fetched.keeps]
theorem rvBody_mem {a0 a1 a2 a3 a4 s m} (h : s.mem = m) : (rvBody a0 a1 a2 a3 a4 s).keeps m := by unfold rvBody; grind [BRes.status_mem, = State.modBob_mem, rvLoad_mem, rvStore_mem, Res.keeps, CRes.keeps, BRes.keeps, RingRes.keeps, LineRes.keeps, PieceRes.keeps, Fetched.keeps]
theorem execBobbinBase_mem (a0 s) : KeepsMem s.mem (execBobbinBase a0 s) := runBobbin_mem fun _ _ _ => rvBody_mem rfl
theorem State.retireUnit_mem (s a1) : (State.retireUnit s a1).mem = s.mem := by unfold State.retireUnit; grind
theorem State.deviceReset_mem (s : State) : s.deviceReset.mem = s.mem := by
  unfold State.deviceReset
  rw [foldl_mem State.retireUnit_mem]
theorem execDeviceReset_mem (s) : KeepsMem s.mem (execDeviceReset s) := runEvent_mem (by simp only [State.deviceReset_mem])
theorem execFullServiceEntry_mem (s) : KeepsMem s.mem (execFullServiceEntry s) := by
  unfold execFullServiceEntry; apply runEvent_mem; (try dsimp only); repeat' split
  all_goals first
    | trivial
    | assumption
    | rfl
    | grind [Res.keeps, CRes.keeps, BRes.keeps, RingRes.keeps, LineRes.keeps, PieceRes.keeps, Fetched.keeps]
    | (simp (disch := (intros; grind [Res.keeps, CRes.keeps, BRes.keeps, RingRes.keeps, LineRes.keeps, PieceRes.keeps, Fetched.keeps])) only [Res.keeps, CRes.keeps, BRes.keeps, Fetched.keeps, foldl_mem, foldl_mem2]; done)
    | (simp (disch := (intros; grind [Res.keeps, CRes.keeps, BRes.keeps, RingRes.keeps, LineRes.keeps, PieceRes.keeps, Fetched.keeps])) only [Res.keeps, CRes.keeps, BRes.keeps, Fetched.keeps, foldl_mem, foldl_mem2]; grind [Res.keeps, CRes.keeps, BRes.keeps, RingRes.keeps, LineRes.keeps, PieceRes.keeps, Fetched.keeps])
theorem State.sense_mem (s) : (State.sense s).mem = s.mem := by rfl
theorem execAttestationRequest_mem (a0 a1 s) : KeepsMem s.mem (execAttestationRequest a0 a1 s) := runEvent_mem (by simp only [State.emit_mem])
theorem State.disableHandlers_mem (s a1) : (State.disableHandlers s a1).mem = s.mem := by unfold State.disableHandlers; simp only [State.discardAll_mem, State.modHand_mem]
theorem State.dbgRes_mem (s a1 a2) : (State.dbgRes s a1 a2).mem = s.mem := by rfl
theorem State.writeWord_mem (s : State) (a1 a2 a3 a4) : (State.writeWord s a1 a2 a3 a4).mem = s.mem := by
  delta State.writeWord
  extract_lets
  repeat' with_reducible first
    | exact State.modQueue_mem ..
    | exact State.modFn_mem ..
    | exact State.modHand_mem ..
    | exact State.dbgRes_mem ..
    | exact State.disableHandlers_mem ..
    | apply ite_keep
    | rfl
    | intro _
theorem State.writeReg_mem (s a1 a2 a3 a4 a5) : (State.writeReg s a1 a2 a3 a4 a5).mem = s.mem := by unfold State.writeReg; grind [= State.writeWord_mem]
theorem execRegisterWrite_mem (a0 a1 a2 a3 a4 s) : KeepsMem s.mem (execRegisterWrite a0 a1 a2 a3 a4 s) := runEvent_mem (by simp only [State.writeReg_mem])
theorem State.notify_mem (s a1 a2 a3) : (State.notify s a1 a2 a3).mem = s.mem := by unfold State.notify; grind [= State.qerr_mem,
    = State.setQueue_mem]
theorem execQnotifyWrite_mem (a0 a1 a2 s) : KeepsMem s.mem (execQnotifyWrite a0 a1 a2 s) := runEvent_mem (by simp only [State.notify_mem])
theorem State.unread_mem (s a1 a2) : (State.unread s a1 a2).mem = s.mem := by unfold State.unread; grind [= State.setQueue_mem,
    = State.abandon_mem]
theorem State.destroyQueue_mem (s a1 a2 a3) : (State.destroyQueue s a1 a2 a3).mem = s.mem := by unfold State.destroyQueue; grind [= State.modQueue_mem, = State.dropPool_mem, = State.unread_mem, = State.settleDestroy_mem, = State.killQueue_mem]
theorem execQueueDestroyDrain_mem (a0 a1 s) : KeepsMem s.mem (execQueueDestroyDrain a0 a1 s) := runEvent_mem (by simp only [State.destroyQueue_mem])
theorem execQueueDestroyKill_mem (a0 a1 s) : KeepsMem s.mem (execQueueDestroyKill a0 a1 s) := runEvent_mem (by simp only [State.destroyQueue_mem])
theorem State.advance_mem (s a1 a2) : (State.advance s a1 a2).mem = s.mem := by rfl
theorem State.writeCrec_mem {s a1 a2 a3 a4 a t} (h : State.writeCrec s a1 a2 a3 a4 = some (a, t)) : t.mem = s.mem := by unfold State.writeCrec at h; grind [= State.frontWrite_mem, = State.walked_mem, = Option.map_eq_some_iff]
theorem State.signalWalk_mem (s a1 a2 a3) : (State.signalWalk s a1 a2 a3).mem = s.mem := by unfold State.signalWalk; grind [= State.exportAccess_mem, → State.exportAccess_keep, = State.walked_mem]
theorem State.writeSig_mem {s a1 a2 a3 a t} (h : State.writeSig s a1 a2 a3 = some (a, t)) : t.mem = s.mem := by unfold State.writeSig at h; grind [= State.newId_mem, → State.newId_keep, = State.signalWalk_mem, = Option.map_eq_some_iff]
theorem State.completeSteps_mem {s a1 a2 a3 a4 a5 a6 a t} (h : State.completeSteps s a1 a2 a3 a4 a5 a6 = some (a, t)) : t.mem = s.mem := by unfold State.completeSteps at h; grind [→ State.writeCrec_mem, → State.writeSig_mem, = State.emit_mem, = Option.map_eq_some_iff]
theorem State.failPacket_mem {s a1 a2 a3 a4 t} (h : State.failPacket s a1 a2 a3 a4 = some t) : t.mem = s.mem := by unfold State.failPacket at h; grind [= State.advance_mem, = State.qerr_mem, → State.completeSteps_mem, = Option.map_eq_some_iff]
theorem State.sawTasks_mem (s a1 a2 a3) : (State.sawTasks s a1 a2 a3).mem = s.mem := by
  unfold State.sawTasks; simp (disch := (intros; grind [= State.frontSaw_mem])) only [foldl_mem]
theorem State.sawLaunch_mem (s a1 a2) : (State.sawLaunch s a1 a2).mem = s.mem := by unfold State.sawLaunch; grind [= State.sawLrec_mem, = State.sawRoles_mem, = State.sawTasks_mem]
theorem State.takeLaunch_mem {s a1 a2 a3 a4 t} (h : State.takeLaunch s a1 a2 a3 a4 = some t) : t.mem = s.mem := by unfold State.takeLaunch at h; grind [→ State.failPacket_mem, = State.newId_mem, → State.newId_keep, = State.sawLaunch_mem, = State.modQueue_mem, = State.setLaunch_mem, = Option.map_eq_some_iff]
theorem State.readEntry_mem {s a1 a2 t} (h : State.readEntry s a1 a2 = some t) : t.mem = s.mem := by unfold State.readEntry at h; grind [= State.frontSaw_mem, = State.advance_mem, = State.qerr_mem, → State.failPacket_mem, → State.completeSteps_mem, = State.setQueue_mem, → State.takeLaunch_mem, = Option.map_eq_some_iff]
theorem execRingEntryRead_mem (a0 a1 s) : KeepsMem s.mem (execRingEntryRead a0 a1 s) := by
  unfold execRingEntryRead; apply runEvent_mem; (try dsimp only); repeat' split
  all_goals first | rfl | (exact getD_mem rfl fun _ h => State.readEntry_mem h) | (exact State.readEntry_mem ‹_›)
theorem State.waitOver_mem {s a1 a2 t} (h : State.waitOver s a1 a2 = some t) : t.mem = s.mem := by
  unfold State.waitOver at h; repeat' split at h
  all_goals first
    | (cases h; done)
    | (cases h; rfl)
    | grind [= State.advance_mem, → State.completeSteps_mem, = State.touch_mem, = State.signalWalk_mem, = State.free_mem, → State.free_keep, = State.emit_mem, = Option.map_eq_some_iff]
    | (simp only [Option.some.injEq, Prod.mk.injEq] at h; (try obtain ⟨rfl, rfl⟩ := h); (try subst h); first | grind [= State.advance_mem, → State.completeSteps_mem, = State.touch_mem, = State.signalWalk_mem, = State.free_mem, → State.free_keep, = State.emit_mem, = Option.map_eq_some_iff] | (simp (disch := (intros; grind [= State.advance_mem, → State.completeSteps_mem, = State.touch_mem, = State.signalWalk_mem, = State.free_mem, → State.free_keep, = State.emit_mem, = Option.map_eq_some_iff])) only [foldl_mem, foldl_mem2, State.advance_mem, State.touch_mem, State.signalWalk_mem, State.free_mem, State.emit_mem, Option.map_eq_some_iff]; done) | (simp (disch := (intros; grind [= State.advance_mem, → State.completeSteps_mem, = State.touch_mem, = State.signalWalk_mem, = State.free_mem, → State.free_keep, = State.emit_mem, = Option.map_eq_some_iff])) only [foldl_mem, foldl_mem2, State.advance_mem, State.touch_mem, State.signalWalk_mem, State.free_mem, State.emit_mem, Option.map_eq_some_iff]; grind [= State.advance_mem, → State.completeSteps_mem, = State.touch_mem, = State.signalWalk_mem, = State.free_mem, → State.free_keep, = State.emit_mem, = Option.map_eq_some_iff]))
theorem execWaitPacketSatisfied_mem (a0 a1 s) : KeepsMem s.mem (execWaitPacketSatisfied a0 a1 s) := by
  unfold execWaitPacketSatisfied; apply runEvent_mem; (try dsimp only); repeat' split
  all_goals first | rfl | (exact getD_mem rfl fun _ h => State.waitOver_mem h) | (exact State.waitOver_mem ‹_›)
theorem State.failLaunch_mem {s a1 a2 t} (h : State.failLaunch s a1 a2 = some t) : t.mem = s.mem := by unfold State.failLaunch at h; grind [= State.settleDestroy_mem, → State.failPacket_mem, = Option.map_eq_some_iff]
theorem State.leaseStep_mem {s a1 t} (h : State.leaseStep s a1 = some t) : t.mem = s.mem := by unfold State.leaseStep at h; grind [= State.setLaunch_mem, = State.sawRanges_mem, → State.failLaunch_mem, = Option.map_eq_some_iff]
theorem execResidencyLeaseGrant_mem (a0 s) : KeepsMem s.mem (execResidencyLeaseGrant a0 s) := by
  unfold execResidencyLeaseGrant; apply runEvent_mem; (try dsimp only); repeat' split
  all_goals first | rfl | (exact getD_mem rfl fun _ h => State.leaseStep_mem h) | (exact State.leaseStep_mem ‹_›)
theorem State.refuseNow_mem {s a1 a2 t} (h : State.refuseNow s a1 a2 = some t) : t.mem = s.mem := by unfold State.refuseNow at h; grind [→ State.failLaunch_mem, = Option.map_eq_some_iff]
theorem execReservation_mem (l leaf s) : KeepsMem s.mem (execReservation l leaf s) := by
  unfold execReservation; apply runEvent_mem; split
  · refine getD_mem (State.ask_mem ..) fun t h => ?_
    unfold State.refuseNow at h; split at h
    · exact State.failLaunch_mem h
    · cases h
  · rfl
theorem State.committed_mem (s a1 a2) : (State.committed s a1 a2).mem = s.mem := by rfl
theorem State.startLeaf_mem (s a1 a2 a3) : (State.startLeaf s a1 a2 a3).mem = s.mem := by
  unfold State.startLeaf; (try dsimp only); repeat' split
  all_goals first
    | rfl
    | grind [= State.startWg_mem, = State.committed_mem, = State.setLaunch_mem]
    | (simp (disch := (intros; grind [= State.startWg_mem, = State.committed_mem, = State.setLaunch_mem])) only [foldl_mem, State.committed_mem, State.setLaunch_mem]; done)
    | (simp (disch := (intros; grind [= State.startWg_mem, = State.committed_mem, = State.setLaunch_mem])) only [foldl_mem, foldl_mem2, State.startWg_mem, State.committed_mem, State.setLaunch_mem]; grind [= State.startWg_mem, = State.committed_mem, = State.setLaunch_mem])
theorem State.entryFault_mem (s a1 a2 a3 a4 a5 a6) : (State.entryFault s a1 a2 a3 a4 a5 a6).mem = s.mem := by unfold State.entryFault; simp only [State.taskFault_mem, State.committed_mem]
theorem State.commitAt_mem {s a1 a2 t} (h : State.commitAt s a1 a2 = some t) : t.mem = s.mem := by unfold State.commitAt at h; grind [= State.startLeaf_mem, = State.entriesCheck_mem, → State.entriesCheck_keep, = State.sawPends_mem, = State.entryFault_mem, = State.unblock_mem, → State.failLaunch_mem, = Option.map_eq_some_iff]
theorem execCommit_mem (a0 a1 s) : KeepsMem s.mem (execCommit a0 a1 s) := by
  unfold execCommit; apply runEvent_mem; (try dsimp only); repeat' split
  all_goals first | rfl | (exact getD_mem rfl fun _ h => State.commitAt_mem h) | (exact State.commitAt_mem ‹_›)
theorem State.fileRecord_mem {s a1 a2 t} (h : State.fileRecord s a1 a2 = some t) : t.mem = s.mem := by
  unfold State.fileRecord at h; dsimp only at h; repeat' split at h
  all_goals first
    | (cases h; done)
    | (cases h; simp only [State.advance_mem, State.qerr_mem, State.fullBin_mem, State.modQueue_mem, State.sawEntry_mem, State.frontSaw_mem])
theorem execContinuationRecordFile_mem (a0 a1 s) : KeepsMem s.mem (execContinuationRecordFile a0 a1 s) := by
  unfold execContinuationRecordFile; apply runEvent_mem; (try dsimp only); repeat' split
  all_goals first | rfl | (exact getD_mem rfl fun _ h => State.fileRecord_mem h) | (exact State.fileRecord_mem ‹_›)
theorem State.complete_mem {s a1 t} (h : State.complete s a1 = some t) : t.mem = s.mem := by unfold State.complete at h; grind [= State.settleDestroy_mem, → State.completeSteps_mem, = Option.map_eq_some_iff]
theorem execLaunchCompletion_mem (a0 s) : KeepsMem s.mem (execLaunchCompletion a0 s) := by
  unfold execLaunchCompletion; apply runEvent_mem; (try dsimp only); repeat' split
  all_goals first | rfl | (exact getD_mem rfl fun _ h => State.complete_mem h) | (exact State.complete_mem ‹_›)
theorem State.chargeQueue_mem (s a1) : (State.chargeQueue s a1).mem = s.mem := by unfold State.chargeQueue; grind [= State.setQueue_mem]
theorem State.energyTick_mem (s) : (State.energyTick s).mem = s.mem := by
  unfold State.energyTick; simp (disch := (intros; grind [= State.chargeQueue_mem])) only [foldl_mem]
theorem execEnergyCharge_mem (s) : KeepsMem s.mem (execEnergyCharge s) := runEvent_mem (by simp only [State.energyTick_mem])
theorem State.refillQueue_mem (s a1) : (State.refillQueue s a1).mem = s.mem := by
  unfold State.refillQueue; (try dsimp only); repeat' split
  all_goals first
    | rfl
    | grind [= State.setQueue_mem, = State.resumeWg_mem]
    | (simp (disch := (intros; grind [= State.setQueue_mem, = State.resumeWg_mem])) only [foldl_mem, State.setQueue_mem]; done)
    | (simp (disch := (intros; grind [= State.setQueue_mem, = State.resumeWg_mem])) only [foldl_mem, foldl_mem2, State.setQueue_mem, State.resumeWg_mem]; grind [= State.setQueue_mem, = State.resumeWg_mem])
theorem State.energyPeriod_mem (s) : (State.energyPeriod s).mem = s.mem := by
  unfold State.energyPeriod; simp (disch := (intros; grind [= State.refillQueue_mem])) only [foldl_mem
      ]
theorem execEnergyPeriod_mem (s) : KeepsMem s.mem (execEnergyPeriod s) := runEvent_mem (by simp only [State.energyPeriod_mem])
theorem execHalt_mem (a0 s) : KeepsMem s.mem (execHalt a0 s) := runEvent_mem (by simp only [State.haltAll_mem])
theorem State.imageWrite_mem (a0 a1 a2 s a4) : (State.imageWrite a0 a1 a2 s a4).mem = s.mem := by rfl
theorem State.saveWg_mem (s a1 a2) : (State.saveWg s a1 a2).mem = s.mem := by
  unfold State.saveWg; (try dsimp only); repeat' split
  all_goals first
    | rfl
    | grind [= State.imageWrite_mem, = State.unblock_mem, = State.removeWg_mem, = State.setImages_mem]
    | (simp (disch := (intros; grind [= State.imageWrite_mem, = State.unblock_mem, = State.removeWg_mem, = State.setImages_mem])) only [foldl_mem, State.unblock_mem, State.removeWg_mem, State.setImages_mem]; done)
    | (simp (disch := (intros; grind [= State.imageWrite_mem, = State.unblock_mem, = State.removeWg_mem, = State.setImages_mem])) only [foldl_mem, foldl_mem2, State.imageWrite_mem, State.unblock_mem, State.removeWg_mem, State.setImages_mem]; grind [= State.imageWrite_mem, = State.unblock_mem, = State.removeWg_mem, = State.setImages_mem])
theorem execContextSave_mem (a0 a1 s) : KeepsMem s.mem (execContextSave a0 a1 s) := runEvent_mem (by simp only [State.saveWg_mem])
theorem State.sawImage_mem (s a1 a2) : (State.sawImage s a1 a2).mem = s.mem := by unfold State.sawImage; simp only [State.frontSaw_mem]
theorem State.refuseImage_mem (s a1 a2 a3 a4 a5 a6) : (State.refuseImage s a1 a2 a3 a4 a5 a6).mem = s.mem := by unfold State.refuseImage; grind [= State.faultRecord_mem, = State.modLaunch_mem, = State.dropImage_mem]
theorem State.refuseNew_mem (s a1 a2 a3 a4 a5 a6) : (State.refuseNew s a1 a2 a3 a4 a5 a6).mem = s.mem := by unfold State.refuseNew; simp only [State.newId_mem, State.refuseImage_mem, State.setLaunch_mem]
theorem State.formSaved_mem (s a1 a2 a3 a4) : (State.formSaved s a1 a2 a3 a4).mem = s.mem := by unfold State.formSaved; grind [= State.formGroup_mem, = State.modGroup_mem]
theorem State.fileSaved_mem (a0 a1 s a3) : (State.fileSaved a0 a1 s a3).mem = s.mem := by unfold State.fileSaved; grind [= State.formGroup_mem, = State.modCore_mem, = State.fullDraw_mem, = State.modThread_mem]
theorem State.enterImage_mem (s a1 a2 a3 a4 a5 a6) : (State.enterImage s a1 a2 a3 a4 a5 a6).mem = s.mem := by
  unfold State.enterImage; (try dsimp only); repeat' split
  all_goals first
    | rfl
    | grind [= State.placeWg_mem, → State.placeWg_keep, = State.scrPut_mem, = State.modCore_mem, = State.formSaved_mem, = State.modLaunch_mem, = State.fileSaved_mem, = State.endIdle_mem]
    | (simp (disch := (intros; grind [= State.placeWg_mem, → State.placeWg_keep, = State.scrPut_mem, = State.modCore_mem, = State.formSaved_mem, = State.modLaunch_mem, = State.fileSaved_mem, = State.endIdle_mem])) only [foldl_mem, State.placeWg_mem, State.scrPut_mem, State.modCore_mem, State.modLaunch_mem, State.endIdle_mem]; done)
    | (simp (disch := (intros; grind [= State.placeWg_mem, → State.placeWg_keep, = State.scrPut_mem, = State.modCore_mem, = State.formSaved_mem, = State.modLaunch_mem, = State.fileSaved_mem, = State.endIdle_mem])) only [foldl_mem, foldl_mem2, State.placeWg_mem, State.scrPut_mem, State.modCore_mem, State.formSaved_mem, State.modLaunch_mem, State.fileSaved_mem, State.endIdle_mem]; grind [= State.placeWg_mem, → State.placeWg_keep, = State.scrPut_mem, = State.modCore_mem, = State.formSaved_mem, = State.modLaunch_mem, = State.fileSaved_mem, = State.endIdle_mem])
theorem State.reenter_mem {s a1 a2 a3 t} (h : State.reenter s a1 a2 a3 = some t) : t.mem = s.mem := by
  unfold State.reenter at h; repeat' split at h
  all_goals first
    | (cases h; done)
    | (cases h; rfl)
    | grind [= State.sawImage_mem, = State.refuseImage_mem, = State.refuseNew_mem, = State.dropImage_mem, = State.enterImage_mem, = State.newId_mem, → State.newId_keep, = State.setLaunch_mem, = Option.map_eq_some_iff]
    | (simp only [Option.some.injEq, Prod.mk.injEq] at h; (try obtain ⟨rfl, rfl⟩ := h); (try subst h); first | grind [= State.sawImage_mem, = State.refuseImage_mem, = State.refuseNew_mem, = State.dropImage_mem, = State.enterImage_mem, = State.newId_mem, → State.newId_keep, = State.setLaunch_mem, = Option.map_eq_some_iff] | (simp (disch := (intros; grind [= State.sawImage_mem, = State.refuseImage_mem, = State.refuseNew_mem, = State.dropImage_mem, = State.enterImage_mem, = State.newId_mem, → State.newId_keep, = State.setLaunch_mem, = Option.map_eq_some_iff])) only [foldl_mem, foldl_mem2, State.sawImage_mem, State.refuseImage_mem, State.refuseNew_mem, State.dropImage_mem, State.enterImage_mem, State.newId_mem, State.setLaunch_mem, Option.map_eq_some_iff]; done) | (simp (disch := (intros; grind [= State.sawImage_mem, = State.refuseImage_mem, = State.refuseNew_mem, = State.dropImage_mem, = State.enterImage_mem, = State.newId_mem, → State.newId_keep, = State.setLaunch_mem, = Option.map_eq_some_iff])) only [foldl_mem, foldl_mem2, State.sawImage_mem, State.refuseImage_mem, State.refuseNew_mem, State.dropImage_mem, State.enterImage_mem, State.newId_mem, State.setLaunch_mem, Option.map_eq_some_iff]; grind [= State.sawImage_mem, = State.refuseImage_mem, = State.refuseNew_mem, = State.dropImage_mem, = State.enterImage_mem, = State.newId_mem, → State.newId_keep, = State.setLaunch_mem, = Option.map_eq_some_iff]))
theorem execContextReentry_mem (a0 a1 a2 s) : KeepsMem s.mem (execContextReentry a0 a1 a2 s) := by
  unfold execContextReentry; apply runEvent_mem; (try dsimp only); repeat' split
  all_goals first | rfl | (exact getD_mem rfl fun _ h => State.reenter_mem h) | (exact State.reenter_mem ‹_›)
theorem State.freeze_mem (s a1) : (State.freeze s a1).mem = s.mem := by unfold State.freeze; grind [= State.modFn_mem]
theorem execFreeze_mem (a0 s) : KeepsMem s.mem (execFreeze a0 s) := runEvent_mem (by simp only [State.freeze_mem])
theorem State.thaw_mem {s a1 t} (h : State.thaw s a1 = some t) : t.mem = s.mem := by unfold State.thaw at h; grind [= State.modFn_mem, → State.thawNow_mem, = Option.map_eq_some_iff]
theorem execThaw_mem (a0 s) : KeepsMem s.mem (execThaw a0 s) := by
  unfold execThaw; apply runEvent_mem; (try dsimp only); repeat' split
  all_goals first | rfl | (exact getD_mem rfl fun _ h => State.thaw_mem h) | (exact State.thaw_mem ‹_›)
theorem execDebugResume_mem (a0 s) : KeepsMem s.mem (execDebugResume a0 s) := by
  unfold execDebugResume; apply runEvent_mem; split
  all_goals first | exact State.dbgRes_mem .. | rfl
theorem execDebugEnd_mem (a0 s) : KeepsMem s.mem (execDebugEnd a0 s) := by
  unfold execDebugEnd; apply runEvent_mem; split
  all_goals first | exact State.dbgRes_mem .. | rfl
theorem State.wdogFires_mem (s a1) : (State.wdogFires s a1).mem = s.mem := by unfold State.wdogFires; grind [= State.taskFault_mem]
theorem execWatchdog_mem (a0 s) : KeepsMem s.mem (execWatchdog a0 s) := runEvent_mem (by simp only [State.wdogFires_mem])
theorem State.endAtAgent_mem (s a1) : (State.endAtAgent s a1).mem = s.mem := by unfold State.endAtAgent; grind [= State.endTasksOn_mem, = State.endInvocation_mem]
theorem State.stripAgent_mem (s a1) : (State.stripAgent s a1).mem = s.mem := by
  unfold State.stripAgent; (try dsimp only); repeat' split
  all_goals first
    | rfl
    | grind [= State.disenrol_mem, = State.poisonLine_mem, = State.modCore_mem]
    | (simp (disch := (intros; grind [= State.disenrol_mem, = State.poisonLine_mem, = State.modCore_mem])) only [foldl_mem, State.modCore_mem]; done)
    | (simp (disch := (intros; grind [= State.disenrol_mem, = State.poisonLine_mem, = State.modCore_mem])) only [foldl_mem, foldl_mem2, State.disenrol_mem, State.poisonLine_mem, State.modCore_mem]; grind [= State.disenrol_mem, = State.poisonLine_mem, = State.modCore_mem])
theorem State.emptyQueue_mem (s a1) : (State.emptyQueue s a1).mem = s.mem := by
  unfold State.emptyQueue; simp (disch := (intros; grind [= State.defaultAction_mem, = State.modBob_mem])) only [foldl_mem,
      State.modBob_mem]
theorem State.retireAgent_mem (s a1) : (State.retireAgent s a1).mem = s.mem := by unfold State.retireAgent; grind [= State.emptyQueue_mem]
theorem State.switchVector_mem (s a1) : (State.switchVector s a1).mem = s.mem := by
  unfold State.switchVector; (try dsimp only); repeat' split
  all_goals first
    | rfl
    | grind [= State.setCore_mem, = State.resumeWg_mem]
    | (simp (disch := (intros; grind [= State.setCore_mem, = State.resumeWg_mem])) only [foldl_mem, State.setCore_mem]; done)
    | (simp (disch := (intros; grind [= State.setCore_mem, = State.resumeWg_mem])) only [foldl_mem, foldl_mem2, State.setCore_mem, State.resumeWg_mem]; grind [= State.setCore_mem, = State.resumeWg_mem])
theorem execVectorSliceEnd_mem (a0 s) : KeepsMem s.mem (execVectorSliceEnd a0 s) := runEvent_mem (by simp only [State.switchVector_mem])
theorem State.switchMatrix_mem (s a1) : (State.switchMatrix s a1).mem = s.mem := by unfold State.switchMatrix; grind [= State.setCore_mem]
theorem execSliceIdleEnd_mem (a0 a1 s) : KeepsMem s.mem (execSliceIdleEnd a0 a1 s) := by
  unfold execSliceIdleEnd; apply runEvent_mem; (try dsimp only); repeat' split
  all_goals first | rfl | (simp only [State.switchMatrix_mem, State.switchVector_mem]; done)
theorem execMatrixSliceSwitch_mem (a0 s) : KeepsMem s.mem (execMatrixSliceSwitch a0 s) := runEvent_mem (by simp only [State.switchMatrix_mem])
theorem execSpinnerDisplacement_mem (a0 a1 s) : KeepsMem s.mem (execSpinnerDisplacement a0 a1 s) := by
  unfold execSpinnerDisplacement; apply runEvent_mem; (try dsimp only); repeat' split
  all_goals first
    | trivial
    | assumption
    | rfl
    | grind [Res.keeps, CRes.keeps, BRes.keeps, RingRes.keeps, LineRes.keeps, PieceRes.keeps, Fetched.keeps]
    | (simp (disch := (intros; grind [Res.keeps, CRes.keeps, BRes.keeps, RingRes.keeps, LineRes.keeps, PieceRes.keeps, Fetched.keeps])) only [Res.keeps, CRes.keeps, BRes.keeps, Fetched.keeps, foldl_mem, foldl_mem2]; done)
    | (simp (disch := (intros; grind [Res.keeps, CRes.keeps, BRes.keeps, RingRes.keeps, LineRes.keeps, PieceRes.keeps, Fetched.keeps])) only [Res.keeps, CRes.keeps, BRes.keeps, Fetched.keeps, foldl_mem, foldl_mem2]; grind [Res.keeps, CRes.keeps, BRes.keeps, RingRes.keeps, LineRes.keeps, PieceRes.keeps, Fetched.keeps])
theorem State.markHeld_mem (s a1) : (State.markHeld s a1).mem = s.mem := by unfold State.markHeld; grind [= State.modFn_mem]
theorem State.bwPeriod_mem (s : State) : s.bwPeriod.mem = s.mem := by
  unfold State.bwPeriod; dsimp only
  rw [foldl_mem (by intros; exact State.modFn_mem ..), foldl_mem (by intros; exact State.markHeld_mem ..)]
theorem execBandwidthPeriod_mem (s : State) : KeepsMem s.mem (execBandwidthPeriod s) := runEvent_mem (State.bwPeriod_mem s)
theorem State.markPort_mem (s a1 a2 a3) : (State.markPort s a1 a2 a3).mem = s.mem := by rfl
theorem State.openPort_mem (s a1 a2) : (State.openPort s a1 a2).mem = s.mem := by rfl
theorem State.portUpdate_mem (s a1 a2) : (State.portUpdate s a1 a2).mem = s.mem := by unfold State.portUpdate; grind [= State.markHeld_mem, = State.markPort_mem, = State.openPort_mem, = State.modCore_mem]
theorem execPortThrottleUpdate_mem (a0 a1 s) : KeepsMem s.mem (execPortThrottleUpdate a0 a1 s) := runEvent_mem (by simp only [State.portUpdate_mem])
theorem State.stopInvocation_mem (s a1 a2) : (State.stopInvocation s a1 a2).mem = s.mem := by unfold State.stopInvocation; grind [= State.modInvoc_mem, = State.endInvocation_mem]
theorem State.resetFn_mem (s a1) : (State.resetFn s a1).mem = s.mem := by
  unfold State.resetFn; simp (disch := (intros; grind [= State.discardWg_mem, = State.dropTiles_mem, = State.stopInvocation_mem, = State.discardAll_mem, = State.modHand_mem, = State.setFn_mem])) only [foldl_mem, State.dropTiles_mem, State.discardAll_mem, State.modHand_mem, State.setFn_mem]
theorem execFunctionLevelReset_mem (a0 s) : KeepsMem s.mem (execFunctionLevelReset a0 s) := runEvent_mem (by simp only [State.resetFn_mem])
theorem State.activate_mem (s a1) : (State.activate s a1).mem = s.mem := by unfold State.activate; simp only [State.fillPending_mem, State.setGroup_mem]
theorem State.promote_mem (s a1 a2) : (State.promote s a1 a2).mem = s.mem := by unfold State.promote; grind [= State.activate_mem]
theorem execPromotion_mem (a0 a1 s) : KeepsMem s.mem (execPromotion a0 a1 s) := runEvent_mem (by simp only [State.promote_mem])
theorem State.rotate_mem (s a1 a2) : (State.rotate s a1 a2).mem = s.mem := by unfold State.rotate; grind [= State.modCore_mem,
    = State.setGroup_mem]
theorem execRotation_mem (a0 a1 s) : KeepsMem s.mem (execRotation a0 a1 s) := runEvent_mem (by simp only [State.rotate_mem])
theorem execScoreboardDemotion_mem (a0 a1 s) : KeepsMem s.mem (execScoreboardDemotion a0 a1 s) := by
  unfold execScoreboardDemotion; apply runEvent_mem; split
  all_goals first | exact State.park_mem .. | rfl
theorem execBinAgedDraw_mem (a0 a1 a2 s) : KeepsMem s.mem (execBinAgedDraw a0 a1 a2 s) := runEvent_mem (by simp only [State.draw_mem])
theorem State.wakeSleep_mem (s a1) : (State.wakeSleep s a1).mem = s.mem := by unfold State.wakeSleep; grind [= State.wake_mem,
    = State.lowerFlags_mem]
theorem execSleepWake_mem (a0 a1 s) : KeepsMem s.mem (execSleepWake a0 a1 s) := runEvent_mem (by simp only [State.wakeSleep_mem])
theorem execPollTimeout_mem (a0 a1 s) : KeepsMem s.mem (execPollTimeout a0 a1 s) := runEvent_mem (by simp only [State.wake_mem])
theorem execPollSpuriousWake_mem (a0 a1 s) : KeepsMem s.mem (execPollSpuriousWake a0 a1 s) := runEvent_mem (by simp only [State.wake_mem])
theorem State.returnLoad_mem (s a1) : (State.returnLoad s a1).mem = s.mem := by
  unfold State.returnLoad; (try dsimp only); repeat' split
  all_goals first
    | rfl
    | (simp only [State.actOf_mem, State.passQueries_mem, State.loadPolled_mem, State.loadData_mem, State.loadReplied_mem, State.toMsc_mem, State.loadSeen_mem, State.settleFences_mem]; done)
theorem State.completeOp_mem (s a1 a2) : (State.completeOp s a1 a2).mem = s.mem := by
  unfold State.completeOp; (try dsimp only); repeat' split
  all_goals first
    | rfl
    | (simp only [State.modCore_mem, State.taskFault_mem, State.act_mem, State.count_mem, State.reportMiss_mem, State.opFlags_mem, State.setWg_mem, State.setCore_mem]; done)
theorem execArrayOperationComplete_mem (a0 a1 s) : KeepsMem s.mem (execArrayOperationComplete a0 a1 s) := runEvent_mem (by simp only [State.completeOp_mem])
theorem State.enableHandlers_mem (s a1) : (State.enableHandlers s a1).mem = s.mem := by rfl
theorem execHandlerEnable_mem (a0 s) : KeepsMem s.mem (execHandlerEnable a0 s) := runEvent_mem (by simp only [State.enableHandlers_mem])
theorem execHandlerDisable_mem (a0 s) : KeepsMem s.mem (execHandlerDisable a0 s) := runEvent_mem (by simp only [State.disableHandlers_mem])
theorem State.accMiss_mem {s a w b m} (h : State.accMiss s a w b = some m) : m.st.mem = s.mem := by
  unfold State.accMiss at h; repeat' split at h
  all_goals first
    | (cases h; done)
    | (cases h; grind [→ State.access_keep, = State.access_mem])
    | grind [→ State.access_keep, = State.access_mem]
theorem State.copyMiss_mem {s c q m} (h : State.copyMiss s c q = some m) : m.st.mem = s.mem := by
  unfold State.copyMiss at h; repeat' split at h
  all_goals first
    | (cases h; done)
    | (cases h; grind [→ State.access_keep, = State.access_mem])
    | grind [→ State.access_keep, = State.access_mem]
theorem State.missOf_mem {s id m} (h : State.missOf s id = some m) : m.st.mem = s.mem := by
  unfold State.missOf at h; repeat' split at h
  all_goals first
    | (cases h; done)
    | exact State.accMiss_mem h
    | (obtain ⟨_, _, hq⟩ := List.exists_of_findSome?_eq_some h; exact State.copyMiss_mem hq)
theorem State.holdReq_mem (s a1) : (State.holdReq s a1).mem = s.mem := by rfl
theorem State.missStarts_mem (m : Miss) (id) : (State.missStarts m id).mem = m.st.mem := by
  unfold State.missStarts; dsimp only; split
  · rw [State.raiseEvent_mem, State.holdReq_mem, State.modLine_mem]
  · exact State.modLine_mem ..
theorem execMissEvent_mem (id) (s : State) : KeepsMem s.mem (execMissEvent id s) := by
  unfold execMissEvent; apply runEvent_mem; split
  · rename_i hm
    have : State.mem (Miss.st _) = s.mem := State.missOf_mem hm
    rw [State.missStarts_mem, this]
  · rfl
theorem State.fillArrives_mem (s a1) : (State.fillArrives s a1).mem = s.mem := by unfold State.fillArrives; grind [= State.fetchIn_mem, = State.raiseEvent_mem, = State.modLine_mem]
theorem execFillEvent_mem (a0 s) : KeepsMem s.mem (execFillEvent a0 s) := runEvent_mem (by simp only [State.fillArrives_mem])
theorem State.evicts_mem (s a1) : (State.evicts s a1).mem = s.mem := by unfold State.evicts; grind [= State.raiseEvent_mem,
    = State.modLine_mem, = State.defaultAction_mem]
theorem execEvictEvent_mem (a0 s) : KeepsMem s.mem (execEvictEvent a0 s) := runEvent_mem (by simp only [State.evicts_mem])
theorem State.startUnit_mem (s a1) : (State.startUnit s a1).2.mem = s.mem := by unfold State.startUnit; grind [= State.free_mem,
    → State.free_keep]
theorem State.startUnit_keep {s a1 a t} (h : State.startUnit s a1 = (a, t)) : t.mem = s.mem := by
  have := State.startUnit_mem s a1; rw [h] at this; exact this
theorem State.startLine_mem (s a1) : (State.startLine s a1).2.mem = s.mem := by
  unfold State.startLine; simp (disch := (intros; grind [= State.startUnit_mem, → State.startUnit_keep])) only [
      foldl_mem2]
theorem State.startLine_keep {s a1 a t} (h : State.startLine s a1 = (a, t)) : t.mem = s.mem := by
  have := State.startLine_mem s a1; rw [h] at this; exact this
theorem State.startBuf_mem (s a1) : (State.startBuf s a1).2.mem = s.mem := by unfold State.startBuf; grind [= State.startLine_mem,
    → State.startLine_keep]
theorem State.startBuf_keep {s a1 a t} (h : State.startBuf s a1 = (a, t)) : t.mem = s.mem := by
  have := State.startBuf_mem s a1; rw [h] at this; exact this
theorem State.startInvocation_mem (s a1) : (State.startInvocation s a1).mem = s.mem := by unfold State.startInvocation; grind [= State.startBuf_mem, → State.startBuf_keep, = State.newId_mem, → State.newId_keep, = State.modBob_mem, = State.modHand_mem]
theorem execInvocationStart_mem (a0 s) : KeepsMem s.mem (execInvocationStart a0 s) := runEvent_mem (by simp only [State.startInvocation_mem])
theorem execBudgetExhausted_mem (a0 s) : KeepsMem s.mem (execBudgetExhausted a0 s) := runEvent_mem (by simp only [State.abortInvocation_mem])
theorem State.msgReply_mem (s a1 a2) : (State.msgReply s a1 a2).mem = s.mem := by rfl
theorem execBmsgReply_mem (a0 s) : KeepsMem s.mem (execBmsgReply a0 s) := by
  unfold execBmsgReply; apply runEvent_mem; (try dsimp only); repeat' split
  all_goals first | rfl | (simp only [State.msgReply_mem]; done)
theorem State.scrubLine_mem (s a1 a2) : (State.scrubLine s a1 a2).mem = s.mem := by unfold State.scrubLine; grind [= State.errorRecord_mem, = State.poisonLine_mem, = State.choose_mem, → State.choose_keep]
theorem execPatrolScrub_mem (a0 a1 s) : KeepsMem s.mem (execPatrolScrub a0 a1 s) := runEvent_mem (by simp only [State.scrubLine_mem])
theorem State.unitPasses_mem (s a1) : (State.unitPasses s a1).mem = s.mem := by rfl
theorem execSelfTest_mem (a0 a1 s) : KeepsMem s.mem (execSelfTest a0 a1 s) := by
  unfold execSelfTest; apply runEvent_mem; split
  all_goals first | exact State.unitFails_mem .. | rfl
theorem State.loadLost_mem (s a1) : (State.loadLost s a1).mem = s.mem := by unfold State.loadLost; simp only [State.podFails_mem,
    State.release_mem]
theorem State.writeLost_mem (s a1) : (State.writeLost s a1).mem = s.mem := by unfold State.writeLost; grind [= State.copyLost_mem,
    = State.podFails_mem, = State.release_mem]
theorem State.linkLosses_mem {s t} (h : t ∈ State.linkLosses s) : t.mem = s.mem := by
  unfold State.linkLosses at h
  simp only [List.mem_append, List.mem_map, List.mem_flatMap] at h
  rcases h with (⟨_, _, rfl⟩ | ⟨_, _, rfl⟩) | ⟨_, _, _, _, rfl⟩
  · exact State.loadLost_mem ..
  · exact State.writeLost_mem ..
  · rfl
theorem State.linkRetries_mem (s : State) (a1 a2) : (State.linkRetries s a1 a2).mem = s.mem := by
  unfold State.linkRetries; dsimp only [State.free, State.choose]; split
  · exact State.errorRecord_mem ..
  · exact getD_mem (State.errorRecord_mem ..) fun t h =>
      (State.linkLosses_mem (List.mem_of_getElem? h)).trans (State.errorRecord_mem ..)
theorem execLinkRetry_mem (a0 a1 s) : KeepsMem s.mem (execLinkRetry a0 a1 s) := runEvent_mem (by simp only [State.linkRetries_mem])
theorem State.disableQueue_mem (s a1 a2) : (State.disableQueue s a1 a2).mem = s.mem := by unfold State.disableQueue; simp only [State.fullBins_mem, State.dropPool_mem, State.unread_mem, State.modQueue_mem]
theorem execQueueDisable_mem (a0 a1 s) : KeepsMem s.mem (execQueueDisable a0 a1 s) := runEvent_mem (by simp only [State.disableQueue_mem])
theorem execReducedServiceEntry_mem (s) : KeepsMem s.mem (execReducedServiceEntry s) := by
  unfold execReducedServiceEntry; apply runEvent_mem; (try dsimp only); repeat' split
  all_goals first
    | trivial
    | assumption
    | rfl
    | grind [Res.keeps, CRes.keeps, BRes.keeps, RingRes.keeps, LineRes.keeps, PieceRes.keeps, Fetched.keeps]
    | (simp (disch := (intros; grind [Res.keeps, CRes.keeps, BRes.keeps, RingRes.keeps, LineRes.keeps, PieceRes.keeps, Fetched.keeps])) only [Res.keeps, CRes.keeps, BRes.keeps, Fetched.keeps, foldl_mem, foldl_mem2]; done)
    | (simp (disch := (intros; grind [Res.keeps, CRes.keeps, BRes.keeps, RingRes.keeps, LineRes.keeps, PieceRes.keeps, Fetched.keeps])) only [Res.keeps, CRes.keeps, BRes.keeps, Fetched.keeps, foldl_mem, foldl_mem2]; grind [Res.keeps, CRes.keeps, BRes.keeps, RingRes.keeps, LineRes.keeps, PieceRes.keeps, Fetched.keeps])
theorem execFlogbaseWrite_mem (a0 a1 s) : KeepsMem s.mem (execFlogbaseWrite a0 a1 s) := by
  unfold execFlogbaseWrite; apply runEvent_mem; split
  all_goals first | exact State.modFn_mem .. | rfl
theorem State.raisePriv_mem (s a1) : (State.raisePriv s a1).mem = s.mem := by unfold State.raisePriv; grind [= State.setGroup_mem]
theorem State.mscEvicts_mem (s a1) : (State.mscEvicts s a1).mem = s.mem := by unfold State.mscEvicts; grind [= State.burst_mem,
    = State.modLine_mem, = State.leaveSram_mem]
theorem State.mscDrops_mem (s a1) : (State.mscDrops s a1).mem = s.mem := by unfold State.mscDrops; grind [= State.mscEvicts_mem]
theorem State.gapCorrupt_mem (s a1 a2 a3) : (State.gapCorrupt s a1 a2 a3).mem = s.mem := by unfold State.gapCorrupt; grind [= State.free_mem, → State.free_keep, = State.modThread_mem]
theorem State.gapCopy_mem (s a1 a2) : (State.gapCopy s a1 a2).mem = s.mem := by unfold State.gapCopy; grind [= State.free_mem,
    → State.free_keep]
theorem State.gapEntry_mem (s a1 a2) : (State.gapEntry s a1 a2).mem = s.mem := by unfold State.gapEntry; grind [= State.free_mem,
    → State.free_keep, = State.modCtl_mem]
theorem State.strikesGroup_mem (s a1 a2 a3 a4) : (State.strikesGroup s a1 a2 a3 a4).mem = s.mem := by unfold State.strikesGroup; simp only [State.taskFault_mem, State.errorRecord_mem]
theorem State.masked_mem (s a1 a2 a3 a4) : (State.masked s a1 a2 a3 a4).mem = s.mem := by unfold State.masked; simp only [State.errorRecord_mem]
theorem State.groupStruck_mem (s a1 a2 a3 a4) : (State.groupStruck s a1 a2 a3 a4).mem = s.mem := by unfold State.groupStruck; grind [= State.strikesGroup_mem, = State.masked_mem]
theorem State.sliceStruck_mem (s a1 a2) : (State.sliceStruck s a1 a2).mem = s.mem := by unfold State.sliceStruck; grind [= State.poisonLine_mem, = State.modLine_mem, = State.burst_mem, = State.errorRecord_mem, = State.masked_mem]

end Sys2Proof.Machine
end

