-- ==== Sys2Proof/Laws/MemoryForm.lean ====
section
/-! SUPPORT. Memory stays in canonical form where memory is written: a write that performs and whatever makes one perform. -/

namespace Sys2Proof.Machine

theorem memInv_of_mem {s t : State} (h : t.mem = s.mem) (hs : MemInv s) : MemInv t := by unfold MemInv; rw [h]; exact hs
/-- Every next state of an answer has its memory in canonical form. -/
def KeepsForm (o : Host.Outcome State Fault Refusal) : Prop := ∀ t, o = .next t → MemInv t
theorem keepsForm_of_mem {s : State} {o} (h : KeepsMem s.mem o) (hs : MemInv s) : KeepsForm o :=
  fun t ht => memInv_of_mem (h t ht) hs
theorem foldl_form {α : Type} {f : State → α → State} (h : ∀ s a, MemInv s → MemInv (f s a)) (l : List α) {s : State} (hs : MemInv s) :
    MemInv (l.foldl f s) := by
  induction l generalizing s with
  | nil => exact hs
  | cons a l ih => exact ih (h s a hs)
theorem runEvent_form {name can} {eff : State → State} {s : State} (he : MemInv (eff s)) : KeepsForm (runEvent name can eff s) := by
  unfold runEvent; repeat' split
  all_goals first | (intro t ht; cases ht; done) | (intro t ht; cases ht; exact he)

theorem State.put_form {s : State} (pa bs) (h : MemInv s) : MemInv (s.put pa bs) := wf_cwrite bs pa h
theorem State.putPois_form {s : State} (pa bs b) (h : MemInv s) : MemInv (s.putPois pa bs b) := wf_cwrite bs pa h
theorem State.perform_form {s : State} (pa bs) (h : MemInv s) : MemInv (s.perform pa bs) :=
  memInv_of_mem (State.wakeWatchers_mem ..) (State.put_form pa bs h)
theorem State.tgtWrite_form {s : State} (t bs) (h : MemInv s) : MemInv (s.tgtWrite t bs) := by
  unfold State.tgtWrite; split
  · exact State.perform_form _ _ h
  · exact memInv_of_mem (State.scrPut_mem ..) h
  · exact h

theorem State.copyWrite_form {s : State} (a bs b) (h : MemInv s) : MemInv (s.copyWrite a bs b) := by
  unfold State.copyWrite; split
  · exact memInv_of_mem (State.wakeWatchers_mem ..) (State.putPois_form _ bs b h)
  · exact h
theorem State.modifies_form {s : State} {a d go} (h : MemInv s) (hg : MemInv go) : MemInv (s.modifies a d go) := by
  unfold State.modifies; split
  · exact memInv_of_mem (by rw [State.accFault_mem, State.release_mem]) h
  · exact hg
theorem State.writeData_form {s : State} (w) (h : MemInv s) : MemInv (s.writeData w) := by
  have ht : ∀ a bs, MemInv (s.tgtWrite a bs) := fun a bs => State.tgtWrite_form a bs h
  unfold State.writeData; dsimp only; split
  · exact memInv_of_mem (State.deliver_mem ..) (ht _ _)
  · exact State.modifies_form h (memInv_of_mem (State.deliver_mem ..) (ht _ _))
  · refine State.modifies_form h (memInv_of_mem (State.deliver_mem ..) ?_); split
    · exact ht _ _
    · exact h
  · exact State.modifies_form h (memInv_of_mem (State.deliver_mem ..) (ht _ _))
  · exact memInv_of_mem (State.pteDone_mem ..) (ht _ _)
  · exact memInv_of_mem (State.modLaunch_mem ..) (ht _ _)
  · exact memInv_of_mem (by rw [State.unitDone_mem, State.markBatch_mem]) (State.copyWrite_form _ _ _ h)
  · exact memInv_of_mem (by rw [State.unitDone_mem, State.markBatch_mem]) (State.copyWrite_form _ _ _ h)
  · exact memInv_of_mem (State.copyDone_mem ..) (ht _ _)
  · exact memInv_of_mem (State.bobWrites_mem ..) (ht _ _)
/-- A write that performs keeps the form (R139). -/
theorem State.performWrite_form {s : State} (w : PWrite) (h : MemInv s) : MemInv (s.performWrite w) := by
  have h0 : MemInv (State.actOf { s with writes := terase s.writes w.acc.id } w.acc.launch .access 1) :=
    memInv_of_mem (State.actOf_mem ..) (show MemInv { s with writes := terase s.writes w.acc.id } from h)
  have e : ∀ u v : State, MemInv u → MemInv ((u.lineWritten w).writeReplied v w) :=
    fun u v hu => memInv_of_mem (by rw [State.writeReplied_mem, State.lineWritten_mem]) hu
  have h1 : ∀ v : State, MemInv v → MemInv ((match w.acc.tgt with
      | .pod _ _ => v.writePod w
      | _ => v.writeData w : State)) := by
    intro v hv; split
    · exact memInv_of_mem (State.writePod_mem ..) hv
    · exact State.writeData_form _ hv
  unfold State.performWrite; extract_lets s0 s1 s2
  have h2 : MemInv s2 := e s1 s0 (h1 s0 h0)
  split
  · exact memInv_of_mem (State.settleFences_mem ..) h2
  · exact h2
theorem State.drainLine_form {s : State} (l n) (h : MemInv s) : MemInv (s.drainLine l n) := by
  induction n generalizing s with
  | zero => exact h
  | succ n ih =>
    have hd : MemInv (s.dropDead l) := memInv_of_mem (State.dropDead_mem ..) h
    unfold State.drainLine; dsimp only; repeat' split
    all_goals first
      | exact hd
      | exact memInv_of_mem (State.modLine_mem ..) hd
      | exact ih (State.performWrite_form _ hd)
theorem State.drain_form {s : State} (l) (h : MemInv s) : MemInv (s.drain l) := State.drainLine_form l _ h
theorem State.forwardLine_form {s : State} (m l) (h : MemInv s) : MemInv (State.forwardLine m s l) := by
  unfold State.forwardLine; dsimp only
  exact State.drainLine_form _ _ (memInv_of_mem (by rw [State.modLine_mem, State.modLine_mem, State.joinQueues_mem]) h)
/-- A write that arrives at its line (R139, R143). -/
theorem State.arrive_form {s : State} (w) (h : MemInv s) : MemInv (s.arrive w) := by
  have hq : MemInv (s.passQueries w.acc) := memInv_of_mem (State.passQueries_mem ..) h
  unfold State.arrive; extract_lets u; split
  · refine State.drainLine_form _ _ (memInv_of_mem ?_ hq)
    rw [State.modLine_mem]; dsimp only; split
    · rw [State.release_mem]
    · rfl
  · exact State.performWrite_form _ hq
theorem State.sendUnit_form {s : State} {c va n need kind a b t} (h : MemInv s) (hu : s.sendUnit c va n need kind = .ok a b t) :
    MemInv t := by
  unfold State.sendUnit at hu; split at hu
  · cases hu
  · cases hu
  · rename_i he
    split at hu
    · cases hu
    · have hm := memInv_of_mem (State.access_keep he) h
      cases hu; exact State.arrive_form _ hm
theorem State.sendUnit_refuse_mem {s : State} {c va n need kind r t} (hu : s.sendUnit c va n need kind = .refuse r t) :
    t.mem = s.mem := by
  unfold State.sendUnit at hu; repeat' split at hu
  all_goals first | (cases hu; done) | (cases hu; rename_i ha; exact State.access_keep ha)
theorem State.sendSignal_form {s : State} {id t} (h : MemInv s) (hs : s.sendSignal id = some t) : MemInv t := by
  unfold State.sendSignal at hs; repeat' split at hs
  all_goals first
    | (cases hs; done)
    | (rename_i hu; cases hs; exact State.sendUnit_form (by exact h) hu)
    | (rename_i hu; cases hs
       refine memInv_of_mem (s := s) ?_ h
       rw [State.taskFault_mem, State.copyFails_mem, State.sendUnit_refuse_mem hu]
       rfl)
/-- A copy's read is made at its line, and the writes behind it go on. -/
theorem State.takeRead_form {s : State} {id k c u t} (h : MemInv s) (hs : s.takeRead id k c u = some t) : MemInv t := by
  obtain ⟨r, _, rfl⟩ := Option.map_eq_some_iff.1 hs
  exact State.drainLine_form _ _ (memInv_of_mem (by rw [State.modUnit_mem, State.touch_mem, State.passBefore_mem]) h)
theorem State.landUnit_form {s : State} {id k t} (h : MemInv s) (hs : s.landUnit id k = some t) : MemInv t := by
  have hsend : ∀ {u v : State} {c va n need kind}, MemInv u →
      (match u.sendUnit c va n need kind with
        | .ok _ _ t => some t
        | .refuse r t => some ((t.copyFails id).taskFault c.launch (c.fault t r))
        | .wait => none) = some v → MemInv v := by
    intro u v c va n need kind hu hv
    split at hv
    · cases hv; rename_i he; exact State.sendUnit_form hu he
    · cases hv; rename_i he
      exact memInv_of_mem (by rw [State.taskFault_mem, State.copyFails_mem, State.sendUnit_refuse_mem he]) hu
    · cases hv
  have moved : ∀ (u : State) (c : Copy) (i n : Nat) (q : CUnit) (bs : List Byte) (b : Bool),
      ((((u.count c.core c.fn 6 n).actOf c.launch .copy n).shareChunk i q bs b).engineMoved i c n).mem = u.mem :=
    fun u c i n q bs b => by rw [State.engineMoved_mem, State.shareChunk_mem, State.actOf_mem, State.count_mem]
  unfold State.landUnit at hs; dsimp only at hs
  split at hs
  · cases hs
  split at hs
  · cases hs
  split at hs
  · cases hs; exact State.takeRead_form h ‹_›
  split at hs
  · cases hs
  split at hs
  · cases hs; exact memInv_of_mem (State.queueRead_mem ‹_›) h
  split at hs
  · cases hs
  · cases hs; rename_i he
    have hr : PieceRes.keeps s.mem (.refuse _ _) := he ▸ State.readPieces_mem rfl
    exact memInv_of_mem (by rw [State.taskFault_mem, State.copyFails_mem]; exact hr) h
  · rename_i he
    have h1 : PieceRes.keeps s.mem (.ok _ _ _) := he ▸ State.readPieces_mem rfl
    simp only [PieceRes.keeps] at h1
    split at hs
    · cases hs; exact memInv_of_mem (by rw [State.landScratch_mem, moved]; exact h1) h
    · cases hs; exact memInv_of_mem (by rw [State.unitDone_mem, State.markBatch_mem, moved]; exact h1) h
    · exact hsend (memInv_of_mem (by rw [State.modUnit_mem, moved]; exact h1) h) hs
    · exact hsend (memInv_of_mem (by rw [State.modUnit_mem, moved]; exact h1) h) hs
theorem State.scrubAgent_form {s : State} (a) (h : MemInv s) : MemInv (s.scrubAgent a) := by
  unfold State.scrubAgent; dsimp only
  refine foldl_form (fun _ l hl => State.drain_form l hl) _ ?_
  refine memInv_of_mem (s := s) ?_ h
  split
  · rw [State.testAgent_mem]; show State.mem (State.endAtAgent _ _) = _; rw [State.endAtAgent_mem, State.stripAgent_mem]
  · rw [State.retireAgent_mem, State.endAtAgent_mem, State.stripAgent_mem]
theorem State.bobbinDies_form {s : State} (k) (h : MemInv s) : MemInv (s.bobbinDies k) :=
  State.scrubAgent_form _ (memInv_of_mem (foldl_mem (fun _ _ => State.dropWrite_mem ..) _ _) h)
theorem State.writePerforms_form {s : State} (id) (h : MemInv s) : MemInv (s.writePerforms id) := by
  unfold State.writePerforms; repeat' split
  all_goals first
    | exact h
    | exact memInv_of_mem (State.dropWrite_mem ..) h
    | exact State.drain_form _ (memInv_of_mem (State.dropWrite_mem ..) h)
    | exact State.drain_form _ h
    | exact State.arrive_form _ h
    | exact memInv_of_mem (getD_mem rfl fun _ ht => State.writeAgain_mem ht) h
/-- A load that returns from its line lets the writes behind it perform (R139, R316). -/
theorem State.loadReturns_form {s : State} (id) (h : MemInv s) : MemInv (s.loadReturns id) := by
  unfold State.loadReturns; split
  · split
    · exact memInv_of_mem (State.dropLoad_mem ..) h
    · split
      · exact memInv_of_mem (getD_mem rfl fun _ ht => State.loadAgain_mem ht) h
      · split
        · rename_i p _ _ _ _
          have hr : MemInv (s.returnLoad p) := memInv_of_mem (State.returnLoad_mem ..) h
          dsimp only; split
          · exact State.drainLine_form _ _ hr
          · exact hr
        · split
          · exact memInv_of_mem (State.queueLoad_mem ..) h
          · exact h
  · exact h
theorem State.ackFrom_form {s : State} (a l) (h : MemInv s) : MemInv (s.ackFrom a l) := by
  unfold State.ackFrom; split
  · exact State.drain_form l (memInv_of_mem (by rw [State.disenrol_mem, State.modLine_mem, State.forgetPath_mem]) h)
  · exact memInv_of_mem (State.dropLate_mem ..) h
/-- A lease or an ownership that comes back lets the writes that waited for it perform (R146, R386). -/
theorem State.ownerReturns_form {s : State} (l) (h : MemInv s) : MemInv (s.ownerReturns l) := by
  unfold State.ownerReturns; repeat' split
  · exact State.drain_form l (memInv_of_mem (State.modLine_mem ..) h)
  · exact memInv_of_mem (State.dropLate_mem ..) h
  · exact h
theorem State.copyLine_form {s : State} (fn id l dl) (h : MemInv s) : MemInv (s.copyLine fn id l dl) :=
  memInv_of_mem (by unfold State.copyLine; rw [State.modLine_mem, State.modLine_mem, State.wakeWatchers_mem])
    (State.put_form (s := s.touch fn l 0) (64 * dl) ((s.touch fn l 0).read (64 * l) 64) (memInv_of_mem (State.touch_mem ..) h))
theorem State.blockLine_form {s : State} (id l) (h : MemInv s) : MemInv (s.blockLine id l) := by
  unfold State.blockLine; split
  · exact h
  · rename_i m _
    have h2 : ∀ fn, MemInv (s.copyLine fn id l (m.dest l)) := fun fn => State.copyLine_form fn id l _ h
    dsimp only; split
    · exact memInv_of_mem (State.sendPte_mem ..) (h2 _)
    · exact h2 _
theorem State.replay_form {s : State} (id) (h : MemInv s) : MemInv (s.replay id) := by
  unfold State.replay; split
  · exact h
  · rename_i m _
    have hf : MemInv ((frameLines m.old).foldl (State.forwardLine m) s) :=
      foldl_form (fun _ l hl => State.forwardLine_form m l hl) _ h
    exact State.drainLine_form _ _ (memInv_of_mem (by rw [State.migDone_mem, State.modLine_mem]) hf)
/-- A firmware image is placed where its region stands (R400). -/
theorem State.loadImage_form {s : State} (i) (h : MemInv s) : MemInv (s.loadImage i) :=
  memInv_of_mem (by unfold State.loadImage; rfl) (State.put_form (Config.firmwareAt i.row % 0xC000000000) i.body h)
/-- A machine that has shut down lists nothing. -/
theorem State.shutDown_form (s : State) : MemInv s.shutDown := rfl
theorem State.senses_form {s : State} (h : MemInv s) : MemInv s.senses := by
  unfold State.senses; dsimp only; repeat' split
  all_goals first | exact State.shutDown_form _ | exact memInv_of_mem (State.sense_mem s) h
/-- A fault strikes a bit: an owner's dirty line comes home poisoned, and the writes behind it go on (R392, R397). -/
theorem State.struck_form {s0 : State} (f hard) (h : MemInv s0) : MemInv (s0.struck f hard) := by
  have hf : MemInv s0.free.2 := memInv_of_mem rfl h
  unfold State.struck
  generalize s0.free = q at hf ⊢
  obtain ⟨v, s⟩ := q
  dsimp only at hf ⊢
  have er : ∀ u, u.mem = s.mem → ∀ a b c d e g, MemInv (State.errorRecord u a b c d e g) :=
    fun u hu a b c d e g => memInv_of_mem ((State.errorRecord_mem ..).trans hu) hf
  have mk : ∀ u : State, u.mem = s.mem → ∀ a b c d, MemInv (u.masked a b c d) :=
    fun u hu a b c d => memInv_of_mem ((State.masked_mem ..).trans hu) hf
  split
  · exact memInv_of_mem (State.groupStruck_mem ..) hf
  · split
    · exact er _ (State.modCore_mem ..) _ _ _ _ _ _
    · exact mk _ rfl _ _ _ _
  · split
    · exact hf
    · split
      · exact er _ (State.modWg_mem ..) _ _ _ _ _ _
      · exact mk _ rfl _ _ _ _
  · split
    · exact memInv_of_mem (State.errorRecord_mem ..) (State.ownerReturns_form _ (memInv_of_mem (State.poisonLine_mem ..) hf))
    · refine mk _ ?_ _ _ _ _
      split
      · exact State.modCore_mem ..
      · rfl
  · refine mk _ ?_ _ _ _ _
    split <;> rfl
  · exact mk _ rfl _ _ _ _
  · exact mk _ rfl _ _ _ _
  · exact memInv_of_mem (State.sliceStruck_mem ..) hf
  · split
    · exact er _ (State.modCtl_mem ..) _ _ _ _ _ _
    · exact mk _ rfl _ _ _ _
  · split
    · exact memInv_of_mem ((State.abortInvocation_mem ..).trans (State.errorRecord_mem ..)) hf
    · exact mk _ rfl _ _ _ _
  · split
    · exact er _ (State.poisonLine_mem ..) _ _ _ _ _ _
    · exact mk _ rfl _ _ _ _
  · split
    · exact er _ (State.poisonLine_mem ..) _ _ _ _ _ _
    · exact mk _ rfl _ _ _ _
  · exact mk _ rfl _ _ _ _
  · exact memInv_of_mem (State.groupStruck_mem ..) hf
/-- What the device does on its own keeps the form. -/
theorem State.deviceAct_form {s : State} (d) (h : MemInv s) : MemInv (s.deviceAct d) := by
  unfold State.deviceAct; repeat' split
  all_goals first
    | exact h
    | exact State.senses_form h
    | exact memInv_of_mem (State.raisePriv_mem ..) h
    | exact memInv_of_mem (State.mscDrops_mem ..) h
    | exact memInv_of_mem (State.gapCorrupt_mem ..) h
    | exact memInv_of_mem (State.gapCopy_mem ..) h
    | exact memInv_of_mem (State.gapUnit_mem ..) h
    | exact memInv_of_mem (State.gapEntry_mem ..) h
    | exact State.struck_form _ _ h

end Sys2Proof.Machine
end

