-- ==== Sys2Proof/Laws/PerInstr.lean ====
section
/-! SUPPORT. Fields of concatenated words, and the family `Encodes`: the decoder reads each well-formed instruction back from its
encoding. -/

namespace Sys2Proof.Laws

/-! ### Fields of a concatenation -/

theorem bx_low {n m : Nat} (x : BitVec n) (y : BitVec m) (lo k : Nat) (h : lo + k ≤ m) : bx (x ++ y) lo k = bx y lo k := by
  ext i hi
  simp only [bx, BitVec.getElem_extractLsb', BitVec.getLsbD_append]
  simp; omega
theorem bx_high {n m : Nat} (x : BitVec n) (y : BitVec m) (lo k : Nat) (h : m ≤ lo) : bx (x ++ y) lo k = bx x (lo - m) k := by
  ext i hi
  have h2 : ¬ lo + i < m := by omega
  have h3 : lo + i - m = lo - m + i := by omega
  simp [BitVec.getLsbD_append, h2, h3]
theorem bx_self {n : Nat} (x : BitVec n) : bx x 0 n = x := by
  ext i hi
  simp
/-- Neighbouring fields join into one. -/
theorem bx_join {n : Nat} (x : BitVec n) (lo a b hi : Nat) (h : hi = lo + b) : bx x hi a ++ bx x lo b = bx x lo (a + b) := by
  subst h
  ext i hi
  simp only [BitVec.getElem_append, BitVec.getElem_extractLsb']
  split
  · rfl
  · rw [show lo + b + (i - b) = lo + i by omega]
theorem bit_low {n m : Nat} (x : BitVec n) (y : BitVec m) (i : Nat) (h : i < m) : (x ++ y).getLsbD i = y.getLsbD i := by
  simp [BitVec.getLsbD_append, h]
theorem bit_high {n m : Nat} (x : BitVec n) (y : BitVec m) (i : Nat) (h : m ≤ i) : (x ++ y).getLsbD i = x.getLsbD (i - m) := by
  simp [BitVec.getLsbD_append, Nat.not_lt.mpr h]
theorem bit_bool (b : Bool) : (BitVec.ofBool b).getLsbD 0 = b := by simp
theorem bit_of_bx {n : Nat} {x : BitVec n} {i : Nat} {b : Bool} (hi : i < n) (h : bx x i 1 = BitVec.ofBool b) : x[i] = b := by
  have := congrArg (fun y : BitVec 1 => y.getLsbD 0) h
  simpa [hi] using this

/-! ### Thrum words -/

theorem wordFields_thrumWord (op : Nat) (w : TWord) : wordFields (thrumWord op w) = w := by
  cases w with
  | mk d a b c pn pi fe fs md ext =>
    unfold wordFields thrumWord
    congr 1
    case e_pn | e_fe | e_fs =>
      repeat' first
        | exact bit_bool _
        | refine (bit_low _ _ _ (by decide)).trans ?_
        | refine (bit_high _ _ _ (by decide)).trans ?_
    all_goals
      repeat' first
        | exact bx_self _
        | refine (bx_high _ _ _ _ (by decide)).trans ?_
        | refine (bx_low _ _ _ _ (by decide)).trans ?_
theorem wordOp_thrumWord (op : Nat) (w : TWord) : wordOp (thrumWord op w) = op % 1024 := by
  have e : bx (thrumWord op w) 86 10 = BitVec.ofNat 10 op := by
    unfold thrumWord
    repeat' first
      | exact bx_self _
      | refine (bx_high _ _ _ _ (by decide)).trans ?_
  unfold wordOp
  rw [e, BitVec.toNat_ofNat]
theorem thrum_decode {op : Nat} {w : TWord} {i : Instr} (hop : op < 1024) (h : thrumOf op w = .ok i) :
    (Code.thrum (thrumWord op w)).decode = some i := by
  simp [Code.decode, decodeThrum, wordFields_thrumWord, wordOp_thrumWord, Nat.mod_eq_of_lt hop, h, Except.toOption]

/-- A check of a well-formed operation holds. -/
theorem wf_check {i : Instr} (h : WellFormed i) {c : WfCheck} {b : Bool} (hp : (c, b) ∈ checks i) : b = true := by
  cases b with
  | true => rfl
  | false =>
    simp only [WellFormed, failed, List.map_eq_nil_iff, List.filter_eq_nil_iff] at h
    exact absurd (h _ hp) (by simp)

/-- The decoder reads a well-formed operation back from its encoding; no word names an event. -/
def Encodes.Statement (i : Instr) : Prop := WellFormed i → encode i = .event ∨ (encode i).decode = some i

namespace Encodes

/-! ### Bobbin words -/

theorem rvc_addi4spn (rd : BitVec 3) (i : BitVec 8) (hi : i ≠ 0#8) : decodeRvC (encodeRvC (.addi4spn rd i)) = .compressed (.addi4spn rd i) := by
  obtain ⟨h, hh⟩ : ∃ h : BitVec 16, h = 0#3 ++ bx i 2 2 ++ bx i 4 4 ++ bx i 0 1 ++ bx i 1 1 ++ rd ++ 0#2 := ⟨_, rfl⟩
  have f0 : bx h 0 2 = 0#2 := hh ▸ (bx_low _ _ 0 2 (by decide)).trans (bx_self _)
  have f1 : bx h 13 3 = 0#3 := hh ▸ (bx_high _ _ 13 3 (by decide)).trans ((bx_high _ _ 11 3 (by decide)).trans ((bx_high _ _ 8 3 (by decide)).trans ((bx_high _ _ 7 3 (by decide)).trans ((bx_high _ _ 6 3 (by decide)).trans ((bx_high _ _ 2 3 (by decide)).trans (bx_self _))))))
  have f2 : bx h 2 3 = rd := hh ▸ (bx_high _ _ 2 3 (by decide)).trans ((bx_low _ _ 0 3 (by decide)).trans (bx_self _))
  have f3 : bx h 7 4 = bx i 4 4 := hh ▸ (bx_high _ _ 7 4 (by decide)).trans ((bx_high _ _ 5 4 (by decide)).trans ((bx_high _ _ 2 4 (by decide)).trans ((bx_high _ _ 1 4 (by decide)).trans ((bx_low _ _ 0 4 (by decide)).trans (bx_self _)))))
  have f4 : bx h 11 2 = bx i 2 2 := hh ▸ (bx_high _ _ 11 2 (by decide)).trans ((bx_high _ _ 9 2 (by decide)).trans ((bx_high _ _ 6 2 (by decide)).trans ((bx_high _ _ 5 2 (by decide)).trans ((bx_high _ _ 4 2 (by decide)).trans ((bx_low _ _ 0 2 (by decide)).trans (bx_self _))))))
  have f5 : bx h 5 1 = bx i 1 1 := hh ▸ (bx_high _ _ 5 1 (by decide)).trans ((bx_high _ _ 3 1 (by decide)).trans ((bx_low _ _ 0 1 (by decide)).trans (bx_self _)))
  have f6 : bx h 6 1 = bx i 0 1 := hh ▸ (bx_high _ _ 6 1 (by decide)).trans ((bx_high _ _ 4 1 (by decide)).trans ((bx_high _ _ 1 1 (by decide)).trans ((bx_low _ _ 0 1 (by decide)).trans (bx_self _))))
  have e : encodeRvC (.addi4spn rd i) = h := hh ▸ rfl
  rw [e]
  simp [decodeRvC, f0, f1, f2, f3, f4, f5, f6, bx_join i 2 4 2 4 rfl, bx_join i 1 6 1 2 rfl, bx_join i 0 7 1 1 rfl, hi]
theorem low_addi4spn (rd : BitVec 3) (i : BitVec 8) : bx (encodeRvC (.addi4spn rd i)) 0 2 ≠ 3#2 := by
  rw [show bx (encodeRvC (.addi4spn rd i)) 0 2 = 0#2 from (bx_low _ _ 0 2 (by decide)).trans (bx_self _)]; decide
theorem rvc_lw (rd : BitVec 3) (rs1 : BitVec 3) (i : BitVec 5) : decodeRvC (encodeRvC (.lw rd rs1 i)) = .compressed (.lw rd rs1 i) := by
  obtain ⟨h, hh⟩ : ∃ h : BitVec 16, h = 2#3 ++ bx i 1 3 ++ rs1 ++ bx i 0 1 ++ bx i 4 1 ++ rd ++ 0#2 := ⟨_, rfl⟩
  have f0 : bx h 0 2 = 0#2 := hh ▸ (bx_low _ _ 0 2 (by decide)).trans (bx_self _)
  have f1 : bx h 13 3 = 2#3 := hh ▸ (bx_high _ _ 13 3 (by decide)).trans ((bx_high _ _ 11 3 (by decide)).trans ((bx_high _ _ 8 3 (by decide)).trans ((bx_high _ _ 7 3 (by decide)).trans ((bx_high _ _ 6 3 (by decide)).trans ((bx_high _ _ 3 3 (by decide)).trans (bx_self _))))))
  have f2 : bx h 2 3 = rd := hh ▸ (bx_high _ _ 2 3 (by decide)).trans ((bx_low _ _ 0 3 (by decide)).trans (bx_self _))
  have f3 : bx h 7 3 = rs1 := hh ▸ (bx_high _ _ 7 3 (by decide)).trans ((bx_high _ _ 5 3 (by decide)).trans ((bx_high _ _ 2 3 (by decide)).trans ((bx_high _ _ 1 3 (by decide)).trans ((bx_low _ _ 0 3 (by decide)).trans (bx_self _)))))
  have f4 : bx h 5 1 = bx i 4 1 := hh ▸ (bx_high _ _ 5 1 (by decide)).trans ((bx_high _ _ 3 1 (by decide)).trans ((bx_low _ _ 0 1 (by decide)).trans (bx_self _)))
  have f5 : bx h 10 3 = bx i 1 3 := hh ▸ (bx_high _ _ 10 3 (by decide)).trans ((bx_high _ _ 8 3 (by decide)).trans ((bx_high _ _ 5 3 (by decide)).trans ((bx_high _ _ 4 3 (by decide)).trans ((bx_high _ _ 3 3 (by decide)).trans ((bx_low _ _ 0 3 (by decide)).trans (bx_self _))))))
  have f6 : bx h 6 1 = bx i 0 1 := hh ▸ (bx_high _ _ 6 1 (by decide)).trans ((bx_high _ _ 4 1 (by decide)).trans ((bx_high _ _ 1 1 (by decide)).trans ((bx_low _ _ 0 1 (by decide)).trans (bx_self _))))
  have e : encodeRvC (.lw rd rs1 i) = h := hh ▸ rfl
  rw [e]
  simp [decodeRvC, f0, f1, f2, f3, f4, f5, f6, bx_join i 1 1 3 4 rfl, bx_join i 0 4 1 1 rfl]
theorem low_lw (rd : BitVec 3) (rs1 : BitVec 3) (i : BitVec 5) : bx (encodeRvC (.lw rd rs1 i)) 0 2 ≠ 3#2 := by
  rw [show bx (encodeRvC (.lw rd rs1 i)) 0 2 = 0#2 from (bx_low _ _ 0 2 (by decide)).trans (bx_self _)]; decide
theorem rvc_sw (rs2 : BitVec 3) (rs1 : BitVec 3) (i : BitVec 5) : decodeRvC (encodeRvC (.sw rs2 rs1 i)) = .compressed (.sw rs2 rs1 i) := by
  obtain ⟨h, hh⟩ : ∃ h : BitVec 16, h = 6#3 ++ bx i 1 3 ++ rs1 ++ bx i 0 1 ++ bx i 4 1 ++ rs2 ++ 0#2 := ⟨_, rfl⟩
  have f0 : bx h 0 2 = 0#2 := hh ▸ (bx_low _ _ 0 2 (by decide)).trans (bx_self _)
  have f1 : bx h 13 3 = 6#3 := hh ▸ (bx_high _ _ 13 3 (by decide)).trans ((bx_high _ _ 11 3 (by decide)).trans ((bx_high _ _ 8 3 (by decide)).trans ((bx_high _ _ 7 3 (by decide)).trans ((bx_high _ _ 6 3 (by decide)).trans ((bx_high _ _ 3 3 (by decide)).trans (bx_self _))))))
  have f2 : bx h 2 3 = rs2 := hh ▸ (bx_high _ _ 2 3 (by decide)).trans ((bx_low _ _ 0 3 (by decide)).trans (bx_self _))
  have f3 : bx h 7 3 = rs1 := hh ▸ (bx_high _ _ 7 3 (by decide)).trans ((bx_high _ _ 5 3 (by decide)).trans ((bx_high _ _ 2 3 (by decide)).trans ((bx_high _ _ 1 3 (by decide)).trans ((bx_low _ _ 0 3 (by decide)).trans (bx_self _)))))
  have f4 : bx h 5 1 = bx i 4 1 := hh ▸ (bx_high _ _ 5 1 (by decide)).trans ((bx_high _ _ 3 1 (by decide)).trans ((bx_low _ _ 0 1 (by decide)).trans (bx_self _)))
  have f5 : bx h 10 3 = bx i 1 3 := hh ▸ (bx_high _ _ 10 3 (by decide)).trans ((bx_high _ _ 8 3 (by decide)).trans ((bx_high _ _ 5 3 (by decide)).trans ((bx_high _ _ 4 3 (by decide)).trans ((bx_high _ _ 3 3 (by decide)).trans ((bx_low _ _ 0 3 (by decide)).trans (bx_self _))))))
  have f6 : bx h 6 1 = bx i 0 1 := hh ▸ (bx_high _ _ 6 1 (by decide)).trans ((bx_high _ _ 4 1 (by decide)).trans ((bx_high _ _ 1 1 (by decide)).trans ((bx_low _ _ 0 1 (by decide)).trans (bx_self _))))
  have e : encodeRvC (.sw rs2 rs1 i) = h := hh ▸ rfl
  rw [e]
  simp [decodeRvC, f0, f1, f2, f3, f4, f5, f6, bx_join i 1 1 3 4 rfl, bx_join i 0 4 1 1 rfl]
theorem low_sw (rs2 : BitVec 3) (rs1 : BitVec 3) (i : BitVec 5) : bx (encodeRvC (.sw rs2 rs1 i)) 0 2 ≠ 3#2 := by
  rw [show bx (encodeRvC (.sw rs2 rs1 i)) 0 2 = 0#2 from (bx_low _ _ 0 2 (by decide)).trans (bx_self _)]; decide
theorem rvc_addi (rd : BitVec 5) (i : BitVec 6) : decodeRvC (encodeRvC (.addi rd i)) = .compressed (.addi rd i) := by
  obtain ⟨h, hh⟩ : ∃ h : BitVec 16, h = 0#3 ++ bx i 5 1 ++ rd ++ bx i 0 5 ++ 1#2 := ⟨_, rfl⟩
  have f0 : bx h 0 2 = 1#2 := hh ▸ (bx_low _ _ 0 2 (by decide)).trans (bx_self _)
  have f1 : bx h 13 3 = 0#3 := hh ▸ (bx_high _ _ 13 3 (by decide)).trans ((bx_high _ _ 11 3 (by decide)).trans ((bx_high _ _ 6 3 (by decide)).trans ((bx_high _ _ 1 3 (by decide)).trans (bx_self _))))
  have f2 : bx h 7 5 = rd := hh ▸ (bx_high _ _ 7 5 (by decide)).trans ((bx_high _ _ 5 5 (by decide)).trans ((bx_low _ _ 0 5 (by decide)).trans (bx_self _)))
  have f3 : bx h 12 1 = bx i 5 1 := hh ▸ (bx_high _ _ 12 1 (by decide)).trans ((bx_high _ _ 10 1 (by decide)).trans ((bx_high _ _ 5 1 (by decide)).trans ((bx_low _ _ 0 1 (by decide)).trans (bx_self _))))
  have f4 : bx h 2 5 = bx i 0 5 := hh ▸ (bx_high _ _ 2 5 (by decide)).trans ((bx_low _ _ 0 5 (by decide)).trans (bx_self _))
  have e : encodeRvC (.addi rd i) = h := hh ▸ rfl
  rw [e]
  simp [decodeRvC, f0, f1, f2, f3, f4, bx_join i 0 1 5 5 rfl]
theorem low_addi (rd : BitVec 5) (i : BitVec 6) : bx (encodeRvC (.addi rd i)) 0 2 ≠ 3#2 := by
  rw [show bx (encodeRvC (.addi rd i)) 0 2 = 1#2 from (bx_low _ _ 0 2 (by decide)).trans (bx_self _)]; decide
theorem rvc_li (rd : BitVec 5) (i : BitVec 6) : decodeRvC (encodeRvC (.li rd i)) = .compressed (.li rd i) := by
  obtain ⟨h, hh⟩ : ∃ h : BitVec 16, h = 2#3 ++ bx i 5 1 ++ rd ++ bx i 0 5 ++ 1#2 := ⟨_, rfl⟩
  have f0 : bx h 0 2 = 1#2 := hh ▸ (bx_low _ _ 0 2 (by decide)).trans (bx_self _)
  have f1 : bx h 13 3 = 2#3 := hh ▸ (bx_high _ _ 13 3 (by decide)).trans ((bx_high _ _ 11 3 (by decide)).trans ((bx_high _ _ 6 3 (by decide)).trans ((bx_high _ _ 1 3 (by decide)).trans (bx_self _))))
  have f2 : bx h 7 5 = rd := hh ▸ (bx_high _ _ 7 5 (by decide)).trans ((bx_high _ _ 5 5 (by decide)).trans ((bx_low _ _ 0 5 (by decide)).trans (bx_self _)))
  have f3 : bx h 12 1 = bx i 5 1 := hh ▸ (bx_high _ _ 12 1 (by decide)).trans ((bx_high _ _ 10 1 (by decide)).trans ((bx_high _ _ 5 1 (by decide)).trans ((bx_low _ _ 0 1 (by decide)).trans (bx_self _))))
  have f4 : bx h 2 5 = bx i 0 5 := hh ▸ (bx_high _ _ 2 5 (by decide)).trans ((bx_low _ _ 0 5 (by decide)).trans (bx_self _))
  have e : encodeRvC (.li rd i) = h := hh ▸ rfl
  rw [e]
  simp [decodeRvC, f0, f1, f2, f3, f4, bx_join i 0 1 5 5 rfl]
theorem low_li (rd : BitVec 5) (i : BitVec 6) : bx (encodeRvC (.li rd i)) 0 2 ≠ 3#2 := by
  rw [show bx (encodeRvC (.li rd i)) 0 2 = 1#2 from (bx_low _ _ 0 2 (by decide)).trans (bx_self _)]; decide
theorem rvc_lui (rd : BitVec 5) (i : BitVec 6) (hr : rd ≠ 2#5) (hi : i ≠ 0#6) : decodeRvC (encodeRvC (.lui rd i)) = .compressed (.lui rd i) := by
  obtain ⟨h, hh⟩ : ∃ h : BitVec 16, h = 3#3 ++ bx i 5 1 ++ rd ++ bx i 0 5 ++ 1#2 := ⟨_, rfl⟩
  have f0 : bx h 0 2 = 1#2 := hh ▸ (bx_low _ _ 0 2 (by decide)).trans (bx_self _)
  have f1 : bx h 13 3 = 3#3 := hh ▸ (bx_high _ _ 13 3 (by decide)).trans ((bx_high _ _ 11 3 (by decide)).trans ((bx_high _ _ 6 3 (by decide)).trans ((bx_high _ _ 1 3 (by decide)).trans (bx_self _))))
  have f2 : bx h 7 5 = rd := hh ▸ (bx_high _ _ 7 5 (by decide)).trans ((bx_high _ _ 5 5 (by decide)).trans ((bx_low _ _ 0 5 (by decide)).trans (bx_self _)))
  have f3 : bx h 12 1 = bx i 5 1 := hh ▸ (bx_high _ _ 12 1 (by decide)).trans ((bx_high _ _ 10 1 (by decide)).trans ((bx_high _ _ 5 1 (by decide)).trans ((bx_low _ _ 0 1 (by decide)).trans (bx_self _))))
  have f4 : bx h 2 5 = bx i 0 5 := hh ▸ (bx_high _ _ 2 5 (by decide)).trans ((bx_low _ _ 0 5 (by decide)).trans (bx_self _))
  have e : encodeRvC (.lui rd i) = h := hh ▸ rfl
  rw [e]
  simp [decodeRvC, f0, f1, f2, f3, f4, bx_join i 0 1 5 5 rfl, hr, hi]
theorem low_lui (rd : BitVec 5) (i : BitVec 6) : bx (encodeRvC (.lui rd i)) 0 2 ≠ 3#2 := by
  rw [show bx (encodeRvC (.lui rd i)) 0 2 = 1#2 from (bx_low _ _ 0 2 (by decide)).trans (bx_self _)]; decide
theorem rvc_jal (i : BitVec 11) : decodeRvC (encodeRvC (.jal i)) = .compressed (.jal i) := by
  obtain ⟨h, hh⟩ : ∃ h : BitVec 16, h = 1#3 ++ bx i 10 1 ++ bx i 3 1 ++ bx i 7 2 ++ bx i 9 1 ++ bx i 5 1 ++ bx i 6 1 ++ bx i 0 3 ++ bx i 4 1 ++ 1#2 := ⟨_, rfl⟩
  have f0 : bx h 0 2 = 1#2 := hh ▸ (bx_low _ _ 0 2 (by decide)).trans (bx_self _)
  have f1 : bx h 13 3 = 1#3 := hh ▸ (bx_high _ _ 13 3 (by decide)).trans ((bx_high _ _ 11 3 (by decide)).trans ((bx_high _ _ 10 3 (by decide)).trans ((bx_high _ _ 7 3 (by decide)).trans ((bx_high _ _ 6 3 (by decide)).trans ((bx_high _ _ 5 3 (by decide)).trans ((bx_high _ _ 4 3 (by decide)).trans ((bx_high _ _ 2 3 (by decide)).trans ((bx_high _ _ 1 3 (by decide)).trans (bx_self _)))))))))
  have f2 : bx h 12 1 = bx i 10 1 := hh ▸ (bx_high _ _ 12 1 (by decide)).trans ((bx_high _ _ 10 1 (by decide)).trans ((bx_high _ _ 9 1 (by decide)).trans ((bx_high _ _ 6 1 (by decide)).trans ((bx_high _ _ 5 1 (by decide)).trans ((bx_high _ _ 4 1 (by decide)).trans ((bx_high _ _ 3 1 (by decide)).trans ((bx_high _ _ 1 1 (by decide)).trans ((bx_low _ _ 0 1 (by decide)).trans (bx_self _)))))))))
  have f3 : bx h 8 1 = bx i 9 1 := hh ▸ (bx_high _ _ 8 1 (by decide)).trans ((bx_high _ _ 6 1 (by decide)).trans ((bx_high _ _ 5 1 (by decide)).trans ((bx_high _ _ 2 1 (by decide)).trans ((bx_high _ _ 1 1 (by decide)).trans ((bx_low _ _ 0 1 (by decide)).trans (bx_self _))))))
  have f4 : bx h 9 2 = bx i 7 2 := hh ▸ (bx_high _ _ 9 2 (by decide)).trans ((bx_high _ _ 7 2 (by decide)).trans ((bx_high _ _ 6 2 (by decide)).trans ((bx_high _ _ 3 2 (by decide)).trans ((bx_high _ _ 2 2 (by decide)).trans ((bx_high _ _ 1 2 (by decide)).trans ((bx_low _ _ 0 2 (by decide)).trans (bx_self _)))))))
  have f5 : bx h 6 1 = bx i 6 1 := hh ▸ (bx_high _ _ 6 1 (by decide)).trans ((bx_high _ _ 4 1 (by decide)).trans ((bx_high _ _ 3 1 (by decide)).trans ((bx_low _ _ 0 1 (by decide)).trans (bx_self _))))
  have f6 : bx h 7 1 = bx i 5 1 := hh ▸ (bx_high _ _ 7 1 (by decide)).trans ((bx_high _ _ 5 1 (by decide)).trans ((bx_high _ _ 4 1 (by decide)).trans ((bx_high _ _ 1 1 (by decide)).trans ((bx_low _ _ 0 1 (by decide)).trans (bx_self _)))))
  have f7 : bx h 2 1 = bx i 4 1 := hh ▸ (bx_high _ _ 2 1 (by decide)).trans ((bx_low _ _ 0 1 (by decide)).trans (bx_self _))
  have f8 : bx h 11 1 = bx i 3 1 := hh ▸ (bx_high _ _ 11 1 (by decide)).trans ((bx_high _ _ 9 1 (by decide)).trans ((bx_high _ _ 8 1 (by decide)).trans ((bx_high _ _ 5 1 (by decide)).trans ((bx_high _ _ 4 1 (by decide)).trans ((bx_high _ _ 3 1 (by decide)).trans ((bx_high _ _ 2 1 (by decide)).trans ((bx_low _ _ 0 1 (by decide)).trans (bx_self _))))))))
  have f9 : bx h 3 3 = bx i 0 3 := hh ▸ (bx_high _ _ 3 3 (by decide)).trans ((bx_high _ _ 1 3 (by decide)).trans ((bx_low _ _ 0 3 (by decide)).trans (bx_self _)))
  have e : encodeRvC (.jal i) = h := hh ▸ rfl
  rw [e]
  simp [decodeRvC, f0, f1, f2, f3, f4, f5, f6, f7, f8, f9, bx_join i 9 1 1 10 rfl, bx_join i 7 2 2 9 rfl, bx_join i 6 4 1 7 rfl, bx_join i 5 5 1 6 rfl, bx_join i 4 6 1 5 rfl, bx_join i 3 7 1 4 rfl, bx_join i 0 8 3 3 rfl]
theorem low_jal (i : BitVec 11) : bx (encodeRvC (.jal i)) 0 2 ≠ 3#2 := by
  rw [show bx (encodeRvC (.jal i)) 0 2 = 1#2 from (bx_low _ _ 0 2 (by decide)).trans (bx_self _)]; decide
theorem rvc_j (i : BitVec 11) : decodeRvC (encodeRvC (.j i)) = .compressed (.j i) := by
  obtain ⟨h, hh⟩ : ∃ h : BitVec 16, h = 5#3 ++ bx i 10 1 ++ bx i 3 1 ++ bx i 7 2 ++ bx i 9 1 ++ bx i 5 1 ++ bx i 6 1 ++ bx i 0 3 ++ bx i 4 1 ++ 1#2 := ⟨_, rfl⟩
  have f0 : bx h 0 2 = 1#2 := hh ▸ (bx_low _ _ 0 2 (by decide)).trans (bx_self _)
  have f1 : bx h 13 3 = 5#3 := hh ▸ (bx_high _ _ 13 3 (by decide)).trans ((bx_high _ _ 11 3 (by decide)).trans ((bx_high _ _ 10 3 (by decide)).trans ((bx_high _ _ 7 3 (by decide)).trans ((bx_high _ _ 6 3 (by decide)).trans ((bx_high _ _ 5 3 (by decide)).trans ((bx_high _ _ 4 3 (by decide)).trans ((bx_high _ _ 2 3 (by decide)).trans ((bx_high _ _ 1 3 (by decide)).trans (bx_self _)))))))))
  have f2 : bx h 12 1 = bx i 10 1 := hh ▸ (bx_high _ _ 12 1 (by decide)).trans ((bx_high _ _ 10 1 (by decide)).trans ((bx_high _ _ 9 1 (by decide)).trans ((bx_high _ _ 6 1 (by decide)).trans ((bx_high _ _ 5 1 (by decide)).trans ((bx_high _ _ 4 1 (by decide)).trans ((bx_high _ _ 3 1 (by decide)).trans ((bx_high _ _ 1 1 (by decide)).trans ((bx_low _ _ 0 1 (by decide)).trans (bx_self _)))))))))
  have f3 : bx h 8 1 = bx i 9 1 := hh ▸ (bx_high _ _ 8 1 (by decide)).trans ((bx_high _ _ 6 1 (by decide)).trans ((bx_high _ _ 5 1 (by decide)).trans ((bx_high _ _ 2 1 (by decide)).trans ((bx_high _ _ 1 1 (by decide)).trans ((bx_low _ _ 0 1 (by decide)).trans (bx_self _))))))
  have f4 : bx h 9 2 = bx i 7 2 := hh ▸ (bx_high _ _ 9 2 (by decide)).trans ((bx_high _ _ 7 2 (by decide)).trans ((bx_high _ _ 6 2 (by decide)).trans ((bx_high _ _ 3 2 (by decide)).trans ((bx_high _ _ 2 2 (by decide)).trans ((bx_high _ _ 1 2 (by decide)).trans ((bx_low _ _ 0 2 (by decide)).trans (bx_self _)))))))
  have f5 : bx h 6 1 = bx i 6 1 := hh ▸ (bx_high _ _ 6 1 (by decide)).trans ((bx_high _ _ 4 1 (by decide)).trans ((bx_high _ _ 3 1 (by decide)).trans ((bx_low _ _ 0 1 (by decide)).trans (bx_self _))))
  have f6 : bx h 7 1 = bx i 5 1 := hh ▸ (bx_high _ _ 7 1 (by decide)).trans ((bx_high _ _ 5 1 (by decide)).trans ((bx_high _ _ 4 1 (by decide)).trans ((bx_high _ _ 1 1 (by decide)).trans ((bx_low _ _ 0 1 (by decide)).trans (bx_self _)))))
  have f7 : bx h 2 1 = bx i 4 1 := hh ▸ (bx_high _ _ 2 1 (by decide)).trans ((bx_low _ _ 0 1 (by decide)).trans (bx_self _))
  have f8 : bx h 11 1 = bx i 3 1 := hh ▸ (bx_high _ _ 11 1 (by decide)).trans ((bx_high _ _ 9 1 (by decide)).trans ((bx_high _ _ 8 1 (by decide)).trans ((bx_high _ _ 5 1 (by decide)).trans ((bx_high _ _ 4 1 (by decide)).trans ((bx_high _ _ 3 1 (by decide)).trans ((bx_high _ _ 2 1 (by decide)).trans ((bx_low _ _ 0 1 (by decide)).trans (bx_self _))))))))
  have f9 : bx h 3 3 = bx i 0 3 := hh ▸ (bx_high _ _ 3 3 (by decide)).trans ((bx_high _ _ 1 3 (by decide)).trans ((bx_low _ _ 0 3 (by decide)).trans (bx_self _)))
  have e : encodeRvC (.j i) = h := hh ▸ rfl
  rw [e]
  simp [decodeRvC, f0, f1, f2, f3, f4, f5, f6, f7, f8, f9, bx_join i 9 1 1 10 rfl, bx_join i 7 2 2 9 rfl, bx_join i 6 4 1 7 rfl, bx_join i 5 5 1 6 rfl, bx_join i 4 6 1 5 rfl, bx_join i 3 7 1 4 rfl, bx_join i 0 8 3 3 rfl]
theorem low_j (i : BitVec 11) : bx (encodeRvC (.j i)) 0 2 ≠ 3#2 := by
  rw [show bx (encodeRvC (.j i)) 0 2 = 1#2 from (bx_low _ _ 0 2 (by decide)).trans (bx_self _)]; decide
theorem rvc_addi16sp (i : BitVec 6) (hi : i ≠ 0#6) : decodeRvC (encodeRvC (.addi16sp i)) = .compressed (.addi16sp i) := by
  obtain ⟨h, hh⟩ : ∃ h : BitVec 16, h = 3#3 ++ bx i 5 1 ++ 2#5 ++ bx i 0 1 ++ bx i 2 1 ++ bx i 3 2 ++ bx i 1 1 ++ 1#2 := ⟨_, rfl⟩
  have f0 : bx h 0 2 = 1#2 := hh ▸ (bx_low _ _ 0 2 (by decide)).trans (bx_self _)
  have f1 : bx h 13 3 = 3#3 := hh ▸ (bx_high _ _ 13 3 (by decide)).trans ((bx_high _ _ 11 3 (by decide)).trans ((bx_high _ _ 10 3 (by decide)).trans ((bx_high _ _ 8 3 (by decide)).trans ((bx_high _ _ 7 3 (by decide)).trans ((bx_high _ _ 6 3 (by decide)).trans ((bx_high _ _ 1 3 (by decide)).trans (bx_self _)))))))
  have f2 : bx h 7 5 = 2#5 := hh ▸ (bx_high _ _ 7 5 (by decide)).trans ((bx_high _ _ 5 5 (by decide)).trans ((bx_high _ _ 4 5 (by decide)).trans ((bx_high _ _ 2 5 (by decide)).trans ((bx_high _ _ 1 5 (by decide)).trans ((bx_low _ _ 0 5 (by decide)).trans (bx_self _))))))
  have f3 : bx h 12 1 = bx i 5 1 := hh ▸ (bx_high _ _ 12 1 (by decide)).trans ((bx_high _ _ 10 1 (by decide)).trans ((bx_high _ _ 9 1 (by decide)).trans ((bx_high _ _ 7 1 (by decide)).trans ((bx_high _ _ 6 1 (by decide)).trans ((bx_high _ _ 5 1 (by decide)).trans ((bx_low _ _ 0 1 (by decide)).trans (bx_self _)))))))
  have f4 : bx h 3 2 = bx i 3 2 := hh ▸ (bx_high _ _ 3 2 (by decide)).trans ((bx_high _ _ 1 2 (by decide)).trans ((bx_low _ _ 0 2 (by decide)).trans (bx_self _)))
  have f5 : bx h 5 1 = bx i 2 1 := hh ▸ (bx_high _ _ 5 1 (by decide)).trans ((bx_high _ _ 3 1 (by decide)).trans ((bx_high _ _ 2 1 (by decide)).trans ((bx_low _ _ 0 1 (by decide)).trans (bx_self _))))
  have f6 : bx h 2 1 = bx i 1 1 := hh ▸ (bx_high _ _ 2 1 (by decide)).trans ((bx_low _ _ 0 1 (by decide)).trans (bx_self _))
  have f7 : bx h 6 1 = bx i 0 1 := hh ▸ (bx_high _ _ 6 1 (by decide)).trans ((bx_high _ _ 4 1 (by decide)).trans ((bx_high _ _ 3 1 (by decide)).trans ((bx_high _ _ 1 1 (by decide)).trans ((bx_low _ _ 0 1 (by decide)).trans (bx_self _)))))
  have e : encodeRvC (.addi16sp i) = h := hh ▸ rfl
  rw [e]
  simp [decodeRvC, f0, f1, f2, f3, f4, f5, f6, f7, bx_join i 3 1 2 5 rfl, bx_join i 2 3 1 3 rfl, bx_join i 1 4 1 2 rfl, bx_join i 0 5 1 1 rfl, hi]
theorem low_addi16sp (i : BitVec 6) : bx (encodeRvC (.addi16sp i)) 0 2 ≠ 3#2 := by
  rw [show bx (encodeRvC (.addi16sp i)) 0 2 = 1#2 from (bx_low _ _ 0 2 (by decide)).trans (bx_self _)]; decide
theorem rvc_srli (rd : BitVec 3) (s : BitVec 5) : decodeRvC (encodeRvC (.srli rd s)) = .compressed (.srli rd s) := by
  obtain ⟨h, hh⟩ : ∃ h : BitVec 16, h = 4#3 ++ 0#1 ++ 0#2 ++ rd ++ s ++ 1#2 := ⟨_, rfl⟩
  have f0 : bx h 0 2 = 1#2 := hh ▸ (bx_low _ _ 0 2 (by decide)).trans (bx_self _)
  have f1 : bx h 13 3 = 4#3 := hh ▸ (bx_high _ _ 13 3 (by decide)).trans ((bx_high _ _ 11 3 (by decide)).trans ((bx_high _ _ 6 3 (by decide)).trans ((bx_high _ _ 3 3 (by decide)).trans ((bx_high _ _ 1 3 (by decide)).trans (bx_self _)))))
  have f2 : bx h 10 2 = 0#2 := hh ▸ (bx_high _ _ 10 2 (by decide)).trans ((bx_high _ _ 8 2 (by decide)).trans ((bx_high _ _ 3 2 (by decide)).trans ((bx_low _ _ 0 2 (by decide)).trans (bx_self _))))
  have f3 : bx h 7 3 = rd := hh ▸ (bx_high _ _ 7 3 (by decide)).trans ((bx_high _ _ 5 3 (by decide)).trans ((bx_low _ _ 0 3 (by decide)).trans (bx_self _)))
  have f4 : bx h 2 5 = s := hh ▸ (bx_high _ _ 2 5 (by decide)).trans ((bx_low _ _ 0 5 (by decide)).trans (bx_self _))
  have f5 : bx h 12 1 = 0#1 := hh ▸ (bx_high _ _ 12 1 (by decide)).trans ((bx_high _ _ 10 1 (by decide)).trans ((bx_high _ _ 5 1 (by decide)).trans ((bx_high _ _ 2 1 (by decide)).trans ((bx_low _ _ 0 1 (by decide)).trans (bx_self _)))))
  have e : encodeRvC (.srli rd s) = h := hh ▸ rfl
  rw [e]
  simp [decodeRvC, f0, f1, f2, f3, f4, bit_of_bx (b := false) (by decide) f5]
theorem low_srli (rd : BitVec 3) (s : BitVec 5) : bx (encodeRvC (.srli rd s)) 0 2 ≠ 3#2 := by
  rw [show bx (encodeRvC (.srli rd s)) 0 2 = 1#2 from (bx_low _ _ 0 2 (by decide)).trans (bx_self _)]; decide
theorem rvc_srai (rd : BitVec 3) (s : BitVec 5) : decodeRvC (encodeRvC (.srai rd s)) = .compressed (.srai rd s) := by
  obtain ⟨h, hh⟩ : ∃ h : BitVec 16, h = 4#3 ++ 0#1 ++ 1#2 ++ rd ++ s ++ 1#2 := ⟨_, rfl⟩
  have f0 : bx h 0 2 = 1#2 := hh ▸ (bx_low _ _ 0 2 (by decide)).trans (bx_self _)
  have f1 : bx h 13 3 = 4#3 := hh ▸ (bx_high _ _ 13 3 (by decide)).trans ((bx_high _ _ 11 3 (by decide)).trans ((bx_high _ _ 6 3 (by decide)).trans ((bx_high _ _ 3 3 (by decide)).trans ((bx_high _ _ 1 3 (by decide)).trans (bx_self _)))))
  have f2 : bx h 10 2 = 1#2 := hh ▸ (bx_high _ _ 10 2 (by decide)).trans ((bx_high _ _ 8 2 (by decide)).trans ((bx_high _ _ 3 2 (by decide)).trans ((bx_low _ _ 0 2 (by decide)).trans (bx_self _))))
  have f3 : bx h 7 3 = rd := hh ▸ (bx_high _ _ 7 3 (by decide)).trans ((bx_high _ _ 5 3 (by decide)).trans ((bx_low _ _ 0 3 (by decide)).trans (bx_self _)))
  have f4 : bx h 2 5 = s := hh ▸ (bx_high _ _ 2 5 (by decide)).trans ((bx_low _ _ 0 5 (by decide)).trans (bx_self _))
  have f5 : bx h 12 1 = 0#1 := hh ▸ (bx_high _ _ 12 1 (by decide)).trans ((bx_high _ _ 10 1 (by decide)).trans ((bx_high _ _ 5 1 (by decide)).trans ((bx_high _ _ 2 1 (by decide)).trans ((bx_low _ _ 0 1 (by decide)).trans (bx_self _)))))
  have e : encodeRvC (.srai rd s) = h := hh ▸ rfl
  rw [e]
  simp [decodeRvC, f0, f1, f2, f3, f4, bit_of_bx (b := false) (by decide) f5]
theorem low_srai (rd : BitVec 3) (s : BitVec 5) : bx (encodeRvC (.srai rd s)) 0 2 ≠ 3#2 := by
  rw [show bx (encodeRvC (.srai rd s)) 0 2 = 1#2 from (bx_low _ _ 0 2 (by decide)).trans (bx_self _)]; decide
theorem rvc_andi (rd : BitVec 3) (i : BitVec 6) : decodeRvC (encodeRvC (.andi rd i)) = .compressed (.andi rd i) := by
  obtain ⟨h, hh⟩ : ∃ h : BitVec 16, h = 4#3 ++ bx i 5 1 ++ 2#2 ++ rd ++ bx i 0 5 ++ 1#2 := ⟨_, rfl⟩
  have f0 : bx h 0 2 = 1#2 := hh ▸ (bx_low _ _ 0 2 (by decide)).trans (bx_self _)
  have f1 : bx h 13 3 = 4#3 := hh ▸ (bx_high _ _ 13 3 (by decide)).trans ((bx_high _ _ 11 3 (by decide)).trans ((bx_high _ _ 6 3 (by decide)).trans ((bx_high _ _ 3 3 (by decide)).trans ((bx_high _ _ 1 3 (by decide)).trans (bx_self _)))))
  have f2 : bx h 10 2 = 2#2 := hh ▸ (bx_high _ _ 10 2 (by decide)).trans ((bx_high _ _ 8 2 (by decide)).trans ((bx_high _ _ 3 2 (by decide)).trans ((bx_low _ _ 0 2 (by decide)).trans (bx_self _))))
  have f3 : bx h 7 3 = rd := hh ▸ (bx_high _ _ 7 3 (by decide)).trans ((bx_high _ _ 5 3 (by decide)).trans ((bx_low _ _ 0 3 (by decide)).trans (bx_self _)))
  have f4 : bx h 12 1 = bx i 5 1 := hh ▸ (bx_high _ _ 12 1 (by decide)).trans ((bx_high _ _ 10 1 (by decide)).trans ((bx_high _ _ 5 1 (by decide)).trans ((bx_high _ _ 2 1 (by decide)).trans ((bx_low _ _ 0 1 (by decide)).trans (bx_self _)))))
  have f5 : bx h 2 5 = bx i 0 5 := hh ▸ (bx_high _ _ 2 5 (by decide)).trans ((bx_low _ _ 0 5 (by decide)).trans (bx_self _))
  have e : encodeRvC (.andi rd i) = h := hh ▸ rfl
  rw [e]
  simp [decodeRvC, f0, f1, f2, f3, f4, f5, bx_join i 0 1 5 5 rfl]
theorem low_andi (rd : BitVec 3) (i : BitVec 6) : bx (encodeRvC (.andi rd i)) 0 2 ≠ 3#2 := by
  rw [show bx (encodeRvC (.andi rd i)) 0 2 = 1#2 from (bx_low _ _ 0 2 (by decide)).trans (bx_self _)]; decide
theorem rvc_alu (op : BitVec 2) (rd : BitVec 3) (rs2 : BitVec 3) : decodeRvC (encodeRvC (.alu op rd rs2)) = .compressed (.alu op rd rs2) := by
  obtain ⟨h, hh⟩ : ∃ h : BitVec 16, h = 4#3 ++ 0#1 ++ 3#2 ++ rd ++ op ++ rs2 ++ 1#2 := ⟨_, rfl⟩
  have f0 : bx h 0 2 = 1#2 := hh ▸ (bx_low _ _ 0 2 (by decide)).trans (bx_self _)
  have f1 : bx h 13 3 = 4#3 := hh ▸ (bx_high _ _ 13 3 (by decide)).trans ((bx_high _ _ 11 3 (by decide)).trans ((bx_high _ _ 8 3 (by decide)).trans ((bx_high _ _ 6 3 (by decide)).trans ((bx_high _ _ 3 3 (by decide)).trans ((bx_high _ _ 1 3 (by decide)).trans (bx_self _))))))
  have f2 : bx h 10 2 = 3#2 := hh ▸ (bx_high _ _ 10 2 (by decide)).trans ((bx_high _ _ 8 2 (by decide)).trans ((bx_high _ _ 5 2 (by decide)).trans ((bx_high _ _ 3 2 (by decide)).trans ((bx_low _ _ 0 2 (by decide)).trans (bx_self _)))))
  have f3 : bx h 12 1 = 0#1 := hh ▸ (bx_high _ _ 12 1 (by decide)).trans ((bx_high _ _ 10 1 (by decide)).trans ((bx_high _ _ 7 1 (by decide)).trans ((bx_high _ _ 5 1 (by decide)).trans ((bx_high _ _ 2 1 (by decide)).trans ((bx_low _ _ 0 1 (by decide)).trans (bx_self _))))))
  have f4 : bx h 5 2 = op := hh ▸ (bx_high _ _ 5 2 (by decide)).trans ((bx_high _ _ 3 2 (by decide)).trans ((bx_low _ _ 0 2 (by decide)).trans (bx_self _)))
  have f5 : bx h 7 3 = rd := hh ▸ (bx_high _ _ 7 3 (by decide)).trans ((bx_high _ _ 5 3 (by decide)).trans ((bx_high _ _ 2 3 (by decide)).trans ((bx_low _ _ 0 3 (by decide)).trans (bx_self _))))
  have f6 : bx h 2 3 = rs2 := hh ▸ (bx_high _ _ 2 3 (by decide)).trans ((bx_low _ _ 0 3 (by decide)).trans (bx_self _))
  have e : encodeRvC (.alu op rd rs2) = h := hh ▸ rfl
  rw [e]
  simp [decodeRvC, f0, f1, f2, f4, f5, f6, bit_of_bx (b := false) (by decide) f3]
theorem low_alu (op : BitVec 2) (rd : BitVec 3) (rs2 : BitVec 3) : bx (encodeRvC (.alu op rd rs2)) 0 2 ≠ 3#2 := by
  rw [show bx (encodeRvC (.alu op rd rs2)) 0 2 = 1#2 from (bx_low _ _ 0 2 (by decide)).trans (bx_self _)]; decide
theorem rvc_beqz (rs1 : BitVec 3) (i : BitVec 8) : decodeRvC (encodeRvC (.beqz rs1 i)) = .compressed (.beqz rs1 i) := by
  obtain ⟨h, hh⟩ : ∃ h : BitVec 16, h = 6#3 ++ bx i 7 1 ++ bx i 2 2 ++ rs1 ++ bx i 5 2 ++ bx i 0 2 ++ bx i 4 1 ++ 1#2 := ⟨_, rfl⟩
  have f0 : bx h 0 2 = 1#2 := hh ▸ (bx_low _ _ 0 2 (by decide)).trans (bx_self _)
  have f1 : bx h 13 3 = 6#3 := hh ▸ (bx_high _ _ 13 3 (by decide)).trans ((bx_high _ _ 11 3 (by decide)).trans ((bx_high _ _ 10 3 (by decide)).trans ((bx_high _ _ 8 3 (by decide)).trans ((bx_high _ _ 6 3 (by decide)).trans ((bx_high _ _ 3 3 (by decide)).trans ((bx_high _ _ 1 3 (by decide)).trans (bx_self _)))))))
  have f2 : bx h 7 3 = rs1 := hh ▸ (bx_high _ _ 7 3 (by decide)).trans ((bx_high _ _ 5 3 (by decide)).trans ((bx_high _ _ 4 3 (by decide)).trans ((bx_high _ _ 2 3 (by decide)).trans ((bx_low _ _ 0 3 (by decide)).trans (bx_self _)))))
  have f3 : bx h 12 1 = bx i 7 1 := hh ▸ (bx_high _ _ 12 1 (by decide)).trans ((bx_high _ _ 10 1 (by decide)).trans ((bx_high _ _ 9 1 (by decide)).trans ((bx_high _ _ 7 1 (by decide)).trans ((bx_high _ _ 5 1 (by decide)).trans ((bx_high _ _ 2 1 (by decide)).trans ((bx_low _ _ 0 1 (by decide)).trans (bx_self _)))))))
  have f4 : bx h 5 2 = bx i 5 2 := hh ▸ (bx_high _ _ 5 2 (by decide)).trans ((bx_high _ _ 3 2 (by decide)).trans ((bx_high _ _ 2 2 (by decide)).trans ((bx_low _ _ 0 2 (by decide)).trans (bx_self _))))
  have f5 : bx h 2 1 = bx i 4 1 := hh ▸ (bx_high _ _ 2 1 (by decide)).trans ((bx_low _ _ 0 1 (by decide)).trans (bx_self _))
  have f6 : bx h 10 2 = bx i 2 2 := hh ▸ (bx_high _ _ 10 2 (by decide)).trans ((bx_high _ _ 8 2 (by decide)).trans ((bx_high _ _ 7 2 (by decide)).trans ((bx_high _ _ 5 2 (by decide)).trans ((bx_high _ _ 3 2 (by decide)).trans ((bx_low _ _ 0 2 (by decide)).trans (bx_self _))))))
  have f7 : bx h 3 2 = bx i 0 2 := hh ▸ (bx_high _ _ 3 2 (by decide)).trans ((bx_high _ _ 1 2 (by decide)).trans ((bx_low _ _ 0 2 (by decide)).trans (bx_self _)))
  have e : encodeRvC (.beqz rs1 i) = h := hh ▸ rfl
  rw [e]
  simp [decodeRvC, f0, f1, f2, f3, f4, f5, f6, f7, bx_join i 5 1 2 7 rfl, bx_join i 4 3 1 5 rfl, bx_join i 2 4 2 4 rfl, bx_join i 0 6 2 2 rfl]
theorem low_beqz (rs1 : BitVec 3) (i : BitVec 8) : bx (encodeRvC (.beqz rs1 i)) 0 2 ≠ 3#2 := by
  rw [show bx (encodeRvC (.beqz rs1 i)) 0 2 = 1#2 from (bx_low _ _ 0 2 (by decide)).trans (bx_self _)]; decide
theorem rvc_bnez (rs1 : BitVec 3) (i : BitVec 8) : decodeRvC (encodeRvC (.bnez rs1 i)) = .compressed (.bnez rs1 i) := by
  obtain ⟨h, hh⟩ : ∃ h : BitVec 16, h = 7#3 ++ bx i 7 1 ++ bx i 2 2 ++ rs1 ++ bx i 5 2 ++ bx i 0 2 ++ bx i 4 1 ++ 1#2 := ⟨_, rfl⟩
  have f0 : bx h 0 2 = 1#2 := hh ▸ (bx_low _ _ 0 2 (by decide)).trans (bx_self _)
  have f1 : bx h 13 3 = 7#3 := hh ▸ (bx_high _ _ 13 3 (by decide)).trans ((bx_high _ _ 11 3 (by decide)).trans ((bx_high _ _ 10 3 (by decide)).trans ((bx_high _ _ 8 3 (by decide)).trans ((bx_high _ _ 6 3 (by decide)).trans ((bx_high _ _ 3 3 (by decide)).trans ((bx_high _ _ 1 3 (by decide)).trans (bx_self _)))))))
  have f2 : bx h 7 3 = rs1 := hh ▸ (bx_high _ _ 7 3 (by decide)).trans ((bx_high _ _ 5 3 (by decide)).trans ((bx_high _ _ 4 3 (by decide)).trans ((bx_high _ _ 2 3 (by decide)).trans ((bx_low _ _ 0 3 (by decide)).trans (bx_self _)))))
  have f3 : bx h 12 1 = bx i 7 1 := hh ▸ (bx_high _ _ 12 1 (by decide)).trans ((bx_high _ _ 10 1 (by decide)).trans ((bx_high _ _ 9 1 (by decide)).trans ((bx_high _ _ 7 1 (by decide)).trans ((bx_high _ _ 5 1 (by decide)).trans ((bx_high _ _ 2 1 (by decide)).trans ((bx_low _ _ 0 1 (by decide)).trans (bx_self _)))))))
  have f4 : bx h 5 2 = bx i 5 2 := hh ▸ (bx_high _ _ 5 2 (by decide)).trans ((bx_high _ _ 3 2 (by decide)).trans ((bx_high _ _ 2 2 (by decide)).trans ((bx_low _ _ 0 2 (by decide)).trans (bx_self _))))
  have f5 : bx h 2 1 = bx i 4 1 := hh ▸ (bx_high _ _ 2 1 (by decide)).trans ((bx_low _ _ 0 1 (by decide)).trans (bx_self _))
  have f6 : bx h 10 2 = bx i 2 2 := hh ▸ (bx_high _ _ 10 2 (by decide)).trans ((bx_high _ _ 8 2 (by decide)).trans ((bx_high _ _ 7 2 (by decide)).trans ((bx_high _ _ 5 2 (by decide)).trans ((bx_high _ _ 3 2 (by decide)).trans ((bx_low _ _ 0 2 (by decide)).trans (bx_self _))))))
  have f7 : bx h 3 2 = bx i 0 2 := hh ▸ (bx_high _ _ 3 2 (by decide)).trans ((bx_high _ _ 1 2 (by decide)).trans ((bx_low _ _ 0 2 (by decide)).trans (bx_self _)))
  have e : encodeRvC (.bnez rs1 i) = h := hh ▸ rfl
  rw [e]
  simp [decodeRvC, f0, f1, f2, f3, f4, f5, f6, f7, bx_join i 5 1 2 7 rfl, bx_join i 4 3 1 5 rfl, bx_join i 2 4 2 4 rfl, bx_join i 0 6 2 2 rfl]
theorem low_bnez (rs1 : BitVec 3) (i : BitVec 8) : bx (encodeRvC (.bnez rs1 i)) 0 2 ≠ 3#2 := by
  rw [show bx (encodeRvC (.bnez rs1 i)) 0 2 = 1#2 from (bx_low _ _ 0 2 (by decide)).trans (bx_self _)]; decide
theorem rvc_slli (rd : BitVec 5) (s : BitVec 5) : decodeRvC (encodeRvC (.slli rd s)) = .compressed (.slli rd s) := by
  obtain ⟨h, hh⟩ : ∃ h : BitVec 16, h = 0#3 ++ 0#1 ++ rd ++ s ++ 2#2 := ⟨_, rfl⟩
  have f0 : bx h 0 2 = 2#2 := hh ▸ (bx_low _ _ 0 2 (by decide)).trans (bx_self _)
  have f1 : bx h 13 3 = 0#3 := hh ▸ (bx_high _ _ 13 3 (by decide)).trans ((bx_high _ _ 11 3 (by decide)).trans ((bx_high _ _ 6 3 (by decide)).trans ((bx_high _ _ 1 3 (by decide)).trans (bx_self _))))
  have f2 : bx h 12 1 = 0#1 := hh ▸ (bx_high _ _ 12 1 (by decide)).trans ((bx_high _ _ 10 1 (by decide)).trans ((bx_high _ _ 5 1 (by decide)).trans ((bx_low _ _ 0 1 (by decide)).trans (bx_self _))))
  have f3 : bx h 7 5 = rd := hh ▸ (bx_high _ _ 7 5 (by decide)).trans ((bx_high _ _ 5 5 (by decide)).trans ((bx_low _ _ 0 5 (by decide)).trans (bx_self _)))
  have f4 : bx h 2 5 = s := hh ▸ (bx_high _ _ 2 5 (by decide)).trans ((bx_low _ _ 0 5 (by decide)).trans (bx_self _))
  have e : encodeRvC (.slli rd s) = h := hh ▸ rfl
  rw [e]
  simp [decodeRvC, f0, f1, f3, f4, bit_of_bx (b := false) (by decide) f2]
theorem low_slli (rd : BitVec 5) (s : BitVec 5) : bx (encodeRvC (.slli rd s)) 0 2 ≠ 3#2 := by
  rw [show bx (encodeRvC (.slli rd s)) 0 2 = 2#2 from (bx_low _ _ 0 2 (by decide)).trans (bx_self _)]; decide
theorem rvc_lwsp (rd : BitVec 5) (i : BitVec 6) (hr : rd ≠ 0#5) : decodeRvC (encodeRvC (.lwsp rd i)) = .compressed (.lwsp rd i) := by
  obtain ⟨h, hh⟩ : ∃ h : BitVec 16, h = 2#3 ++ bx i 3 1 ++ rd ++ bx i 0 3 ++ bx i 4 2 ++ 2#2 := ⟨_, rfl⟩
  have f0 : bx h 0 2 = 2#2 := hh ▸ (bx_low _ _ 0 2 (by decide)).trans (bx_self _)
  have f1 : bx h 13 3 = 2#3 := hh ▸ (bx_high _ _ 13 3 (by decide)).trans ((bx_high _ _ 11 3 (by decide)).trans ((bx_high _ _ 9 3 (by decide)).trans ((bx_high _ _ 6 3 (by decide)).trans ((bx_high _ _ 1 3 (by decide)).trans (bx_self _)))))
  have f2 : bx h 7 5 = rd := hh ▸ (bx_high _ _ 7 5 (by decide)).trans ((bx_high _ _ 5 5 (by decide)).trans ((bx_high _ _ 3 5 (by decide)).trans ((bx_low _ _ 0 5 (by decide)).trans (bx_self _))))
  have f3 : bx h 2 2 = bx i 4 2 := hh ▸ (bx_high _ _ 2 2 (by decide)).trans ((bx_low _ _ 0 2 (by decide)).trans (bx_self _))
  have f4 : bx h 12 1 = bx i 3 1 := hh ▸ (bx_high _ _ 12 1 (by decide)).trans ((bx_high _ _ 10 1 (by decide)).trans ((bx_high _ _ 8 1 (by decide)).trans ((bx_high _ _ 5 1 (by decide)).trans ((bx_low _ _ 0 1 (by decide)).trans (bx_self _)))))
  have f5 : bx h 4 3 = bx i 0 3 := hh ▸ (bx_high _ _ 4 3 (by decide)).trans ((bx_high _ _ 2 3 (by decide)).trans ((bx_low _ _ 0 3 (by decide)).trans (bx_self _)))
  have e : encodeRvC (.lwsp rd i) = h := hh ▸ rfl
  rw [e]
  simp [decodeRvC, f0, f1, f2, f3, f4, f5, bx_join i 3 2 1 4 rfl, bx_join i 0 3 3 3 rfl, hr]
theorem low_lwsp (rd : BitVec 5) (i : BitVec 6) : bx (encodeRvC (.lwsp rd i)) 0 2 ≠ 3#2 := by
  rw [show bx (encodeRvC (.lwsp rd i)) 0 2 = 2#2 from (bx_low _ _ 0 2 (by decide)).trans (bx_self _)]; decide
theorem rvc_jr (rs1 : BitVec 5) (hr : rs1 ≠ 0#5) : decodeRvC (encodeRvC (.jr rs1)) = .compressed (.jr rs1) := by
  obtain ⟨h, hh⟩ : ∃ h : BitVec 16, h = 4#3 ++ 0#1 ++ rs1 ++ 0#5 ++ 2#2 := ⟨_, rfl⟩
  have f0 : bx h 0 2 = 2#2 := hh ▸ (bx_low _ _ 0 2 (by decide)).trans (bx_self _)
  have f1 : bx h 13 3 = 4#3 := hh ▸ (bx_high _ _ 13 3 (by decide)).trans ((bx_high _ _ 11 3 (by decide)).trans ((bx_high _ _ 6 3 (by decide)).trans ((bx_high _ _ 1 3 (by decide)).trans (bx_self _))))
  have f2 : bx h 12 1 = 0#1 := hh ▸ (bx_high _ _ 12 1 (by decide)).trans ((bx_high _ _ 10 1 (by decide)).trans ((bx_high _ _ 5 1 (by decide)).trans ((bx_low _ _ 0 1 (by decide)).trans (bx_self _))))
  have f3 : bx h 7 5 = rs1 := hh ▸ (bx_high _ _ 7 5 (by decide)).trans ((bx_high _ _ 5 5 (by decide)).trans ((bx_low _ _ 0 5 (by decide)).trans (bx_self _)))
  have f4 : bx h 2 5 = 0#5 := hh ▸ (bx_high _ _ 2 5 (by decide)).trans ((bx_low _ _ 0 5 (by decide)).trans (bx_self _))
  have e : encodeRvC (.jr rs1) = h := hh ▸ rfl
  rw [e]
  simp [decodeRvC, f0, f1, f3, f4, bit_of_bx (b := false) (by decide) f2, hr]
theorem low_jr (rs1 : BitVec 5) : bx (encodeRvC (.jr rs1)) 0 2 ≠ 3#2 := by
  rw [show bx (encodeRvC (.jr rs1)) 0 2 = 2#2 from (bx_low _ _ 0 2 (by decide)).trans (bx_self _)]; decide
theorem rvc_mv (rd : BitVec 5) (rs2 : BitVec 5) (hr : rs2 ≠ 0#5) : decodeRvC (encodeRvC (.mv rd rs2)) = .compressed (.mv rd rs2) := by
  obtain ⟨h, hh⟩ : ∃ h : BitVec 16, h = 4#3 ++ 0#1 ++ rd ++ rs2 ++ 2#2 := ⟨_, rfl⟩
  have f0 : bx h 0 2 = 2#2 := hh ▸ (bx_low _ _ 0 2 (by decide)).trans (bx_self _)
  have f1 : bx h 13 3 = 4#3 := hh ▸ (bx_high _ _ 13 3 (by decide)).trans ((bx_high _ _ 11 3 (by decide)).trans ((bx_high _ _ 6 3 (by decide)).trans ((bx_high _ _ 1 3 (by decide)).trans (bx_self _))))
  have f2 : bx h 12 1 = 0#1 := hh ▸ (bx_high _ _ 12 1 (by decide)).trans ((bx_high _ _ 10 1 (by decide)).trans ((bx_high _ _ 5 1 (by decide)).trans ((bx_low _ _ 0 1 (by decide)).trans (bx_self _))))
  have f3 : bx h 7 5 = rd := hh ▸ (bx_high _ _ 7 5 (by decide)).trans ((bx_high _ _ 5 5 (by decide)).trans ((bx_low _ _ 0 5 (by decide)).trans (bx_self _)))
  have f4 : bx h 2 5 = rs2 := hh ▸ (bx_high _ _ 2 5 (by decide)).trans ((bx_low _ _ 0 5 (by decide)).trans (bx_self _))
  have e : encodeRvC (.mv rd rs2) = h := hh ▸ rfl
  rw [e]
  simp [decodeRvC, f0, f1, f3, f4, bit_of_bx (b := false) (by decide) f2, hr]
theorem low_mv (rd : BitVec 5) (rs2 : BitVec 5) : bx (encodeRvC (.mv rd rs2)) 0 2 ≠ 3#2 := by
  rw [show bx (encodeRvC (.mv rd rs2)) 0 2 = 2#2 from (bx_low _ _ 0 2 (by decide)).trans (bx_self _)]; decide
theorem rvc_ebreak : decodeRvC (encodeRvC .ebreak) = .compressed .ebreak := by decide
theorem low_ebreak : bx (encodeRvC .ebreak) 0 2 ≠ 3#2 := by decide
theorem rvc_jalr (rs1 : BitVec 5) (hr : rs1 ≠ 0#5) : decodeRvC (encodeRvC (.jalr rs1)) = .compressed (.jalr rs1) := by
  obtain ⟨h, hh⟩ : ∃ h : BitVec 16, h = 4#3 ++ 1#1 ++ rs1 ++ 0#5 ++ 2#2 := ⟨_, rfl⟩
  have f0 : bx h 0 2 = 2#2 := hh ▸ (bx_low _ _ 0 2 (by decide)).trans (bx_self _)
  have f1 : bx h 13 3 = 4#3 := hh ▸ (bx_high _ _ 13 3 (by decide)).trans ((bx_high _ _ 11 3 (by decide)).trans ((bx_high _ _ 6 3 (by decide)).trans ((bx_high _ _ 1 3 (by decide)).trans (bx_self _))))
  have f2 : bx h 12 1 = 1#1 := hh ▸ (bx_high _ _ 12 1 (by decide)).trans ((bx_high _ _ 10 1 (by decide)).trans ((bx_high _ _ 5 1 (by decide)).trans ((bx_low _ _ 0 1 (by decide)).trans (bx_self _))))
  have f3 : bx h 7 5 = rs1 := hh ▸ (bx_high _ _ 7 5 (by decide)).trans ((bx_high _ _ 5 5 (by decide)).trans ((bx_low _ _ 0 5 (by decide)).trans (bx_self _)))
  have f4 : bx h 2 5 = 0#5 := hh ▸ (bx_high _ _ 2 5 (by decide)).trans ((bx_low _ _ 0 5 (by decide)).trans (bx_self _))
  have e : encodeRvC (.jalr rs1) = h := hh ▸ rfl
  rw [e]
  simp [decodeRvC, f0, f1, f3, f4, bit_of_bx (b := true) (by decide) f2, hr]
theorem low_jalr (rs1 : BitVec 5) : bx (encodeRvC (.jalr rs1)) 0 2 ≠ 3#2 := by
  rw [show bx (encodeRvC (.jalr rs1)) 0 2 = 2#2 from (bx_low _ _ 0 2 (by decide)).trans (bx_self _)]; decide
theorem rvc_add (rd : BitVec 5) (rs2 : BitVec 5) (hr : rs2 ≠ 0#5) : decodeRvC (encodeRvC (.add rd rs2)) = .compressed (.add rd rs2) := by
  obtain ⟨h, hh⟩ : ∃ h : BitVec 16, h = 4#3 ++ 1#1 ++ rd ++ rs2 ++ 2#2 := ⟨_, rfl⟩
  have f0 : bx h 0 2 = 2#2 := hh ▸ (bx_low _ _ 0 2 (by decide)).trans (bx_self _)
  have f1 : bx h 13 3 = 4#3 := hh ▸ (bx_high _ _ 13 3 (by decide)).trans ((bx_high _ _ 11 3 (by decide)).trans ((bx_high _ _ 6 3 (by decide)).trans ((bx_high _ _ 1 3 (by decide)).trans (bx_self _))))
  have f2 : bx h 12 1 = 1#1 := hh ▸ (bx_high _ _ 12 1 (by decide)).trans ((bx_high _ _ 10 1 (by decide)).trans ((bx_high _ _ 5 1 (by decide)).trans ((bx_low _ _ 0 1 (by decide)).trans (bx_self _))))
  have f3 : bx h 7 5 = rd := hh ▸ (bx_high _ _ 7 5 (by decide)).trans ((bx_high _ _ 5 5 (by decide)).trans ((bx_low _ _ 0 5 (by decide)).trans (bx_self _)))
  have f4 : bx h 2 5 = rs2 := hh ▸ (bx_high _ _ 2 5 (by decide)).trans ((bx_low _ _ 0 5 (by decide)).trans (bx_self _))
  have e : encodeRvC (.add rd rs2) = h := hh ▸ rfl
  rw [e]
  simp [decodeRvC, f0, f1, f3, f4, bit_of_bx (b := true) (by decide) f2, hr]
theorem low_add (rd : BitVec 5) (rs2 : BitVec 5) : bx (encodeRvC (.add rd rs2)) 0 2 ≠ 3#2 := by
  rw [show bx (encodeRvC (.add rd rs2)) 0 2 = 2#2 from (bx_low _ _ 0 2 (by decide)).trans (bx_self _)]; decide
theorem rvc_swsp (rs2 : BitVec 5) (i : BitVec 6) : decodeRvC (encodeRvC (.swsp rs2 i)) = .compressed (.swsp rs2 i) := by
  obtain ⟨h, hh⟩ : ∃ h : BitVec 16, h = 6#3 ++ bx i 0 4 ++ bx i 4 2 ++ rs2 ++ 2#2 := ⟨_, rfl⟩
  have f0 : bx h 0 2 = 2#2 := hh ▸ (bx_low _ _ 0 2 (by decide)).trans (bx_self _)
  have f1 : bx h 13 3 = 6#3 := hh ▸ (bx_high _ _ 13 3 (by decide)).trans ((bx_high _ _ 11 3 (by decide)).trans ((bx_high _ _ 6 3 (by decide)).trans ((bx_high _ _ 4 3 (by decide)).trans (bx_self _))))
  have f2 : bx h 2 5 = rs2 := hh ▸ (bx_high _ _ 2 5 (by decide)).trans ((bx_low _ _ 0 5 (by decide)).trans (bx_self _))
  have f3 : bx h 7 2 = bx i 4 2 := hh ▸ (bx_high _ _ 7 2 (by decide)).trans ((bx_high _ _ 5 2 (by decide)).trans ((bx_low _ _ 0 2 (by decide)).trans (bx_self _)))
  have f4 : bx h 9 4 = bx i 0 4 := hh ▸ (bx_high _ _ 9 4 (by decide)).trans ((bx_high _ _ 7 4 (by decide)).trans ((bx_high _ _ 2 4 (by decide)).trans ((bx_low _ _ 0 4 (by decide)).trans (bx_self _))))
  have e : encodeRvC (.swsp rs2 i) = h := hh ▸ rfl
  rw [e]
  simp [decodeRvC, f0, f1, f2, f3, f4, bx_join i 0 2 4 4 rfl]
theorem low_swsp (rs2 : BitVec 5) (i : BitVec 6) : bx (encodeRvC (.swsp rs2 i)) 0 2 ≠ 3#2 := by
  rw [show bx (encodeRvC (.swsp rs2 i)) 0 2 = 2#2 from (bx_low _ _ 0 2 (by decide)).trans (bx_self _)]; decide

theorem aluOf_self (op : RvAlu) : rvAluOf? (rvAluF7 op) (rvAluF3 op) = some op := by cases op <;> decide
theorem condOf_self (c : RvCond) : rvCondOf? (rvCondF3 c) = some c := by cases c <;> decide
theorem loadOf_self (k : RvLoad) : rvLoadOf? (rvLoadF3 k) = some k := by cases k <;> decide
theorem storeOf_self (k : RvStore) : rvStoreOf? (rvStoreF3 k) = some k := by cases k <;> decide
theorem csrOf_self (c : RvCsr) : rvCsrOf? (rvCsrF2 c) = some c := by cases c <;> decide
theorem csrF2_pos (c : RvCsr) : rvCsrF2 c ≠ 0#2 := by cases c <;> decide
theorem immOf_self {op : RvAlu} {imm : BitVec 12} (h : rvImmOk op imm = true) : rvImmOf? (rvAluF3 op) imm = some op := by
  simpa [rvImmOk] using h

theorem rv_lui (rd : BitVec 5) (i : BitVec 20) : decodeRv (encodeRv (.lui rd i)) = .lui rd i := by
  obtain ⟨h, hh⟩ : ∃ h : BitVec 32, h = i ++ rd ++ 55#7 := ⟨_, rfl⟩
  have f0 : bx h 0 7 = 55#7 := hh ▸ (bx_low _ _ 0 7 (by decide)).trans (bx_self _)
  have f1 : bx h 7 5 = rd := hh ▸ (bx_high _ _ 7 5 (by decide)).trans ((bx_low _ _ 0 5 (by decide)).trans (bx_self _))
  have f2 : bx h 12 20 = i := hh ▸ (bx_high _ _ 12 20 (by decide)).trans ((bx_high _ _ 5 20 (by decide)).trans (bx_self _))
  have e : encodeRv (.lui rd i) = h := hh ▸ rfl
  rw [e]
  simp [decodeRv, f0, f1, f2]
theorem op_lui (rd : BitVec 5) (i : BitVec 20) : bx (encodeRv (.lui rd i)) 0 7 = 55#7 := by
  exact (bx_low _ _ 0 7 (by decide)).trans (bx_self _)
theorem rv_auipc (rd : BitVec 5) (i : BitVec 20) : decodeRv (encodeRv (.auipc rd i)) = .auipc rd i := by
  obtain ⟨h, hh⟩ : ∃ h : BitVec 32, h = i ++ rd ++ 23#7 := ⟨_, rfl⟩
  have f0 : bx h 0 7 = 23#7 := hh ▸ (bx_low _ _ 0 7 (by decide)).trans (bx_self _)
  have f1 : bx h 7 5 = rd := hh ▸ (bx_high _ _ 7 5 (by decide)).trans ((bx_low _ _ 0 5 (by decide)).trans (bx_self _))
  have f2 : bx h 12 20 = i := hh ▸ (bx_high _ _ 12 20 (by decide)).trans ((bx_high _ _ 5 20 (by decide)).trans (bx_self _))
  have e : encodeRv (.auipc rd i) = h := hh ▸ rfl
  rw [e]
  simp [decodeRv, f0, f1, f2]
theorem op_auipc (rd : BitVec 5) (i : BitVec 20) : bx (encodeRv (.auipc rd i)) 0 7 = 23#7 := by
  exact (bx_low _ _ 0 7 (by decide)).trans (bx_self _)
theorem rv_jal (rd : BitVec 5) (i : BitVec 20) : decodeRv (encodeRv (.jal rd i)) = .jal rd i := by
  obtain ⟨h, hh⟩ : ∃ h : BitVec 32, h = bx i 19 1 ++ bx i 0 10 ++ bx i 10 1 ++ bx i 11 8 ++ rd ++ 111#7 := ⟨_, rfl⟩
  have f0 : bx h 0 7 = 111#7 := hh ▸ (bx_low _ _ 0 7 (by decide)).trans (bx_self _)
  have f1 : bx h 7 5 = rd := hh ▸ (bx_high _ _ 7 5 (by decide)).trans ((bx_low _ _ 0 5 (by decide)).trans (bx_self _))
  have f2 : bx h 31 1 = bx i 19 1 := hh ▸ (bx_high _ _ 31 1 (by decide)).trans ((bx_high _ _ 24 1 (by decide)).trans ((bx_high _ _ 19 1 (by decide)).trans ((bx_high _ _ 11 1 (by decide)).trans ((bx_high _ _ 10 1 (by decide)).trans (bx_self _)))))
  have f3 : bx h 12 8 = bx i 11 8 := hh ▸ (bx_high _ _ 12 8 (by decide)).trans ((bx_high _ _ 5 8 (by decide)).trans ((bx_low _ _ 0 8 (by decide)).trans (bx_self _)))
  have f4 : bx h 20 1 = bx i 10 1 := hh ▸ (bx_high _ _ 20 1 (by decide)).trans ((bx_high _ _ 13 1 (by decide)).trans ((bx_high _ _ 8 1 (by decide)).trans ((bx_low _ _ 0 1 (by decide)).trans (bx_self _))))
  have f5 : bx h 21 10 = bx i 0 10 := hh ▸ (bx_high _ _ 21 10 (by decide)).trans ((bx_high _ _ 14 10 (by decide)).trans ((bx_high _ _ 9 10 (by decide)).trans ((bx_high _ _ 1 10 (by decide)).trans ((bx_low _ _ 0 10 (by decide)).trans (bx_self _)))))
  have e : encodeRv (.jal rd i) = h := hh ▸ rfl
  rw [e]
  simp [decodeRv, f0, f1, f2, f3, f4, f5, bx_join i 11 1 8 19 rfl, bx_join i 10 9 1 11 rfl, bx_join i 0 10 10 10 rfl]
theorem op_jal (rd : BitVec 5) (i : BitVec 20) : bx (encodeRv (.jal rd i)) 0 7 = 111#7 := by
  exact (bx_low _ _ 0 7 (by decide)).trans (bx_self _)
theorem rv_jalr (rd : BitVec 5) (rs1 : BitVec 5) (i : BitVec 12) : decodeRv (encodeRv (.jalr rd rs1 i)) = .jalr rd rs1 i := by
  obtain ⟨h, hh⟩ : ∃ h : BitVec 32, h = i ++ rs1 ++ 0#3 ++ rd ++ 103#7 := ⟨_, rfl⟩
  have f0 : bx h 0 7 = 103#7 := hh ▸ (bx_low _ _ 0 7 (by decide)).trans (bx_self _)
  have f1 : bx h 12 3 = 0#3 := hh ▸ (bx_high _ _ 12 3 (by decide)).trans ((bx_high _ _ 5 3 (by decide)).trans ((bx_low _ _ 0 3 (by decide)).trans (bx_self _)))
  have f2 : bx h 7 5 = rd := hh ▸ (bx_high _ _ 7 5 (by decide)).trans ((bx_low _ _ 0 5 (by decide)).trans (bx_self _))
  have f3 : bx h 15 5 = rs1 := hh ▸ (bx_high _ _ 15 5 (by decide)).trans ((bx_high _ _ 8 5 (by decide)).trans ((bx_high _ _ 3 5 (by decide)).trans ((bx_low _ _ 0 5 (by decide)).trans (bx_self _))))
  have f4 : bx h 20 12 = i := hh ▸ (bx_high _ _ 20 12 (by decide)).trans ((bx_high _ _ 13 12 (by decide)).trans ((bx_high _ _ 8 12 (by decide)).trans ((bx_high _ _ 5 12 (by decide)).trans (bx_self _))))
  have e : encodeRv (.jalr rd rs1 i) = h := hh ▸ rfl
  rw [e]
  simp [decodeRv, f0, f1, f2, f3, f4]
theorem op_jalr (rd : BitVec 5) (rs1 : BitVec 5) (i : BitVec 12) : bx (encodeRv (.jalr rd rs1 i)) 0 7 = 103#7 := by
  exact (bx_low _ _ 0 7 (by decide)).trans (bx_self _)
theorem rv_branch (c : RvCond) (rs1 : BitVec 5) (rs2 : BitVec 5) (i : BitVec 12) : decodeRv (encodeRv (.branch c rs1 rs2 i)) = .branch c rs1 rs2 i := by
  obtain ⟨h, hh⟩ : ∃ h : BitVec 32, h = bx i 11 1 ++ bx i 4 6 ++ rs2 ++ rs1 ++ rvCondF3 c ++ bx i 0 4 ++ bx i 10 1 ++ 99#7 := ⟨_, rfl⟩
  have f0 : bx h 0 7 = 99#7 := hh ▸ (bx_low _ _ 0 7 (by decide)).trans (bx_self _)
  have f1 : bx h 12 3 = rvCondF3 c := hh ▸ (bx_high _ _ 12 3 (by decide)).trans ((bx_high _ _ 5 3 (by decide)).trans ((bx_high _ _ 4 3 (by decide)).trans ((bx_low _ _ 0 3 (by decide)).trans (bx_self _))))
  have f2 : bx h 15 5 = rs1 := hh ▸ (bx_high _ _ 15 5 (by decide)).trans ((bx_high _ _ 8 5 (by decide)).trans ((bx_high _ _ 7 5 (by decide)).trans ((bx_high _ _ 3 5 (by decide)).trans ((bx_low _ _ 0 5 (by decide)).trans (bx_self _)))))
  have f3 : bx h 20 5 = rs2 := hh ▸ (bx_high _ _ 20 5 (by decide)).trans ((bx_high _ _ 13 5 (by decide)).trans ((bx_high _ _ 12 5 (by decide)).trans ((bx_high _ _ 8 5 (by decide)).trans ((bx_high _ _ 5 5 (by decide)).trans ((bx_low _ _ 0 5 (by decide)).trans (bx_self _))))))
  have f4 : bx h 31 1 = bx i 11 1 := hh ▸ (bx_high _ _ 31 1 (by decide)).trans ((bx_high _ _ 24 1 (by decide)).trans ((bx_high _ _ 23 1 (by decide)).trans ((bx_high _ _ 19 1 (by decide)).trans ((bx_high _ _ 16 1 (by decide)).trans ((bx_high _ _ 11 1 (by decide)).trans ((bx_high _ _ 6 1 (by decide)).trans (bx_self _)))))))
  have f5 : bx h 7 1 = bx i 10 1 := hh ▸ (bx_high _ _ 7 1 (by decide)).trans ((bx_low _ _ 0 1 (by decide)).trans (bx_self _))
  have f6 : bx h 25 6 = bx i 4 6 := hh ▸ (bx_high _ _ 25 6 (by decide)).trans ((bx_high _ _ 18 6 (by decide)).trans ((bx_high _ _ 17 6 (by decide)).trans ((bx_high _ _ 13 6 (by decide)).trans ((bx_high _ _ 10 6 (by decide)).trans ((bx_high _ _ 5 6 (by decide)).trans ((bx_low _ _ 0 6 (by decide)).trans (bx_self _)))))))
  have f7 : bx h 8 4 = bx i 0 4 := hh ▸ (bx_high _ _ 8 4 (by decide)).trans ((bx_high _ _ 1 4 (by decide)).trans ((bx_low _ _ 0 4 (by decide)).trans (bx_self _)))
  have e : encodeRv (.branch c rs1 rs2 i) = h := hh ▸ rfl
  rw [e]
  simp [decodeRv, f0, f1, f2, f3, f4, f5, f6, f7, condOf_self, bx_join i 10 1 1 11 rfl, bx_join i 4 2 6 10 rfl, bx_join i 0 8 4 4 rfl]
theorem op_branch (c : RvCond) (rs1 : BitVec 5) (rs2 : BitVec 5) (i : BitVec 12) : bx (encodeRv (.branch c rs1 rs2 i)) 0 7 = 99#7 := by
  exact (bx_low _ _ 0 7 (by decide)).trans (bx_self _)
theorem rv_load (k : RvLoad) (rd : BitVec 5) (rs1 : BitVec 5) (i : BitVec 12) : decodeRv (encodeRv (.load k rd rs1 i)) = .load k rd rs1 i := by
  obtain ⟨h, hh⟩ : ∃ h : BitVec 32, h = i ++ rs1 ++ rvLoadF3 k ++ rd ++ 3#7 := ⟨_, rfl⟩
  have f0 : bx h 0 7 = 3#7 := hh ▸ (bx_low _ _ 0 7 (by decide)).trans (bx_self _)
  have f1 : bx h 12 3 = rvLoadF3 k := hh ▸ (bx_high _ _ 12 3 (by decide)).trans ((bx_high _ _ 5 3 (by decide)).trans ((bx_low _ _ 0 3 (by decide)).trans (bx_self _)))
  have f2 : bx h 7 5 = rd := hh ▸ (bx_high _ _ 7 5 (by decide)).trans ((bx_low _ _ 0 5 (by decide)).trans (bx_self _))
  have f3 : bx h 15 5 = rs1 := hh ▸ (bx_high _ _ 15 5 (by decide)).trans ((bx_high _ _ 8 5 (by decide)).trans ((bx_high _ _ 3 5 (by decide)).trans ((bx_low _ _ 0 5 (by decide)).trans (bx_self _))))
  have f4 : bx h 20 12 = i := hh ▸ (bx_high _ _ 20 12 (by decide)).trans ((bx_high _ _ 13 12 (by decide)).trans ((bx_high _ _ 8 12 (by decide)).trans ((bx_high _ _ 5 12 (by decide)).trans (bx_self _))))
  have e : encodeRv (.load k rd rs1 i) = h := hh ▸ rfl
  rw [e]
  simp [decodeRv, f0, f1, f2, f3, f4, loadOf_self]
theorem op_load (k : RvLoad) (rd : BitVec 5) (rs1 : BitVec 5) (i : BitVec 12) : bx (encodeRv (.load k rd rs1 i)) 0 7 = 3#7 := by
  exact (bx_low _ _ 0 7 (by decide)).trans (bx_self _)
theorem rv_store (k : RvStore) (rs2 : BitVec 5) (rs1 : BitVec 5) (i : BitVec 12) : decodeRv (encodeRv (.store k rs2 rs1 i)) = .store k rs2 rs1 i := by
  obtain ⟨h, hh⟩ : ∃ h : BitVec 32, h = bx i 5 7 ++ rs2 ++ rs1 ++ rvStoreF3 k ++ bx i 0 5 ++ 35#7 := ⟨_, rfl⟩
  have f0 : bx h 0 7 = 35#7 := hh ▸ (bx_low _ _ 0 7 (by decide)).trans (bx_self _)
  have f1 : bx h 12 3 = rvStoreF3 k := hh ▸ (bx_high _ _ 12 3 (by decide)).trans ((bx_high _ _ 5 3 (by decide)).trans ((bx_low _ _ 0 3 (by decide)).trans (bx_self _)))
  have f2 : bx h 7 5 = bx i 0 5 := hh ▸ (bx_high _ _ 7 5 (by decide)).trans ((bx_low _ _ 0 5 (by decide)).trans (bx_self _))
  have f3 : bx h 15 5 = rs1 := hh ▸ (bx_high _ _ 15 5 (by decide)).trans ((bx_high _ _ 8 5 (by decide)).trans ((bx_high _ _ 3 5 (by decide)).trans ((bx_low _ _ 0 5 (by decide)).trans (bx_self _))))
  have f4 : bx h 20 5 = rs2 := hh ▸ (bx_high _ _ 20 5 (by decide)).trans ((bx_high _ _ 13 5 (by decide)).trans ((bx_high _ _ 8 5 (by decide)).trans ((bx_high _ _ 5 5 (by decide)).trans ((bx_low _ _ 0 5 (by decide)).trans (bx_self _)))))
  have f5 : bx h 25 7 = bx i 5 7 := hh ▸ (bx_high _ _ 25 7 (by decide)).trans ((bx_high _ _ 18 7 (by decide)).trans ((bx_high _ _ 13 7 (by decide)).trans ((bx_high _ _ 10 7 (by decide)).trans ((bx_high _ _ 5 7 (by decide)).trans (bx_self _)))))
  have e : encodeRv (.store k rs2 rs1 i) = h := hh ▸ rfl
  rw [e]
  simp [decodeRv, f0, f1, f2, f3, f4, f5, storeOf_self, bx_join i 0 7 5 5 rfl]
theorem op_store (k : RvStore) (rs2 : BitVec 5) (rs1 : BitVec 5) (i : BitVec 12) : bx (encodeRv (.store k rs2 rs1 i)) 0 7 = 35#7 := by
  exact (bx_low _ _ 0 7 (by decide)).trans (bx_self _)
theorem rv_opImm (op : RvAlu) (rd : BitVec 5) (rs1 : BitVec 5) (i : BitVec 12) (ho : rvImmOk op i = true) : decodeRv (encodeRv (.opImm op rd rs1 i)) = .opImm op rd rs1 i := by
  obtain ⟨h, hh⟩ : ∃ h : BitVec 32, h = i ++ rs1 ++ rvAluF3 op ++ rd ++ 19#7 := ⟨_, rfl⟩
  have f0 : bx h 0 7 = 19#7 := hh ▸ (bx_low _ _ 0 7 (by decide)).trans (bx_self _)
  have f1 : bx h 12 3 = rvAluF3 op := hh ▸ (bx_high _ _ 12 3 (by decide)).trans ((bx_high _ _ 5 3 (by decide)).trans ((bx_low _ _ 0 3 (by decide)).trans (bx_self _)))
  have f2 : bx h 7 5 = rd := hh ▸ (bx_high _ _ 7 5 (by decide)).trans ((bx_low _ _ 0 5 (by decide)).trans (bx_self _))
  have f3 : bx h 15 5 = rs1 := hh ▸ (bx_high _ _ 15 5 (by decide)).trans ((bx_high _ _ 8 5 (by decide)).trans ((bx_high _ _ 3 5 (by decide)).trans ((bx_low _ _ 0 5 (by decide)).trans (bx_self _))))
  have f4 : bx h 20 12 = i := hh ▸ (bx_high _ _ 20 12 (by decide)).trans ((bx_high _ _ 13 12 (by decide)).trans ((bx_high _ _ 8 12 (by decide)).trans ((bx_high _ _ 5 12 (by decide)).trans (bx_self _))))
  have e : encodeRv (.opImm op rd rs1 i) = h := hh ▸ rfl
  rw [e]
  simp [decodeRv, f0, f1, f2, f3, f4, immOf_self ho]
theorem op_opImm (op : RvAlu) (rd : BitVec 5) (rs1 : BitVec 5) (i : BitVec 12) : bx (encodeRv (.opImm op rd rs1 i)) 0 7 = 19#7 := by
  exact (bx_low _ _ 0 7 (by decide)).trans (bx_self _)
theorem rv_op (op : RvAlu) (rd : BitVec 5) (rs1 : BitVec 5) (rs2 : BitVec 5) : decodeRv (encodeRv (.op op rd rs1 rs2)) = .op op rd rs1 rs2 := by
  obtain ⟨h, hh⟩ : ∃ h : BitVec 32, h = rvAluF7 op ++ rs2 ++ rs1 ++ rvAluF3 op ++ rd ++ 51#7 := ⟨_, rfl⟩
  have f0 : bx h 0 7 = 51#7 := hh ▸ (bx_low _ _ 0 7 (by decide)).trans (bx_self _)
  have f1 : bx h 12 3 = rvAluF3 op := hh ▸ (bx_high _ _ 12 3 (by decide)).trans ((bx_high _ _ 5 3 (by decide)).trans ((bx_low _ _ 0 3 (by decide)).trans (bx_self _)))
  have f2 : bx h 7 5 = rd := hh ▸ (bx_high _ _ 7 5 (by decide)).trans ((bx_low _ _ 0 5 (by decide)).trans (bx_self _))
  have f3 : bx h 15 5 = rs1 := hh ▸ (bx_high _ _ 15 5 (by decide)).trans ((bx_high _ _ 8 5 (by decide)).trans ((bx_high _ _ 3 5 (by decide)).trans ((bx_low _ _ 0 5 (by decide)).trans (bx_self _))))
  have f4 : bx h 20 5 = rs2 := hh ▸ (bx_high _ _ 20 5 (by decide)).trans ((bx_high _ _ 13 5 (by decide)).trans ((bx_high _ _ 8 5 (by decide)).trans ((bx_high _ _ 5 5 (by decide)).trans ((bx_low _ _ 0 5 (by decide)).trans (bx_self _)))))
  have f5 : bx h 25 7 = rvAluF7 op := hh ▸ (bx_high _ _ 25 7 (by decide)).trans ((bx_high _ _ 18 7 (by decide)).trans ((bx_high _ _ 13 7 (by decide)).trans ((bx_high _ _ 10 7 (by decide)).trans ((bx_high _ _ 5 7 (by decide)).trans (bx_self _)))))
  have e : encodeRv (.op op rd rs1 rs2) = h := hh ▸ rfl
  rw [e]
  simp [decodeRv, f0, f1, f2, f3, f4, f5, aluOf_self]
theorem op_op (op : RvAlu) (rd : BitVec 5) (rs1 : BitVec 5) (rs2 : BitVec 5) : bx (encodeRv (.op op rd rs1 rs2)) 0 7 = 51#7 := by
  exact (bx_low _ _ 0 7 (by decide)).trans (bx_self _)
theorem rv_fence (fm p s : BitVec 4) (rs1 : BitVec 5) (rd : BitVec 5) : decodeRv (encodeRv (.fence fm p s rs1 rd)) = .fence fm p s rs1 rd := by
  obtain ⟨h, hh⟩ : ∃ h : BitVec 32, h = fm ++ p ++ s ++ rs1 ++ 0#3 ++ rd ++ 15#7 := ⟨_, rfl⟩
  have f0 : bx h 0 7 = 15#7 := hh ▸ (bx_low _ _ 0 7 (by decide)).trans (bx_self _)
  have f1 : bx h 12 3 = 0#3 := hh ▸ (bx_high _ _ 12 3 (by decide)).trans ((bx_high _ _ 5 3 (by decide)).trans ((bx_low _ _ 0 3 (by decide)).trans (bx_self _)))
  have f2 : bx h 7 5 = rd := hh ▸ (bx_high _ _ 7 5 (by decide)).trans ((bx_low _ _ 0 5 (by decide)).trans (bx_self _))
  have f3 : bx h 15 5 = rs1 := hh ▸ (bx_high _ _ 15 5 (by decide)).trans ((bx_high _ _ 8 5 (by decide)).trans ((bx_high _ _ 3 5 (by decide)).trans ((bx_low _ _ 0 5 (by decide)).trans (bx_self _))))
  have f4 : bx h 20 4 = s := hh ▸ (bx_high _ _ 20 4 (by decide)).trans ((bx_high _ _ 13 4 (by decide)).trans ((bx_high _ _ 8 4 (by decide)).trans ((bx_high _ _ 5 4 (by decide)).trans ((bx_low _ _ 0 4 (by decide)).trans (bx_self _)))))
  have f5 : bx h 24 4 = p := hh ▸ (bx_high _ _ 24 4 (by decide)).trans ((bx_high _ _ 17 4 (by decide)).trans ((bx_high _ _ 12 4 (by decide)).trans ((bx_high _ _ 9 4 (by decide)).trans ((bx_high _ _ 4 4 (by decide)).trans ((bx_low _ _ 0 4 (by decide)).trans (bx_self _))))))
  have f6 : bx h 28 4 = fm := hh ▸ (bx_high _ _ 28 4 (by decide)).trans ((bx_high _ _ 21 4 (by decide)).trans ((bx_high _ _ 16 4 (by decide)).trans ((bx_high _ _ 13 4 (by decide)).trans ((bx_high _ _ 8 4 (by decide)).trans ((bx_high _ _ 4 4 (by decide)).trans (bx_self _))))))
  have e : encodeRv (.fence fm p s rs1 rd) = h := hh ▸ rfl
  rw [e]
  simp [decodeRv, f0, f1, f2, f3, f4, f5, f6]
theorem op_fence (fm p s : BitVec 4) (rs1 : BitVec 5) (rd : BitVec 5) : bx (encodeRv (.fence fm p s rs1 rd)) 0 7 = 15#7 := by
  exact (bx_low _ _ 0 7 (by decide)).trans (bx_self _)
theorem rv_csr (c : RvCsr) (b : Bool) (rd src : BitVec 5) (n : BitVec 12) : decodeRv (encodeRv (.csr c b rd src n)) = .csr c b rd src n := by
  obtain ⟨h, hh⟩ : ∃ h : BitVec 32, h = n ++ src ++ BitVec.ofBool b ++ rvCsrF2 c ++ rd ++ 115#7 := ⟨_, rfl⟩
  have f0 : bx h 0 7 = 115#7 := hh ▸ (bx_low _ _ 0 7 (by decide)).trans (bx_self _)
  have f1 : bx h 12 2 = rvCsrF2 c := hh ▸ (bx_high _ _ 12 2 (by decide)).trans ((bx_high _ _ 5 2 (by decide)).trans ((bx_low _ _ 0 2 (by decide)).trans (bx_self _)))
  have f2 : bx h 14 1 = BitVec.ofBool b := hh ▸ (bx_high _ _ 14 1 (by decide)).trans ((bx_high _ _ 7 1 (by decide)).trans ((bx_high _ _ 2 1 (by decide)).trans ((bx_low _ _ 0 1 (by decide)).trans (bx_self _))))
  have f3 : bx h 7 5 = rd := hh ▸ (bx_high _ _ 7 5 (by decide)).trans ((bx_low _ _ 0 5 (by decide)).trans (bx_self _))
  have f4 : bx h 15 5 = src := hh ▸ (bx_high _ _ 15 5 (by decide)).trans ((bx_high _ _ 8 5 (by decide)).trans ((bx_high _ _ 3 5 (by decide)).trans ((bx_high _ _ 1 5 (by decide)).trans ((bx_low _ _ 0 5 (by decide)).trans (bx_self _)))))
  have f5 : bx h 20 12 = n := hh ▸ (bx_high _ _ 20 12 (by decide)).trans ((bx_high _ _ 13 12 (by decide)).trans ((bx_high _ _ 8 12 (by decide)).trans ((bx_high _ _ 6 12 (by decide)).trans ((bx_high _ _ 5 12 (by decide)).trans (bx_self _)))))
  have e : encodeRv (.csr c b rd src n) = h := hh ▸ rfl
  rw [e]
  have n1 : h ≠ 0x00000073#32 := fun he => csrF2_pos c (f1.symm.trans (by rw [he]; decide))
  have n2 : h ≠ 0x00100073#32 := fun he => csrF2_pos c (f1.symm.trans (by rw [he]; decide))
  simp [decodeRv, f0, f1, f3, f4, f5, csrOf_self, n1, n2, bit_of_bx (b := b) (by decide) f2]
theorem op_csr (c : RvCsr) (b : Bool) (rd src : BitVec 5) (n : BitVec 12) : bx (encodeRv (.csr c b rd src n)) 0 7 = 115#7 := by
  exact (bx_low _ _ 0 7 (by decide)).trans (bx_self _)

/-- Outside custom-0 and custom-1 a word is a base instruction. -/
theorem bobbin_of_rv {w : W32} {i : RvInstr} (k : BitVec 7) (ho : bx w 0 7 = k) (h0 : k ≠ 0x0B#7) (h1 : k ≠ 0x2B#7)
    (h3 : bx k 0 2 = 3#2) (hd : decodeRv w = i) : (Code.rv w).decode = some (.bobbinBase i) := by
  have e : bx w 0 2 = 3#2 := by rw [← h3, ← ho]; ext j hj; simp
  have n0 : (bx w 0 7).toNat ≠ 0x0B := fun c => h0 (by rw [← ho]; exact BitVec.eq_of_toNat_eq c)
  have n1 : (bx w 0 7).toNat ≠ 0x2B := fun c => h1 (by rw [← ho]; exact BitVec.eq_of_toNat_eq c)
  simp only [Code.decode, e, if_true, decodeBobbin32]
  rw [hd]
theorem rvc_of {h : BitVec 16} {i : RvInstr} (hl : bx h 0 2 ≠ 3#2) (hd : decodeRvC h = i) :
    (Code.rvc h).decode = some (.bobbinBase i) := by simp [Code.decode, hl, hd]
/-- A custom word that Table 13.5 does not give is illegal. -/
theorem bobbin_illegal {w : W32} (h2 : bx w 0 2 = 3#2) (hd : decodeRv w = .illegal w) (hc : customOk w = false) :
    (Code.rv w).decode = some (.bobbinBase (.illegal w)) := by
  simp only [Code.decode, h2, if_true, decodeBobbin32]
  simp only [customOk] at hc
  split <;> simp_all

theorem lnrd (b : BitVec 3) (rs2 rs1 rd : BitVec 5) : Statement (.lnrd b rs2 rs1 rd) := by
  refine fun _ => .inr ?_
  obtain ⟨h, hh⟩ : ∃ h : W32, h = 0#4 ++ b ++ rs2 ++ rs1 ++ 0#3 ++ rd ++ 0x0B#7 := ⟨_, rfl⟩
  have f0 : bx h 0 2 = 3#2 := hh ▸ ((bx_low _ _ 0 2 (by decide))).trans rfl
  have f1 : bx h 0 7 = 0x0B#7 := hh ▸ (bx_low _ _ 0 7 (by decide)).trans (bx_self _)
  have f2 : bx h 12 3 = 0#3 := hh ▸ (bx_high _ _ 12 3 (by decide)).trans ((bx_high _ _ 5 3 (by decide)).trans ((bx_low _ _ 0 3 (by decide)).trans (bx_self _)))
  have f3 : bx h 7 5 = rd := hh ▸ (bx_high _ _ 7 5 (by decide)).trans ((bx_low _ _ 0 5 (by decide)).trans (bx_self _))
  have f4 : bx h 15 5 = rs1 := hh ▸ (bx_high _ _ 15 5 (by decide)).trans ((bx_high _ _ 8 5 (by decide)).trans ((bx_high _ _ 3 5 (by decide)).trans ((bx_low _ _ 0 5 (by decide)).trans (bx_self _))))
  have f5 : bx h 20 5 = rs2 := hh ▸ (bx_high _ _ 20 5 (by decide)).trans ((bx_high _ _ 13 5 (by decide)).trans ((bx_high _ _ 8 5 (by decide)).trans ((bx_high _ _ 5 5 (by decide)).trans ((bx_low _ _ 0 5 (by decide)).trans (bx_self _)))))
  have f6 : bx h 25 3 = b := hh ▸ (bx_high _ _ 25 3 (by decide)).trans ((bx_high _ _ 18 3 (by decide)).trans ((bx_high _ _ 13 3 (by decide)).trans ((bx_high _ _ 10 3 (by decide)).trans ((bx_high _ _ 5 3 (by decide)).trans ((bx_low _ _ 0 3 (by decide)).trans (bx_self _))))))
  have f7 : bx h 28 4 = 0#4 := hh ▸ (bx_high _ _ 28 4 (by decide)).trans ((bx_high _ _ 21 4 (by decide)).trans ((bx_high _ _ 16 4 (by decide)).trans ((bx_high _ _ 13 4 (by decide)).trans ((bx_high _ _ 8 4 (by decide)).trans ((bx_high _ _ 3 4 (by decide)).trans (bx_self _))))))
  have e : encode (.lnrd b rs2 rs1 rd) = .rv h := hh ▸ rfl
  rw [e]
  simp [Code.decode, decodeBobbin32, f0, f1, f2, f3, f4, f5, f6, f7]
theorem lnwr (b : BitVec 3) (rs2 rs1 rd : BitVec 5) : Statement (.lnwr b rs2 rs1 rd) := by
  refine fun _ => .inr ?_
  obtain ⟨h, hh⟩ : ∃ h : W32, h = 0#4 ++ b ++ rs2 ++ rs1 ++ 1#3 ++ rd ++ 0x0B#7 := ⟨_, rfl⟩
  have f0 : bx h 0 2 = 3#2 := hh ▸ ((bx_low _ _ 0 2 (by decide))).trans rfl
  have f1 : bx h 0 7 = 0x0B#7 := hh ▸ (bx_low _ _ 0 7 (by decide)).trans (bx_self _)
  have f2 : bx h 12 3 = 1#3 := hh ▸ (bx_high _ _ 12 3 (by decide)).trans ((bx_high _ _ 5 3 (by decide)).trans ((bx_low _ _ 0 3 (by decide)).trans (bx_self _)))
  have f3 : bx h 7 5 = rd := hh ▸ (bx_high _ _ 7 5 (by decide)).trans ((bx_low _ _ 0 5 (by decide)).trans (bx_self _))
  have f4 : bx h 15 5 = rs1 := hh ▸ (bx_high _ _ 15 5 (by decide)).trans ((bx_high _ _ 8 5 (by decide)).trans ((bx_high _ _ 3 5 (by decide)).trans ((bx_low _ _ 0 5 (by decide)).trans (bx_self _))))
  have f5 : bx h 20 5 = rs2 := hh ▸ (bx_high _ _ 20 5 (by decide)).trans ((bx_high _ _ 13 5 (by decide)).trans ((bx_high _ _ 8 5 (by decide)).trans ((bx_high _ _ 5 5 (by decide)).trans ((bx_low _ _ 0 5 (by decide)).trans (bx_self _)))))
  have f6 : bx h 25 3 = b := hh ▸ (bx_high _ _ 25 3 (by decide)).trans ((bx_high _ _ 18 3 (by decide)).trans ((bx_high _ _ 13 3 (by decide)).trans ((bx_high _ _ 10 3 (by decide)).trans ((bx_high _ _ 5 3 (by decide)).trans ((bx_low _ _ 0 3 (by decide)).trans (bx_self _))))))
  have f7 : bx h 28 4 = 0#4 := hh ▸ (bx_high _ _ 28 4 (by decide)).trans ((bx_high _ _ 21 4 (by decide)).trans ((bx_high _ _ 16 4 (by decide)).trans ((bx_high _ _ 13 4 (by decide)).trans ((bx_high _ _ 8 4 (by decide)).trans ((bx_high _ _ 3 4 (by decide)).trans (bx_self _))))))
  have e : encode (.lnwr b rs2 rs1 rd) = .rv h := hh ▸ rfl
  rw [e]
  simp [Code.decode, decodeBobbin32, f0, f1, f2, f3, f4, f5, f6, f7]
theorem lnpf (l : BitVec 1) (rs2 rs1 rd : BitVec 5) : Statement (.lnpf l rs2 rs1 rd) := by
  refine fun _ => .inr ?_
  obtain ⟨h, hh⟩ : ∃ h : W32, h = 0#6 ++ l ++ rs2 ++ rs1 ++ 2#3 ++ rd ++ 0x0B#7 := ⟨_, rfl⟩
  have f0 : bx h 0 2 = 3#2 := hh ▸ ((bx_low _ _ 0 2 (by decide))).trans rfl
  have f1 : bx h 0 7 = 0x0B#7 := hh ▸ (bx_low _ _ 0 7 (by decide)).trans (bx_self _)
  have f2 : bx h 12 3 = 2#3 := hh ▸ (bx_high _ _ 12 3 (by decide)).trans ((bx_high _ _ 5 3 (by decide)).trans ((bx_low _ _ 0 3 (by decide)).trans (bx_self _)))
  have f3 : bx h 7 5 = rd := hh ▸ (bx_high _ _ 7 5 (by decide)).trans ((bx_low _ _ 0 5 (by decide)).trans (bx_self _))
  have f4 : bx h 15 5 = rs1 := hh ▸ (bx_high _ _ 15 5 (by decide)).trans ((bx_high _ _ 8 5 (by decide)).trans ((bx_high _ _ 3 5 (by decide)).trans ((bx_low _ _ 0 5 (by decide)).trans (bx_self _))))
  have f5 : bx h 20 5 = rs2 := hh ▸ (bx_high _ _ 20 5 (by decide)).trans ((bx_high _ _ 13 5 (by decide)).trans ((bx_high _ _ 8 5 (by decide)).trans ((bx_high _ _ 5 5 (by decide)).trans ((bx_low _ _ 0 5 (by decide)).trans (bx_self _)))))
  have f6 : bx h 25 1 = l := hh ▸ (bx_high _ _ 25 1 (by decide)).trans ((bx_high _ _ 18 1 (by decide)).trans ((bx_high _ _ 13 1 (by decide)).trans ((bx_high _ _ 10 1 (by decide)).trans ((bx_high _ _ 5 1 (by decide)).trans ((bx_low _ _ 0 1 (by decide)).trans (bx_self _))))))
  have f7 : bx h 26 6 = 0#6 := hh ▸ (bx_high _ _ 26 6 (by decide)).trans ((bx_high _ _ 19 6 (by decide)).trans ((bx_high _ _ 14 6 (by decide)).trans ((bx_high _ _ 11 6 (by decide)).trans ((bx_high _ _ 6 6 (by decide)).trans ((bx_high _ _ 1 6 (by decide)).trans (bx_self _))))))
  have e : encode (.lnpf l rs2 rs1 rd) = .rv h := hh ▸ rfl
  rw [e]
  simp [Code.decode, decodeBobbin32, f0, f1, f2, f3, f4, f5, f6, f7]
theorem lsq (rs2 rs1 rd : BitVec 5) : Statement (.lsq rs2 rs1 rd) := by
  refine fun _ => .inr ?_
  obtain ⟨h, hh⟩ : ∃ h : W32, h = 0#7 ++ rs2 ++ rs1 ++ 3#3 ++ rd ++ 0x0B#7 := ⟨_, rfl⟩
  have f0 : bx h 0 2 = 3#2 := hh ▸ ((bx_low _ _ 0 2 (by decide))).trans rfl
  have f1 : bx h 0 7 = 0x0B#7 := hh ▸ (bx_low _ _ 0 7 (by decide)).trans (bx_self _)
  have f2 : bx h 12 3 = 3#3 := hh ▸ (bx_high _ _ 12 3 (by decide)).trans ((bx_high _ _ 5 3 (by decide)).trans ((bx_low _ _ 0 3 (by decide)).trans (bx_self _)))
  have f3 : bx h 7 5 = rd := hh ▸ (bx_high _ _ 7 5 (by decide)).trans ((bx_low _ _ 0 5 (by decide)).trans (bx_self _))
  have f4 : bx h 15 5 = rs1 := hh ▸ (bx_high _ _ 15 5 (by decide)).trans ((bx_high _ _ 8 5 (by decide)).trans ((bx_high _ _ 3 5 (by decide)).trans ((bx_low _ _ 0 5 (by decide)).trans (bx_self _))))
  have f5 : bx h 20 5 = rs2 := hh ▸ (bx_high _ _ 20 5 (by decide)).trans ((bx_high _ _ 13 5 (by decide)).trans ((bx_high _ _ 8 5 (by decide)).trans ((bx_high _ _ 5 5 (by decide)).trans ((bx_low _ _ 0 5 (by decide)).trans (bx_self _)))))
  have f6 : bx h 25 7 = 0#7 := hh ▸ (bx_high _ _ 25 7 (by decide)).trans ((bx_high _ _ 18 7 (by decide)).trans ((bx_high _ _ 13 7 (by decide)).trans ((bx_high _ _ 10 7 (by decide)).trans ((bx_high _ _ 5 7 (by decide)).trans (bx_self _)))))
  have e : encode (.lsq rs2 rs1 rd) = .rv h := hh ▸ rfl
  rw [e]
  simp [Code.decode, decodeBobbin32, f0, f1, f2, f3, f4, f5, f6]
theorem mrep (b : BitVec 3) (rd : BitVec 5) : Statement (.mrep b rd) := by
  refine fun _ => .inr ?_
  obtain ⟨h, hh⟩ : ∃ h : W32, h = 0#4 ++ b ++ 0#5 ++ 0#5 ++ 0#3 ++ rd ++ 0x2B#7 := ⟨_, rfl⟩
  have f0 : bx h 0 2 = 3#2 := hh ▸ ((bx_low _ _ 0 2 (by decide))).trans rfl
  have f1 : bx h 0 7 = 0x2B#7 := hh ▸ (bx_low _ _ 0 7 (by decide)).trans (bx_self _)
  have f2 : bx h 12 3 = 0#3 := hh ▸ (bx_high _ _ 12 3 (by decide)).trans ((bx_high _ _ 5 3 (by decide)).trans ((bx_low _ _ 0 3 (by decide)).trans (bx_self _)))
  have f3 : bx h 7 5 = rd := hh ▸ (bx_high _ _ 7 5 (by decide)).trans ((bx_low _ _ 0 5 (by decide)).trans (bx_self _))
  have f4 : bx h 15 5 = 0#5 := hh ▸ (bx_high _ _ 15 5 (by decide)).trans ((bx_high _ _ 8 5 (by decide)).trans ((bx_high _ _ 3 5 (by decide)).trans ((bx_low _ _ 0 5 (by decide)).trans (bx_self _))))
  have f5 : bx h 20 5 = 0#5 := hh ▸ (bx_high _ _ 20 5 (by decide)).trans ((bx_high _ _ 13 5 (by decide)).trans ((bx_high _ _ 8 5 (by decide)).trans ((bx_high _ _ 5 5 (by decide)).trans ((bx_low _ _ 0 5 (by decide)).trans (bx_self _)))))
  have f6 : bx h 25 3 = b := hh ▸ (bx_high _ _ 25 3 (by decide)).trans ((bx_high _ _ 18 3 (by decide)).trans ((bx_high _ _ 13 3 (by decide)).trans ((bx_high _ _ 10 3 (by decide)).trans ((bx_high _ _ 5 3 (by decide)).trans ((bx_low _ _ 0 3 (by decide)).trans (bx_self _))))))
  have f7 : bx h 28 4 = 0#4 := hh ▸ (bx_high _ _ 28 4 (by decide)).trans ((bx_high _ _ 21 4 (by decide)).trans ((bx_high _ _ 16 4 (by decide)).trans ((bx_high _ _ 13 4 (by decide)).trans ((bx_high _ _ 8 4 (by decide)).trans ((bx_high _ _ 3 4 (by decide)).trans (bx_self _))))))
  have e : encode (.mrep b rd) = .rv h := hh ▸ rfl
  rw [e]
  simp [Code.decode, decodeBobbin32, f0, f1, f2, f3, f4, f5, f6, f7]
theorem hfin : Statement .hfin := fun _ => .inr (by decide)

theorem compressed (c : RvC) : Statement (.bobbinBase (.compressed c)) := by
  intro h
  have ok : rvcOk c = true := wf_check (c := .rvCompressed) h (by simp [checks, rvChecks])
  refine .inr (show (Code.rvc (encodeRvC c)).decode = _ from ?_)
  cases c with
  | addi4spn rd i => exact rvc_of (low_addi4spn rd i) (rvc_addi4spn rd i (by simpa [rvcOk] using ok))
  | lw rd rs1 i => exact rvc_of (low_lw rd rs1 i) (rvc_lw rd rs1 i)
  | sw rs2 rs1 i => exact rvc_of (low_sw rs2 rs1 i) (rvc_sw rs2 rs1 i)
  | addi rd i => exact rvc_of (low_addi rd i) (rvc_addi rd i)
  | jal i => exact rvc_of (low_jal i) (rvc_jal i)
  | li rd i => exact rvc_of (low_li rd i) (rvc_li rd i)
  | addi16sp i => exact rvc_of (low_addi16sp i) (rvc_addi16sp i (by simpa [rvcOk] using ok))
  | lui rd i => exact rvc_of (low_lui rd i) (rvc_lui rd i (by simp [rvcOk] at ok; exact ok.1) (by simp [rvcOk] at ok; exact ok.2))
  | srli rd s => exact rvc_of (low_srli rd s) (rvc_srli rd s)
  | srai rd s => exact rvc_of (low_srai rd s) (rvc_srai rd s)
  | andi rd i => exact rvc_of (low_andi rd i) (rvc_andi rd i)
  | alu op rd rs2 => exact rvc_of (low_alu op rd rs2) (rvc_alu op rd rs2)
  | j i => exact rvc_of (low_j i) (rvc_j i)
  | beqz rs1 i => exact rvc_of (low_beqz rs1 i) (rvc_beqz rs1 i)
  | bnez rs1 i => exact rvc_of (low_bnez rs1 i) (rvc_bnez rs1 i)
  | slli rd s => exact rvc_of (low_slli rd s) (rvc_slli rd s)
  | lwsp rd i => exact rvc_of (low_lwsp rd i) (rvc_lwsp rd i (by simpa [rvcOk] using ok))
  | jr rs1 => exact rvc_of (low_jr rs1) (rvc_jr rs1 (by simpa [rvcOk] using ok))
  | mv rd rs2 => exact rvc_of (low_mv rd rs2) (rvc_mv rd rs2 (by simpa [rvcOk] using ok))
  | ebreak => exact rvc_of (low_ebreak) (rvc_ebreak)
  | jalr rs1 => exact rvc_of (low_jalr rs1) (rvc_jalr rs1 (by simpa [rvcOk] using ok))
  | add rd rs2 => exact rvc_of (low_add rd rs2) (rvc_add rd rs2 (by simpa [rvcOk] using ok))
  | swsp rs2 i => exact rvc_of (low_swsp rs2 i) (rvc_swsp rs2 i)

theorem bobbinBase (i : RvInstr) : Statement (.bobbinBase i) := by
  cases i with
  | compressed c => exact compressed c
  | illegal w =>
    intro h
    have ok := wf_check (c := .rvLegal) h (by simp only [checks, rvChecks]; exact List.mem_singleton.mpr rfl)
    simp only [Bool.and_eq_true, beq_iff_eq, Bool.not_eq_true'] at ok
    exact .inr (bobbin_illegal ok.1.1 ok.1.2 ok.2)
  | illegalC w =>
    intro h
    have ok := wf_check (c := .rvLegal) h (by simp only [checks, rvChecks]; exact List.mem_singleton.mpr rfl)
    simp only [Bool.and_eq_true, beq_iff_eq, bne_iff_ne] at ok
    exact .inr (rvc_of ok.1 ok.2)
  | ecall => exact fun _ => .inr (by decide)
  | ebreak => exact fun _ => .inr (by decide)
  | opImm op rd rs1 i =>
    exact fun h => .inr (bobbin_of_rv _ (op_opImm op rd rs1 i) (by decide) (by decide) (by decide)
      (rv_opImm op rd rs1 i (wf_check (c := .rvImmediate) h (by simp [checks, rvChecks]))))
  | lui rd i =>
    exact fun _ => .inr (bobbin_of_rv _ (op_lui rd i) (by decide) (by decide) (by decide) (rv_lui rd i))
  | auipc rd i =>
    exact fun _ => .inr (bobbin_of_rv _ (op_auipc rd i) (by decide) (by decide) (by decide) (rv_auipc rd i))
  | jal rd i =>
    exact fun _ => .inr (bobbin_of_rv _ (op_jal rd i) (by decide) (by decide) (by decide) (rv_jal rd i))
  | jalr rd rs1 i =>
    exact fun _ => .inr (bobbin_of_rv _ (op_jalr rd rs1 i) (by decide) (by decide) (by decide) (rv_jalr rd rs1 i))
  | branch c rs1 rs2 i =>
    exact fun _ => .inr (bobbin_of_rv _ (op_branch c rs1 rs2 i) (by decide) (by decide) (by decide) (rv_branch c rs1 rs2 i))
  | load k rd rs1 i =>
    exact fun _ => .inr (bobbin_of_rv _ (op_load k rd rs1 i) (by decide) (by decide) (by decide) (rv_load k rd rs1 i))
  | store k rs2 rs1 i =>
    exact fun _ => .inr (bobbin_of_rv _ (op_store k rs2 rs1 i) (by decide) (by decide) (by decide) (rv_store k rs2 rs1 i))
  | op op rd rs1 rs2 =>
    exact fun _ => .inr (bobbin_of_rv _ (op_op op rd rs1 rs2) (by decide) (by decide) (by decide) (rv_op op rd rs1 rs2))
  | fence fm p s rs1 rd =>
    exact fun _ => .inr (bobbin_of_rv _ (op_fence fm p s rs1 rd) (by decide) (by decide) (by decide) (rv_fence fm p s rs1 rd))
  | csr c b rd src n =>
    exact fun _ => .inr (bobbin_of_rv _ (op_csr c b rd src n) (by decide) (by decide) (by decide) (rv_csr c b rd src n))

/-! ### Thrum instructions -/

theorem add (w : TWord) : Statement (.add w) := fun _ => .inr (thrum_decode (by decide) rfl)
theorem sub (w : TWord) : Statement (.sub w) := fun _ => .inr (thrum_decode (by decide) rfl)
theorem mul (w : TWord) : Statement (.mul w) := fun _ => .inr (thrum_decode (by decide) rfl)
theorem mulhi (w : TWord) : Statement (.mulhi w) := fun _ => .inr (thrum_decode (by decide) rfl)
theorem mad (w : TWord) : Statement (.mad w) := fun _ => .inr (thrum_decode (by decide) rfl)
theorem mulw (w : TWord) : Statement (.mulw w) := fun _ => .inr (thrum_decode (by decide) rfl)
theorem madw (w : TWord) : Statement (.madw w) := fun _ => .inr (thrum_decode (by decide) rfl)
theorem addc (w : TWord) : Statement (.addc w) := fun _ => .inr (thrum_decode (by decide) rfl)
theorem subc (w : TWord) : Statement (.subc w) := fun _ => .inr (thrum_decode (by decide) rfl)
theorem min (w : TWord) : Statement (.min w) := fun _ => .inr (thrum_decode (by decide) rfl)
theorem max (w : TWord) : Statement (.max w) := fun _ => .inr (thrum_decode (by decide) rfl)
theorem abs (w : TWord) : Statement (.abs w) := fun _ => .inr (thrum_decode (by decide) rfl)
theorem neg (w : TWord) : Statement (.neg w) := fun _ => .inr (thrum_decode (by decide) rfl)
theorem cmp (w : TWord) : Statement (.cmp w) := fun _ => .inr (thrum_decode (by decide) rfl)
theorem sel (w : TWord) : Statement (.sel w) := fun _ => .inr (thrum_decode (by decide) rfl)
theorem and (w : TWord) : Statement (.and w) := fun _ => .inr (thrum_decode (by decide) rfl)
theorem or (w : TWord) : Statement (.or w) := fun _ => .inr (thrum_decode (by decide) rfl)
theorem xor (w : TWord) : Statement (.xor w) := fun _ => .inr (thrum_decode (by decide) rfl)
theorem not (w : TWord) : Statement (.not w) := fun _ => .inr (thrum_decode (by decide) rfl)
theorem lop3 (w : TWord) : Statement (.lop3 w) := fun _ => .inr (thrum_decode (by decide) rfl)
theorem shl (w : TWord) : Statement (.shl w) := fun _ => .inr (thrum_decode (by decide) rfl)
theorem shr (w : TWord) : Statement (.shr w) := fun _ => .inr (thrum_decode (by decide) rfl)
theorem fsh (w : TWord) : Statement (.fsh w) := fun _ => .inr (thrum_decode (by decide) rfl)
theorem bfe (w : TWord) : Statement (.bfe w) := fun _ => .inr (thrum_decode (by decide) rfl)
theorem bfi (w : TWord) : Statement (.bfi w) := fun _ => .inr (thrum_decode (by decide) rfl)
theorem popc (w : TWord) : Statement (.popc w) := fun _ => .inr (thrum_decode (by decide) rfl)
theorem clz (w : TWord) : Statement (.clz w) := fun _ => .inr (thrum_decode (by decide) rfl)
theorem ctz (w : TWord) : Statement (.ctz w) := fun _ => .inr (thrum_decode (by decide) rfl)
theorem brev (w : TWord) : Statement (.brev w) := fun _ => .inr (thrum_decode (by decide) rfl)
theorem mov (w : TWord) : Statement (.mov w) := fun _ => .inr (thrum_decode (by decide) rfl)
theorem plop (w : TWord) : Statement (.plop w) := fun _ => .inr (thrum_decode (by decide) rfl)
theorem p2r (w : TWord) : Statement (.p2r w) := fun _ => .inr (thrum_decode (by decide) rfl)
theorem r2p (w : TWord) : Statement (.r2p w) := fun _ => .inr (thrum_decode (by decide) rfl)
theorem fadd (w : TWord) : Statement (.fadd w) := fun _ => .inr (thrum_decode (by decide) rfl)
theorem fsub (w : TWord) : Statement (.fsub w) := fun _ => .inr (thrum_decode (by decide) rfl)
theorem fmul (w : TWord) : Statement (.fmul w) := fun _ => .inr (thrum_decode (by decide) rfl)
theorem ffma (w : TWord) : Statement (.ffma w) := fun _ => .inr (thrum_decode (by decide) rfl)
theorem fmin (w : TWord) : Statement (.fmin w) := fun _ => .inr (thrum_decode (by decide) rfl)
theorem fmax (w : TWord) : Statement (.fmax w) := fun _ => .inr (thrum_decode (by decide) rfl)
theorem fcmp (w : TWord) : Statement (.fcmp w) := fun _ => .inr (thrum_decode (by decide) rfl)
theorem cvt (w : TWord) : Statement (.cvt w) := fun _ => .inr (thrum_decode (by decide) rfl)
theorem cvtnPack (w : TWord) : Statement (.cvtnPack w) := fun h =>
  have hb : mdB w 7 = false := Bool.eq_false_of_not_eq_true' (wf_check (c := .subform) h (by simp only [checks]; exact List.mem_cons_self))
  .inr (thrum_decode (by decide) (by simp [thrumOf, hb]))
theorem cvtnUnpack (w : TWord) : Statement (.cvtnUnpack w) := fun h =>
  have hb : mdB w 7 = true := wf_check (c := .subform) h (by simp only [checks]; exact List.mem_cons_self)
  .inr (thrum_decode (by decide) (by simp [thrumOf, hb]))
theorem settag (w : TWord) : Statement (.settag w) := fun _ => .inr (thrum_decode (by decide) rfl)
theorem gettag (w : TWord) : Statement (.gettag w) := fun _ => .inr (thrum_decode (by decide) rfl)
theorem frcp (w : TWord) : Statement (.frcp w) := fun _ => .inr (thrum_decode (by decide) rfl)
theorem frsqrt (w : TWord) : Statement (.frsqrt w) := fun _ => .inr (thrum_decode (by decide) rfl)
theorem fsqrt (w : TWord) : Statement (.fsqrt w) := fun _ => .inr (thrum_decode (by decide) rfl)
theorem fexp2 (w : TWord) : Statement (.fexp2 w) := fun _ => .inr (thrum_decode (by decide) rfl)
theorem flog2 (w : TWord) : Statement (.flog2 w) := fun _ => .inr (thrum_decode (by decide) rfl)
theorem fsin (w : TWord) : Statement (.fsin w) := fun _ => .inr (thrum_decode (by decide) rfl)
theorem fcos (w : TWord) : Statement (.fcos w) := fun _ => .inr (thrum_decode (by decide) rfl)
theorem hadd2 (w : TWord) : Statement (.hadd2 w) := fun _ => .inr (thrum_decode (by decide) rfl)
theorem hsub2 (w : TWord) : Statement (.hsub2 w) := fun _ => .inr (thrum_decode (by decide) rfl)
theorem hmul2 (w : TWord) : Statement (.hmul2 w) := fun _ => .inr (thrum_decode (by decide) rfl)
theorem hfma2 (w : TWord) : Statement (.hfma2 w) := fun _ => .inr (thrum_decode (by decide) rfl)
theorem hmin2 (w : TWord) : Statement (.hmin2 w) := fun _ => .inr (thrum_decode (by decide) rfl)
theorem hmax2 (w : TWord) : Statement (.hmax2 w) := fun _ => .inr (thrum_decode (by decide) rfl)
theorem dp4a (w : TWord) : Statement (.dp4a w) := fun _ => .inr (thrum_decode (by decide) rfl)
theorem dp2bf (w : TWord) : Statement (.dp2bf w) := fun _ => .inr (thrum_decode (by decide) rfl)
theorem dadd (w : TWord) : Statement (.dadd w) := fun _ => .inr (thrum_decode (by decide) rfl)
theorem dsub (w : TWord) : Statement (.dsub w) := fun _ => .inr (thrum_decode (by decide) rfl)
theorem dmul (w : TWord) : Statement (.dmul w) := fun _ => .inr (thrum_decode (by decide) rfl)
theorem dfma (w : TWord) : Statement (.dfma w) := fun _ => .inr (thrum_decode (by decide) rfl)
theorem dmin (w : TWord) : Statement (.dmin w) := fun _ => .inr (thrum_decode (by decide) rfl)
theorem dmax (w : TWord) : Statement (.dmax w) := fun _ => .inr (thrum_decode (by decide) rfl)
theorem dcmp (w : TWord) : Statement (.dcmp w) := fun _ => .inr (thrum_decode (by decide) rfl)
theorem dcvt (w : TWord) : Statement (.dcvt w) := fun _ => .inr (thrum_decode (by decide) rfl)
theorem shfl (w : TWord) : Statement (.shfl w) := fun _ => .inr (thrum_decode (by decide) rfl)
theorem push (w : TWord) : Statement (.push w) := fun _ => .inr (thrum_decode (by decide) rfl)
theorem vote (w : TWord) : Statement (.vote w) := fun _ => .inr (thrum_decode (by decide) rfl)
theorem matchOp (w : TWord) : Statement (.matchOp w) := fun _ => .inr (thrum_decode (by decide) rfl)
theorem xred (w : TWord) : Statement (.xred w) := fun _ => .inr (thrum_decode (by decide) rfl)
theorem xscan (w : TWord) : Statement (.xscan w) := fun _ => .inr (thrum_decode (by decide) rfl)
theorem nop (w : TWord) : Statement (.nop w) := fun _ => .inr (thrum_decode (by decide) rfl)
theorem bra (w : TWord) : Statement (.bra w) := fun _ => .inr (thrum_decode (by decide) rfl)
theorem brx (w : TWord) : Statement (.brx w) := fun _ => .inr (thrum_decode (by decide) rfl)
theorem call (w : TWord) : Statement (.call w) := fun h =>
  have hb : mdB w 0 = false := Bool.eq_false_of_not_eq_true' (wf_check (c := .subform) h (by simp only [checks]; exact List.mem_cons_self))
  .inr (thrum_decode (by decide) (by simp [thrumOf, hb]))
theorem callInd (w : TWord) : Statement (.callInd w) := fun h =>
  have hb : mdB w 0 = true := wf_check (c := .subform) h (by simp only [checks]; exact List.mem_cons_self)
  .inr (thrum_decode (by decide) (by simp [thrumOf, hb]))
theorem ret (w : TWord) : Statement (.ret w) := fun _ => .inr (thrum_decode (by decide) rfl)
theorem reform (w : TWord) : Statement (.reform w) := fun _ => .inr (thrum_decode (by decide) rfl)
theorem yield (w : TWord) : Statement (.yield w) := fun _ => .inr (thrum_decode (by decide) rfl)
theorem poll (w : TWord) : Statement (.poll w) := fun _ => .inr (thrum_decode (by decide) rfl)
theorem sleep (w : TWord) : Statement (.sleep w) := fun _ => .inr (thrum_decode (by decide) rfl)
theorem region (w : TWord) : Statement (.region w) := fun _ => .inr (thrum_decode (by decide) rfl)
theorem exit (w : TWord) : Statement (.exit w) := fun _ => .inr (thrum_decode (by decide) rfl)
theorem trap (w : TWord) : Statement (.trap w) := fun _ => .inr (thrum_decode (by decide) rfl)
theorem bkpt (w : TWord) : Statement (.bkpt w) := fun _ => .inr (thrum_decode (by decide) rfl)
theorem ld (w : TWord) : Statement (.ld w) := fun _ => .inr (thrum_decode (by decide) rfl)
theorem st (w : TWord) : Statement (.st w) := fun _ => .inr (thrum_decode (by decide) rfl)
theorem lds (w : TWord) : Statement (.lds w) := fun _ => .inr (thrum_decode (by decide) rfl)
theorem sts (w : TWord) : Statement (.sts w) := fun _ => .inr (thrum_decode (by decide) rfl)
theorem pf (w : TWord) : Statement (.pf w) := fun _ => .inr (thrum_decode (by decide) rfl)
theorem evict (w : TWord) : Statement (.evict w) := fun _ => .inr (thrum_decode (by decide) rfl)
theorem atom (w : TWord) : Statement (.atom w) := fun _ => .inr (thrum_decode (by decide) rfl)
theorem atomn (w : TWord) : Statement (.atomn w) := fun _ => .inr (thrum_decode (by decide) rfl)
theorem cas (w : TWord) : Statement (.cas w) := fun _ => .inr (thrum_decode (by decide) rfl)
theorem atoms (w : TWord) : Statement (.atoms w) := fun _ => .inr (thrum_decode (by decide) rfl)
theorem cass (w : TWord) : Statement (.cass w) := fun _ => .inr (thrum_decode (by decide) rfl)
theorem fence (w : TWord) : Statement (.fence w) := fun _ => .inr (thrum_decode (by decide) rfl)
theorem acp (w : TWord) : Statement (.acp w) := fun _ => .inr (thrum_decode (by decide) rfl)
theorem tcp (w : TWord) : Statement (.tcp w) := fun _ => .inr (thrum_decode (by decide) rfl)
theorem tmc (w : TWord) : Statement (.tmc w) := fun _ => .inr (thrum_decode (by decide) rfl)
theorem tsf (w : TWord) : Statement (.tsf w) := fun _ => .inr (thrum_decode (by decide) rfl)
theorem tst (w : TWord) : Statement (.tst w) := fun _ => .inr (thrum_decode (by decide) rfl)
theorem trst (w : TWord) : Statement (.trst w) := fun _ => .inr (thrum_decode (by decide) rfl)
theorem rcp (w : TWord) : Statement (.rcp w) := fun _ => .inr (thrum_decode (by decide) rfl)
theorem pinit (w : TWord) : Statement (.pinit w) := fun _ => .inr (thrum_decode (by decide) rfl)
theorem parr (w : TWord) : Statement (.parr w) := fun _ => .inr (thrum_decode (by decide) rfl)
theorem parrb (w : TWord) : Statement (.parrb w) := fun _ => .inr (thrum_decode (by decide) rfl)
theorem pwait (w : TWord) : Statement (.pwait w) := fun _ => .inr (thrum_decode (by decide) rfl)
theorem ptest (w : TWord) : Statement (.ptest w) := fun _ => .inr (thrum_decode (by decide) rfl)
theorem cinit (w : TWord) : Statement (.cinit w) := fun _ => .inr (thrum_decode (by decide) rfl)
theorem mjoin (w : TWord) : Statement (.mjoin w) := fun _ => .inr (thrum_decode (by decide) rfl)
theorem mld (w : TWord) : Statement (.mld w) := fun _ => .inr (thrum_decode (by decide) rfl)
theorem mldq (w : TWord) : Statement (.mldq w) := fun _ => .inr (thrum_decode (by decide) rfl)
theorem mswap (w : TWord) : Statement (.mswap w) := fun _ => .inr (thrum_decode (by decide) rfl)
theorem mstream (w : TWord) : Statement (.mstream w) := fun _ => .inr (thrum_decode (by decide) rfl)
theorem mdrain (w : TWord) : Statement (.mdrain w) := fun _ => .inr (thrum_decode (by decide) rfl)
theorem mzero (w : TWord) : Statement (.mzero w) := fun _ => .inr (thrum_decode (by decide) rfl)
theorem mrowSt (w : TWord) : Statement (.mrowSt w) := fun h =>
  have hb : mdB w 7 = false := Bool.eq_false_of_not_eq_true' (wf_check (c := .subform) h (by simp only [checks]; exact List.mem_cons_self))
  .inr (thrum_decode (by decide) (by simp [thrumOf, hb]))
theorem mrowLd (w : TWord) : Statement (.mrowLd w) := fun h =>
  have hb : mdB w 7 = true := wf_check (c := .subform) h (by simp only [checks]; exact List.mem_cons_self)
  .inr (thrum_decode (by decide) (by simp [thrumOf, hb]))
theorem rast (w : TWord) : Statement (.rast w) := fun _ => .inr (thrum_decode (by decide) rfl)
theorem trav (w : TWord) : Statement (.trav w) := fun _ => .inr (thrum_decode (by decide) rfl)
theorem shq (w : TWord) : Statement (.shq w) := fun _ => .inr (thrum_decode (by decide) rfl)
theorem shpark (w : TWord) : Statement (.shpark w) := fun _ => .inr (thrum_decode (by decide) rfl)
theorem shfill (w : TWord) : Statement (.shfill w) := fun h =>
  have hb : mdB w 0 = false := Bool.eq_false_of_not_eq_true' (wf_check (c := .subform) h (by simp only [checks]; exact List.mem_cons_self))
  .inr (thrum_decode (by decide) (by simp [thrumOf, hb]))
theorem shfillDrop (w : TWord) : Statement (.shfillDrop w) := fun h =>
  have hb : mdB w 0 = true := wf_check (c := .subform) h (by simp only [checks]; exact List.mem_cons_self)
  .inr (thrum_decode (by decide) (by simp [thrumOf, hb]))
theorem shinv (w : TWord) : Statement (.shinv w) := fun _ => .inr (thrum_decode (by decide) rfl)
theorem shtick (w : TWord) : Statement (.shtick w) := fun _ => .inr (thrum_decode (by decide) rfl)
theorem launch (w : TWord) : Statement (.launch w) := fun _ => .inr (thrum_decode (by decide) rfl)
theorem tdone (w : TWord) : Statement (.tdone w) := fun _ => .inr (thrum_decode (by decide) rfl)
theorem sigdec (w : TWord) : Statement (.sigdec w) := fun _ => .inr (thrum_decode (by decide) rfl)
theorem role (w : TWord) : Statement (.role w) := fun _ => .inr (thrum_decode (by decide) rfl)
theorem sysr (w : TWord) : Statement (.sysr w) := fun _ => .inr (thrum_decode (by decide) rfl)
theorem sysw (w : TWord) : Statement (.sysw w) := fun _ => .inr (thrum_decode (by decide) rfl)
theorem ldfmt (w : TWord) : Statement (.ldfmt w) := fun h =>
  have hb : mdB w 6 = false := Bool.eq_false_of_not_eq_true' (wf_check (c := .subform) h (by simp only [checks]; exact List.mem_cons_self))
  .inr (thrum_decode (by decide) (by simp [thrumOf, hb]))
theorem ldfmtClr (w : TWord) : Statement (.ldfmtClr w) := fun h =>
  have hb : mdB w 6 = true := wf_check (c := .subform) h (by simp only [checks]; exact List.mem_cons_self)
  .inr (thrum_decode (by decide) (by simp [thrumOf, hb]))
theorem ldovf (w : TWord) : Statement (.ldovf w) := fun _ => .inr (thrum_decode (by decide) rfl)
theorem xsync (w : TWord) : Statement (.xsync w) := fun _ => .inr (thrum_decode (by decide) rfl)
theorem splinter (w : TWord) : Statement (.splinter w) := fun _ => .inr (thrum_decode (by decide) rfl)
theorem migrate (w : TWord) : Statement (.migrate w) := fun _ => .inr (thrum_decode (by decide) rfl)
theorem ctrr (w : TWord) : Statement (.ctrr w) := fun _ => .inr (thrum_decode (by decide) rfl)
theorem tret (w : TWord) : Statement (.tret w) := fun _ => .inr (thrum_decode (by decide) rfl)
theorem bmsg (w : TWord) : Statement (.bmsg w) := fun _ => .inr (thrum_decode (by decide) rfl)

/-! ### Events -/

theorem deviceReset  : Statement (.deviceReset) := fun _ => .inl rfl
theorem firmwareImageLoad (img : FwImage) : Statement (.firmwareImageLoad img) := fun _ => .inl rfl
theorem fullServiceEntry  : Statement (.fullServiceEntry) := fun _ => .inl rfl
theorem clockStep (up : Bool) : Statement (.clockStep up) := fun _ => .inl rfl
theorem thermalShutdown  : Statement (.thermalShutdown) := fun _ => .inl rfl
theorem attestationRequest (fn : Nat) (nonce : List Byte) : Statement (.attestationRequest fn nonce) := fun _ => .inl rfl
theorem registerWrite (view fn off : Nat) (wide : Bool) (val : W64) : Statement (.registerWrite view fn off wide val) := fun _ => .inl rfl
theorem qnotifyWrite (fn q : Nat) (val : W32) : Statement (.qnotifyWrite fn q val) := fun _ => .inl rfl
theorem queueEnable (fn q : Nat) : Statement (.queueEnable fn q) := fun _ => .inl rfl
theorem queueDestroyDrain (fn q : Nat) : Statement (.queueDestroyDrain fn q) := fun _ => .inl rfl
theorem queueDestroyKill (fn q : Nat) : Statement (.queueDestroyKill fn q) := fun _ => .inl rfl
theorem ringEntryRead (fn q : Nat) : Statement (.ringEntryRead fn q) := fun _ => .inl rfl
theorem waitPacketSatisfied (fn q : Nat) : Statement (.waitPacketSatisfied fn q) := fun _ => .inl rfl
theorem residencyLeaseGrant (l : Nat) : Statement (.residencyLeaseGrant l) := fun _ => .inl rfl
theorem reservation (l leaf : Nat) : Statement (.reservation l leaf) := fun _ => .inl rfl
theorem reservationAnswer (l leaf : Nat) : Statement (.reservationAnswer l leaf) := fun _ => .inl rfl
theorem reservationTimeout (l : Nat) : Statement (.reservationTimeout l) := fun _ => .inl rfl
theorem commit (l leaf : Nat) : Statement (.commit l leaf) := fun _ => .inl rfl
theorem cancel (l leaf : Nat) : Statement (.cancel l leaf) := fun _ => .inl rfl
theorem resourcesFreed (leaf : Nat) : Statement (.resourcesFreed leaf) := fun _ => .inl rfl
theorem reservationStarvation (l : Nat) : Statement (.reservationStarvation l) := fun _ => .inl rfl
theorem continuationRecordFile (fn q : Nat) : Statement (.continuationRecordFile fn q) := fun _ => .inl rfl
theorem poolAgedDraw (fn q bin core : Nat) : Statement (.poolAgedDraw fn q bin core) := fun _ => .inl rfl
theorem taskDispatch (core wg task : Nat) : Statement (.taskDispatch core wg task) := fun _ => .inl rfl
theorem launchCompletion (l : Nat) : Statement (.launchCompletion l) := fun _ => .inl rfl
theorem deferredPacketMove (id : Nat) : Statement (.deferredPacketMove id) := fun _ => .inl rfl
theorem energyCharge  : Statement (.energyCharge) := fun _ => .inl rfl
theorem energyPeriod  : Statement (.energyPeriod) := fun _ => .inl rfl
theorem halt (req : Nat) : Statement (.halt req) := fun _ => .inl rfl
theorem contextSave (core wg : Nat) : Statement (.contextSave core wg) := fun _ => .inl rfl
theorem contextReentry (fn idx core : Nat) : Statement (.contextReentry fn idx core) := fun _ => .inl rfl
theorem freeze (fn : Nat) : Statement (.freeze fn) := fun _ => .inl rfl
theorem thaw (fn : Nat) : Statement (.thaw fn) := fun _ => .inl rfl
theorem debugResume (fn : Nat) : Statement (.debugResume fn) := fun _ => .inl rfl
theorem debugEnd (fn : Nat) : Statement (.debugEnd fn) := fun _ => .inl rfl
theorem taskEnd (l : Nat) : Statement (.taskEnd l) := fun _ => .inl rfl
theorem watchdog (l : Nat) : Statement (.watchdog l) := fun _ => .inl rfl
theorem ownershipReturnTimeout (line : Nat) : Statement (.ownershipReturnTimeout line) := fun _ => .inl rfl
theorem invalidationAckTimeout (line agent : Nat) : Statement (.invalidationAckTimeout line agent) := fun _ => .inl rfl
theorem bobbinOverrun (k : Nat) : Statement (.bobbinOverrun k) := fun _ => .inl rfl
theorem vectorSliceEnd (core : Nat) : Statement (.vectorSliceEnd core) := fun _ => .inl rfl
theorem sliceIdleEnd (core : Nat) (matrix : Bool) : Statement (.sliceIdleEnd core matrix) := fun _ => .inl rfl
theorem matrixSliceSwitch (core : Nat) : Statement (.matrixSliceSwitch core) := fun _ => .inl rfl
theorem spinnerDisplacement (core wg : Nat) : Statement (.spinnerDisplacement core wg) := fun _ => .inl rfl
theorem bandwidthPeriod  : Statement (.bandwidthPeriod) := fun _ => .inl rfl
theorem portThrottleUpdate (fn core : Nat) : Statement (.portThrottleUpdate fn core) := fun _ => .inl rfl
theorem functionLevelReset (fn : Nat) : Statement (.functionLevelReset fn) := fun _ => .inl rfl
theorem promotion (core quad : Nat) : Statement (.promotion core quad) := fun _ => .inl rfl
theorem rotation (core quad : Nat) : Statement (.rotation core quad) := fun _ => .inl rfl
theorem scoreboardDemotion (core grp : Nat) : Statement (.scoreboardDemotion core grp) := fun _ => .inl rfl
theorem binAgedDraw (core quad bin : Nat) : Statement (.binAgedDraw core quad bin) := fun _ => .inl rfl
theorem sleepWake (core grp : Nat) : Statement (.sleepWake core grp) := fun _ => .inl rfl
theorem pollTimeout (core grp : Nat) : Statement (.pollTimeout core grp) := fun _ => .inl rfl
theorem pollSpuriousWake (core grp : Nat) : Statement (.pollSpuriousWake core grp) := fun _ => .inl rfl
theorem loadReturn (id : Nat) : Statement (.loadReturn id) := fun _ => .inl rfl
theorem readLeaseRequest (core line : Nat) : Statement (.readLeaseRequest core line) := fun _ => .inl rfl
theorem writePerform (id : Nat) : Statement (.writePerform id) := fun _ => .inl rfl
theorem leaseWaitEnd (line : Nat) : Statement (.leaseWaitEnd line) := fun _ => .inl rfl
theorem ownershipGrant (core line : Nat) : Statement (.ownershipGrant core line) := fun _ => .inl rfl
theorem ownershipReturn (line : Nat) : Statement (.ownershipReturn line) := fun _ => .inl rfl
theorem farAtomicAck (line : Nat) : Statement (.farAtomicAck line) := fun _ => .inl rfl
theorem pageWalk (agent fn va : Nat) : Statement (.pageWalk agent fn va) := fun _ => .inl rfl
theorem translationInvalidation (agent line : Nat) : Statement (.translationInvalidation agent line) := fun _ => .inl rfl
theorem invalidationAck (agent line : Nat) : Statement (.invalidationAck agent line) := fun _ => .inl rfl
theorem remoteRequest (dev fn : Nat) (rq : RemoteReq) : Statement (.remoteRequest dev fn rq) := fun _ => .inl rfl
theorem migrationLineBlock (id line : Nat) : Statement (.migrationLineBlock id line) := fun _ => .inl rfl
theorem migrationReplay (id : Nat) : Statement (.migrationReplay id) := fun _ => .inl rfl
theorem copyCheck (id : Nat) : Statement (.copyCheck id) := fun _ => .inl rfl
theorem copyWriteLand (id k : Nat) : Statement (.copyWriteLand id k) := fun _ => .inl rfl
theorem batchClose (id : Nat) : Statement (.batchClose id) := fun _ => .inl rfl
theorem rcpSignalDecrement (id : Nat) : Statement (.rcpSignalDecrement id) := fun _ => .inl rfl
theorem picotStep (core addr : Nat) : Statement (.picotStep core addr) := fun _ => .inl rfl
theorem arrayOperationStart (core : Nat) (mismatch : List (Nat × Bool)) : Statement (.arrayOperationStart core mismatch) := fun _ => .inl rfl
theorem arrayOperationComplete (core id : Nat) : Statement (.arrayOperationComplete core id) := fun _ => .inl rfl
theorem shqAllocate (id : Nat) : Statement (.shqAllocate id) := fun _ => .inl rfl
theorem continuationEmit (ctl : Nat) : Statement (.continuationEmit ctl) := fun _ => .inl rfl
theorem releasedRecordDelivery (ctl : Nat) : Statement (.releasedRecordDelivery ctl) := fun _ => .inl rfl
theorem shinvScanDone (ctl idx : Nat) : Statement (.shinvScanDone ctl idx) := fun _ => .inl rfl
theorem poolClockEviction (cls : Nat) : Statement (.poolClockEviction cls) := fun _ => .inl rfl
theorem shadingRecordApply (val : W32) : Statement (.shadingRecordApply val) := fun _ => .inl rfl
theorem handlerEnable (fn : Nat) : Statement (.handlerEnable fn) := fun _ => .inl rfl
theorem handlerDisable (fn : Nat) : Statement (.handlerDisable fn) := fun _ => .inl rfl
theorem missEvent (id : Nat) : Statement (.missEvent id) := fun _ => .inl rfl
theorem fillEvent (line : Nat) : Statement (.fillEvent line) := fun _ => .inl rfl
theorem evictEvent (line : Nat) : Statement (.evictEvent line) := fun _ => .inl rfl
theorem msgEvent (id : Nat) : Statement (.msgEvent id) := fun _ => .inl rfl
theorem invocationStart (k : Nat) : Statement (.invocationStart k) := fun _ => .inl rfl
theorem budgetExhausted (k : Nat) : Statement (.budgetExhausted k) := fun _ => .inl rfl
theorem bmsgReply (id : Nat) : Statement (.bmsgReply id) := fun _ => .inl rfl
theorem patrolScrub (line : Nat) (uncorrectable : Bool) : Statement (.patrolScrub line uncorrectable) := fun _ => .inl rfl
theorem selfTest (u : UnitName) (pass : Bool) : Statement (.selfTest u pass) := fun _ => .inl rfl
theorem linkRetry (place fails : Nat) : Statement (.linkRetry place fails) := fun _ => .inl rfl
theorem queueDisable (fn q : Nat) : Statement (.queueDisable fn q) := fun _ => .inl rfl
theorem reducedServiceEntry  : Statement (.reducedServiceEntry) := fun _ => .inl rfl
theorem rastTravResult (id : Nat) : Statement (.rastTravResult id) := fun _ => .inl rfl
theorem flogbaseWrite (fn : Nat) (val : W64) : Statement (.flogbaseWrite fn val) := fun _ => .inl rfl

end Encodes
end Sys2Proof.Laws
end

