-- ==== Sys2Proof/Tests/Slice0.lean ====
section
/-! SUPPORT. Tests: words of the spec's worked encodings, ill-formed terms, states that meet the hypotheses of the statements, and single
steps whose result the spec gives. -/

namespace Sys2Proof.Tests

open Sys2Proof Sys2Proof.Machine Sys2Proof.Spec

-- One theorem at a time: a few kernel evaluations at once would need as many large stacks.
set_option Elab.async false

/-! ### Well-formedness: one ill-formed term for each check -/

/-- A word under the guard p7, with no completion flag and no literal. -/
def tw (d a b c : Nat) (md : Byte := 0#8) : TWord := fields d a b c md 0xFF800000#32

theorem test_wf_accepts : failed (.add (tw 4 5 6 1022 0x01#8)) = [] := by decide +kernel
theorem test_wf_illegalInstruction : failed (.add (tw 4 5 6 7)) = [.illegalInstruction] := by decide +kernel
theorem test_wf_illegalOperand : failed (.mulw (tw 5 6 7 1022)) = [.illegalOperand] := by decide +kernel
theorem test_wf_subform : WfCheck.subform ∈ failed (.shfill (tw 2 2 6 7 0x01#8)) := by decide +kernel
theorem test_wf_rvImmediate : failed (.bobbinBase (.opImm .sub 1#5 2#5 3#12)) = [.rvImmediate] := by decide +kernel
theorem test_wf_rvCompressed : failed (.bobbinBase (.compressed (.lwsp 0#5 4#6))) = [.rvCompressed] := by decide +kernel
theorem test_wf_rvLegal : failed (.bobbinBase (.illegal 0x00C58533#32)) = [.rvLegal] := by decide +kernel
theorem test_wf_function : failed (.freeze 33) = [.function] := by decide +kernel
theorem test_wf_queue : failed (.ringEntryRead 1 64) = [.queue] := by decide +kernel
theorem test_wf_core : failed (.picotStep 400 0) = [.core] := by decide +kernel
theorem test_wf_cluster : failed (.invocationStart 100) = [.cluster] := by decide +kernel
theorem test_wf_image : failed (.firmwareImageLoad { row := 5, key := [], sig := [], body := [], version := 0 }) = [.image] := by
  decide +kernel

/-! ### Decoding: each OP of Table 2.8, in a word with D 4, A 8, B 12, C 16, PI 7 and E 1022 (Table 2.3) -/

/-- W2 is written out; W1 holds B, C, PI and MOD, W0 holds E. -/
def reads (w2 : W32) (md : Byte) (i : TWord → Instr) : Bool :=
  match decodeThrum (w2 ++ (0x0C041C#24 ++ md) ++ 0xFF800000#32) with
  | .ok j => j == i (tw 4 8 12 16 md)
  | .error _ => false

theorem test_decode_integer :
    ([
    (0x00004020#32, .add), (0x00404020#32, .sub), (0x00804020#32, .mul), (0x00C04020#32, .mulhi), (0x01004020#32, .mad),
    (0x01404020#32, .mulw), (0x01804020#32, .madw), (0x01C04020#32, .addc), (0x02004020#32, .subc), (0x02404020#32, .min),
    (0x02804020#32, .max), (0x02C04020#32, .abs), (0x03004020#32, .neg), (0x03404020#32, .cmp), (0x03804020#32, .sel)] :
      List (W32 × (TWord → Instr))).all (fun p => reads p.1 0#8 p.2) = true := by decide +kernel
theorem test_decode_logic :
    ([
    (0x10004020#32, .and), (0x10404020#32, .or), (0x10804020#32, .xor), (0x10C04020#32, .not), (0x11004020#32, .lop3),
    (0x11404020#32, .shl), (0x11804020#32, .shr), (0x11C04020#32, .fsh), (0x12004020#32, .bfe), (0x12404020#32, .bfi),
    (0x12804020#32, .popc), (0x12C04020#32, .clz), (0x13004020#32, .ctz), (0x13404020#32, .brev), (0x13804020#32, .mov),
    (0x13C04020#32, .plop), (0x14004020#32, .p2r), (0x14404020#32, .r2p)] :
      List (W32 × (TWord → Instr))).all (fun p => reads p.1 0#8 p.2) = true := by decide +kernel
theorem test_decode_fp32 :
    ([
    (0x20004020#32, .fadd), (0x20404020#32, .fsub), (0x20804020#32, .fmul), (0x20C04020#32, .ffma), (0x21004020#32, .fmin),
    (0x21404020#32, .fmax), (0x21804020#32, .fcmp)] :
      List (W32 × (TWord → Instr))).all (fun p => reads p.1 0#8 p.2) = true := by decide +kernel
theorem test_decode_conversion :
    ([
    (0x30004020#32, .cvt), (0x30404020#32, .cvtnPack), (0x30804020#32, .settag), (0x30C04020#32, .gettag),
    (0x32004020#32, .frcp), (0x32404020#32, .frsqrt), (0x32804020#32, .fsqrt), (0x32C04020#32, .fexp2), (0x33004020#32, .flog2),
    (0x33404020#32, .fsin), (0x33804020#32, .fcos)] :
      List (W32 × (TWord → Instr))).all (fun p => reads p.1 0#8 p.2) = true := by decide +kernel
theorem test_decode_packed :
    ([
    (0x40004020#32, .hadd2), (0x40404020#32, .hsub2), (0x40804020#32, .hmul2), (0x40C04020#32, .hfma2), (0x41004020#32, .hmin2),
    (0x41404020#32, .hmax2), (0x42004020#32, .dp4a), (0x42404020#32, .dp2bf)] :
      List (W32 × (TWord → Instr))).all (fun p => reads p.1 0#8 p.2) = true := by decide +kernel
theorem test_decode_fp64 :
    ([
    (0x50004020#32, .dadd), (0x50404020#32, .dsub), (0x50804020#32, .dmul), (0x50C04020#32, .dfma), (0x51004020#32, .dmin),
    (0x51404020#32, .dmax), (0x51804020#32, .dcmp), (0x51C04020#32, .dcvt)] :
      List (W32 × (TWord → Instr))).all (fun p => reads p.1 0#8 p.2) = true := by decide +kernel
theorem test_decode_cross_lane :
    ([
    (0x60004020#32, .shfl), (0x60404020#32, .push), (0x60804020#32, .vote), (0x60C04020#32, .matchOp), (0x61004020#32, .xred),
    (0x61404020#32, .xscan)] :
      List (W32 × (TWord → Instr))).all (fun p => reads p.1 0#8 p.2) = true := by decide +kernel
theorem test_decode_control :
    ([
    (0x70004020#32, .nop), (0x70404020#32, .bra), (0x70804020#32, .brx), (0x70C04020#32, .call), (0x71004020#32, .ret),
    (0x71404020#32, .reform), (0x71804020#32, .yield), (0x71C04020#32, .poll), (0x72004020#32, .sleep), (0x72404020#32, .region),
    (0x72804020#32, .exit), (0x72C04020#32, .trap), (0x73004020#32, .bkpt)] :
      List (W32 × (TWord → Instr))).all (fun p => reads p.1 0#8 p.2) = true := by decide +kernel
theorem test_decode_load_store :
    ([
    (0x80004020#32, .ld), (0x80404020#32, .st), (0x80804020#32, .lds), (0x80C04020#32, .sts), (0x81004020#32, .pf),
    (0x81404020#32, .evict)] :
      List (W32 × (TWord → Instr))).all (fun p => reads p.1 0#8 p.2) = true := by decide +kernel
theorem test_decode_atomic :
    ([
    (0x90004020#32, .atom), (0x90404020#32, .atomn), (0x90804020#32, .cas), (0x90C04020#32, .atoms), (0x91004020#32, .cass),
    (0x92004020#32, .fence)] :
      List (W32 × (TWord → Instr))).all (fun p => reads p.1 0#8 p.2) = true := by decide +kernel
theorem test_decode_copy_picot :
    ([
    (0xA0004020#32, .acp), (0xA0404020#32, .tcp), (0xA0804020#32, .tmc), (0xA0C04020#32, .tsf), (0xA1004020#32, .tst),
    (0xA1404020#32, .trst), (0xA1804020#32, .rcp), (0xA2004020#32, .pinit), (0xA2404020#32, .parr), (0xA2804020#32, .parrb),
    (0xA2C04020#32, .pwait), (0xA3004020#32, .ptest)] :
      List (W32 × (TWord → Instr))).all (fun p => reads p.1 0#8 p.2) = true := by decide +kernel
theorem test_decode_matrix :
    ([
    (0xB0004020#32, .cinit), (0xB0404020#32, .mjoin), (0xB0804020#32, .mld), (0xB0C04020#32, .mldq), (0xB1004020#32, .mswap),
    (0xB1404020#32, .mstream), (0xB1804020#32, .mdrain), (0xB1C04020#32, .mzero), (0xB2004020#32, .mrowSt)] :
      List (W32 × (TWord → Instr))).all (fun p => reads p.1 0#8 p.2) = true := by decide +kernel
theorem test_decode_units_shading :
    ([
    (0xC0004020#32, .rast), (0xC0404020#32, .trav), (0xC0804020#32, .shq), (0xC0C04020#32, .shpark), (0xC1004020#32, .shfill),
    (0xC1404020#32, .shinv), (0xC1804020#32, .shtick)] :
      List (W32 × (TWord → Instr))).all (fun p => reads p.1 0#8 p.2) = true := by decide +kernel
theorem test_decode_launch :
    ([
    (0xD0004020#32, .launch), (0xD0404020#32, .tdone), (0xD0804020#32, .sigdec), (0xD0C04020#32, .role)] :
      List (W32 × (TWord → Instr))).all (fun p => reads p.1 0#8 p.2) = true := by decide +kernel
theorem test_decode_system :
    ([
    (0xE0004020#32, .sysr), (0xE0404020#32, .sysw), (0xE0804020#32, .ldfmt), (0xE0C04020#32, .ldovf), (0xE1004020#32, .xsync),
    (0xE1404020#32, .splinter), (0xE1804020#32, .migrate), (0xE1C04020#32, .ctrr), (0xE2004020#32, .tret),
    (0xE2404020#32, .bmsg)] :
      List (W32 × (TWord → Instr))).all (fun p => reads p.1 0#8 p.2) = true := by decide +kernel
theorem test_decode_forms :
    ([(0x30404020#32, 0x80#8, .cvtnUnpack), (0x70C04020#32, 0x01#8, .callInd), (0xB2004020#32, 0x80#8, .mrowLd),
      (0xC1004020#32, 0x01#8, .shfillDrop), (0xE0804020#32, 0x40#8, .ldfmtClr)] :
      List (W32 × Byte × (TWord → Instr))).all (fun p => reads p.1 p.2.1 p.2.2) = true := by decide +kernel
theorem test_decode_unassigned : decodeThrum (w96 0x03C04020#32 0x0C041C00#32 0xFF800000#32) = .error (.unassigned 15) := rfl
/-- Bobbin words of Table 13.5 and the RISC-V manual's: `add`, `addi`, `lw`, `sw`, `beq`, `jal`, `lui`, `csrrs`. -/
theorem test_decode_bobbin : ([
    (0x00C5850B#32, .lnrd 0#3 12#5 11#5 10#5), (0x00C5950B#32, .lnwr 0#3 12#5 11#5 10#5),
    (0x00C5B50B#32, .lsq 12#5 11#5 10#5), (0x0262A00B#32, .lnpf 1#1 6#5 5#5 0#5), (0x0200052B#32, .mrep 1#3 10#5),
    (0x0000102B#32, .hfin), (0x00C58533#32, .bobbinBase (.op .add 10#5 11#5 12#5)),
    (0xFFF58513#32, .bobbinBase (.opImm .add 10#5 11#5 0xFFF#12)), (0x00852503#32, .bobbinBase (.load .lw 10#5 10#5 8#12)),
    (0x00A52423#32, .bobbinBase (.store .sw 10#5 10#5 8#12)), (0x00B50463#32, .bobbinBase (.branch .eq 10#5 11#5 4#12)),
    (0x008000EF#32, .bobbinBase (.jal 1#5 4#20)), (0x12345537#32, .bobbinBase (.lui 10#5 0x12345#20)),
    (0xC0002573#32, .bobbinBase (.csr .rs false 10#5 0#5 0xC00#12))] : List (W32 × Instr)).all
      (fun p => decodeBobbin32 p.1 == p.2) = true := by decide +kernel
/-- `c.addi a0, -1`, `c.mv a0, a1`, `c.jr ra`, and the all-zero halfword, which no program may execute. -/
theorem test_decode_compressed : decodeRvC 0x157D#16 = .compressed (.addi 10#5 0x3F#6) ∧
    decodeRvC 0x852E#16 = .compressed (.mv 10#5 11#5) ∧ decodeRvC 0x8082#16 = .compressed (.jr 1#5) ∧
    decodeRvC 0#16 = .illegalC 0#16 := by decide +kernel

/-! ### States that meet the hypotheses of the statements -/

/-- A running group of these threads of function 1 on core 0; the first 64 KiB of memory are mapped, and the slots of the line at 64
are branch targets. -/
def boxOf (ths : List Thread) : State :=
  let s := State.reset.withThrum 0
  { s with
    agenda := [], cur := .group 0, mem := cwrite s.mem 64 [0x80#8, 0x0F#8]
    groups := [(0, { core := 0, wg := 0, quad := 0, tids := upTo ths.length, pc := 0#64, rstart := 0#64 })]
    wgs := s.wgs.map (fun p => (p.1, { p.2 with nthr := ths.length, threads := (upTo ths.length).zip ths })) }
/-- `n` threads with the same registers. -/
def box (rs : Tab Reg) (n : Nat := 1) : State := boxOf (List.replicate n { nregs := 768, regs := rs })

/-- Integers in v1 to v3, FP32 numbers in v4 to v6, an FP64 number in v8 and v9, a NaN in v10. -/
def regs : Tab Reg :=
  [(1, ⟨7#32, 1#6⟩), (2, ⟨9#32, 2#6⟩), (3, ⟨0x80000000#32, 0#6⟩), (4, ⟨0x3F800000#32, 3#6⟩), (5, ⟨0x40490FDB#32, 3#6⟩),
   (6, ⟨0xC0000000#32, 3#6⟩), (8, ⟨0#32, 6#6⟩), (9, ⟨0x3FF00000#32, 6#6⟩), (10, ⟨0x7FA00001#32, 3#6⟩),
   (13, ⟨0x01027F80#32, 7#6⟩), (16, ⟨0x3F800000#32, 3#6⟩), (17, ⟨0#32, 3#6⟩), (18, ⟨0#32, 3#6⟩), (19, ⟨0#32, 3#6⟩)]
def one : State := box regs

/-- The word issues in the state, some thread executes it, and `ok` holds. -/
def meets (s : State) (sg : TWord → Sig) (w : TWord) (extra : List Nat) (ok : Ctx → Bool) : Bool :=
  !s.boot.off && (match s.ctx? (sg w) w with
    | some x => (encTrap (sg w) w (x.enc s)).isNone && !x.blocked extra && !x.active.isEmpty && ok x
    | none => false)

theorem meets_issues {s : State} {sg : TWord → Sig} {w extra ok} (h : meets s sg w extra ok = true) :
    ∃ x, Issues (sg w) w extra s x ∧ x.active ≠ [] ∧ ok x = true := by
  unfold meets at h
  split at h
  · rename_i x hx
    simp only [Bool.and_eq_true, Bool.not_eq_true', Option.isNone_iff_eq_none, List.isEmpty_eq_false_iff] at h
    exact ⟨x, ⟨h.1, hx, h.2.1.1.1, h.2.1.1.2⟩, h.2.1.2, h.2.2⟩
  · simp at h

abbrev Sg := TWord → Sig
/-- Every executing thread passes. -/
def each (f : Nat → Thread → Bool) (x : Ctx) : Bool := x.active.all (fun p => f p.1 p.2)
def ok2 (x : Ctx) : Bool := each (ints (fun w => [w.a, w.b]) x) x

theorem test_meets_integer : ([(sigAdd, tw 4 1 2 1022), (sigSub, tw 4 1 2 1022), (sigMul, tw 4 1 2 1022), (sigMulhi, tw 4 1 2 1022),
    (sigNeg, tw 4 1 1022 1022), (sigMulw, tw 4 1 2 1022), (sigMin, tw 4 1 2 1022), (sigMax, tw 4 1 2 1022), (sigAbs, tw 4 1 1022 1022),
    (sigMad, tw 4 1 2 3), (sigMadw, tw 4 1 2 2), (sigCmp, tw 1 1 2 1022), (sigAddc, tw 4 1 2 1022), (sigSubc, tw 4 1 2 1022)] :
    List (Sg × TWord)).all (fun p => meets one p.1 p.2 [] (fun x => ok2 x && each (fun _ th => tagOk th x.w.c 1 tINT) x)) = true := by
  decide +kernel
theorem test_meets_logic : ([(sigAnd, tw 4 1 2 1022), (sigOr, tw 4 1 2 1022), (sigXor, tw 4 1 2 1022), (sigNot, tw 4 1 1022 1022),
    (sigLop3, tw 4 1 2 3), (sigMov, tw 4 1 1022 1022 0x42#8), (sigSel, tw 4 1 2 0 0x43#8), (sigShl, tw 4 1 2 1022), (sigShr, tw 4 1 2 1022),
    (sigFsh, tw 4 1 2 3), (sigBfe, tw 4 1 2 1022), (sigBfi, tw 4 1 2 3), (sigPopc, tw 4 1 1022 1022), (sigClz, tw 4 1 1022 1022),
    (sigCtz, tw 4 1 1022 1022), (sigBrev, tw 4 1 1022 1022), (sigPlop, tw 1 2 3 4), (sigP2r, tw 4 1022 1022 1022),
    (sigR2p, tw 1023 1 1022 1022 0x03#8)] : List (Sg × TWord)).all (fun p => meets one p.1 p.2 [] (fun x =>
      !badTag x.wg.fmt (x.w.md.toNat % 64) && each (fun _ th => !badTag x.wg.fmt (srcTag x.w th 0 x.w.a)) x)) = true := by
  decide +kernel
theorem test_meets_tag : ([(sigSettag, tw 4 1 1022 1022 0x03#8), (sigGettag, tw 4 4 1022 1022), (sigDp4a, tw 4 1022 1022 1 0x07#8)] :
    List (Sg × TWord)).all (fun p => meets one p.1 p.2 [] (fun x => !badTag x.wg.fmt (x.w.md.toNat % 64) &&
      each (fun _ th => tagOk th x.w.c 1 tINT) x)) = true := by decide +kernel

/-- An instruction of the register-to-register frame that raises no cause. -/
def runs (s : State) (sg : Sg) (w : TWord) (d : TWord → AluDef) : Bool := meets s sg w [] (fun x => (x.causes ((d w).fault x)).isNone)

theorem test_meets_fp : ([(sigFadd, tw 4 4 5 1022, faddDef), (sigFsub, tw 4 4 5 1022, fsubDef), (sigFmul, tw 4 4 10 1022, fmulDef),
    (sigFfma, tw 4 4 5 6, ffmaDef), (sigFmin, tw 4 4 5 1022, fminDef), (sigFmax, tw 4 4 5 1022, fmaxDef), (sigFcmp, tw 1 4 5 2, fcmpDef),
    (sigCvt, tw 4 4 1022 1022 0x20#8, cvtDef), (sigCvtnPack, tw 4 16 1022 1022 0x07#8, cvtnPackDef),
    (sigCvtnUnpack, tw 12 13 1022 1022 0x87#8, cvtnUnpackDef), (sigFrcp, tw 4 4 1022 1022, specialDef .rcp),
    (sigFrsqrt, tw 4 4 1022 1022, specialDef .rsqrt), (sigFsqrt, tw 4 6 1022 1022, specialDef .sqrt),
    (sigFexp2, tw 4 5 1022 1022, specialDef .exp2), (sigFlog2, tw 4 5 1022 1022, specialDef .log2),
    (sigFsin, tw 4 5 1022 1022, specialDef .sin), (sigFcos, tw 4 5 1022 1022, specialDef .cos)] :
    List (Sg × TWord × (TWord → AluDef))).all (fun p => runs one p.1 p.2.1 p.2.2) = true := by decide +kernel
theorem test_meets_packed : ([(sigHadd2, tw 4 1022 1022 1022, halfArith .add), (sigHsub2, tw 4 1022 1022 1022, halfArith .sub),
    (sigHmul2, tw 4 1022 1022 1022, halfArith .mul), (sigHfma2, tw 4 1022 1022 1022, halfArith .fma),
    (sigHmin2, tw 4 1022 1022 1022, halfMinMax false), (sigHmax2, tw 4 1022 1022 1022, halfMinMax true),
    (sigDp2bf, tw 4 1022 1022 4, dp2bfDef), (sigDadd, tw 8 8 8 1022, f64Arith .add), (sigDsub, tw 8 8 8 1022, f64Arith .sub),
    (sigDmul, tw 8 8 8 1022, f64Arith .mul), (sigDfma, tw 8 8 8 8, f64Arith .fma), (sigDmin, tw 8 8 8 1022, f64MinMax false),
    (sigDmax, tw 8 8 8 1022, f64MinMax true), (sigDcmp, tw 1 8 8 2, dcmpDef), (sigDcvt, tw 8 4 1022 1022 0x27#8, dcvtDef),
    (sigShfl, tw 4 5 2 1022 0x54#8, shflDef), (sigPush, tw 4 5 2 1022 0x54#8, pushDef), (sigVote, tw 4 1 1022 1022 0x54#8, voteDef),
    (sigMatch, tw 4 1 1022 1022 0xF4#8, matchDef), (sigXred, tw 4 1 1022 1022 0x50#8, xredDef),
    (sigXscan, tw 4 1 1022 1022 0x50#8, xscanDef)] : List (Sg × TWord × (TWord → AluDef))).all (fun p => runs one p.1 p.2.1 p.2.2) = true := by
  decide +kernel
/-- A NaN in A, and one in B alone. -/
theorem test_meets_nan : ([(10, 4), (4, 10)] : List (Nat × Nat)).all (fun p => meets one sigFfma (tw 4 p.1 p.2 6) [] (fun x =>
    x.w.md == 0#8 && each (fun i th => tagOk th x.w.a 1 isF32 && tagOk th x.w.b 1 isF32 && tagOk th x.w.c 1 isF32 &&
      (val x i th x.w.a == 0x7FA00001#32 || val x i th x.w.b == 0x7FA00001#32)) x)) = true := by decide +kernel
/-- Two threads, each naming lane 1: lane 0 reads its neighbour, lane 1 itself. -/
theorem test_meets_shuffle : meets (box [(1, ⟨0x12345678#32, 2#6⟩), (2, ⟨33#32, 1#6⟩)] 2) sigShfl (tw 4 1 2 1022 0x54#8) [] (fun x =>
    x.active.map (fun p => laneOf p.1) == [0, 1] && each (fun i th => (val x i th x.w.b).toNat % 32 == 1 && tagOk th x.w.b 1 tINT) x &&
      x.w.md.toNat % 4 == 0 && x.w.md.toNat / 4 % 8 == 5) = true := by decide +kernel

/-- The region of the group commits, and what follows holds of the state after it. -/
def commits (s : State) (x : Ctx) (f : State → Bool := fun _ => true) : Bool :=
  match s.commit x.gid with | .ok t => f t | _ => false
/-- A thread that p1 selects, and one that it does not. -/
def split (rs : Tab Reg) : State := boxOf [{ nregs := 768, regs := rs, preds := 2#7 }, { nregs := 768, regs := rs }]
/-- The group holds one buffered store of four bytes at 0x100. -/
def storing (s : State) : State := s.modGroup 0 (fun g => { g with
  buf := [{ id := 5, tid := 0, scr := false, addr := 0x100, bytes := [1#8, 2#8, 3#8, 4#8], pc := 0#64, relaxed := false }] })
/-- The group is in the prologue, its threads to return to the second slot of the line at 64. -/
def trapped (s : State) : State :=
  (s.modGroup 0 (fun g => { g with priv := true })).modWg 0 (fun v => { v with
    threads := v.threads.map (fun p => (p.1, { p.2 with tpc := 65#64 })) })
/-- All sixteen bins of the quadrant hold threads of other places. -/
def binsFull (s : State) : State := s.modCore 0 (fun c => { c with bins := (upTo 16).map (fun i =>
  (binKey 0 i, { wg := 9, pc := 0#64, ents := [{ tid := 0, cyc := 0, thr := 64, time := 0#64 }] })) })
/-- A word that p1 guards. -/
def onP1 (w : TWord) : TWord := { w with pi := 1#3 }
def none4 : TWord := tw 1023 1022 1022 1022
/-- A relative branch to the first slot of the next line. -/
def ahead : TWord := { tw 1023 1020 1022 1022 with ext := 8#32 }

theorem test_meets_region : ([(sigNop, none4), (sigRegion, none4), (sigBkpt, none4), (sigYield, none4)] : List (Sg × TWord)).all (fun p =>
    meets (storing one) p.1 p.2 [] (fun x => commits (storing one) x && !((storing one).fnb x.wg.fn).fault.dbgen)) = true := by
  decide +kernel
theorem test_meets_sleep : meets one sigSleep (tw 1023 1 1022 1022) [] (fun x => commits one x && sleepTime x == 7) = true := by
  decide +kernel
theorem test_meets_exit : meets one sigExit none4 [] (fun x => commits one x (fun t =>
    (((region x t x.next).endThreads x.wid (x.active.map Prod.fst)).taskSettle x.wid).isSome)) = true := by decide +kernel
/-- The group runs the first task of a graph of one task. -/
def tatting (s : State) : State :=
  (s.modWg 0 (fun v => { v with kind := .tatting, task := some 0 })).modLaunch 1 (fun l => { l with
    kind := .tatting, tasks := [(0, { pc := 0#64, tx := 0, ty := 0, succ := [], sink := true })] })
theorem test_meets_tdone : meets (tatting one) sigTdone none4 [] (fun x => commits (tatting one) x (fun t =>
    ((x.updateActive (region x t x.next) (fun _ th => { th with st := .tdone, rpc := x.next })).taskSettle x.wid).isSome)) = true := by
  decide +kernel
theorem test_meets_reform :
    meets one sigReform none4 [] (fun x => commits one x (fun t => ((region x t x.next).core 0).binFor 0 x.wid x.next == some 0)) = true ∧
    meets (binsFull one) sigReform none4 [] (fun x => commits (binsFull one) x (fun t =>
      ((region x t x.next).core 0).binFor 0 x.wid x.next == none)) = true := by decide +kernel
theorem test_meets_branch : ([(sigBra, ahead), (sigCall, { ahead with d := 20#10 })] : List (Sg × TWord)).all (fun p =>
    meets one p.1 p.2 [] (fun x => !pcBad 64#64 && (x.tgtCheck one 64#64).1 == .enter && x.threads.all (fun q => q.2.guard x.w)) &&
    meets (split regs) p.1 (onP1 p.2) [] (fun x => (x.tgtCheck (split regs) 64#64).1 == .enter &&
      x.threads.any (fun q => !q.2.guard x.w) && commits (x.tgtCheck (split regs) 64#64).2 x)) = true := by decide +kernel
theorem test_meets_branch_of_none : ([(sigBra, onP1 ahead), (sigCall, onP1 { ahead with d := 20#10 })] : List (Sg × TWord)).all (fun p =>
    match one.ctx? (p.1 p.2) p.2 with
    | some x => (encTrap (p.1 p.2) p.2 (x.enc one)).isNone && !x.blocked [] && x.active.isEmpty
    | none => false) = true := by decide +kernel
theorem test_meets_pair_branch : ([(sigBrx, tw 1023 20 1022 1022), (sigRet, tw 1023 20 1022 1022), (sigCallInd, tw 22 20 1022 1022 0x01#8)] :
    List (Sg × TWord)).all (fun p =>
      let s := box [(20, ⟨68#32, 2#6⟩), (21, ⟨0#32, 2#6⟩)] 2
      meets s p.1 p.2 [] (fun x => (x.tgtCheck s 68#64).1 == .enter && !pcBad 68#64 && x.threads.all (fun q =>
        q.2.guard x.w && srcPair x.w q.2 false x.w.a == 68#64 && tagOk q.2 x.w.a 2 tINT))) = true := by decide +kernel
theorem test_meets_trap : meets one sigTrap (tw 1023 1022 1022 1022 0xFF#8) [] (fun x => x.g.buf.isEmpty) = true := by decide +kernel
/-- A reserved MOD bit, and a register above the 768 that the group declares. -/
theorem test_meets_illegal : ([(tw 4 1 2 1022 0x80#8, 3), (tw 1000 1 2 1022, 4)] : List (TWord × Nat)).all (fun p =>
    match one.ctx? (sigAdd p.1) p.1 with
    | some x => x.g.buf.isEmpty && ((sigAdd p.1).illegalInstr p.1 (x.enc one) == (p.2 == 3)) &&
        ((sigAdd p.1).illegalInstr p.1 (x.enc one) || (sigAdd p.1).illegalOperand p.1 (x.enc one))
    | none => false) = true := by decide +kernel
theorem test_meets_tag_fault : meets one sigAdd (tw 20 1 4 1022) [] (fun x => x.g.buf.isEmpty &&
    x.active.any (fun p => !ints (fun w => [w.a, w.b]) x p.1 p.2)) = true := by decide +kernel
theorem test_meets_tret : ([0x00#8, 0x01#8] : List Byte).all (fun m => meets (trapped (box regs 2)) sigTret (tw 1023 1022 1022 1022 m) []
    (fun x => commits (trapped (box regs 2)) x && x.threads.all (fun p =>
      (if x.w.md.getLsbD 0 then nextPc p.2.tpc else p.2.tpc) == (if m = 0#8 then 65#64 else 66#64)) &&
      !pcBad 65#64 && !pcBad 66#64)) = true := by decide +kernel
/-- A source with a write to come, and a flag that stands at 63. -/
theorem test_meets_scoreboard : ([({ nregs := 768, pend := [(2, 1)] }, tw 4 1 2 1022),
    ({ nregs := 768, flags := [(1, 63)] }, { tw 4 1 2 1022 with fe := true, fs := true })] : List (Thread × TWord)).all (fun p =>
      let s := (boxOf [p.1]).modGroup 0 (fun g => { g with line := 0x00001000#32 })
      match s.ctx? (sigAdd p.2) p.2 with
      | some x => (encTrap (sigAdd p.2) p.2 (x.enc s)).isNone && x.blocked []
      | none => false) = true := by decide +kernel

/-- Addresses: v20 names 0x100, v21 is zero, v22 names the last word that is mapped, v24 and v26 the pairs 0x300 and 0x400, v28 the pair
0x200, where a tensor record of four 32-bit elements stands. -/
def ptrs : Tab Reg :=
  [(0, ⟨7#32, 2#6⟩), (1, ⟨9#32, 2#6⟩), (20, ⟨0x100#32, 2#6⟩), (21, ⟨0#32, 2#6⟩), (22, ⟨0xFFFC#32, 2#6⟩), (24, ⟨0x300#32, 2#6⟩),
   (25, ⟨0#32, 2#6⟩), (26, ⟨0x400#32, 2#6⟩), (27, ⟨0#32, 2#6⟩), (28, ⟨0x200#32, 2#6⟩), (29, ⟨0#32, 2#6⟩), (30, ⟨1#32, 2#6⟩)]
def tensor : List Byte :=
  leBytes 8 0x1000 ++ leBytes 4 4 ++ [1#8, 0#8, 0#8, 0#8, 1#8, 0#8, 0#8, 0#8, 1#8, 0#8, 0#8, 0#8, 1#8, 0#8, 0#8, 0#8] ++ zeroBytes 16 ++
    [3#8, 0#8, 0#8, 0#8, 0#8, 1#8, 1#8, 0#8] ++ zeroBytes 12
def mems : State := let s := box ptrs 2; { s with mem := cwrite s.mem 0x200 tensor }
/-- The first 64 KiB hold device registers of the function: memory type 3. -/
def ioPage : State := { mems with tlb := [{ loadTlb (agTlb 0) with mt := 3, pa := 0 }] }

/-- The accesses of the executing threads go out. -/
def out (s : State) (m : Mode) (n : Nat) (need : Need) (strong : Bool) (x : Ctx) : Bool :=
  if strong then commits s x (fun t => match x.reach m n need (region x t x.next) x.active with
    | .ok (rs, _) => !rs.isEmpty && !anyDev rs | .error _ => false)
  else match x.reach m n need s x.active with
    | .ok (rs, t) => !rs.isEmpty && !anyDev rs && (!anyIO rs || commits t x)
    | .error _ => false
def glob : Mode := { scr := false, wide := false }
def scr : Mode := { scr := true, wide := false }
/-- A word whose accesses may go out, with the causes of its kind checked. -/
def goes (s : State) (sg : Sg) (w : TWord) (m : Mode) (n : Nat) (need : Need) (strong : Bool) : Bool :=
  meets s sg w [] (fun x => (x.causes (x.accCause m n (fun _ => true))).isNone && out s m n need strong x)

/-- Plain, at the last mapped word; acquire; from an I/O page; 16 bytes; from the scratchpad; `poll`. -/
theorem test_meets_load :
    (goes mems sigLd (tw 4 22 1022 2 0x02#8) glob 4 needR false && goes mems sigLd (tw 4 20 1022 2 0x12#8) glob 4 needR true &&
      goes ioPage sigLd (tw 4 20 1022 2 0x02#8) glob 4 needR false && goes mems sigLd (tw 4 20 1022 0 0x04#8) glob 16 needR false &&
      goes mems sigLds (tw 4 22 1022 2 0x02#8) scr 4 needR false && goes mems sigPoll (tw 4 20 1022 1022 0x06#8) glob 4 needR true) = true := by
  decide +kernel
/-- Into the buffer, the scratchpad's too; into a buffer whose 64 lines are taken; released; to an I/O page. -/
theorem test_meets_store :
    (meets mems sigSt (tw 1023 22 1022 1 0x02#8) [] (fun x => !x.storesIO mems glob && !x.overfull glob) &&
      meets mems sigSts (tw 1023 22 1022 1 0x02#8) [] (fun x => !x.walkWaits scr mems && !x.storesIO mems scr && !x.overfull scr && x.active.all (fun p =>
        decide (x.addr scr p + 4 ≤ x.wg.ssize))) &&
      (let s := mems.modGroup 0 (fun g => { g with buf := (upTo 64).map (fun i =>
         { id := 5, tid := 0, scr := true, addr := 64 * i, bytes := [1#8], pc := 0#64, relaxed := false }) })
       meets s sigSt (tw 1023 20 1022 1 0x02#8) [] (fun x => x.overfull glob && commits s x)) &&
      goes mems sigSt (tw 1023 20 1022 1 0x1A#8) glob 4 needW true && goes ioPage sigSt (tw 1023 20 1022 1 0x02#8) glob 4 needW true &&
      meets ioPage sigSt (tw 1023 20 1022 1 0x02#8) [] (fun x => !x.walkWaits glob ioPage && x.storesIO ioPage glob)) = true := by
  decide +kernel
theorem test_meets_atomic :
    ([(sigAtom, tw 4 20 1022 1 0x10#8, glob, 4), (sigAtom, tw 4 20 1022 0 0x1A#8, glob, 8), (sigAtomn, tw 1023 20 1022 1 0x10#8, glob, 4),
      (sigAtoms, tw 4 20 1022 1 0x10#8, scr, 4), (sigCas, tw 4 20 1022 0 0x10#8, glob, 4), (sigCas, tw 4 20 1022 24 0x11#8, glob, 8),
      (sigCass, tw 4 20 1022 0 0x10#8, scr, 4)] : List (Sg × TWord × Mode × Nat)).all (fun p =>
        goes mems p.1 p.2.1 p.2.2.1 p.2.2.2 needRW true) = true := by decide +kernel
theorem test_meets_sigdec : meets mems sigSigdec (tw 4 24 30 1022) [] (fun x =>
    let y : Ctx := { x with w := { x.w with b := 1022#10 } }
    (y.causes (y.accCause { scr := false, wide := true } 8 (fun p => tagOk p.2 x.w.b 1 tINT))).isNone &&
      out mems { scr := false, wide := true } 8 needRW true y) = true := by decide +kernel
theorem test_meets_hint : ([(sigPf, tw 1023 20 1022 1022), (sigEvict, tw 1023 20 1022 1022)] : List (Sg × TWord)).all (fun p =>
    meets mems p.1 p.2 [] (fun x => each (fun _ th => addrTagsOk x.w th false) x &&
      !x.walkWaits glob mems)) = true := by decide +kernel
/-- `fence` in its three orders and `xsync`, with a buffered store of the group to commit. -/
theorem test_meets_fence : ([(sigFence, tw 1023 1022 1022 1022 0x01#8), (sigFence, tw 1023 1022 1022 1022 0x02#8),
    (sigFence, tw 1023 1022 1022 1022 0x03#8), (sigXsync, none4)] : List (Sg × TWord)).all (fun p =>
      meets mems p.1 p.2 [] (fun x => commits mems x (fun t => x.active.all (fun q =>
        (region x t x.g.pc).accessesDone (x.ref q.1) && (region x t x.g.pc).readsDone (x.ref q.1))))) = true := by decide +kernel
def lit16 (w : TWord) : TWord := { w with c := 1020#10, ext := 16#32 }
theorem test_meets_copy : ([(sigAcp, lit16 (tw 40 1022 24 0), planAcp), (sigTcp, tw 40 1022 1022 28, planTensor .tcp),
    (sigTmc, tw 40 1022 1022 28, planTensor .tmc), (sigTsf, tw 40 1022 1022 28, planTensor .tsf),
    (sigTst, tw 40 1022 1022 28, planTensor .tst), (sigTrst, tw 40 1022 1022 28, planTensor .trst),
    (sigRcp, lit16 (tw 40 26 24 0), planRcp)] : List (Sg × TWord × (Ctx → Nat × Thread → State → PlanRes))).all (fun p =>
      meets mems p.1 p.2.1 [] (fun x => commits mems x && x.active.all (fun q =>
        match p.2.2 x q mems with | .ok c => !c.units.isEmpty | _ => false))) = true := by decide +kernel
/-- A picot that waits for one arrival stands at 0x100 of the scratchpad. -/
def picots : State := mems.modCore 0 (fun c => { c with scr := cwrite c.scr 0x100 (picotInit 1 0#32).bytes })
theorem test_meets_picot : ([(sigPinit, tw 1023 20 30 1022, 3), (sigParr, tw 4 20 1022 1022, 1), (sigParrb, tw 4 20 30 1022, 2),
    (sigPtest, tw 1 20 1022 1022, 2), (sigPwait, tw 1023 20 30 1022, 2), (sigPwait, tw 1023 20 1022 1022, 2)] :
    List (Sg × TWord × Nat)).all (fun p => meets picots p.1 p.2.1 [] (fun x => commits picots x (fun t =>
      x.active.all (fun q => x.picotClear (region x t x.g.pc) (x.ref q.1))) && each (fun i th =>
        ([x.w.a, x.w.b, x.w.c].take p.2.2).all (fun f => tagOk th f 1 tINT) && (val x i th x.w.a).toNat % 16 == 0 &&
        decide ((val x i th x.w.a).toNat + 16 ≤ x.wg.ssize) && (p.2.2 != 3 || val x i th x.w.b == 1#32)) x)) = true := by decide +kernel
/-- `pwait` for the phase that stands, and for the other. -/
theorem test_meets_pwait : ([(30, true), (1022, false)] : List (Nat × Bool)).all (fun p => meets picots sigPwait (tw 1023 20 p.1 1022) [] (fun x =>
    (x.active.filter (fun q => x.phase picots q == x.leaves q)).isEmpty == p.2)) = true := by decide +kernel

/-- The answers of the executing threads are all values. -/
def answers {α : Type} (x : Ctx) (f : Nat × Thread → Answer α) : Bool := x.active.all (fun p => match f p with | .ok _ => true | _ => false)
def settles (s : State) (x : Ctx) : Bool := commits s x (fun t => x.active.all (fun p => (region x t x.g.pc).allDone (x.ref p.1)))
def asPriv (s : State) : State := s.modGroup 0 (fun g => { g with priv := true })

/-- Register 0 waits for one signature, and a plane of BF16 stands in the array. -/
def arrays (n : Nat) : State :=
  ((box ptrs n).modWg 0 (fun v => { v with conv := [(0, { arm := true, pend := n, count := n })] })).modCore 0 (fun c => { c with
    active := { present := true, tag := 5 } })
theorem test_meets_cinit : meets mems sigCinit (tw 0 30 1022 1022) [] (fun x => (x.wg.creg x.w.d.toNat).buf.isNone &&
    each (fun i th => ints (fun w => [w.a]) x i th && (val x i th x.w.a).toNat == 1) x && decide (1 ≤ x.wg.nthr)) = true := by decide +kernel
theorem test_meets_count : meets (arrays 3) sigMjoin (tw 0 1022 1022 1022) [] (fun x =>
    x.active.length == 3 && x.active.all (fun p => x.signature 0x2C1 p == x.signature 0x2C1 (x.active.headD p))) = true := by decide +kernel
theorem test_meets_signature : ([(sigMjoin, 0x2C1, tw 0 1022 1022 1022), (sigMld, 0x2C2, tw 0 20 1022 1022 0x05#8),
    (sigMldq, 0x2C3, tw 0 20 26 1022), (sigMswap, 0x2C4, tw 0 1022 1022 1022), (sigMstream, 0x2C5, tw 0 20 21 1022 0x05#8),
    (sigMdrain, 0x2C6, tw 0 20 21 1022 0x05#8), (sigMdrain, 0x2C6, tw 0 20 21 20 0x05#8), (sigMzero, 0x2C7, tw 0 21 1022 1022),
    (sigMrowSt, 0x2C8, tw 0 20 21 1022), (sigMrowLd, 0x2C8, tw 0 20 21 1022 0x81#8)] : List (Sg × Nat × TWord)).all (fun p =>
      let s := arrays 1
      meets s p.1 p.2.2 [] (fun x => (x.causes (x.sigCause p.2.1)).isNone && (counts p.2.1 x s s).mism.isEmpty &&
        x.g.signed.isEmpty && !s.signing 0 1 x.gid && !s.haltAsked x.wid && decide ((counts p.2.1 x s s).ops.length ≤ (s.core 0).arrayFree 1) && commits s x (fun t1 =>
          let t := region x t1 x.g.pc
          let c := counts p.2.1 x s t
          c.fail.isNone && c.ops.length == 1 && !t.signerPending x.wid (upTo 2 ++ x.g.tids) t.nextId &&
            c.ops.all (fun q => !t.scrIsPois 0 (x.wg.sbase + q.1.vc.toNat) 16)))) = true := by decide +kernel
/-- A signature that no thread of the group executes. -/
theorem test_meets_signature_of_none : (let s := split regs
    match s.ctx? (sigMjoin (onP1 (tw 0 1022 1022 1022))) (onP1 (tw 0 1022 1022 1022)) with
    | some x => x.g.signed.isEmpty && commits s x
    | none => false) = true := by decide +kernel

/-- At 0x100 of the scratchpad: an empty batch of triangles; a traversal whose stack is empty. -/
def travRecord : List Byte :=
  leBytes 4 0x00010004 ++ zeroBytes 20 ++ leBytes 4 0x00180104 ++ leBytes 4 0xFF003C00 ++ zeroBytes 112
def walking : State := mems.modCore 0 (fun c => { c with scr := cwrite c.scr 0x100 travRecord })
theorem test_meets_unit : (meets mems sigRast (tw 4 20 21 1022) [] (fun x => commits mems x (fun t => answers x (rastOne x (region x t x.g.pc)) &&
      !(region x t x.g.pc).signerPending x.wid (x.active.map Prod.fst) (region x t x.g.pc).nextId)) &&
    meets walking sigTrav (tw 40 20 1022 1022) [] (fun x => commits walking x (fun t => answers x (travOne x (region x t x.g.pc)) &&
      !(region x t x.g.pc).signerPending x.wid (x.active.map Prod.fst) (region x t x.g.pc).nextId))) = true := by decide +kernel

/-- One object with tag 0 at 0x300, one material at 0x400, and a function that may use the cache. -/
def shading : State :=
  let s := (box (ptrs ++ [(34, ⟨64#32, 2#6⟩)]) 2).modFn 1 (fun f => { f with shade := { f.shade with
    en := true, tick := true, inv := true, objn := 1#32, objtab := 0x300#64, mattab := 0x400#64, mask := 1#256 } })
  { s with mem := cwrite (cwrite s.mem 0x300 [1#8]) 0x400 (leBytes 8 64 ++ [1#8]), shade := { s.shade with carve := 1 } }
theorem test_meets_shq : meets shading sigShq (tw 40 32 1022 1022) [] (fun x => answers x (x.resolve shading) &&
    each (fun _ th => tagOk th x.w.a 2 tINT) x && x.active.all (fun p => match x.resolve shading p with
      | .ok r => (match x.needMaterial shading (p.1, r, true) with | .ok _ => true | _ => false)
      | _ => false) && commits shading x (fun s1 => match (x.active.map (fun p => (p.1, x.resolve shading p))) with
        | [(i, .ok a), (j, .ok b)] =>
          let t := (x.sawKeys (region x s1 x.next) [(i, a), (j, b)]).probes [(i, a), (j, b)]
          t.1.length == 2 && t.1.all (fun q => match x.needMaterial t.2 q with | .ok _ => true | _ => false)
        | _ => false)) = true := by decide +kernel
theorem test_meets_shpark : meets shading sigShpark (tw 1 32 34 0) [] (fun x => answers x (x.parkReq shading) &&
    commits shading x (fun s1 => match (x.active.map (fun p => (p.1, x.parkReq shading p))) with
      | [(i, .ok a), (j, .ok b)] =>
        let t := x.parkAll (x.sawKeys (region x s1 x.next) [(i, a.r), (j, b.r)]) [(i, a), (j, b)]
        t.1.all (fun k => (region x s1 x.next).allDone (x.ref k)) && ((t.2.endThreads x.wid t.1).taskSettle x.wid).isSome
      | _ => false)) = true := by decide +kernel
theorem test_meets_shfill : meets shading sigShfill (tw 1 32 21 30) [] (fun x => answers x (x.fillReq shading) && settles shading x) = true ∧
    meets shading sigShfillDrop (tw 1 32 21 30) [] (fun x => answers x (x.fillReq shading) && settles shading x) = true ∧
    shading.shqs = [] := by decide +kernel
theorem test_meets_shinv : meets shading sigShinv (tw 1023 21 30 1022) [] (fun x => x.active.all (fun p =>
    match x.invReq shading p with | .ok g => g.lo == 0 && g.hi == 1 | _ => false) && settles shading x && commits shading x (fun s1 =>
      ((after x s1).recordRanges ((x.active.map (fun p => (p.1, (⟨0, 1, 1#256⟩ : InvRange))))
        |>.filter (fun q => !x.g.signed.contains q.1))).1 == 2)) = true := by
  decide +kernel
theorem test_meets_shtick : meets shading sigShtick (tw 4 1022 1022 1022) [] (fun x => (shading.fnb x.wg.fn).shade.tick && settles shading x) = true := by
  decide +kernel

/-- A grid packet at 0x100 of the scratchpad, and queue 0 enabled for launches. -/
def launching : State :=
  (mems.modCore 0 (fun c => { c with scr := cwrite c.scr 0x100 [1#8] })).modFn 1 (fun f => { f with
    queues := [(0, { en := true, type := 1, log2n := 4 })] })
theorem test_meets_launch : meets launching sigLaunch (tw 1 20 21 1022) [] (fun x => answers x x.launchOffset &&
    settles launching x && commits launching x (fun s1 => answers x (x.launchImage (after x s1)))) = true := by decide +kernel
theorem test_meets_role : meets mems sigRole (tw 4 1022 1022 1022) [] (fun x => commits mems x) = true := by decide +kernel
theorem test_meets_bmsg : meets mems sigBmsg (tw 40 0 21 1022) [] (fun x => settles mems x && each (fun i th =>
    ints (fun w => [w.b]) x i th && decide ((val x i th x.w.b).toNat < 100)) x && decide (mems.msgs.length + x.active.length ≤ 64)) = true := by
  decide +kernel

/-- Every register of Table 14.11, in the prologue. -/
theorem test_meets_sysr : ((upTo 0x40).filter (fun n => (sysReg? n).isSome)).all (fun n =>
    meets (asPriv mems) sigSysr (tw 40 n 1022 1022) [] (fun x => x.active.all (fun p => (asPriv mems).threadQuiet (x.ref p.1)))) = true := by
  decide +kernel
theorem test_meets_ctrr : meets mems sigCtrr (tw 40 30 1022 1022) [] (fun x => each (ints (fun w => [w.a]) x) x) = true := by decide +kernel
/-- Some thread is the executing one of the highest home lane. -/
def hasHighest (x : Ctx) : Bool := x.active.any (fun p => x.active.all (fun q => q.1 == p.1 || decide (laneOf q.1 < laneOf p.1)))
theorem test_meets_sysw : ([0x10, 0x11, 0x12, 0x13, 0x14, 0x15, 0x16, 0x21] : List Nat).all (fun n =>
    meets (asPriv mems) sigSysw (tw 1023 n 24 1022) [] (fun x => hasHighest x && each (fun _ th =>
      tagOk th x.w.b (if sysWide x.w then 2 else 1) tINT) x)) = true := by decide +kernel
theorem test_meets_tables : (let s := asPriv (box [(1, ⟨0x0700C300#32, 2#6⟩)] 2)
    meets s sigLdfmt (tw 1023 1 1022 1022 0x10#8) [] (fun x => hasHighest x && each (fun i th => descValid (val x i th x.w.a)) x) &&
    meets s sigLdfmtClr (tw 1023 1022 1022 1022 0x10#8) [] (fun _ => true) &&
    !s.signingPart 0 && meets s sigLdovf (tw 1023 40 1022 1022) [] (fun x => hasHighest x && x.active.all (fun p => !ovfBad (x.ovfOf p)))) = true := by
  decide +kernel
theorem test_meets_migrate : ([sigSplinter, sigMigrate] : List Sg).all (fun sg => meets (asPriv mems) sg (tw 4 24 26 28) [] (fun x =>
    each (fun _ th => [x.w.a, x.w.b, x.w.c].all (fun f => tagOk th f 2 tINT)) x && mems.migs.isEmpty && commits (asPriv mems) x)) = true := by
  decide +kernel

/-- Core 0 of the Bobbin cores in an invocation of function 1 for a message, its window the first 64 KiB, range 0 at 0x40000 unmapped.
x1 to x3 point at local scratch, the line buffers and the window, x5 to x7 at a line of the window, of no range, and of range 0. -/
def handled (ev : BEvent := { kind := 3, fn := 1, range := 0xFF, va := 0, msg := some 3, reply := true }) (replied : Bool := false) : State :=
  let s := State.reset.withBobbin 0
  let s1 := s.modFn 1 (fun f => { f with hand := { f.hand with ranges := [(0, { base := 0x40000#64, len := 1#32, evm := 1 })] } })
  { s1 with
    agenda := [], cur := .bobbin 0
    bobs := [(0, { s1.bob 0 with
      regs := [(1, 0xFFFFE000#32), (2, 0xFFFFFE00#32), (3, 0x100#32), (5, 0x200#32), (6, 0x90000#32), (7, 0x40000#32)]
      run := some { ev := ev, word := 0#32, left := 64, replied := replied } })] }
def invokes (s : State) (k : Nat) (r : Invoc → Bool) : Bool :=
  !s.boot.off && s.cur == .bobbin k && !s.bobPending k && (match (s.bob k).run with | some i => i.ends.isNone && r i | none => false)
theorem invokes_holds {s : State} {k r} (h : invokes s k r = true) : ∃ i, Invokes k i s ∧ r i = true := by
  unfold invokes at h
  split at h
  · rename_i i hi
    simp only [Bool.and_eq_true, Bool.not_eq_true', beq_iff_eq, Option.isNone_iff_eq_none] at h
    exact ⟨i, ⟨h.1.1.1, h.1.1.2, hi, h.1.2, h.2.1⟩, h.2.2⟩
  · simp at h
theorem test_meets_bobbin : invokes handled 0 (fun _ => true) = true := by decide +kernel
/-- A migration blocks the line at 0x200, or one of its units is poisoned. -/
def blocked : State := handled.modLine 8 (fun l => { l with block := some 9, blocked := true })
def poisoned : State := { handled with pois := [0x21] }
/-- Scratch from its first byte to its last, the buffers to the last, and the window, with a line that a migration blocks. -/
theorem test_meets_bobbin_access :
    (let s := handled
     let thru (a n : Nat) (need : Need) : Bool := match s.bobAccess 0 1 ((s.fnb 1).hand.hbase.toNat + a) n need with
       | (.ok t, s1) => !t.isDev && !s.bobHeld 0 1 && !(s1.line (t.tgt.base / 64)).parks && !s1.homeWaits (t.tgt.base / 64) none &&
         !s1.tgtPois t.tgt n
       | _ => false
     (match blocked.bobAccess 0 1 ((s.fnb 1).hand.hbase.toNat + 0x200) 4 needR with
      | (.ok t, s1) => !t.isDev && !blocked.bobHeld 0 1 && (s1.line (t.tgt.base / 64)).parks
      | _ => false) &&
     ([(1, 0, 4), (1, 0xFFF, 1), (2, 0, 4), (2, 0x1FC, 4)] : List (Nat × Nat × Nat)).all (fun p =>
       let a := (getReg (s.bob 0) (BitVec.ofNat 5 p.1)).toNat + p.2.1
       a % p.2.2 == 0 && decide (65536 * (s.fnb 1).hand.hsize.toNat < a + p.2.2) &&
       decide ((0xFFFFE000 ≤ a ∧ a + p.2.2 ≤ 0xFFFFF000) ∨ (0xFFFFFE00 ≤ a ∧ a + p.2.2 ≤ 2 ^ 32))) &&
     thru 0x100 4 needR && thru 0xFFFC 4 needW) = true := by decide +kernel
theorem test_meets_line :
    (let s := handled
     let line (s : State) (r : Nat) (need : Need) : LineRes := s.bobLine 0 1 (getReg (s.bob 0) (BitVec.ofNat 5 r)) 0#32 need
     let free (s : State) (need : Need) (pois : Bool) : Bool := match line s 5 need with
       | .ok t _ s1 => !t.isDev && !(s1.line (t.tgt.base / 64)).parks && !s1.homeWaits (t.tgt.base / 64) none &&
         s1.isPois (64 * (t.tgt.base / 64)) 64 == pois && !s.bobHeld 0 1
       | _ => false
     ([needR, needRW] : List Need).all (fun n => line s 6 n == .range && (match line s 7 n with | .fault _ => true | _ => false) &&
       free s n false) && free poisoned needR true && (match line blocked 5 needR with
         | .ok t _ s1 => !t.isDev && (s1.line (t.tgt.base / 64)).parks && !blocked.bobHeld 0 1
         | _ => false) && ((s.bob 0).buf 0).mask == 0#64 &&
     ((handled.modBob 0 (fun b => { b with bufs := [(1, { bytes := zeroBytes 64, mask := 1#64 })] })).bob 0 |>.buf 1).mask != 0#64) = true := by
  decide +kernel
/-- A message to answer, one that is answered, and none. -/
theorem test_meets_mrep : invokes handled 0 (fun r => r.ev.msg == some 3 && r.ev.kind == 3 && r.ev.reply && !r.replied) = true ∧
    invokes (handled (replied := true)) 0 (fun r => r.replied) = true ∧
    invokes (handled { kind := 0, fn := 1, range := 0, va := 0x40000 }) 0 (fun r => r.ev.msg.isNone) = true := by decide +kernel
/-- A lease of 256 ns, the longest. -/
theorem test_meets_lease : (let s := State.reset.modLine 1 (fun l => { l with expiry := 256#64 })
    decide (s.now < (s.line 1).expiry) && ((s.line 1).expiry - s.now).toNat == 256) = true := by decide +kernel

/-! ### The step, frames and homes -/

/-- The step, or the execution of an instruction, gives a next state. -/
def isNext (o : Host.Outcome State Fault Refusal) : Bool := match o with | .next _ => true | _ => false
/-- A `bkpt` is to be fetched: its line is begun, or not. -/
def fetched (begun : Bool) : State :=
  let s := State.reset.withThrum 0x723FFFFBFEFF9C00FF800000
  if begun then s.modGroup 0 (fun g => { g with begun := some 0#64, code := s.read 0 64 }) else s
/-- The group of the state may issue, and its line is read: what then holds of the group and of the line. -/
def fetches (s : State) (ok : State → Group → Nat → List Byte → Bool) : Bool :=
  !s.boot.off && (match s.agenda with
    | t :: ts =>
      let u := turn s t ts
      t.act == .group 0 && (match u.group? 0 with
        | some g => (match u.wg? g.wg with
          | some v => u.mayIssue 0 g && (match u.codeLine g v (pcLine g.pc).toNat with
            | (.ok (pa, bs), u1) => ok u1 g pa bs
            | _ => false)
          | none => false)
        | none => false)
    | [] => false)
def lineOf (bs : List Byte) : W32 := BitVec.ofNat 32 (recVal bs 0 4)
def slotOk (g : Group) (bs : List Byte) : Bool := match decodeSlot (bs.drop (4 + 12 * pcSlot g.pc)) with | .ok _ => true | _ => false
theorem test_meets_step : fetches (fetched true) (fun _ g _ _ => g.begun == some (pcLine g.pc) && slotOk g g.code) = true ∧
    fetches (fetched false) (fun _ g _ bs => g.begun == none && slotOk g bs && !badLineWord (lineOf bs) && lineParityOk bs &&
      (waitFlags (lineOf bs)).isEmpty) = true := by decide +kernel
/-- A Bobbin core fetches four bytes, and two. -/
theorem test_meets_bobbin_step : ([0x00C58533, 0x852E] : List Nat).all (fun w =>
    let s := State.reset.withBobbin w
    match s.agenda with
    | t :: ts =>
      let u := turn s t ts
      t.act == .bobbin 0 && !u.bobPending 0 && (u.bob 0).run.any (fun r => r.ends.isNone && r.left != 0) &&
        (match (u.modInvoc 0 (fun i => { i with started := true })).bobCode 0 1 0 2 with
        | (.ok lo, u1) => if leVal lo % 4 = 3 then (match u1.bobCode 0 1 2 2 with
            | (.ok hi, _) => (match decodeBobbin (lo ++ hi) with | .ok (_, n) => n == 4 | _ => false)
            | _ => false)
          else (match decodeBobbin lo with | .ok (_, n) => n == 2 | _ => false)
        | _ => false)
    | [] => false) = true := by decide +kernel
/-- A reserved bit in the line word, a wrong parity that the refetch does not mend, an OP that is not assigned. -/
theorem test_meets_bad_line : ((fetches { fetched false with mem := cwrite (fetched false).mem 0 [3#8] }
      (fun _ g _ bs => g.begun == none && badLineWord (lineOf bs) && lineParityOk bs)) &&
    (fetches { fetched false with mem := cwrite (fetched false).mem 63 [1#8] }
      (fun u g pa bs => g.begun == none && !lineParityOk bs && !lineParityOk (u.read pa 64))) &&
    (let s := State.reset.withThrum 0xFFFFFFFBFEFF9C00FF800000
     fetches (s.modGroup 0 (fun g => { g with begun := some 0#64, code := s.read 0 64 }))
      (fun _ g _ _ => g.begun == some (pcLine g.pc) && !slotOk g g.code))) = true := by decide +kernel
theorem test_meets_invariant : MemInv State.reset ∧ isNext (step State.reset) = true ∧ MemInv (fetched true) ∧
    isNext (step (fetched true)) = true := by unfold MemInv; decide +kernel
theorem test_meets_frames : isNext (exec (.add (tw 4 1 2 1022)) one) = true ∧
    isNext (exec (.bobbinBase (.op .add 10#5 1#5 2#5)) handled) = true ∧ isNext (exec (.lnrd 0#3 0#5 5#5 10#5) handled) = true ∧
    isNext (exec (.lnwr 0#3 0#5 5#5 10#5) handled) = true ∧ isNext (exec (.lnpf 0#1 0#5 5#5 10#5) handled) = true ∧
    isNext (exec (.lsq 0#5 5#5 10#5) handled) = true ∧ isNext (exec (.mrep 0#3 10#5) handled) = true ∧
    isNext (exec .hfin handled) = true := by decide +kernel

/-- An access of thread 0 of four bytes. -/
def accAt (t : Target) : Acc :=
  { id := 7, th := some ⟨0, 0⟩, core := 0, fn := 1, launch := 1, pc := 0#64, va := 0x100, tgt := t, n := 4, ord := .plain }
def writing (t : Target) (k : WrKind) : State :=
  { mems with writes := [(7, { acc := accAt t, kind := k })], nextId := 8 }
/-- A store, an atomic with a result and a compare-and-swap in a bank. -/
theorem test_meets_bank : ([.store [1#8, 2#8, 3#8, 4#8], .rmw 0 1#64 (some 4) 2 false, .cas false 0#64 1#64 (some 4) 2] : List WrKind).all
    (fun k => let s := writing (.scr 0 0x100) k
      !s.boot.off && !s.staleAcc (accAt (.scr 0 0x100)) && s.maySend { acc := accAt (.scr 0 0x100), kind := k } && !s.scrIsPois 0 0x100 4 &&
        (s.wg? 0).isSome && isNext (exec (.writePerform 7) s)) = true := by decide +kernel
theorem test_meets_home : (let w : PWrite := { acc := accAt (.glob 0x100 0), kind := .store [1#8, 2#8, 3#8, 4#8] }
    let s := writing (.glob 0x100 0) w.kind
    !s.boot.off && !s.staleAcc w.acc && s.maySend w && (s.waitingAt 4).isEmpty && (s.readsAt 4).isEmpty && s.lineTakes 4 w && (s.line 4).block.isNone &&
      (s.line 4).invFor.isNone && (s.sharers 4).isEmpty) = true := by decide +kernel
/-- Core 0 holds a lease of line 4 (R141). -/
def leased (s : State) : State := s.modCore 0 (fun c => { c with l1 := [(l1Key 1 4, 256#64)] })
theorem test_meets_load_return : ([.glob 0x100 0, .scr 0 0x100] : List Target).all (fun t =>
    let p : PLoad := { acc := accAt t, dst := some 4, sext := false, tag := 2 }
    let s := { leased mems with loads := [(7, p)], nextId := 8 }
    !s.boot.off && !s.staleAcc p.acc && s.canLoad p && (s.wg? 0).isSome && !s.tgtPois t 4) = true := by decide +kernel
/-- An arrival and completed bytes have reached a picot that waits for both. -/
theorem test_meets_picot_step : (let s := { picots with picots := [(7, { acc := accAt (.scr 0 0x100), act := .arrive 0#32 none }),
      (8, { acc := { accAt (.scr 0 0x100) with id := 8 }, act := .bytes 0 none none })] }
    !s.boot.off && !(s.picotBatch 0 0x100).isEmpty && (s.picotBatch 0 0x100).all (fun p => match p.act with | .init _ _ => false | _ => true) &&
      (s.picotAt 0 0x100).arr == 1) = true := by decide +kernel
/-- Bytes for an allocation that has ended have reached the picot (R187). -/
theorem test_meets_picot_dead : (let s := { picots with picots := [(7, { acc := accAt (.scr 0 0x100), act := .bytes 3 (some 0) (some 5) })] }
    !(s.picotBatch 0 0x100).isEmpty && (s.core 0).genAt 0x100 != 5) = true := by decide +kernel

/-! ### States in which the events happen -/

/-- The first GiB of the function's addresses is mapped one to one, by tables at 0x10000; its home is every cluster. -/
def mapped : State :=
  let s := mems.modFn 1 (fun f => { f with
    trans := { f.trans with troot := 0x10000#64 }, ten := { f.ten with home := BitVec.allOnes 100, saveva := 0x100000#64, savesz := 64#32 } })
  { s with mem := cwrite (cwrite (cwrite s.mem 0x10000 (leBytes 8 0x11001)) 0x11000 (leBytes 8 0x12001)) 0x12000 (leBytes 8 0x1F) }
/-- A packet for one core, and its record: one thread of eight registers. -/
def packet : List Byte := leBytes 8 1 ++ leBytes 8 0x3000 ++ zeroBytes 32 ++ [1#8] ++ zeroBytes 15
def record : List Byte := leBytes 8 64 ++ leBytes 2 8 ++ leBytes 2 1 ++ zeroBytes 116
/-- A `WAIT` packet whose signal stands at 0x500. -/
def waitPacket : List Byte := leBytes 8 4 ++ zeroBytes 16 ++ leBytes 8 0x500 ++ zeroBytes 32
/-- Queue 0 of the function, its ring at 0x2000 with one entry to read; the tables' lines, the ring's and the record's are in their slices. -/
def queued (q : Queue) : State :=
  let s := mapped.modFn 1 (fun f => { f with queues := [(0, { q with en := true, qbase := 0x2000#64, log2n := 6, devEnd := 1#32 })] })
  { s with
    mem := cwrite (cwrite s.mem 0x2000 packet) 0x3000 record
    lines := [0x80, 0xC0, 0xC1, 0x400, 0x440, 0x480].map (fun l => (l, { present := true })) }
def verified : State := { State.reset with boot := { measures := (upTo 5).map (fun i => (i, [])) } }
def newLaunch : Launch := { fn := 1, queue := 0, qidx := 0#32, kind := .rect, packet := packet, lrec := record, ranges :=
  [{ base := 0, len := 65536, r := true, w := true }] }
/-- A second launch of the queue. -/
def launched (f : Launch → Launch) : State := (queued { type := 1, head := some 2 }).setLaunch 2 (f newLaunch)
/-- A pool with records in bin 0. -/
def pooled (n : Nat) : State :=
  (queued { type := 2, qpwg := 1, pool := some 2, bins := [(0, { pc := 64#64, recs := (upTo n).map (fun _ => ⟨zeroBytes 64, 0, none⟩) })] }).setLaunch 2
    { newLaunch with kind := .pool, phase := .done }
/-- The group's workgroup, its group and its launch changed. -/
def withWg (f : Wg → Wg) (s : State := mapped) : State := s.modWg 0 f
def ended (s : State) : State := { s.modWg 0 (fun v => { v with ended := true }) with groups := [] }
def late (s : State) (ns : Nat) : State := { s with now := BitVec.ofNat 64 ns, cycles := 9 * ns / 4 }

theorem test_meets_boot_events : ([!State.reset.boot.off, State.reset.boot.service == 0, verified.boot.verified,
    Boot.mayStep { service := 2, cclk := 1000 } true, Boot.mayStep { service := 1, cclk := 1000 } false, State.reset.mayScrub 0, State.reset.bareLine 0,
    Boot.overheated { tjmax := 1100 }, unitNamed (.core 399), unitNamed (.clusterUnit 99), unitNamed (.controller 3)] : List Bool).all id = true := by
  decide +kernel
/-- Every link has trained, the memory too, and every unit has passed its test. -/
theorem test_meets_full_service : ∃ s : State, up s ∧ s.boot.service = 1 ∧ (∀ k < 16, k ∈ s.boot.ended) ∧ s.boot.hbmTrained = true ∧
    ∀ u ∈ testedUnits, u ∈ s.boot.tested :=
  ⟨{ State.reset with boot := { service := 1, ended := upTo 16, hbmTrained := true, tested := testedUnits } }, rfl, rfl, by decide, rfl,
    fun _ h => h⟩
/-- A packet read, a `WAIT` satisfied, a record filed; draws of full and of aged bins. -/
theorem test_meets_queue_events : ([writeAllowed 0 0 8 true 0, writeAllowed 5 5 0x400 false 0, State.reset.hostSettled, queueNamed 1 0,
    (mapped.enableQueue 1 0).isSome, (queued { type := 1 }).mayRead 1 0, ((queued { type := 1 }).readEntry 1 0).isSome,
    !(queued {}).stopped 1, ((queued { type := 1, waiting := some waitPacket }).waitOver 1 0).isSome,
    ((launched id).launch? 2).any (fun l => l.phase == .residency), ((launched id).leaseStep 2).isSome, (pooled 1).mayFile 1 0,
    ((pooled 1).fileRecord 1 0).isSome, (late (pooled 1) 1000).drawDue 1 0 0 == some 1, (pooled 32).drawDue 1 0 0 == some 32,
    (pooled 32).drawFits 1 0 0 32] : List Bool).all id = true := by
  decide +kernel

/-- A workgroup of a task graph without a task, one task being ready. -/
def idle : State :=
  (mapped.modWg 0 (fun v => { v with kind := .tatting, threads := v.threads.map (fun p => (p.1, { p.2 with st := .tdone })) })).modLaunch 1
    (fun l => { l with kind := .tatting, ready := [0], tasks := [(0, { pc := 64#64, tx := 0, ty := 0, succ := [], sink := true })] })
/-- A packet whose parent has completed. -/
def deferring : State :=
  { queued { type := 1 } with deferred := [(5, { fn := 1, queue := 0, image := packet, parent := 9, thread := ⟨0, 0⟩, ins := 4 })] }
/-- A launch of more workgroups to a core than the core can hold. -/
def tooWide : State := launched (fun l => { l with
  phase := .ready, packet := packet.take 48 ++ [255#8] ++ packet.drop 49, lrec := leBytes 8 64 ++ leBytes 2 8 ++ leBytes 2 64 ++ zeroBytes 116 })
theorem test_meets_launch_events : ([(launched (fun l => { l with phase := .ready })).mayAsk 2 0,
    (launched (fun l => { l with phase := .reserving, asked := [0] })).mayHear 2 0,
    ((launched (fun l => { l with phase := .committing, toCommit := [0], heldOn := [0] })).commitAt 2 0).isSome, !(launched id).displacedWait 1,
    !(launched id).neverFits newLaunch, (tooWide.launch? 2).any (fun l => (tooWide.refuseNow 2 l).isSome), tooWide.mayAsk 2 0,
    !(ended mapped).freeable 0 == [], (late (launched (fun l => { l with phase := .reserving, asked := [0] })) 2000).timedOut 2,
    (late (launched (fun l => { l with phase := .ready, waitSince := some 0#64 })) 100000).hasStarved 2, idle.mayDispatch 0 0 0,
    (idle.dispatchTask 0 0).isSome, (ended mapped).mayComplete 1, ((ended mapped).complete 1).isSome, deferring.mayMove 5,
    (deferring.moveDeferred 5).isSome, decide ((late mapped 1000000).enCharges < 100), decide ((late mapped 1000000).enPeriods < 1)] : List Bool).all id = true := by
  decide +kernel

/-- The workgroup, small, is to be saved. -/
def saving : State := (withWg (fun v => { v with
  held := some (.saving 0), ssize := 0, nrows := 0, threads := [(0, { nregs := 8 })], nthr := 1 })).modGroup 0 (fun g => { g with tids := [0] })
def imaged (s : State) (l : Nat := 9) (cause : Nat := 1) : State :=
  s.modFn 1 (fun f => { f with images := [{ off := 65536, size := 1, cause := cause, launch := l, since := 0#64 }] })
/-- The launch is halted for the debugger, its workgroup saved. -/
def debugged : State := { (imaged (mapped.modLaunch 1 (fun l => { l with debug := true })) 1 2) with wgs := [], groups := [] }

/-- A table pointer at index 0. -/
theorem walk_pointer {s : State} {l n : Level} {ls base path a} (e : W64) (h0 : fieldN a l.lo l.bits = 0)
    (he : BitVec.ofNat 64 (s.readVal base 8) = e)
    (h : (!s.walkWaits false (base / 64) && !s.isPois base 8 && e.getLsbD 0 && !e.getLsbD 1 && !badPointer n e) = true) :
    walkGo s false false a (l :: n :: ls) base path = walkGo s false false a (n :: ls) (fieldN e.toNat 8 44 * 2 ^ 8) (path ++ [base / 64]) := by
  simp only [Bool.and_eq_true, Bool.not_eq_true'] at h
  rw [walkGo]
  simp only [h0, Nat.mul_zero, Nat.add_zero, he, h, Bool.not_true, Bool.false_eq_true, if_false]
/-- A leaf at index 0. -/
theorem walk_leaf {s : State} {l : Level} {ls base path a} (e : W64) (h0 : fieldN a l.lo l.bits = 0)
    (he : BitVec.ofNat 64 (s.readVal base 8) = e) (hl : l.lvl < 3)
    (h : (!s.walkWaits false (base / 64) && !s.isPois base 8 && e.getLsbD 0 && e.getLsbD 1 && !badLeaf false l e &&
      !s.boot.fwOverlaps (fieldN e.toNat 16 36 * 2 ^ 16) l.pageSize) = true) :
    walkGo s false false a (l :: ls) base path =
      .ok { leaf := e, lvl := l.lvl, size := l.pageSize, pte := base, path := path ++ [base / 64] } := by
  simp only [Bool.and_eq_true, Bool.not_eq_true'] at h
  rw [walkGo.eq_def]
  simp only [h0, Nat.mul_zero, Nat.add_zero, he, h, Bool.not_true, Bool.false_eq_true, if_false, if_true, or_false,
    if_neg (show ¬ 3 ≤ l.lvl by omega)]
/-- Every address of the first GiB may be written. -/
theorem saving_maps {a : Nat} (h : a < 2 ^ 30) : ∃ q, saving.plainAccess 1 a needW = .ok q := by
  have f (lo k : Nat) (hl : 30 ≤ lo) : fieldN a lo k = 0 := by
    have : a / 2 ^ lo = 0 := Nat.div_eq_of_lt (Nat.lt_of_lt_of_le h (Nat.pow_le_pow_right (by decide) hl))
    simp [fieldN, Nat.shiftRight_eq_div_pow, this]
  have w : walkFrom saving false false 0x10000 a = .ok ⟨0x1F#64, 2, 2 ^ 30, 0x12000, [0x400, 0x440, 0x480]⟩ := by
    unfold walkFrom tableLevels
    simp only [Bool.false_eq_true, if_false]
    rw [if_neg (by decide)]
    rw [walk_pointer 0x11001#64 (f 48 7 (by decide)) (by decide +kernel) (by decide +kernel)]
    rw [show fieldN (0x11001#64 : W64).toNat 8 44 * 2 ^ 8 = 0x11000 by decide]
    rw [walk_pointer 0x12001#64 (f 39 9 (by decide)) (by decide +kernel) (by decide +kernel)]
    rw [show fieldN (0x12001#64 : W64).toNat 8 44 * 2 ^ 8 = 0x12000 by decide]
    rw [walk_leaf 0x1F#64 (f 30 9 (by decide)) (by decide +kernel) (by decide) (by decide +kernel)]
    rfl
  unfold State.plainAccess
  rw [if_neg (by omega), show (saving.fnb 1).trans.troot.toNat = 0x10000 by decide +kernel, w]
  exact ⟨_, rfl⟩
theorem mapE_total {α β ε : Type} (f : α → Except ε β) (l : List α) (h : ∀ x ∈ l, ∃ y, f x = .ok y) :
    ∃ ys, mapE f l = .ok ys := by
  induction l with
  | nil => exact ⟨_, rfl⟩
  | cons x xs ih =>
    obtain ⟨y, hy⟩ := h x List.mem_cons_self
    obtain ⟨ys, hys⟩ := ih (fun z hz => h z (List.mem_cons_of_mem _ hz))
    exact ⟨y :: ys, by unfold mapE; rw [hy, hys]⟩
theorem splitLines_below (k a : Nat) (bs : List Byte) : ∀ p ∈ splitLines k a bs, p.1 < a + bs.length := by
  induction k generalizing a bs with
  | zero => simp [splitLines]
  | succ k ih =>
    unfold splitLines
    split
    · simp
    · rename_i hb
      have hl : 0 < bs.length := by cases bs with | nil => simp at hb | cons _ _ => simp
      intro p hp
      rcases List.mem_cons.mp hp with rfl | hq
      · simp only; omega
      · have := ih _ _ p hq
        simp only [List.length_drop] at this
        by_cases hk : 64 - a % 64 ≤ bs.length
        · omega
        · rw [List.drop_eq_nil_of_le (by omega)] at hq
          cases k <;> simp [splitLines] at hq
theorem saving_places {a : Nat} {bs : List Byte} (h : a + bs.length ≤ 2 ^ 30) : ∃ q, saving.plainPlaces 1 a bs = .ok q := by
  unfold State.plainPlaces
  refine mapE_total _ _ (fun p hp => ?_)
  obtain ⟨q, hq⟩ := saving_maps (a := p.1) (Nat.lt_of_lt_of_le (splitLines_below _ _ _ p hp) h)
  exact ⟨(q, p.2), by simp [hq]⟩
/-- A save goes on when the area takes the image and every line of it and of the directory may be written. -/
theorem savePlan_isSome {s : State} {core wid : Nat} {w : Wg} {cause u : Nat} {ps ds} (hw : s.wg? wid = some w)
    (hh : w.held = some (.saving cause)) (hc : w.core = core ∧ !w.ended ∧ w.regBytes = 0 ∧ s.wgQuiet wid = true ∧
      (s.core core).opq.any (fun o => o.fn == w.fn) = false)
    (hu : s.imagePlace w.fn w.imageSize = some u)
    (hp : s.plainPlaces w.fn ((s.fnb w.fn).ten.saveva.toNat + 4096 * u) (s.imageBytes wid w cause) = .ok ps)
    (hd : s.dirPlaces w.fn ((s.fnb w.fn).images ++
      [{ off := 4096 * u, size := w.imageSize, cause := cause, launch := w.launch, since := s.now, signers := w.openSigners }]) = .ok ds) :
    (s.savePlan core wid).isSome = true := by
  unfold State.savePlan
  rw [hw]
  simp only [hh]
  rw [if_pos hc, hu]
  simp only [hp, hd, Option.isSome]
def saved : Wg :=
  { core := 0, fn := 1, launch := 1, kind := .rect, g := 0, wgl := 0, lx := 0, ly := 0, lw := 1, lh := 1, depth := 0, arg := 0#64,
    queue := 0, qidx := 0#32, nthr := 1, threads := [(0, { nregs := 8 })], sbase := 0, ssize := 0, gen := 0, nrows := 0,
    held := some (.saving 0) }
theorem saved_length : (saving.imageBytes 0 saved 0).length ≤ 2 ^ 20 := by
  unfold State.imageBytes
  simp only [List.length_append, Plane.bytes, length_cread, zeroBytes, List.length_replicate]
  decide +kernel
theorem test_meets_save : (saving.savePlan 0 0).isSome = true := by
  obtain ⟨p, hp⟩ := saving_places (a := 0x110000) (bs := saving.imageBytes 0 saved 0) (by have := saved_length; omega)
  obtain ⟨d, hd⟩ := saving_places (a := 0x100000) (bs := dirBytes ((saving.fnb 1).images ++
    [{ off := 4096 * 16, size := saved.imageSize, cause := 0, launch := 1, since := saving.now }])) (by decide +kernel)
  have h0 : (saving.fnb 1).ten.saveva.toNat = 0x100000 := by decide +kernel
  refine savePlan_isSome (w := saved) (u := 16) (by decide +kernel) rfl (by decide +kernel) (by decide +kernel) (ps := p) (ds := d) ?_ ?_
  · rw [show saved.fn = 1 from rfl, h0]; exact hp
  · unfold State.dirPlaces; rw [show saved.fn = 1 from rfl, h0]; exact hd
theorem test_meets_context_events : ([(withWg id).mayHalt (.wgs [0] .slice), ((imaged mapped).reenter 1 0 0).isSome,
    mapped.launches.all (fun p => p.2.fn != 1 || p.2.phase != .committing), (mapped.thaw 1).isSome, debugged.dbgHalt 1,
    !mapped.dbgHalt 1, mapped.wgs.any (fun p => p.2.fn == 1), State.reset.wgs.isEmpty,
    (mapped.modLaunch 1 (fun l => { l with ending := true })).mayEndTask 1,
    ((mapped.modLaunch 1 (fun l => { l with ran := 1000000 })).modFn 1 (fun f => { f with fault := { f.fault with wdog := 1#32 } })).wdogDue 1] : List Bool).all id = true := by
  decide +kernel

/-- The group in the pending set. -/
def waits (w : Wait) : State := mapped.modGroup 0 (fun g => { g with wait := w, place := .pending })
def crowd : State := { waits .ready with groups := (waits .ready).groups ++ (upTo 8).map (fun i =>
  (i + 1, { core := 0, wg := 0, quad := 0, tids := [], pc := 0#64, rstart := 0#64 })) }
/-- Functions 1 and 2 share core 0; function 2 holds its issue and its array, and has no work. -/
def shared (ops : List ArrOp) : State :=
  late (mapped.modCore 0 (fun c => { c with tenants := [1, 2], vecHold := 1, matHold := 1, opq := ops })) 1000000
/-- The workgroup spins while an image of its function, too large for every core, has waited for 1 ms. -/
def displaced : State :=
  late (imaged ((waits (.sleep 0#64 [])).setLaunch 2 { newLaunch with lrec := record.take 12 ++ leBytes 4 2000000 ++ record.drop 16 }) 2) 1000000
/-- A pending group beside none and beside eight active ones, an aged bin, waits of every kind. -/
theorem test_meets_schedule_events : ([!((waits .ready).readyPending 0 0).isEmpty && !(waits .ready).activeFull 0 0,
    !(crowd.readyPending 0 0).isEmpty && crowd.activeFull 0 0 && (late crowd 1000).rotationDue 0 0,
    (late (mapped.modCore 0 (fun c => { c with bins :=
      [(binKey 0 0, { wg := 0, pc := 64#64, ents := [{ tid := 0, cyc := 0, thr := 64, time := 0#64 }] })] })) 1000).agedDue 0 0 0,
    ((late (mapped.modGroup 0 (fun g => { g with stall := some 0, stallOn := .keys [] })) 1000).stalledLong 0 0).isSome,
    ((waits (.sleep 0#64 [])).group? 0).any (waits (.sleep 0#64 [])).unheldWg,
    ((waits (.poll 1 16 (some 0#64) [])).group? 0).any (waits (.poll 1 16 (some 0#64) [])).unheldWg, (shared []).sliceOver 0 false,
    (shared []).sliceIdle 0 false, (shared []).sliceIdle 0 true, (shared []).sliceOver 0 true, ((shared []).core 0).arrayIdle,
    displaced.mayGiveWay 0 0, decide ((late mapped 1000000).bwPeriods < periodsBy (late mapped 1000000).now)] : List Bool).all id = true := by
  decide +kernel

def loading : PLoad := { acc := accAt (.glob 0x100 0), dst := some 4, sext := false, tag := 2 }
/-- A store waits at its line. -/
def arrived (f : Line → Line) : State :=
  { mapped.modLine 4 f with
    writes := [(7, { acc := { accAt (.glob 0x100 0) with arrived := some 1 }, kind := .store [1#8] })], nextId := 8 }
/-- A write waits until core 0 has dropped a translation that rests on its line. -/
def walked : State :=
  { mapped.modLine 0x400 (fun l => { l with inval := [0], invFor := some 7 }) with tlb := [{ loadTlb (agTlb 0) with path := [0x400] }] }
/-- Migration 9 is about to block line 4, migration 10 has written its leaf. -/
def migrating : State :=
  let m : PMig :=
    { id := 9, th := ⟨0, 0⟩, core := 0, dst := none, flag := none, migrate := true, ex := false, va := 0, new := 0x20000,
      root := 0x10000, started := true, left := [4] }
  { mapped.modLine 4 (fun l => { l with block := some 9, blockAt := 1 }) with migs := [(9, m), (10, { m with id := 10, remapped := true })] }
theorem test_meets_home_events : ([({ leased mapped with loads := [(7, loading)], nextId := 8 } : State).mayReturn 7,
    (writing (.glob 0x100 0) (.store [1#8])).mayPerform 7, (arrived (fun l => l)).headReady 4,
    ((mapped.modLine 4 (fun l => { l with owner := some 0 })).line 4).owner.isSome,
    ((late (mapped.modLine 4 (fun l => { l with owner := some 0 })) 10064).ownerLost 4).isSome,
    ({ mapped with loads := [(7, loading)], nextId := 8 } : State).mayLease 0 4,
    (writing (.glob 0x100 0) (.rmw 0 1#64 none 2 false)).mayOwn 0 4, walked.mayInvalidateAt 0 0x400,
    ({ walked with tlb := [] } : State).mayAck 0 0x400, (late walked 100000).line 0x400 |>.inval.contains 0,
    mapped.mayWalk 401 1 0x5000, mapped.mayWalk 1300 1 0, remoteOk { op := .read 8, off := 0x100 },
    (mapped.remoteArrives 9 1 { op := .read 8, off := 0x100 }).isSome, migrating.mayBlock 9 4,
    migrating.mayReplay 10] : List Bool).all id = true := by
  decide +kernel

/-- A copy of 16 bytes of memory to memory, with a signal; its units have gone when `last`. -/
def aCopy (checked last : Bool) : Copy :=
  { id := 9, th := ⟨0, 0⟩, core := 0, fn := 1, launch := 1, pc := 0#64, batch := 3, checked := checked, signal := some 0x500
    units := if last then [] else [(0, { srcs := [{ src := .va 0x300, n := 16 }], dst := .va 0x400, n := 16 })] }
def copying (checked last : Bool) : State :=
  { mapped with
    tlb := mapped.tlb ++ [loadTlb (agAhead 0)]
    copies := [(9, aCopy checked last)], batches := [(3, { th := ⟨0, 0⟩, reg := 40, joins := 1, done := 1 })]
    picots := [(7, { acc := accAt (.scr 0 0x100), act := .arrive 0#32 none })], nextId := 10 }
/-- A rasterisation is with its cluster's unit. -/
def drawing : State := { mapped with
  rts := [(9, { id := 9, th := ⟨0, 0⟩, dst := some 4, vals := [(0#32, 2)], core := 0, puts := [], flag := none })] }
/-- The array's queue holds one operation. -/
def operating (running : Bool) : State :=
  let b : SigBuf := { op := 0x2C7, md := 0#8, a := 0#10, b := 0#10, c := 0#10, e := 0#10, rm := 0, va := 0#32, vb := 0#32, vc := 0#32, ve := 0#32 }
  mapped.modCore 0 (fun c => { c with opq := [{ id := 9, wg := 0, fn := 1, sig := b, fmt := [], ovf := 0#128, running := running }] })
theorem test_meets_engine_events : ([
    (match ((copying false false).chkCopy (aCopy false false)).1 with | .wait => false | .device => false | _ => true),
    ((copying true false).landUnit 9 0).isSome, ((copying true true).sendSignal 9).isSome,
    !((copying true true).picotBatch 0 0x100).isEmpty, ((operating false).nextOp 0).any (fun o => missOk o []),
    (operating true).canComplete 0 9, (match tget? drawing.rts 9 with | some r => drawing.rtServes r | none => false),
    (match tget? (copying true true).batches 3 with | some b => decide (b.joins ≤ b.done) | none => false)] : List Bool).all id = true := by
  decide +kernel

def query : PShq :=
  { id := 9, th := ⟨0, 0⟩, fn := 1, launch := 1, key := 0#64, tag := 0, mat := none, dst := none, flag := none, ins := 9, heapva := 0#64 }
/-- Controller 0 has a continuation to emit, a released record, a range under invalidation, and holds the only slot of its pool. -/
def emitting : State :=
  { shading.modCtl 0 (fun c => { c with
      emis := [{ fn := 1, bytes := zeroBytes 64, tile := 0 }]
      parks := [(0, { pc := 64#64, key := 0#64, words := [], fn := 1, out := some (zeroBytes 64) })]
      outq := [0], ranges := [(0, ⟨0, 1, 1#256⟩)], ents := [(0, { key := 0#64, tag := 0, state := 2, slot := 0, sc := 0 })] }) with
    shade := { shading.shade with a0 := 1 } }
/-- A load of a registered range, whose line is not in the home slice. -/
def missing : State := { mapped with loads := [(7, { loading with acc := { loading.acc with range := some 0 } })], nextId := 8 }
def message : PMsg :=
  { id := 3, th := ⟨0, 0⟩, core := 0, fn := 1, cluster := 0, bytes := zeroBytes 32, dst := some 40, flag := none, st := .sent }
def ranOut (left past : Nat) : State :=
  handled.modBob 0 (fun b => { b with run := b.run.map (fun r => { r with left := left, past := past }) })
theorem test_meets_shading_events : ([shading.canAllocate query, (emitting.emitNext 0).isSome, (emitting.deliverNext 0).isSome,
    (tget? (emitting.ctl 0).ranges 0).isSome, emitting.clockRuns 0, (missing.missOf 7).isSome,
    ((missing.modLine 4 (fun l => { l with fetching := true })).line 4).fetching,
    (mapped.modLine 4 (fun l => { l with present := true })).mayEvict 4,
    (mapped.replyOf { message with st := .replied (zeroBytes 16) }).isSome,
    (handled.modBob 0 (fun b => { b with run := none, queue := [{ kind := 0, fn := 1, range := 0, va := 0x40000 }] })).mayStart 0,
    (ranOut 0 0).budgetOut 0, (ranOut 64 11250).overran 0] : List Bool).all id = true := by
  decide +kernel

/-! ### Single steps: results worked out by hand from the rules -/

/-- A register of thread 0 after the instruction. -/
def result (i : Instr) (s : State) (k : Nat) : Option (W32 × Nat) :=
  match exec i s with | .next t => some (((t.thread ⟨0, 0⟩).reg k).v, ((t.thread ⟨0, 0⟩).reg k).t.toNat) | _ => none
def pc1 (i : Instr) (s : State) : Option W64 := match exec i s with | .next t => (t.group? 0).map (·.pc) | _ => none
/-- −2^31 − 1 wraps to 2^31 − 1, and clamps to −2^31 under SAT (R80). -/
theorem test_sub_wraps : result (.sub { tw 4 3 1020 1022 with ext := 1#32 }) one 4 = some (0x7FFFFFFF#32, 1) := by
  decide +kernel
theorem test_sub_saturates : result (.sub { tw 4 3 1020 1022 0x02#8 with ext := 1#32 }) one 4 = some (0x80000000#32, 1) := by decide +kernel
/-- The high word of 0x80000000 · 9, unsigned: 4 (R80). -/
theorem test_mulhi_unsigned : result (.mulhi (tw 4 3 2 1022 0x01#8)) one 4 = some (4#32, 2) := by decide +kernel
/-- An arithmetic shift right by 32 or more gives the sign in every bit (R85). -/
theorem test_shr_full : result (.shr { tw 4 3 1020 1022 0x01#8 with ext := 40#32 }) one 4 = some (0xFFFFFFFF#32, 0) := by decide +kernel
/-- 1 + π to the nearest, ties to even: 0x3F800000 + 0x40490FDB, half an ulp to drop (RNE). -/
theorem test_fadd : result (.fadd (tw 4 4 5 1022)) one 4 = some (0x408487EE#32, 3) := by decide +kernel
/-- An add moves to the next slot; a branch goes to its target (R24). -/
theorem test_pc : pc1 (.add (tw 4 1 2 1022)) one = some 1#64 ∧ pc1 (.bra ahead) one = some 64#64 := by decide +kernel
/-- A false guard writes nothing; under ZM it writes zero (R36). -/
theorem test_guard : result (.add (onP1 (tw 4 1 2 1022))) one 4 = some (0x3F800000#32, 3) ∧
    result (.add { onP1 (tw 4 1 2 1022) with ext := 0xFF840000#32 }) one 4 = some (0#32, 1) := by decide +kernel
/-- A hard error of an HBM line poisons its four units, and only them (R395, R397). -/
theorem test_strike : (let s := State.reset.deviceAct (.strike (.hbm 4) true)
    [0xFF, 0x100, 0x13F, 0x140].map (fun a => s.isPois a 1)) = [false, true, true, false] := by decide +kernel
/-- Division by zero gives −1, and the remainder of −2^31 by −1 is 0 (R345). -/
def bobResult (i : RvInstr) : Option W32 :=
  match exec (.bobbinBase i) (handled.modBob 0 (fun b => { b with regs := [(1, 0x80000000#32), (2, 0xFFFFFFFF#32)] })) with
  | .next t => some ((t.bob 0).reg 10#5)
  | _ => none
theorem test_bobbin_divide : bobResult (.op .div 10#5 1#5 0#5) = some 0xFFFFFFFF#32 ∧ bobResult (.op .rem 10#5 1#5 2#5) = some 0#32 ∧
    bobResult (.op .div 10#5 1#5 2#5) = some 0x80000000#32 := by decide +kernel

end Sys2Proof.Tests
end

section
/-! SUPPORT. The integer instructions of classes 0x0 and 0x1 whose results are stated: carries (R81), shifts (R85), bit fields (R86),
predicate words (R88). -/

namespace Sys2Proof.Laws

open Sys2Proof.Machine Sys2Proof.Spec

/-! ### From an instruction of the register-to-register frame to the state after it -/

/-- An instruction of the frame that issues, where no executing thread raises a cause (R41). -/
theorem runThrum_aluBody {sg : Sig} {w : TWord} {extra} {s : State} {x : Ctx} {d : AluDef} (hi : Issues sg w extra s x)
    (hf : ∀ p ∈ x.active, d.fault x p = none) :
    runThrum sg w extra (aluBody d) s = .next (moveOn x s (x.update s (d.thread x))) := by
  rw [runThrum_eq hi.on hi.ctx hi.legal hi.free, aluBody_eq (causes_eq_none.2 hf), finish_ok]
  rfl

/-- A lane raises no cause where its effect is defined and its tag may be written, or nothing is (R63). -/
theorem lane_ok {d : AluDef} {l : Lane} {o : LaneOut} (he : d.eval l = .ok o)
    (ht : l.x.w.d = fNull ∨ o.vals = [] ∨ badTag l.x.wg.fmt o.tag = false) : d.lane l = .ok o := by
  have hn : ¬ (l.x.w.d ≠ fNull ∧ o.vals ≠ [] ∧ badTag l.x.wg.fmt o.tag = true) := by
    rintro ⟨hd, hv, hb⟩
    rcases ht with h | h | h
    · exact hd h
    · exact hv h
    · simp [h] at hb
  simp only [AluDef.lane, he, if_neg hn]

/-- A lane faults where it writes a tag that no register may take (R63). -/
theorem lane_badTag {d : AluDef} {l : Lane} {o : LaneOut} (he : d.eval l = .ok o) (hd : l.x.w.d ≠ fNull) (hv : o.vals ≠ [])
    (hb : badTag l.x.wg.fmt o.tag = true) : d.lane l = .error .format := by
  simp only [AluDef.lane, he, if_pos (And.intro hd (And.intro hv hb))]

theorem lane_error {d : AluDef} {l : Lane} {e : LaneFault} (he : d.eval l = .error e) : d.lane l = .error e := by
  simp only [AluDef.lane, he]

theorem fault_of_lane_ok {d : AluDef} {x : Ctx} {p : Nat × Thread} {o : LaneOut} (h : d.lane ⟨x, p.1, p.2⟩ = .ok o) :
    d.fault x p = none := by
  simp only [AluDef.fault, h]

section
variable {d : AluDef} {x : Ctx} {i : Nat} {th : Thread}

theorem thread_of_lane_ok {o : LaneOut} (hg : th.guard x.w = true) (h : d.lane ⟨x, i, th⟩ = .ok o) :
    d.thread x i th = o.apply x.w th := by
  simp only [AluDef.thread, hg, h, if_true]

theorem thread_of_lane_error {e : LaneFault} (hg : th.guard x.w = true) (h : d.lane ⟨x, i, th⟩ = .error e) :
    d.thread x i th = th := by
  simp only [AluDef.thread, hg, h, if_true]

theorem thread_of_no_guard (hg : th.guard x.w = false) : d.thread x i th = d.zero ⟨x, i, th⟩ := by
  simp [AluDef.thread, hg]

/-- Without ZM a thread that does not execute keeps everything (R36). -/
theorem zero_kept (hz : wordZM x.sg x.w = false) : d.zero ⟨x, i, th⟩ = th := by simp [AluDef.zero, hz]

end

@[simp] theorem sticky_zero (th : Thread) : th.sticky 0#5 = th := by simp [Thread.sticky]

/-- An effect without sticky flags and without a new generator state: registers, then predicates. -/
theorem apply_eq (w : TWord) (th : Thread) (vs : List W32) (tag : Nat) (ps : List (Nat × Bool)) :
    ({ vals := vs, tag := tag, preds := ps } : LaneOut).apply w th =
      ps.foldl (fun t p => t.setPred p.1 p.2) (writeD w th vs tag) := by
  simp [LaneOut.apply]

theorem writeD_null {w : TWord} (h : w.d = fNull) (th : Thread) (vs : List W32) (tag : Nat) : writeD w th vs tag = th := if_pos h
theorem writeD_reg {w : TWord} (h : w.d ≠ fNull) (th : Thread) (vs : List W32) (tag : Nat) :
    writeD w th vs tag = th.setRegs w.d.toNat vs tag := if_neg h
theorem writeD_nil (w : TWord) (th : Thread) (tag : Nat) : writeD w th [] tag = th := ite_self th

/-! ### The statements' `gives`, case by case (R36, R63, R77) -/

section
variable {x : Ctx} {ok : Nat → Thread → Bool} {tag : Nat → Thread → Nat} {v : Nat → Thread → List W32} {i : Nat} {th : Thread}

theorem gives_of_null (hd : x.w.d = fNull) : gives x ok tag v i th = th := if_pos (.inl hd)
theorem gives_of_guard (hg : th.guard x.w = true) (hr : ok i th = true) (hb : badTag x.wg.fmt (tag i th) = false) :
    gives x ok tag v i th = writeD x.w th (v i th) (tag i th) := by
  by_cases hd : x.w.d = fNull
  · rw [writeD_null hd, gives_of_null hd]
  · rw [writeD_reg hd]; simp [gives, show x.w.d ≠ 1023#10 from hd, hg, hr, hb]
theorem gives_of_fails (hg : th.guard x.w = true) (hr : ok i th = false) : gives x ok tag v i th = th := by
  simp [gives, hg, hr]
theorem gives_of_badTag (hb : badTag x.wg.fmt (tag i th) = true) : gives x ok tag v i th = th := if_pos (.inr hb)
theorem gives_of_zeroed (hg : th.guard x.w = false) (hz : wordZM x.sg x.w = true) (hb : badTag x.wg.fmt (tag i th) = false) :
    gives x ok tag v i th = writeD x.w th (List.replicate (v i th).length 0#32) (tag i th) := by
  by_cases hd : x.w.d = fNull
  · rw [writeD_null hd, gives_of_null hd]
  · rw [writeD_reg hd]; simp [gives, show x.w.d ≠ 1023#10 from hd, hg, hz, hb]
theorem gives_of_kept (hg : th.guard x.w = false) (hz : wordZM x.sg x.w = false) : gives x ok tag v i th = th := by
  simp [gives, hg, hz]

end

/-! ### Plain instructions -/

section
variable {n : Nat} {reqs : Lane → Bool} {tag : Lane → Nat} {f : Lane → List W32} {x : Ctx} {i : Nat} {th : Thread}

theorem plainAlu_eval_ok {l : Lane} (hr : reqs l = true) : (plainAlu n reqs tag f).eval l = .ok { vals := f l, tag := tag l } := if_pos hr
theorem plainAlu_eval_error {l : Lane} (hr : reqs l = false) : (plainAlu n reqs tag f).eval l = .error .format := by
  simp [plainAlu, hr]

theorem plainAlu_zero_zeroed (hn : n ≠ 0) (hz : wordZM x.sg x.w = true) (hb : badTag x.wg.fmt (tag ⟨x, i, th⟩) = false) :
    (plainAlu n reqs tag f).zero ⟨x, i, th⟩ = writeD x.w th (List.replicate n 0#32) (tag ⟨x, i, th⟩) := by
  simp [AluDef.zero, plainAlu, hn, hz, hb]
theorem plainAlu_zero_badTag (hb : badTag x.wg.fmt (tag ⟨x, i, th⟩) = true) : (plainAlu n reqs tag f).zero ⟨x, i, th⟩ = th := by
  simp [AluDef.zero, plainAlu, hb]

/-- A plain instruction leaves every thread as the statements' `gives` says (R36, R63, R77). -/
theorem plainAlu_thread (hn : n ≠ 0) (hl : (f ⟨x, i, th⟩).length = n) :
    (plainAlu n reqs tag f).thread x i th =
      gives x (fun i th => reqs ⟨x, i, th⟩) (fun i th => tag ⟨x, i, th⟩) (fun i th => f ⟨x, i, th⟩) i th := by
  have hv : f ⟨x, i, th⟩ ≠ [] := fun h => hn (by simpa [h] using hl.symm)
  cases hg : th.guard x.w <;> cases hb : badTag x.wg.fmt (tag ⟨x, i, th⟩)
  case false.false =>
    rw [thread_of_no_guard hg]
    cases hz : wordZM x.sg x.w
    · rw [zero_kept hz, gives_of_kept hg hz]
    · rw [plainAlu_zero_zeroed hn hz hb, gives_of_zeroed hg hz hb, hl]
  case false.true => rw [thread_of_no_guard hg, plainAlu_zero_badTag hb, gives_of_badTag hb]
  all_goals
    cases hr : reqs ⟨x, i, th⟩
    · rw [thread_of_lane_error hg (lane_error (plainAlu_eval_error hr)), gives_of_fails hg hr]
  · rw [thread_of_lane_ok hg (lane_ok (plainAlu_eval_ok hr) (.inr (.inr hb))), apply_eq, gives_of_guard hg hr hb]
    rfl
  · rw [gives_of_badTag hb]
    by_cases hd : x.w.d = fNull
    · rw [thread_of_lane_ok hg (lane_ok (plainAlu_eval_ok hr) (.inl hd)), apply_eq, writeD_null hd]
      rfl
    · rw [thread_of_lane_error hg (lane_badTag (plainAlu_eval_ok hr) hd hv hb)]

end

/-- A plain instruction completes with the values of a statement where its checks, tag and values are the statement's. -/
theorem computes_plainAlu {i : TWord → Instr} {sg : TWord → Sig} {extra : TWord → List Nat} {ok : Ctx → Nat → Thread → Bool}
    {tag : Ctx → Nat → Thread → Nat} {v : Ctx → Nat → Thread → List W32} {n : Nat} {reqs : TWord → Lane → Bool}
    {tg : TWord → Lane → Nat} {f : TWord → Lane → List W32}
    (he : ∀ w s, exec (i w) s = runThrum (sg w) w (extra w) (aluBody (plainAlu n (reqs w) (tg w) (f w))) s)
    (hn : n ≠ 0) (hl : ∀ x i th, (v x i th).length = n) (hr : ∀ x i th, reqs x.w ⟨x, i, th⟩ = ok x i th)
    (ht : ∀ x i th, tg x.w ⟨x, i, th⟩ = tag x i th) (hv : ∀ x i th, f x.w ⟨x, i, th⟩ = v x i th) :
    Computes i sg extra ok tag v := by
  intro w s x hi hok
  obtain ⟨rfl, -⟩ := ctx?_word hi.ctx
  have hthread : (plainAlu n (reqs x.w) (tg x.w) (f x.w)).thread x = gives x (ok x) (tag x) (v x) := by
    funext j th
    rw [plainAlu_thread hn (by rw [hv, hl])]
    simp only [hr, ht, hv]
  rw [he, runThrum_aluBody hi, hthread]
  intro p hp
  obtain ⟨hpass, htag⟩ := hok p hp
  refine fault_of_lane_ok (lane_ok (plainAlu_eval_ok ((hr ..).trans hpass)) (htag.imp_right fun h => .inr ?_))
  rwa [ht]

/-- A plain instruction with one result that checks no tag. -/
theorem computes_untagged {i : TWord → Instr} {sg : TWord → Sig} {extra : TWord → List Nat} {tag : Ctx → Nat → Thread → Nat}
    {v : Ctx → Nat → Thread → W32} {tg : TWord → Lane → Nat} {f : TWord → Lane → List W32}
    (he : ∀ w s, exec (i w) s = runThrum (sg w) w (extra w) (aluBody (plainAlu 1 noReq (tg w) (f w))) s)
    (ht : ∀ x i th, tg x.w ⟨x, i, th⟩ = tag x i th) (hv : ∀ x i th, f x.w ⟨x, i, th⟩ = [v x i th]) :
    Computes i sg extra anyTags tag (fun x i th => [v x i th]) :=
  computes_plainAlu he one_ne_zero (fun _ _ _ => rfl) (fun _ _ _ => rfl) ht hv

/-! ### Words that are illegal by their encoding (R35, R37) -/

/-- A MOD bit that the entry does not define is illegal when set. -/
theorem illegalInstr_of_mod {g : Sig} {w : TWord} (e : EncCtx) (n : Nat) (hw : w.md.getLsbD n = true) (hm : g.mask.getLsbD n = false) :
    g.illegalInstr w e = true := by
  have hne : w.md &&& ~~~ g.mask ≠ 0#8 := fun h => by
    have hbit := congrArg (fun b : Byte => b.getLsbD n) h
    rw [BitVec.getLsbD_and, BitVec.getLsbD_not, hw, hm, decide_eq_true (BitVec.lt_of_getLsbD hw), BitVec.getLsbD_zero] at hbit
    exact absurd hbit (by decide)
  simp [Sig.illegalInstr, hne]

/-- A destination that should hold its filler and does not is illegal. -/
theorem illegalInstr_of_filler {g : Sig} {w : TWord} (e : EncCtx) (h : g.d.badFiller w.d = true) : g.illegalInstr w e = true := by
  simp [Sig.illegalInstr, h]

/-! ### Carries (R81) -/

theorem reqAB_eq_ints (x : Ctx) (i : Nat) (th : Thread) : reqAB ⟨x, i, th⟩ = ints (fun w => [w.a, w.b]) x i th :=
  congrArg (tagOk th x.w.a 1 tINT && ·) (Bool.and_true _).symm

theorem fCO_eq (w : TWord) : fCO w = w.md.toNat / 32 % 8 := by simp [fCO, mdF, fieldN, Nat.shiftRight_eq_div_pow]
theorem fCI_eq (w : TWord) : fCI w = w.md.toNat / 4 % 8 := by simp [fCI, mdF, fieldN, Nat.shiftRight_eq_div_pow]
theorem carryKeys_eq (w : TWord) : carryKeys w = extraKeys [w.md.toNat / 32 % 8, w.md.toNat / 4 % 8] := by
  rw [carryKeys, fCO_eq, fCI_eq]
theorem badTag_u32 (fmt : Tab W32) : badTag fmt 2 = false := by simp [badTag]

/-- The sum of `addc`, and of `subc` with B inverted, before it is cut to 32 bits. -/
def carrySum (x : Ctx) (inv : Bool) (i : Nat) (th : Thread) : Nat :=
  (val x i th x.w.a).toNat + (if inv then ~~~ val x i th x.w.b else val x i th x.w.b).toNat +
    (th.pred (x.w.md.toNat / 4 % 8) ^^ x.w.md.getLsbD 1).toNat

/-- A thread after `addc` or `subc`: D and the carry-out hold the two halves of the sum, and are both cleared under ZM (R77). -/
def carryThread (x : Ctx) (inv : Bool) (i : Nat) (th : Thread) : Thread :=
  let t := gives x (ints (fun w => [w.a, w.b]) x) (tagU32 x) (fun i th => [BitVec.ofNat 32 (carrySum x inv i th)]) i th
  if th.guard x.w then
    (if ints (fun w => [w.a, w.b]) x i th then t.setPred (x.w.md.toNat / 32 % 8) (decide (2 ^ 32 ≤ carrySum x inv i th)) else t)
  else if wordZM x.sg x.w then t.setPred (x.w.md.toNat / 32 % 8) false
  else t

theorem carryDef_eval (x : Ctx) (inv : Bool) (i : Nat) (th : Thread) :
    (carryDef x.w inv).eval ⟨x, i, th⟩ =
      if ints (fun w => [w.a, w.b]) x i th then
        .ok { vals := [BitVec.ofNat 32 (carrySum x inv i th)], tag := 2,
              preds := [(x.w.md.toNat / 32 % 8, decide (2 ^ 32 ≤ carrySum x inv i th))] }
      else .error .format := by
  have hc (b c : Bool) : (if (b != c) = true then 1 else 0) = (b ^^ c).toNat := by cases b <;> cases c <;> rfl
  simp only [carryDef, reqAB_eq_ints, fCO_eq, fCI_eq, hc]
  rfl

/-- The effect of a lane whose sources pass: the tag U32 may always be written. -/
theorem carryDef_lane {x : Ctx} {i : Nat} {th : Thread} (inv : Bool) (hr : ints (fun w => [w.a, w.b]) x i th = true) :
    (carryDef x.w inv).lane ⟨x, i, th⟩ =
      .ok { vals := [BitVec.ofNat 32 (carrySum x inv i th)], tag := 2,
            preds := [(x.w.md.toNat / 32 % 8, decide (2 ^ 32 ≤ carrySum x inv i th))] } :=
  lane_ok ((carryDef_eval x inv i th).trans (if_pos hr)) (.inr (.inr (badTag_u32 _)))

theorem carryDef_zero_zeroed {x : Ctx} {i : Nat} {th : Thread} (inv : Bool) (hz : wordZM x.sg x.w = true) :
    (carryDef x.w inv).zero ⟨x, i, th⟩ = (writeD x.w th [0#32] 2).setPred (x.w.md.toNat / 32 % 8) false := by
  simp [AluDef.zero, carryDef, hz, badTag_u32, fCO_eq]

theorem carryDef_thread (x : Ctx) (inv : Bool) (i : Nat) (th : Thread) : (carryDef x.w inv).thread x i th = carryThread x inv i th := by
  unfold carryThread
  cases hg : th.guard x.w
  · rw [thread_of_no_guard hg]
    cases hz : wordZM x.sg x.w
    · rw [zero_kept hz, gives_of_kept hg hz]
      rfl
    · rw [carryDef_zero_zeroed inv hz, gives_of_zeroed hg hz (badTag_u32 _)]
      rfl
  · cases hr : ints (fun w => [w.a, w.b]) x i th
    · rw [thread_of_lane_error hg (lane_error ((carryDef_eval x inv i th).trans (if_neg (by simp [hr])))), gives_of_fails hg hr]
      rfl
    · rw [thread_of_lane_ok hg (carryDef_lane inv hr), apply_eq, gives_of_guard hg hr (badTag_u32 _)]
      rfl

theorem runThrum_carryDef {sg : Sig} {w : TWord} {s : State} {x : Ctx} (inv : Bool) (hi : Issues sg w (carryKeys w) s x)
    (hok : ∀ p ∈ x.active, ints (fun w => [w.a, w.b]) x p.1 p.2 = true) :
    runThrum sg w (carryKeys w) (aluBody (carryDef w inv)) s = .next (moveOn x s (x.update s (carryThread x inv))) := by
  obtain ⟨rfl, -⟩ := ctx?_word hi.ctx
  rw [runThrum_aluBody hi fun p hp => fault_of_lane_ok (carryDef_lane inv (hok p hp)), funext₂ (carryDef_thread x inv)]

/-- Settles O4: `carryDef` computes the statement's sum in every lane, and leaves inactive threads as R77 says. -/
theorem carryResults : Obligations.CarryResults := by
  refine ⟨fun w s x hi hok => ?_, fun w s x hi hok => ?_,
    fun w e h => ⟨illegalInstr_of_mod e 0 h (by simp [sigAddc, sig3]), illegalInstr_of_mod e 0 h (by simp [sigSubc, sig3])⟩⟩
  all_goals
    obtain ⟨rfl, -⟩ := ctx?_word hi.ctx
    rw [← carryKeys_eq] at hi
  · exact runThrum_carryDef false hi hok
  · exact runThrum_carryDef true hi hok

/-! ### Shifts (R85) -/

theorem shiftLeft_eq_ofNat (a : W32) (n : Nat) : a <<< n = BitVec.ofNat 32 (a.toNat * 2 ^ n) :=
  BitVec.eq_of_toNat_eq (by simp [Nat.shiftLeft_eq])
theorem ushiftRight_eq_ofNat {k : Nat} (a : BitVec k) (n : Nat) : a >>> n = BitVec.ofNat k (a.toNat / 2 ^ n) := by
  refine BitVec.eq_of_toNat_eq ?_
  have hlt : a.toNat / 2 ^ n < 2 ^ k := (Nat.div_le_self ..).trans_lt a.isLt
  rw [BitVec.toNat_ushiftRight, Nat.shiftRight_eq_div_pow, BitVec.toNat_ofNat, Nat.mod_eq_of_lt hlt]
theorem sshiftRight_eq_word (a : W32) (n : Nat) : a.sshiftRight n = word (a.toInt / 2 ^ n) := by
  simp [BitVec.sshiftRight, word, Int.shiftRight_eq_div_pow]
theorem toNat_pair (b a : W32) : (b ++ a : W64).toNat = b.toNat * 2 ^ 32 + a.toNat := by
  rw [BitVec.toNat_append, ← Nat.shiftLeft_add_eq_or_of_lt a.isLt, Nat.shiftLeft_eq]
/-- The low word of a pair shifted right. -/
theorem lo32_pair_ushiftRight (b a : W32) (n : Nat) :
    lo32 ((b ++ a : W64) >>> n) = BitVec.ofNat 32 ((b.toNat * 2 ^ 32 + a.toNat) / 2 ^ n) := by
  rw [ushiftRight_eq_ofNat, toNat_pair]
  exact BitVec.eq_of_toNat_eq (by simp [lo32])

/-- Settles O6: each shift of the model is a product or a quotient by a power of two, at every amount. -/
theorem shiftResults : Obligations.ShiftResults := by
  refine ⟨computes_untagged (fun _ _ => rfl) (fun _ _ _ => rfl) fun x i th => ?_,
    computes_untagged (fun _ _ => rfl) (fun _ _ _ => rfl) fun x i th => ?_,
    computes_untagged (fun _ _ => rfl) (fun _ _ _ => rfl) fun x i th => ?_⟩
  · simp only [shiftLeft_eq_ofNat]
    rfl
  · simp only [sshiftRight_eq_word, ushiftRight_eq_ofNat]
    rfl
  · simp only [apply_ite lo32, lo32_pair_ushiftRight]
    simp only [← apply_ite (BitVec.ofNat 32)]
    rfl

/-! ### Words from their bits -/

theorem spanN_succ (s n : Nat) : spanN s (n + 1) = spanN s n ++ [s + n] := by
  induction n generalizing s with
  | zero => rfl
  | succ n ih => rw [spanN, ih, spanN, List.cons_append, Nat.succ_add_eq_add_succ]

theorem ofBits_succ (n : Nat) (f : Nat → Bool) : ofBits (n + 1) f = if f n then 2 ^ n + ofBits n f else ofBits n f := by
  simp [ofBits, upTo, spanN_succ, Nat.add_comm]

theorem ofBits_lt (n : Nat) (f : Nat → Bool) : ofBits n f < 2 ^ n := by
  induction n with
  | zero => exact Nat.one_pos
  | succ n ih => rw [ofBits_succ]; split <;> omega

theorem testBit_ofBits (n : Nat) (f : Nat → Bool) (k : Nat) : (ofBits n f).testBit k = (decide (k < n) && f k) := by
  induction n with
  | zero => simp [ofBits, upTo, spanN]
  | succ n ih =>
    have hn : (ofBits n f).testBit n = false := Nat.testBit_lt_two_pow (ofBits_lt n f)
    rcases Nat.lt_trichotomy k n with h | rfl | h
    · rw [ofBits_succ]
      split <;> simp [Nat.testBit_two_pow_add_gt, ih, h, Nat.lt_succ_of_lt h]
    · rw [ofBits_succ]
      split <;> simp_all [Nat.testBit_two_pow_add_eq]
    · rw [Nat.testBit_lt_two_pow ((ofBits_lt _ f).trans_le (Nat.pow_le_pow_right Nat.two_pos h))]
      simp [Nat.not_lt.2 (Nat.succ_le_of_lt h)]

theorem bits32_eq_ofBits (f : Nat → Bool) : bits32 f = BitVec.ofNat 32 (ofBits 32 f) := by
  have hstep : (fun a i => a + (f i).toNat * 2 ^ i) = fun a i => if f i then a + 2 ^ i else a := by
    funext a i
    cases f i <;> simp
  rw [bits32, hstep]
  rfl

theorem getLsbD_bits32 {f : Nat → Bool} {k : Nat} (h : k < 32) : (bits32 f).getLsbD k = f k := by
  rw [bits32_eq_ofBits, BitVec.getLsbD_ofNat, testBit_ofBits]
  simp [h]

/-! ### Bit fields (R86) -/

theorem fieldN_eq (x lo n : Nat) : fieldN x lo n = x / 2 ^ lo % 2 ^ n := by rw [fieldN, Nat.shiftRight_eq_div_pow]
theorem fieldN_lt (x lo n : Nat) : fieldN x lo n < 2 ^ n := Nat.mod_lt _ (Nat.two_pow_pos n)
theorem fieldOf_eq (c : W32) : fieldOf c = (bfPos c, bfWidth c) := by simp [fieldOf, bfWidth, bfPos, bfLen, fieldN_eq]
theorem noField_iff (c : W32) : noField c = true ↔ bfLen c = 0 ∨ 32 ≤ bfPos c := by simp [noField, bfPos, bfLen, fieldN_eq]
theorem bfWidth_pos {c : W32} (h : ¬ (bfLen c = 0 ∨ 32 ≤ bfPos c)) : 0 < bfWidth c := by
  unfold bfWidth; omega

/-- The field that `bfe` extracts from `a`, as the word `c` describes it. -/
def extractField (signed : Bool) (a c : W32) : W32 :=
  let v := a.toNat / 2 ^ (fieldOf c).1 % 2 ^ (fieldOf c).2
  if noField c then 0#32
  else if signed = true ∧ 2 ^ ((fieldOf c).2 - 1) ≤ v then word ((v : Int) - 2 ^ (fieldOf c).2) else BitVec.ofNat 32 v

/-- The word `b` with the field that `c` describes replaced from `a`. -/
def insertField (a b c : W32) : W32 :=
  if noField c then b
  else bits32 (fun k => if (fieldOf c).1 ≤ k ∧ k < (fieldOf c).1 + (fieldOf c).2 then a.getLsbD (k - (fieldOf c).1) else b.getLsbD k)

theorem testBit_top {v n : Nat} (hn : 0 < n) (hv : v < 2 ^ n) : v.testBit (n - 1) = decide (2 ^ (n - 1) ≤ v) := by
  by_cases h : 2 ^ (n - 1) ≤ v
  · rw [decide_eq_true h, Nat.testBit_of_two_pow_le_and_two_pow_add_one_gt h (by rwa [Nat.sub_add_cancel hn])]
  · rw [decide_eq_false h, Nat.testBit_lt_two_pow (Nat.lt_of_not_le h)]

theorem extractField_none {signed : Bool} {a c : W32} (h : bfLen c = 0 ∨ 32 ≤ bfPos c) : extractField signed a c = 0#32 :=
  if_pos ((noField_iff c).2 h)
/-- The sign of a field is its top bit. -/
theorem extractField_some {signed : Bool} {a c : W32} (h : ¬ (bfLen c = 0 ∨ 32 ≤ bfPos c)) :
    extractField signed a c =
      let v := fieldN a.toNat (bfPos c) (bfWidth c)
      trunc32 (if signed && v.testBit (bfWidth c - 1) then (v : Int) - 2 ^ bfWidth c else v) := by
  simp only [extractField, noField_iff, if_neg h, fieldOf_eq, ← fieldN_eq, testBit_top (bfWidth_pos h) (fieldN_lt ..),
    Bool.and_eq_true, decide_eq_true_eq, apply_ite trunc32]
  simp only [word, trunc32, BitVec.ofInt_natCast]

/-- The mask under which `bfi` takes bits of A. -/
theorem getLsbD_fieldMask {pos n k : Nat} (hk : k < 32) :
    (BitVec.ofNat 32 ((2 ^ n - 1) * 2 ^ pos)).getLsbD k = decide (pos ≤ k ∧ k < pos + n) := by
  rw [BitVec.getLsbD_ofNat, Nat.testBit_mul_two_pow, Nat.testBit_two_pow_sub_one]
  simp only [hk, decide_true, Bool.true_and, ← Bool.decide_and]
  exact decide_eq_decide.2 (and_congr_right fun _ => by omega)

theorem insertField_none {a b c : W32} (h : bfLen c = 0 ∨ 32 ≤ bfPos c) : insertField a b c = b := if_pos ((noField_iff c).2 h)
/-- Replacing a field bit by bit is replacing it through its mask. -/
theorem insertField_some {a b c : W32} (h : ¬ (bfLen c = 0 ∨ 32 ≤ bfPos c)) :
    insertField a b c =
      let m : W32 := BitVec.ofNat 32 ((2 ^ bfWidth c - 1) * 2 ^ bfPos c)
      (b &&& ~~~ m) ||| ((a <<< bfPos c) &&& m) := by
  refine BitVec.eq_of_getLsbD_eq fun k hk => ?_
  simp only [insertField, noField_iff, if_neg h, fieldOf_eq, getLsbD_bits32 hk, BitVec.getLsbD_or, BitVec.getLsbD_and,
    BitVec.getLsbD_not, BitVec.getLsbD_shiftLeft, getLsbD_fieldMask hk]
  by_cases hin : bfPos c ≤ k ∧ k < bfPos c + bfWidth c
  · simp [hin, hk, Nat.not_lt.2 hin.1]
  · simp [hin, hk]

/-- Settles O7: the model's masks and top bit compute `extractField` and `insertField`, the field empty or not. -/
theorem bitFieldResults : Obligations.BitFieldResults := by
  refine ⟨computes_untagged (v := fun x i th => extractField (x.w.md.getLsbD 0) (val x i th x.w.a) (val x i th x.w.b))
      (fun _ _ => rfl) (fun _ _ _ => rfl) fun x i th => ?_,
    computes_untagged (v := fun x i th => insertField (val x i th x.w.a) (val x i th x.w.b) (val x i th x.w.c))
      (fun _ _ => rfl) (fun _ _ _ => rfl) fun x i th => ?_⟩
  · by_cases h : bfLen (val x i th x.w.b) = 0 ∨ 32 ≤ bfPos (val x i th x.w.b)
    · rw [extractField_none h]; exact if_pos h
    · rw [extractField_some h]; exact if_neg h
  · by_cases h : bfLen (val x i th x.w.c) = 0 ∨ 32 ≤ bfPos (val x i th x.w.c)
    · rw [insertField_none h]; exact if_pos h
    · rw [insertField_some h]; exact if_neg h

/-! ### Predicate words (R88) -/

theorem preds_setPred {th : Thread} {i k : Nat} {b : Bool} (hk : k < 7) :
    (th.setPred i b).preds.getLsbD k = if k = i then b else th.preds.getLsbD k := by
  unfold Thread.setPred
  by_cases hi : 7 ≤ i
  · rw [if_pos hi, if_neg (by omega)]
  · have hbit : (BitVec.ofNat 7 (2 ^ i)).getLsbD k = decide (k = i) := by
      rw [BitVec.getLsbD_ofNat, Nat.testBit_two_pow, decide_eq_true hk, Bool.true_and, decide_eq_decide.2 eq_comm]
    rw [if_neg hi]
    cases b
    · simp only [Bool.false_eq_true, if_false, BitVec.getLsbD_and, BitVec.getLsbD_not, hbit, hk, decide_true, Bool.true_and]
      by_cases hki : k = i <;> simp [hki]
    · simp only [if_true, BitVec.getLsbD_or, hbit]
      by_cases hki : k = i <;> simp [hki]

theorem with_preds_setPred (th : Thread) (i : Nat) (b : Bool) (p : BitVec 7) :
    { th.setPred i b with preds := p } = { th with preds := p } := by
  unfold Thread.setPred; split <;> rfl

/-- Writing predicates one after the other changes those predicates and nothing else. -/
theorem foldl_setPred {ks : List Nat} {b : Nat → Bool} {th : Thread} {p : BitVec 7}
    (h : ∀ k < 7, p.getLsbD k = if k ∈ ks then b k else th.preds.getLsbD k) :
    ks.foldl (fun t i => t.setPred i (b i)) th = { th with preds := p } := by
  induction ks generalizing th with
  | nil =>
    have hp : p = th.preds := BitVec.eq_of_getLsbD_eq fun k hk => by simpa using h k hk
    rw [hp]; rfl
  | cons i ks ih =>
    rw [List.foldl_cons, ih (th := th.setPred i (b i)), with_preds_setPred]
    intro k hk
    rw [h k hk, preds_setPred hk]
    by_cases hm : k ∈ ks <;> by_cases hi : k = i <;> simp_all

theorem mem_r2pMask {w : TWord} {k : Nat} : k ∈ r2pMask w ↔ k < 7 ∧ w.md.getLsbD k = true := by
  simp [r2pMask, mem_upTo, mdB]

/-- The mask of `r2p` as a word of predicates. -/
def r2pBits (w : TWord) : BitVec 7 := w.md.truncate 7

theorem getLsbD_r2pBits {w : TWord} {k : Nat} (hk : k < 7) : (r2pBits w).getLsbD k = decide (k ∈ r2pMask w) := by
  simp [r2pBits, mem_r2pMask, hk]

/-- The predicates of the mask take the bits of a word. -/
theorem foldl_setPred_r2pMask (w : TWord) (th : Thread) (a : BitVec 7) {b : Nat → Bool} (hb : ∀ k < 7, b k = a.getLsbD k) :
    (r2pMask w).foldl (fun t i => t.setPred i (b i)) th =
      { th with preds := (th.preds &&& ~~~ r2pBits w) ||| (a &&& r2pBits w) } := by
  refine foldl_setPred fun k hk => ?_
  rw [BitVec.getLsbD_or, BitVec.getLsbD_and, BitVec.getLsbD_and, BitVec.getLsbD_not, getLsbD_r2pBits hk, hb k hk]
  by_cases hm : k ∈ r2pMask w <;> simp [hm, hk]

/-- A thread after `r2p` (R77, R88). -/
def r2pThread (x : Ctx) (i : Nat) (th : Thread) : Thread :=
  if th.guard x.w then
    { th with preds := (th.preds &&& ~~~ r2pBits x.w) ||| ((val x i th x.w.a).truncate 7 &&& r2pBits x.w) }
  else if wordZM x.sg x.w then { th with preds := th.preds &&& ~~~ r2pBits x.w }
  else th

theorem r2pDef_lane (x : Ctx) (i : Nat) (th : Thread) :
    (r2pDef x.w).lane ⟨x, i, th⟩ = .ok { preds := (r2pMask x.w).map fun k => (k, (val x i th x.w.a).getLsbD k) } :=
  lane_ok rfl (.inr (.inl rfl))

theorem r2pDef_thread (x : Ctx) (i : Nat) (th : Thread) : (r2pDef x.w).thread x i th = r2pThread x i th := by
  unfold r2pThread
  cases hg : th.guard x.w
  · rw [thread_of_no_guard hg]
    cases hz : wordZM x.sg x.w
    · rw [zero_kept hz]
      rfl
    · have hzero : (r2pDef x.w).zero ⟨x, i, th⟩ = (r2pMask x.w).foldl (fun t k => t.setPred k false) th := by
        simp [AluDef.zero, r2pDef, hz]
      rw [hzero, foldl_setPred_r2pMask x.w th 0#7 (by simp)]
      simp
  · have hbit : ∀ k < 7, (val x i th x.w.a).getLsbD k = ((val x i th x.w.a).truncate 7).getLsbD k := fun k hk => by simp [hk]
    rw [thread_of_lane_ok hg (r2pDef_lane x i th), apply_eq, List.foldl_map, writeD_nil, if_pos rfl]
    exact foldl_setPred_r2pMask x.w _ _ hbit

/-- The eight predicates as a number: p7 reads 1. -/
theorem ofBits_pred (th : Thread) : ofBits 8 (fun i => th.pred i) = th.preds.toNat + 2 ^ 7 := by
  have hlow : ofBits 7 (fun i => th.pred i) = th.preds.toNat := Nat.eq_of_testBit_eq fun k => by
    rw [testBit_ofBits, BitVec.testBit_toNat]
    by_cases hk : k < 7
    · simp [Thread.pred, hk, Nat.ne_of_lt hk]
    · simp [hk, BitVec.getLsbD_of_ge _ _ (Nat.le_of_not_lt hk)]
  rw [ofBits_succ, if_pos (by rfl), hlow, Nat.add_comm]

/-- Settles O9: `p2r` sums the predicates' bits, and the predicates `r2p` writes one after the other are those of its mask. -/
theorem predicateWordResults : Obligations.PredicateWordResults := by
  refine ⟨computes_untagged (fun _ _ => rfl) (fun _ _ _ => rfl) fun _ _ th => congrArg (fun n => [BitVec.ofNat 32 n]) (ofBits_pred th),
    fun w s x hi => ?_, fun w e h => ?_⟩
  · obtain ⟨rfl, -⟩ := ctx?_word hi.ctx
    have hrun := runThrum_aluBody (d := r2pDef x.w) hi fun p _ => fault_of_lane_ok (r2pDef_lane x p.1 p.2)
    rw [funext₂ (r2pDef_thread x)] at hrun
    exact hrun
  · rcases h with hd | hm
    · exact illegalInstr_of_filler e (bne_iff_ne.2 hd)
    · exact illegalInstr_of_mod e 7 hm (by simp [sigR2p])

end Sys2Proof.Laws
end

section
/-! SUPPORT. Encodings: what the decoders read from the bytes of an encoding, and from a word what the encoder lays out again. -/

namespace Sys2Proof.Laws

open Sys2Proof.Machine Sys2Proof.Spec

/-! ### Bytes of words -/

theorem length_leBytes (n v : Nat) : (leBytes n v).length = n := by
  induction n generalizing v with
  | zero => rfl
  | succ n ih => rw [leBytes, List.length_cons, ih]

theorem leVal_leBytes (n v : Nat) : leVal (leBytes n v) = v % 256 ^ n := by
  induction n generalizing v with
  | zero => rw [pow_zero, Nat.mod_one]; rfl
  | succ n ih => rw [leBytes, leVal, ih, Nat.pow_succ', Nat.mod_mul, BitVec.toNat_ofNat]

/-- The byte of a word that `leBytes` puts at a place. -/
theorem ofNat_div_eq_extract {n : Nat} (x : BitVec n) (k : Nat) : BitVec.ofNat 8 (x.toNat / 2 ^ k) = bx x k 8 :=
  BitVec.eq_of_toNat_eq (by rw [BitVec.extractLsb'_toNat, BitVec.toNat_ofNat, Nat.shiftRight_eq_div_pow])

theorem leBytes_word (x : W32) : leBytes 4 x.toNat = [bx x 0 8, bx x 8 8, bx x 16 8, bx x 24 8] := by
  simp only [leBytes, Nat.div_div_eq_div_mul, ← ofNat_div_eq_extract]
  simp
theorem leBytes_half (x : BitVec 16) : leBytes 2 x.toNat = [bx x 0 8, bx x 8 8] := by
  simp only [leBytes, ← ofNat_div_eq_extract]
  simp

theorem bytes_word (x : W32) : bx x 24 8 ++ bx x 16 8 ++ bx x 8 8 ++ bx x 0 8 = x := by
  rw [bx_join x 16 8 8 24 rfl, bx_join x 8 16 8 16 rfl, bx_join x 0 24 8 8 rfl]
  exact bx_self x
theorem bytes_half (x : BitVec 16) : bx x 8 8 ++ bx x 0 8 = x := (bx_join x 0 8 8 8 rfl).trans (bx_self x)
theorem low_half_of_word (x : W32) : bx (bx x 8 8 ++ bx x 0 8) 0 2 = bx x 0 2 := by
  rw [bx_join x 0 8 8 8 rfl]
  exact BitVec.eq_of_getLsbD_eq fun i hi => by simp [hi]

/-! ### From the decoded word to the decoded bytes (R21, R345) -/

theorem decodeSlot_leBytes (x : BitVec 96) (rest : List Byte) : decodeSlot (leBytes 12 x.toNat ++ rest) = decodeThrum x := by
  have hlen := length_leBytes 12 x.toNat
  have hval : BitVec.ofNat 96 (leVal (leBytes 12 x.toNat)) = x := by
    rw [leVal_leBytes, Nat.mod_eq_of_lt (show x.toNat < 256 ^ 12 from x.isLt), BitVec.ofNat_toNat, BitVec.setWidth_eq]
  rw [decodeSlot, if_neg (by rw [List.length_append, hlen]; omega), List.take_left' hlen, hval]

theorem decodeBobbin_word {x : W32} (h : bx x 0 2 = 3#2) (rest : List Byte) :
    decodeBobbin (leBytes 4 x.toNat ++ rest) = .ok (decodeBobbin32 x, 4) := by
  rw [leBytes_word]
  exact (if_pos ((low_half_of_word x).trans h)).trans (by rw [bytes_word])

theorem decodeBobbin_half {x : BitVec 16} (h : bx x 0 2 ≠ 3#2) (rest : List Byte) :
    decodeBobbin (leBytes 2 x.toNat ++ rest) = .ok (.bobbinBase (decodeRvC x), 2) := by
  rw [leBytes_half]
  exact (if_neg ((bytes_half x).symm ▸ h)).trans (by rw [bytes_half])

/-- The family `Encodes`, for every operation at once. -/
theorem encodes (i : Instr) : Encodes.Statement i := by
  cases i
  case bobbinBase op => exact Encodes.bobbinBase op
  case lnrd b rs2 rs1 rd => exact Encodes.lnrd b rs2 rs1 rd
  case lnwr b rs2 rs1 rd => exact Encodes.lnwr b rs2 rs1 rd
  case lnpf l rs2 rs1 rd => exact Encodes.lnpf l rs2 rs1 rd
  case lsq rs2 rs1 rd => exact Encodes.lsq rs2 rs1 rd
  case mrep b rd => exact Encodes.mrep b rd
  case hfin => exact Encodes.hfin
  case cvtnPack w => exact Encodes.cvtnPack w
  case cvtnUnpack w => exact Encodes.cvtnUnpack w
  case call w => exact Encodes.call w
  case callInd w => exact Encodes.callInd w
  case mrowSt w => exact Encodes.mrowSt w
  case mrowLd w => exact Encodes.mrowLd w
  case shfill w => exact Encodes.shfill w
  case shfillDrop w => exact Encodes.shfillDrop w
  case ldfmt w => exact Encodes.ldfmt w
  case ldfmtClr w => exact Encodes.ldfmtClr w
  -- the events, which have no encoding, then the Thrum instructions that OP alone selects
  any_goals exact fun _ => .inl rfl
  all_goals exact fun _ => .inr (thrum_decode (by decide) rfl)

/-- An operation with a signature has a word. -/
theorem not_isThrum_of_event {i : Instr} (h : encode i = .event) : ¬ IsThrum i := by
  cases i
  case bobbinBase i => exact Bool.false_ne_true
  all_goals cases h
  all_goals exact Bool.false_ne_true

theorem decodeSlot_of_decode {x : BitVec 96} {i : Instr} (h : (Code.thrum x).decode = some i) (rest : List Byte) :
    decodeSlot (leBytes 12 x.toNat ++ rest) = .ok i := by
  rw [decodeSlot_leBytes]
  simp only [Code.decode] at h
  cases hd : decodeThrum x with
  | error => rw [hd] at h; cases h
  | ok j => rw [hd] at h; cases h; rfl
theorem decodeBobbin_of_decode {x : W32} {i : Instr} (h : (Code.rv x).decode = some i) (rest : List Byte) :
    decodeBobbin (leBytes 4 x.toNat ++ rest) = .ok (i, 4) := by
  obtain ⟨hlow, hi⟩ := Option.ite_none_right_eq_some.1 h
  rw [decodeBobbin_word hlow, Option.some.inj hi]
theorem decodeBobbin_of_decode_half {x : BitVec 16} {i : Instr} (h : (Code.rvc x).decode = some i) (rest : List Byte) :
    decodeBobbin (leBytes 2 x.toNat ++ rest) = .ok (i, 2) := by
  obtain ⟨hlow, hi⟩ := Option.ite_none_left_eq_some.1 h
  rw [decodeBobbin_half hlow, Option.some.inj hi]

/-- Settles O48: the family `Encodes`, carried from words to the bytes that hold them. -/
theorem decodingReadsEveryEncoding : Obligations.DecodingReadsEveryEncoding := by
  intro i rest hwf
  have hdec := encodes i hwf
  cases he : encode i <;> simp only [he, reduceCtorEq, false_or] at hdec ⊢
  case event => exact not_isThrum_of_event he
  case thrum => exact decodeSlot_of_decode hdec rest
  case rv => exact decodeBobbin_of_decode hdec rest
  case rvc => exact decodeBobbin_of_decode_half hdec rest

end Sys2Proof.Laws
end

section
/-! SUPPORT. Encoding a decoded word: no bit of a word is dropped (R31, R345). -/

namespace Sys2Proof.Laws

open Sys2Proof.Machine Sys2Proof.Spec

/-! ### Thrum words -/

theorem ofBool_bit {n : Nat} (x : BitVec n) (i : Nat) : BitVec.ofBool (x.getLsbD i) = bx x i 1 := by
  refine BitVec.eq_of_getLsbD_eq fun k hk => ?_
  obtain rfl : k = 0 := by omega
  simp

/-- The fields of a word laid out again are the word (Table 2.3). -/
theorem thrumWord_wordFields (x : BitVec 96) : thrumWord (wordOp x) (wordFields x) = x := by
  simp only [thrumWord, wordFields, wordOp, BitVec.ofNat_toNat, BitVec.setWidth_eq, ofBool_bit]
  rw [bx_join x 76 10 10 86 rfl, bx_join x 66 20 10 76 rfl, bx_join x 56 30 10 66 rfl, bx_join x 46 40 10 56 rfl,
    bx_join x 45 50 1 46 rfl, bx_join x 42 51 3 45 rfl, bx_join x 41 54 1 42 rfl, bx_join x 40 55 1 41 rfl,
    bx_join x 32 56 8 40 rfl, bx_join x 0 64 32 32 rfl]
  exact bx_self x

/-- OP alone, or with one MOD bit, selects the instruction, whose encoding holds OP. -/
theorem encode_thrumOf {op : Nat} {w : TWord} {i : Instr} (h : thrumOf op w = .ok i) : encode i = .thrum (thrumWord op w) := by
  unfold thrumOf at h
  split at h
  all_goals (try split at h) <;> cases h <;> rfl

/-! ### Bobbin words: each field of an encoding stands where the decoder read it -/

/-- A field that has a value holds that value's bits. -/
theorem eq_of_toNat {n k : Nat} {x : BitVec n} (h : x.toNat = k) : x = BitVec.ofNat n k := by
  rw [← h, BitVec.ofNat_toNat, BitVec.setWidth_eq]

theorem rvAluF3_of_imm {f3 : BitVec 3} {imm : BitVec 12} {op : RvAlu} (h : rvImmOf? f3 imm = some op) : rvAluF3 op = f3 := by
  unfold rvImmOf? at h
  revert h
  generalize bx imm 5 7 = f7
  cases op <;> (revert f3 f7; decide)
theorem rvAlu_fields {f7 : BitVec 7} {f3 : BitVec 3} {op : RvAlu} (h : rvAluOf? f7 f3 = some op) :
    rvAluF7 op = f7 ∧ rvAluF3 op = f3 := by
  revert f7 f3 op
  decide
theorem rvCondF3_of {f3 : BitVec 3} {c : RvCond} (h : rvCondOf? f3 = some c) : rvCondF3 c = f3 := by
  revert f3 c
  decide
theorem rvLoadF3_of {f3 : BitVec 3} {k : RvLoad} (h : rvLoadOf? f3 = some k) : rvLoadF3 k = f3 := by
  revert f3 k
  decide
theorem rvStoreF3_of {f3 : BitVec 3} {k : RvStore} (h : rvStoreOf? f3 = some k) : rvStoreF3 k = f3 := by
  revert f3 k
  decide
theorem rvCsrF2_of {f2 : BitVec 2} {c : RvCsr} (h : rvCsrOf? f2 = some c) : rvCsrF2 c = f2 := by
  revert f2 c
  decide

theorem encode_decodeRv (w : W32) : encode (.bobbinBase (decodeRv w)) = .rv w := by
  unfold decodeRv
  extract_lets rd f3 rs1 rs2 f7 immI
  -- an encoding that the base set does not have stands for itself
  have bad : encode (.bobbinBase (.illegal w)) = .rv w := rfl
  split
  case h_12 => exact bad
  all_goals
    have hop := eq_of_toNat ‹(bx w 0 7).toNat = _›
  case h_1 | h_2 =>
    simp (disch := decide) only [encode, encodeRv, rd, ← hop, bx_join, bx_self]
  case h_3 =>
    simp (disch := decide) only [encode, encodeRv, rd, ← hop, bx_high, bx_low, bx_self, Nat.reduceSub, bx_join]
  case h_4 =>
    split
    case isFalse => exact bad
    case isTrue hf =>
      simp (disch := decide) only [encode, encodeRv, rd, rs1, immI, ← hop, ← hf, f3, bx_join, bx_self]
  case h_5 =>
    split
    case h_2 => exact bad
    case h_1 hf =>
      simp (disch := decide) only [encode, encodeRv, rvCondF3_of hf, f3, rs1, rs2, ← hop, bx_high, bx_low, bx_self, Nat.reduceSub, bx_join]
  case h_6 =>
    split
    case h_2 => exact bad
    case h_1 hf => simp (disch := decide) only [encode, encodeRv, rvLoadF3_of hf, rd, f3, rs1, immI, ← hop, bx_join, bx_self]
  case h_7 =>
    split
    case h_2 => exact bad
    case h_1 hf =>
      simp (disch := decide) only [encode, encodeRv, rvStoreF3_of hf, rd, f3, rs1, rs2, f7, ← hop, bx_high, bx_low, bx_self,
        Nat.reduceSub, bx_join]
  case h_8 =>
    split
    case h_2 => exact bad
    case h_1 hf => simp (disch := decide) only [encode, encodeRv, rvAluF3_of_imm hf, rd, f3, rs1, immI, ← hop, bx_join, bx_self]
  case h_9 =>
    split
    case h_2 => exact bad
    case h_1 hf =>
      obtain ⟨h7, h3⟩ := rvAlu_fields hf
      simp (disch := decide) only [encode, encodeRv, h7, h3, rd, f3, rs1, rs2, f7, ← hop, bx_join, bx_self]
  case h_10 =>
    split
    case isFalse => exact bad
    case isTrue hf => simp (disch := decide) only [encode, encodeRv, rd, f3, rs1, ← hf, ← hop, bx_join, bx_self]
  case h_11 =>
    split
    case isTrue h => rw [h]; rfl
    split
    case isTrue h => rw [h]; rfl
    split
    case h_2 => exact bad
    case h_1 hf =>
      simp (disch := decide) only [encode, encodeRv, rvCsrF2_of hf, ofBool_bit, rd, rs1, immI, ← hop, bx_join, bx_self]

/-- A word of custom-0 or custom-1, or one of the base set (Table 13.5). -/
theorem encode_decodeBobbin32 (w : W32) : encode (decodeBobbin32 w) = .rv w := by
  unfold decodeBobbin32
  extract_lets rd rs1 rs2 f7 f3 bad
  have hbad : encode bad = .rv w := rfl
  split
  case h_3 => exact encode_decodeRv w
  all_goals
    have hop := eq_of_toNat ‹(bx w 0 7).toNat = _›
  case h_1 =>
    split
    case isTrue hf =>
      have hf3 := eq_of_toNat hf
      split
      case isFalse => exact hbad
      case isTrue h0 => simp (disch := decide) only [encode, rd, rs1, rs2, ← hop, ← hf3, ← h0, bx_join, bx_self]
    split
    case isTrue hf =>
      have hf3 := eq_of_toNat hf
      split
      case isFalse => exact hbad
      case isTrue h0 => simp (disch := decide) only [encode, rd, rs1, rs2, ← hop, ← hf3, ← h0, bx_join, bx_self]
    split
    case isTrue hf =>
      have hf3 := eq_of_toNat hf
      split
      case isFalse => exact hbad
      case isTrue h0 => simp (disch := decide) only [encode, rd, rs1, rs2, ← hop, ← hf3, ← h0, bx_join, bx_self]
    split
    case isTrue hf =>
      have hf3 := eq_of_toNat hf
      split
      case isFalse => exact hbad
      case isTrue h0 => simp (disch := decide) only [encode, rd, rs1, rs2, ← hop, ← hf3, ← h0, f7, bx_join, bx_self]
    exact hbad
  case h_2 =>
    split
    case isTrue hf =>
      have hf3 := eq_of_toNat hf
      split
      case isFalse => exact hbad
      case isTrue h0 =>
        obtain ⟨h4, h2, h1⟩ := h0
        have e : bx w 28 4 ++ bx w 25 3 ++ rs2 ++ rs1 ++ bx w 12 3 ++ rd ++ bx w 0 7 = w := by
          simp (disch := decide) only [rd, rs1, rs2, bx_join, bx_self]
        rw [h4, h2, h1, hf3, hop] at e
        exact congrArg Code.rv e
    split
    case isTrue h => rw [h]; rfl
    exact hbad

/-- Layouts of a halfword of RV32C: with two register fields of five bits, and with an operation field over bits 11:10. -/
theorem half_fields_wide (h : BitVec 16) : bx h 13 3 ++ bx h 12 1 ++ bx h 7 5 ++ bx h 2 5 ++ bx h 0 2 = h := by
  simp (disch := decide) only [bx_join, bx_self]
theorem half_fields_alu (h : BitVec 16) :
    bx h 13 3 ++ bx h 12 1 ++ bx h 10 2 ++ bx h 7 3 ++ bx h 5 2 ++ bx h 2 3 ++ bx h 0 2 = h := by
  simp (disch := decide) only [bx_join, bx_self]
theorem half_fields_op (h : BitVec 16) : bx h 13 3 ++ bx h 12 1 ++ bx h 10 2 ++ bx h 7 3 ++ bx h 2 5 ++ bx h 0 2 = h := by
  simp (disch := decide) only [bx_join, bx_self]
theorem bit_eq_bx {n : Nat} {x : BitVec n} {i : Nat} {b : Bool} (h : x.getLsbD i = b) : bx x i 1 = BitVec.ofBool b := by
  rw [← ofBool_bit, h]

theorem eq_three_of_ne : ∀ x : BitVec 2, x.toNat ≠ 0 → x.toNat ≠ 1 → x.toNat ≠ 2 → x = 3#2 := by decide

theorem encode_decodeRvC (h : BitVec 16) : encode (.bobbinBase (decodeRvC h)) = .rvc h := by
  unfold decodeRvC
  extract_lets rdp rs1p rd rs2 imm6 imm8 imm16
  -- a halfword that RV32C does not have stands for itself
  have bad : encode (.bobbinBase (.illegalC h)) = .rvc h := rfl
  split
  case h_16 => exact bad
  all_goals
    have hop := eq_of_toNat ‹(bx h 0 2).toNat = _›
    have hf := eq_of_toNat ‹(bx h 13 3).toNat = _›
  case h_1 =>
    split
    case isTrue => exact bad
    simp (disch := decide) only [encode, encodeRvC, rdp, imm8, ← hop, ← hf, bx_high, bx_low, bx_self, Nat.reduceSub, bx_join]
  case h_2 | h_3 | h_4 | h_5 | h_6 | h_9 | h_10 | h_11 | h_15 =>
    simp (disch := decide) only [encode, encodeRvC, rdp, rs1p, rd, rs2, imm6, ← hop, ← hf, bx_high, bx_low, bx_self, Nat.reduceSub, bx_join]
  case h_7 =>
    split
    case isTrue hrd =>
      split
      case isTrue => exact bad
      simp (disch := decide) only [encode, encodeRvC, imm16, ← hop, ← hf, ← hrd, rd, bx_high, bx_low, bx_self, Nat.reduceSub, bx_join]
    split
    case isTrue => exact bad
    simp (disch := decide) only [encode, encodeRvC, rd, imm6, ← hop, ← hf, bx_high, bx_low, bx_self, Nat.reduceSub, bx_join]
  case h_8 =>
    have e := half_fields_op h
    rw [hop, hf] at e
    split
    case h_1 ho | h_2 ho =>
      split
      case isTrue => exact bad
      rename_i hb
      rw [bit_eq_bx (Bool.eq_false_of_not_eq_true hb), eq_of_toNat ho] at e
      exact congrArg Code.rvc e
    case h_3 ho =>
      rw [eq_of_toNat ho] at e
      simp (disch := decide) only [encode, encodeRvC, rs1p, imm6, bx_high, bx_low, bx_self, Nat.reduceSub]
      exact congrArg Code.rvc e
    case h_4 h0 h1 h2 =>
      split
      case isTrue => exact bad
      rename_i hb
      have e := half_fields_alu h
      rw [hop, hf, bit_eq_bx (Bool.eq_false_of_not_eq_true hb), eq_three_of_ne _ h0 h1 h2] at e
      exact congrArg Code.rvc e
  case h_12 =>
    split
    case isTrue => exact bad
    rename_i hb
    have e := half_fields_wide h
    rw [bit_eq_bx (Bool.eq_false_of_not_eq_true hb), hop, hf] at e
    exact congrArg Code.rvc e
  case h_13 =>
    split
    case isTrue => exact bad
    simp (disch := decide) only [encode, encodeRvC, rd, ← hop, ← hf, bx_high, bx_low, bx_self, Nat.reduceSub, bx_join]
  case h_14 =>
    have e := half_fields_wide h
    rw [hop, hf] at e
    split
    case isTrue hb =>
      rw [bit_eq_bx hb] at e
      split
      case isFalse => exact congrArg Code.rvc e
      rename_i h2
      rw [show bx h 2 5 = 0#5 from h2] at e
      split
      case isFalse => exact congrArg Code.rvc e
      rename_i h7
      rw [show bx h 7 5 = 0#5 from h7] at e
      exact congrArg Code.rvc e
    case isFalse hb =>
      rw [bit_eq_bx (Bool.eq_false_of_not_eq_true hb)] at e
      split
      case isFalse => exact congrArg Code.rvc e
      rename_i h2
      rw [show bx h 2 5 = 0#5 from h2] at e
      split
      case isTrue => exact bad
      exact congrArg Code.rvc e

/-- Settles O49: each decoder's fields, joined again, are the word. -/
theorem encodingRestoresEveryWord : Obligations.EncodingRestoresEveryWord :=
  ⟨fun x _ h => (encode_thrumOf h).trans (congrArg Code.thrum (thrumWord_wordFields x)), fun x _ => encode_decodeBobbin32 x,
    fun x _ => encode_decodeRvC x⟩

/-- Settles O47: the decoders compute on closed words. -/
theorem workedEncodingsDecode : Obligations.WorkedEncodingsDecode := by
  exact ⟨rfl, rfl, rfl, rfl, rfl, rfl, rfl, rfl, rfl, rfl, rfl, rfl, rfl, rfl, rfl, rfl, rfl, rfl, rfl, rfl, rfl, rfl, rfl⟩

end Sys2Proof.Laws
end

section
/-! SUPPORT. Memory and its canonical form, for every operation and every step (R139, R333). -/

namespace Sys2Proof.Laws

open Sys2Proof.Machine Sys2Proof.Spec

/-- The events in which a write to memory may perform. -/
def performs : Instr → Bool
  | .firmwareImageLoad _ | .clockStep _ | .thermalShutdown | .ownershipReturnTimeout _ | .invalidationAckTimeout _ _
  | .bobbinOverrun _ | .loadReturn _ | .writePerform _ | .leaseWaitEnd _ | .ownershipReturn _ | .farAtomicAck _
  | .invalidationAck _ _ | .migrationLineBlock _ _ | .migrationReplay _ | .copyWriteLand _ _ | .rcpSignalDecrement _ => true
  | _ => false

/-- Every other operation leaves memory as it was: the table of the laws of single operations. -/
theorem exec_mem (s : State) (i : Instr) (h : performs i = false) : KeepsMem s.mem (exec i s) :=
  match i, h with
  | .add w, _ => execAdd_mem w s | .sub w, _ => execSub_mem w s | .mul w, _ => execMul_mem w s | .mulhi w, _ => execMulhi_mem w s
  | .mad w, _ => execMad_mem w s | .mulw w, _ => execMulw_mem w s | .madw w, _ => execMadw_mem w s | .addc w, _ => execAddc_mem w s
  | .subc w, _ => execSubc_mem w s | .min w, _ => execMin_mem w s | .max w, _ => execMax_mem w s | .abs w, _ => execAbs_mem w s
  | .neg w, _ => execNeg_mem w s | .cmp w, _ => execCmp_mem w s | .sel w, _ => execSel_mem w s | .and w, _ => execAnd_mem w s
  | .or w, _ => execOr_mem w s | .xor w, _ => execXor_mem w s | .not w, _ => execNot_mem w s | .lop3 w, _ => execLop3_mem w s
  | .shl w, _ => execShl_mem w s | .shr w, _ => execShr_mem w s | .fsh w, _ => execFsh_mem w s | .bfe w, _ => execBfe_mem w s
  | .bfi w, _ => execBfi_mem w s | .popc w, _ => execPopc_mem w s | .clz w, _ => execClz_mem w s | .ctz w, _ => execCtz_mem w s
  | .brev w, _ => execBrev_mem w s | .mov w, _ => execMov_mem w s | .plop w, _ => execPlop_mem w s | .p2r w, _ => execP2r_mem w s
  | .r2p w, _ => execR2p_mem w s | .fadd w, _ => execFadd_mem w s | .fsub w, _ => execFsub_mem w s | .fmul w, _ => execFmul_mem w s
  | .ffma w, _ => execFfma_mem w s | .fmin w, _ => execFmin_mem w s | .fmax w, _ => execFmax_mem w s
  | .fcmp w, _ => execFcmp_mem w s | .cvt w, _ => execCvt_mem w s | .cvtnPack w, _ => execCvtnPack_mem w s
  | .cvtnUnpack w, _ => execCvtnUnpack_mem w s | .settag w, _ => execSettag_mem w s | .gettag w, _ => execGettag_mem w s
  | .frcp w, _ => execFrcp_mem w s | .frsqrt w, _ => execFrsqrt_mem w s | .fsqrt w, _ => execFsqrt_mem w s
  | .fexp2 w, _ => execFexp2_mem w s | .flog2 w, _ => execFlog2_mem w s | .fsin w, _ => execFsin_mem w s
  | .fcos w, _ => execFcos_mem w s | .hadd2 w, _ => execHadd2_mem w s | .hsub2 w, _ => execHsub2_mem w s
  | .hmul2 w, _ => execHmul2_mem w s | .hfma2 w, _ => execHfma2_mem w s | .hmin2 w, _ => execHmin2_mem w s
  | .hmax2 w, _ => execHmax2_mem w s | .dp4a w, _ => execDp4a_mem w s | .dp2bf w, _ => execDp2bf_mem w s
  | .dadd w, _ => execDadd_mem w s | .dsub w, _ => execDsub_mem w s | .dmul w, _ => execDmul_mem w s
  | .dfma w, _ => execDfma_mem w s | .dmin w, _ => execDmin_mem w s | .dmax w, _ => execDmax_mem w s
  | .dcmp w, _ => execDcmp_mem w s | .dcvt w, _ => execDcvt_mem w s | .shfl w, _ => execShfl_mem w s
  | .push w, _ => execPush_mem w s | .vote w, _ => execVote_mem w s | .matchOp w, _ => execMatchOp_mem w s
  | .xred w, _ => execXred_mem w s | .xscan w, _ => execXscan_mem w s | .nop w, _ => execNop_mem w s | .bra w, _ => execBra_mem w s
  | .brx w, _ => execBrx_mem w s | .call w, _ => execCall_mem w s | .callInd w, _ => execCallInd_mem w s
  | .ret w, _ => execRet_mem w s | .reform w, _ => execReform_mem w s | .yield w, _ => execYield_mem w s
  | .poll w, _ => execPoll_mem w s | .sleep w, _ => execSleep_mem w s | .region w, _ => execRegion_mem w s
  | .exit w, _ => execExit_mem w s | .trap w, _ => execTrap_mem w s | .bkpt w, _ => execBkpt_mem w s | .ld w, _ => execLd_mem w s
  | .st w, _ => execSt_mem w s | .lds w, _ => execLds_mem w s | .sts w, _ => execSts_mem w s | .pf w, _ => execPf_mem w s
  | .evict w, _ => execEvict_mem w s | .atom w, _ => execAtom_mem w s | .atomn w, _ => execAtomn_mem w s
  | .cas w, _ => execCas_mem w s | .atoms w, _ => execAtoms_mem w s | .cass w, _ => execCass_mem w s
  | .fence w, _ => execFence_mem w s | .acp w, _ => execAcp_mem w s | .tcp w, _ => execTcp_mem w s | .tmc w, _ => execTmc_mem w s
  | .tsf w, _ => execTsf_mem w s | .tst w, _ => execTst_mem w s | .trst w, _ => execTrst_mem w s | .rcp w, _ => execRcp_mem w s
  | .pinit w, _ => execPinit_mem w s | .parr w, _ => execParr_mem w s | .parrb w, _ => execParrb_mem w s
  | .pwait w, _ => execPwait_mem w s | .ptest w, _ => execPtest_mem w s | .cinit w, _ => execCinit_mem w s
  | .mjoin w, _ => execMjoin_mem w s | .mld w, _ => execMld_mem w s | .mldq w, _ => execMldq_mem w s
  | .mswap w, _ => execMswap_mem w s | .mstream w, _ => execMstream_mem w s | .mdrain w, _ => execMdrain_mem w s
  | .mzero w, _ => execMzero_mem w s | .mrowSt w, _ => execMrowSt_mem w s | .mrowLd w, _ => execMrowLd_mem w s
  | .rast w, _ => execRast_mem w s | .trav w, _ => execTrav_mem w s | .shq w, _ => execShq_mem w s
  | .shpark w, _ => execShpark_mem w s | .shfill w, _ => execShfill_mem w s | .shfillDrop w, _ => execShfillDrop_mem w s
  | .shinv w, _ => execShinv_mem w s | .shtick w, _ => execShtick_mem w s | .launch w, _ => execLaunch_mem w s
  | .tdone w, _ => execTdone_mem w s | .sigdec w, _ => execSigdec_mem w s | .role w, _ => execRole_mem w s
  | .sysr w, _ => execSysr_mem w s | .sysw w, _ => execSysw_mem w s | .ldfmt w, _ => execLdfmt_mem w s
  | .ldfmtClr w, _ => execLdfmtClr_mem w s | .ldovf w, _ => execLdovf_mem w s | .xsync w, _ => execXsync_mem w s
  | .splinter w, _ => execSplinter_mem w s | .migrate w, _ => execMigrate_mem w s | .ctrr w, _ => execCtrr_mem w s
  | .tret w, _ => execTret_mem w s | .bmsg w, _ => execBmsg_mem w s | .lnrd b rs2 rs1 rd, _ => execLnrd_mem b rs2 rs1 rd s
  | .lnwr b rs2 rs1 rd, _ => execLnwr_mem b rs2 rs1 rd s | .lnpf lvl rs2 rs1 rd, _ => execLnpf_mem lvl rs2 rs1 rd s
  | .lsq rs2 rs1 rd, _ => execLsq_mem rs2 rs1 rd s | .mrep b rd, _ => execMrep_mem b rd s | .hfin, _ => execHfin_mem s
  | .bobbinBase op, _ => execBobbinBase_mem op s | .deviceReset, _ => execDeviceReset_mem s
  | .fullServiceEntry, _ => execFullServiceEntry_mem s | .attestationRequest fn nonce, _ => execAttestationRequest_mem fn nonce s
  | .registerWrite view fn off wide val, _ => execRegisterWrite_mem view fn off wide val s
  | .qnotifyWrite fn q val, _ => execQnotifyWrite_mem fn q val s | .queueEnable fn q, _ => execQueueEnable_mem fn q s
  | .queueDestroyDrain fn q, _ => execQueueDestroyDrain_mem fn q s | .queueDestroyKill fn q, _ => execQueueDestroyKill_mem fn q s
  | .ringEntryRead fn q, _ => execRingEntryRead_mem fn q s | .waitPacketSatisfied fn q, _ => execWaitPacketSatisfied_mem fn q s
  | .residencyLeaseGrant l, _ => execResidencyLeaseGrant_mem l s | .reservation l leaf, _ => execReservation_mem l leaf s
  | .reservationAnswer l leaf, _ => execReservationAnswer_mem l leaf s | .reservationTimeout l, _ => execReservationTimeout_mem l s
  | .commit l leaf, _ => execCommit_mem l leaf s | .cancel l leaf, _ => execCancel_mem l leaf s
  | .resourcesFreed leaf, _ => execResourcesFreed_mem leaf s | .reservationStarvation l, _ => execReservationStarvation_mem l s
  | .continuationRecordFile fn q, _ => execContinuationRecordFile_mem fn q s
  | .poolAgedDraw fn q bin core, _ => execPoolAgedDraw_mem fn q bin core s
  | .taskDispatch core wg task, _ => execTaskDispatch_mem core wg task s | .launchCompletion l, _ => execLaunchCompletion_mem l s
  | .deferredPacketMove id, _ => execDeferredPacketMove_mem id s | .energyCharge, _ => execEnergyCharge_mem s
  | .energyPeriod, _ => execEnergyPeriod_mem s | .halt req, _ => execHalt_mem req s
  | .contextSave core wg, _ => execContextSave_mem core wg s
  | .contextReentry fn idx core, _ => execContextReentry_mem fn idx core s | .freeze fn, _ => execFreeze_mem fn s
  | .thaw fn, _ => execThaw_mem fn s | .debugResume fn, _ => execDebugResume_mem fn s | .debugEnd fn, _ => execDebugEnd_mem fn s
  | .taskEnd l, _ => execTaskEnd_mem l s | .watchdog l, _ => execWatchdog_mem l s
  | .vectorSliceEnd core, _ => execVectorSliceEnd_mem core s | .sliceIdleEnd core matrix, _ => execSliceIdleEnd_mem core matrix s
  | .matrixSliceSwitch core, _ => execMatrixSliceSwitch_mem core s
  | .spinnerDisplacement core wg, _ => execSpinnerDisplacement_mem core wg s | .bandwidthPeriod, _ => execBandwidthPeriod_mem s
  | .portThrottleUpdate fn core, _ => execPortThrottleUpdate_mem fn core s
  | .functionLevelReset fn, _ => execFunctionLevelReset_mem fn s | .promotion core quad, _ => execPromotion_mem core quad s
  | .rotation core quad, _ => execRotation_mem core quad s
  | .scoreboardDemotion core grp, _ => execScoreboardDemotion_mem core grp s
  | .binAgedDraw core quad bin, _ => execBinAgedDraw_mem core quad bin s | .sleepWake core grp, _ => execSleepWake_mem core grp s
  | .pollTimeout core grp, _ => execPollTimeout_mem core grp s
  | .pollSpuriousWake core grp, _ => execPollSpuriousWake_mem core grp s
  | .readLeaseRequest core line, _ => execReadLeaseRequest_mem core line s
  | .ownershipGrant core line, _ => execOwnershipGrant_mem core line s | .pageWalk agent fn va, _ => execPageWalk_mem agent fn va s
  | .translationInvalidation agent line, _ => execTranslationInvalidation_mem agent line s
  | .remoteRequest dev fn rq, _ => execRemoteRequest_mem dev fn rq s | .copyCheck id, _ => execCopyCheck_mem id s
  | .batchClose id, _ => execBatchClose_mem id s | .picotStep core addr, _ => execPicotStep_mem core addr s
  | .arrayOperationStart core mismatch, _ => execArrayOperationStart_mem core mismatch s
  | .arrayOperationComplete core id, _ => execArrayOperationComplete_mem core id s | .shqAllocate id, _ => execShqAllocate_mem id s
  | .continuationEmit ctl, _ => execContinuationEmit_mem ctl s
  | .releasedRecordDelivery ctl, _ => execReleasedRecordDelivery_mem ctl s
  | .shinvScanDone ctl idx, _ => execShinvScanDone_mem ctl idx s | .poolClockEviction cls, _ => execPoolClockEviction_mem cls s
  | .shadingRecordApply val, _ => execShadingRecordApply_mem val s | .handlerEnable fn, _ => execHandlerEnable_mem fn s
  | .handlerDisable fn, _ => execHandlerDisable_mem fn s | .missEvent id, _ => execMissEvent_mem id s
  | .fillEvent line, _ => execFillEvent_mem line s | .evictEvent line, _ => execEvictEvent_mem line s
  | .msgEvent id, _ => execMsgEvent_mem id s | .invocationStart k, _ => execInvocationStart_mem k s
  | .budgetExhausted k, _ => execBudgetExhausted_mem k s | .bmsgReply id, _ => execBmsgReply_mem id s
  | .patrolScrub line uncorrectable, _ => execPatrolScrub_mem line uncorrectable s
  | .selfTest u pass, _ => execSelfTest_mem u pass s | .linkRetry place fails, _ => execLinkRetry_mem place fails s
  | .queueDisable fn q, _ => execQueueDisable_mem fn q s | .reducedServiceEntry, _ => execReducedServiceEntry_mem s
  | .rastTravResult id, _ => execRastTravResult_mem id s | .flogbaseWrite fn val, _ => execFlogbaseWrite_mem fn val s

/-- Settles O55: no instruction is among the events in which a write performs. -/
theorem instructionsKeepMemory : Obligations.InstructionsKeepMemory := by
  have keeps : ∀ {i : Instr} {s t : State}, performs i = false → exec i s = .next t → ∀ a, byte t a = byte s a :=
    fun h ht a => congrArg (cget · a) (exec_mem _ _ h _ ht)
  refine ⟨fun i s t hi => keeps ?_, fun i s t => keeps rfl, fun b lvl rs2 rs1 rd s t h => ?_⟩
  · revert hi
    cases i
    any_goals exact fun _ => rfl
    all_goals exact fun h => nomatch h
  · rcases h with h | h | h | h | h | h
    all_goals exact keeps rfl h

/-! ### The canonical form -/

theorem getD_form {s : State} {o : Option State} (hs : MemInv s) (h : ∀ t, o = some t → MemInv t) : MemInv (o.getD s) := by
  cases o with
  | none => exact hs
  | some t => exact h t rfl

section
variable {s : State} (hs : MemInv s)
include hs

theorem execFirmwareImageLoad_form (img) : KeepsForm (execFirmwareImageLoad img s) := runEvent_form (State.loadImage_form img hs)
theorem execClockStep_form (up) : KeepsForm (execClockStep up s) := runEvent_form (State.senses_form (memInv_of_mem rfl hs))
omit hs in
theorem execThermalShutdown_form : KeepsForm (execThermalShutdown s) := runEvent_form (State.shutDown_form s)
theorem execOwnershipReturnTimeout_form (line) : KeepsForm (execOwnershipReturnTimeout line s) := by
  refine runEvent_form ?_
  split
  · exact State.scrubAgent_form _ hs
  · exact hs
theorem execInvalidationAckTimeout_form (line agent) : KeepsForm (execInvalidationAckTimeout line agent s) :=
  runEvent_form (State.scrubAgent_form agent hs)
theorem execBobbinOverrun_form (k) : KeepsForm (execBobbinOverrun k s) := runEvent_form (State.bobbinDies_form k hs)
theorem execLoadReturn_form (id) : KeepsForm (execLoadReturn id s) := runEvent_form (State.loadReturns_form id hs)
theorem execWritePerform_form (id) : KeepsForm (execWritePerform id s) := runEvent_form (State.writePerforms_form id hs)
theorem execLeaseWaitEnd_form (line) : KeepsForm (execLeaseWaitEnd line s) := runEvent_form (State.drain_form line hs)
theorem execOwnershipReturn_form (line) : KeepsForm (execOwnershipReturn line s) := runEvent_form (State.ownerReturns_form line hs)
theorem execFarAtomicAck_form (line) : KeepsForm (execFarAtomicAck line s) :=
  runEvent_form (State.drain_form line (memInv_of_mem (State.modLine_mem ..) hs))
theorem execInvalidationAck_form (agent line) : KeepsForm (execInvalidationAck agent line s) :=
  runEvent_form (State.ackFrom_form agent line hs)
theorem execMigrationLineBlock_form (id line) : KeepsForm (execMigrationLineBlock id line s) :=
  runEvent_form (State.blockLine_form id line hs)
theorem execMigrationReplay_form (id) : KeepsForm (execMigrationReplay id s) := runEvent_form (State.replay_form id hs)
theorem execCopyWriteLand_form (id k) : KeepsForm (execCopyWriteLand id k s) :=
  runEvent_form (getD_form hs fun _ h => State.landUnit_form hs h)
theorem execRcpSignalDecrement_form (id) : KeepsForm (execRcpSignalDecrement id s) :=
  runEvent_form (getD_form hs fun _ h => State.sendSignal_form hs h)

/-- Every operation keeps the canonical form of memory. -/
theorem exec_form (i : Instr) : KeepsForm (exec i s) := by
  cases h : performs i
  case false => exact keepsForm_of_mem (exec_mem s i h) hs
  cases i
  case firmwareImageLoad img => exact execFirmwareImageLoad_form hs img
  case clockStep up => exact execClockStep_form hs up
  case thermalShutdown => exact execThermalShutdown_form
  case ownershipReturnTimeout line => exact execOwnershipReturnTimeout_form hs line
  case invalidationAckTimeout line agent => exact execInvalidationAckTimeout_form hs line agent
  case bobbinOverrun k => exact execBobbinOverrun_form hs k
  case loadReturn id => exact execLoadReturn_form hs id
  case writePerform id => exact execWritePerform_form hs id
  case leaseWaitEnd line => exact execLeaseWaitEnd_form hs line
  case ownershipReturn line => exact execOwnershipReturn_form hs line
  case farAtomicAck line => exact execFarAtomicAck_form hs line
  case invalidationAck agent line => exact execInvalidationAck_form hs agent line
  case migrationLineBlock id line => exact execMigrationLineBlock_form hs id line
  case migrationReplay id => exact execMigrationReplay_form hs id
  case copyWriteLand id k => exact execCopyWriteLand_form hs id k
  case rcpSignalDecrement id => exact execRcpSignalDecrement_form hs id
  all_goals cases h

end

/-- What a fetch answers, run, keeps the form. -/
theorem runFetched_form {m : List Host.Cell} {f : Fetched} (hf : f.keeps m) (hm : Memory.wf m = true) : KeepsForm (runFetched f) := by
  cases f with
  | run i s => exact exec_form (show Memory.wf s.mem = true from hf ▸ hm) i
  | pass s => exact fun t ht => by cases ht; exact show Memory.wf s.mem = true from hf ▸ hm

/-- Whatever acts in a turn keeps the form. -/
theorem act_form {s : State} (hs : MemInv s) (a : Act) : KeepsForm (act a s) := by
  cases a with
  | group gid => exact runFetched_form (State.fetchGroup_mem rfl) hs
  | bobbin k => exact runFetched_form (State.fetchBobbin_mem rfl) hs
  | event i => exact exec_form (s := { s with cur := .none }) hs i
  | hostWrite pa bs => exact fun t ht => by cases ht; exact memInv_of_mem (State.hostWrite_mem s pa bs) hs
  | device d => exact fun t ht => by cases ht; exact State.deviceAct_form d hs

/-- Settles O54: time passes without a write, and whatever acts then keeps the form. -/
theorem stepsKeepMemoryCanonical : Obligations.StepsKeepMemoryCanonical := by
  intro s t hs ht
  unfold step at ht
  split at ht
  · cases ht
  have tick : ∀ (u : State) dt dcyc, MemInv u → MemInv (u.tick dt dcyc) := fun u dt dcyc => memInv_of_mem (State.tick_mem u dt dcyc)
  split at ht
  · cases ht
    exact tick s 1 2 hs
  · rename_i u ts _
    exact act_form (tick { s with agenda := ts } u.dt u.dcyc hs) u.act t ht

/-- Settles O53: reset lists no byte. -/
theorem resetMemoryIsCanonical : Obligations.ResetMemoryIsCanonical := rfl

end Sys2Proof.Laws
end

section
/-! SUPPORT. Integer and logic results of classes 0x0 and 0x1 (R80, R82 to R84, R87). -/

namespace Sys2Proof.Laws

open Sys2Proof.Machine Sys2Proof.Spec

/-! ### Exact results in 32 and 64 bits (R80) -/

theorem ofInt_emod (n : Nat) (v : Int) : BitVec.ofInt n (v % 2 ^ n) = BitVec.ofInt n v :=
  BitVec.eq_of_toNat_eq (by simp [BitVec.toNat_ofInt])

theorem satS_eq (v : Int) (n : Nat) : satS v n = max (-(2 ^ (n - 1))) (min v (2 ^ (n - 1) - 1)) := by
  have : (0 : Int) < 2 ^ (n - 1) := by positivity
  unfold satS
  split_ifs <;> omega

theorem satU_eq (v : Int) (n : Nat) : satU v n = max 0 (min v (2 ^ n - 1)) := by
  have : (0 : Int) < 2 ^ n := by positivity
  unfold satU
  split_ifs <;> omega

/-- The clamped or truncated value of the model is the statement's, as far as the word can tell. -/
theorem ofInt_narrowed (x : Ctx) (n : Nat) (v : Int) :
    BitVec.ofInt n (if fSat x.w then (if fU x.w then satU v n else satS v n) else v) = BitVec.ofInt n (fit x n v) := by
  rw [fit, ← satS_eq, ← satU_eq, fSat, fU, mdB, mdB]
  by_cases h : x.w.md.getLsbD 1 = true
  · rw [if_pos h, if_pos h]
  · rw [if_neg h, if_neg h, ofInt_emod]

theorem narrow32_eq (x : Ctx) (v : Int) : narrow32 x.w v = word (fit x 32 v) := ofInt_narrowed x _ v
theorem narrow64_eq (x : Ctx) (v : Int) : narrow64 x.w v = trunc64 (fit x 64 v) := ofInt_narrowed x _ v

theorem lo32_trunc64 (v : Int) : lo32 (trunc64 v) = word v := by
  refine BitVec.eq_of_toNat_eq ?_
  simp only [lo32, trunc64, word, BitVec.truncate_eq_setWidth, BitVec.toNat_setWidth, BitVec.toNat_ofInt]
  omega
theorem hi32_trunc64 (v : Int) : hi32 (trunc64 v) = word (v / 2 ^ 32) := by
  refine BitVec.eq_of_toNat_eq ?_
  simp only [hi32, trunc64, word, BitVec.extractLsb'_toNat, BitVec.toNat_ofInt, Nat.shiftRight_eq_div_pow]
  omega
theorem pairOf_trunc64 (v : Int) : pairOf (trunc64 v) = words v := by rw [pairOf, lo32_trunc64, hi32_trunc64]; rfl

/-- A source whose width follows the signedness `!b` of U. -/
theorem intOf_not {n : Nat} (b : Bool) (v : Bool → BitVec n) :
    intOf (!b) (v !b) = if b then ((v false).toNat : Int) else (v true).toInt := by
  cases b <;> rfl

theorem lane_int (x : Ctx) (i : Nat) (th : Thread) (f : Fld) : (⟨x, i, th⟩ : Lane).int (val x i th f) = int x i th f :=
  intOf_not (x.w.md.getLsbD 0) fun _ => val x i th f
theorem lane_intPair (x : Ctx) (i : Nat) (th : Thread) (f : Fld) :
    (⟨x, i, th⟩ : Lane).intPair f =
      if x.w.md.getLsbD 0 then ((srcPair x.w th false f).toNat : Int) else (srcPair x.w th true f).toInt :=
  intOf_not (x.w.md.getLsbD 0) fun signed => srcPair x.w th signed f

theorem reqA_eq_ints (x : Ctx) (i : Nat) (th : Thread) : reqA ⟨x, i, th⟩ = ints (fun w => [w.a]) x i th :=
  (Bool.and_true _).symm
theorem reqABC_eq_ints (x : Ctx) (i : Nat) (th : Thread) : reqABC ⟨x, i, th⟩ = ints (fun w => [w.a, w.b, w.c]) x i th := by
  simp only [reqABC, reqAB_eq_ints, ints, List.all_cons, List.all_nil, Bool.and_true, Bool.and_assoc]
  rfl

/-- An instruction of class 0x0 with one 32-bit result. -/
theorem computes_intDef {i : TWord → Instr} {sg : TWord → Sig} {extra : TWord → List Nat} {ok : Ctx → Nat → Thread → Bool}
    {reqs : Lane → Bool} {f : Lane → Int} {v : Ctx → Nat → Thread → Int}
    (he : ∀ w s, exec (i w) s = runThrum (sg w) w (extra w) (aluBody (intDef w reqs f)) s)
    (hr : ∀ x i th, reqs ⟨x, i, th⟩ = ok x i th) (hv : ∀ x i th, f ⟨x, i, th⟩ = v x i th) :
    Computes i sg extra ok tagOfU (fun x i th => [word (fit x 32 (v x i th))]) :=
  computes_plainAlu he one_ne_zero (fun _ _ _ => rfl) hr (fun _ _ _ => rfl) fun x i th => by
    rw [narrow32_eq, hv]

/-- Settles O1: the model's narrowing is the statement's `fit`, lane by lane. -/
theorem integerArithmeticResults : Obligations.IntegerArithmeticResults := by
  refine ⟨computes_intDef (fun _ _ => rfl) reqAB_eq_ints fun x i th => ?_,
    computes_intDef (fun _ _ => rfl) reqAB_eq_ints fun x i th => ?_,
    computes_intDef (fun _ _ => rfl) reqAB_eq_ints fun x i th => ?_,
    computes_intDef (fun _ _ => rfl) reqABC_eq_ints fun x i th => ?_,
    computes_intDef (fun _ _ => rfl) reqA_eq_ints fun x i th => ?_,
    computes_plainAlu (fun _ _ => rfl) one_ne_zero (fun _ _ _ => rfl) reqAB_eq_ints (fun _ _ _ => rfl) fun x i th => ?_,
    computes_plainAlu (fun _ _ => rfl) two_ne_zero (fun _ _ _ => rfl) reqAB_eq_ints (fun _ _ _ => rfl) fun x i th => ?_,
    computes_plainAlu (fun _ _ => rfl) two_ne_zero (fun _ _ _ => rfl) (fun x i th => ?_) (fun _ _ _ => rfl) fun x i th => ?_⟩
  · exact congrArg₂ (· + ·) (lane_int ..) (lane_int ..)
  · exact congrArg₂ (· - ·) (lane_int ..) (lane_int ..)
  · exact congrArg₂ (· * ·) (lane_int ..) (lane_int ..)
  · exact congrArg₂ (· + ·) (congrArg₂ (· * ·) (lane_int ..) (lane_int ..)) (lane_int ..)
  · exact congrArg (- ·) (lane_int ..)
  · rw [hi32_trunc64, ← lane_int, ← lane_int]; rfl
  · rw [pairOf_trunc64, ← lane_int, ← lane_int]; rfl
  · rw [reqAB_eq_ints]; rfl
  · rw [narrow64_eq, pairOf_trunc64, lane_intPair, ← lane_int, ← lane_int]; rfl

/-! ### Instructions that may name their tag: `mov`, `sel`, `settag` (R82, R87, R94) -/

/-- An instruction that faults where it names an empty tag is a plain one whose check is that tag. -/
theorem checkedAlu_eq (bad : Lane → Bool) (f : Lane → W32) (tag : Lane → Nat) :
    ({ eval := fun l => if bad l then .error .format else .ok { vals := [f l], tag := tag l }, ztag := tag } : AluDef) =
      plainAlu 1 (fun l => !bad l) tag (fun l => [f l]) := by
  unfold plainAlu
  congr
  funext l
  cases h : bad l <;> simp [h]

theorem tagField (w : TWord) : mdF w 0 6 = w.md.toNat % 64 := by simp [mdF, fieldN_eq]

theorem computes_checkedAlu {i : TWord → Instr} {sg : TWord → Sig} {extra : TWord → List Nat} {ok : Ctx → Nat → Thread → Bool}
    {tag : Ctx → Nat → Thread → Nat} {v : Ctx → Nat → Thread → W32} {bad : TWord → Lane → Bool} {tg : TWord → Lane → Nat}
    {f : TWord → Lane → W32}
    (he : ∀ w s, exec (i w) s = runThrum (sg w) w (extra w) (aluBody
      { eval := fun l => if bad w l then .error .format else .ok { vals := [f w l], tag := tg w l }, ztag := tg w }) s)
    (hb : ∀ x i th, (!bad x.w ⟨x, i, th⟩) = ok x i th) (ht : ∀ x i th, tg x.w ⟨x, i, th⟩ = tag x i th)
    (hv : ∀ x i th, f x.w ⟨x, i, th⟩ = v x i th) :
    Computes i sg extra ok tag (fun x i th => [v x i th]) := by
  simp only [checkedAlu_eq] at he
  exact computes_plainAlu he one_ne_zero (fun _ _ _ => rfl) hb ht fun x i th => by rw [hv]

theorem abs_word (a : W32) (sat : Bool) :
    trunc32 (if sat then satS a.toInt.natAbs 32 else a.toInt.natAbs) =
      BitVec.ofNat 32 (if sat then min a.toInt.natAbs (2 ^ 31 - 1) else a.toInt.natAbs) := by
  rw [satS_eq, trunc32, ← BitVec.ofInt_natCast]
  congr 1
  split <;> omega

/-- Settles O2: a comparison the other way round gives the same lesser and greater source. -/
theorem minMaxAbsSelResults : Obligations.MinMaxAbsSelResults := by
  refine ⟨computes_plainAlu (fun _ _ => rfl) one_ne_zero (fun _ _ _ => rfl) reqAB_eq_ints (fun _ _ _ => rfl) fun x i th => ?_,
    computes_plainAlu (fun _ _ => rfl) one_ne_zero (fun _ _ _ => rfl) reqAB_eq_ints (fun _ _ _ => rfl) fun x i th => ?_,
    computes_plainAlu (fun _ _ => rfl) one_ne_zero (fun _ _ _ => rfl) reqA_eq_ints (fun _ _ _ => rfl) fun x i th => ?_,
    computes_checkedAlu (fun _ _ => rfl) (fun x i th => ?_) (fun x i th => ?_) fun _ _ _ => rfl⟩
  · simp only [← not_lt, ite_not, ← lane_int]
    rfl
  · simp only [← not_lt, ite_not, ← lane_int]
    rfl
  · exact congrArg (fun v => [v]) (abs_word (val x i th x.w.a) (x.w.md.getLsbD 1))
  · rw [tagField]; rfl
  · rw [movTag, tagField]; rfl

/-! ### Instructions that write a predicate (R77) -/

section
variable {w : TWord} {reqs : Lane → Bool} {f : Lane → Bool × Sticky} {ok : Nat → Thread → Bool} {b : Nat → Thread → Bool}
  {x : Ctx} {i : Nat} {th : Thread}

theorem predAlu_lane_ok (hr : reqs ⟨x, i, th⟩ = true) :
    (predAlu w.d reqs f).lane ⟨x, i, th⟩ =
      .ok { preds := [(w.d.toNat, (f ⟨x, i, th⟩).1)], flags := (f ⟨x, i, th⟩).2 } :=
  lane_ok (if_pos hr) (.inr (.inl rfl))

theorem predAlu_lane_error (hr : reqs ⟨x, i, th⟩ = false) : (predAlu w.d reqs f).lane ⟨x, i, th⟩ = .error .format :=
  lane_error (by simp [predAlu, hr])

/-- An instruction that writes a predicate and no sticky flag leaves every thread as the statements' `givesPred` says. -/
theorem predAlu_thread (hr : reqs ⟨x, i, th⟩ = ok i th) (hb : f ⟨x, i, th⟩ = (b i th, 0#5)) :
    (predAlu x.w.d reqs f).thread x i th = givesPred x x.w.d.toNat ok b i th := by
  unfold givesPred
  cases hg : th.guard x.w
  · rw [thread_of_no_guard hg]
    cases hz : wordZM x.sg x.w
    · rw [zero_kept hz]; rfl
    · simp [AluDef.zero, predAlu, hz]
  · cases ho : ok i th
    · rw [thread_of_lane_error hg (predAlu_lane_error (hr.trans ho))]; rfl
    · rw [thread_of_lane_ok hg (predAlu_lane_ok (hr.trans ho)), hb, apply_eq, writeD_nil]; rfl

end

theorem runThrum_predAlu {sg : Sig} {w : TWord} {extra} {s : State} {x : Ctx} {reqs : Lane → Bool} {f : Lane → Bool × Sticky}
    {ok : Nat → Thread → Bool} {b : Nat → Thread → Bool} (hi : Issues sg w extra s x)
    (hr : ∀ i th, reqs ⟨x, i, th⟩ = ok i th) (hb : ∀ i th, f ⟨x, i, th⟩ = (b i th, 0#5))
    (hok : ∀ p ∈ x.active, ok p.1 p.2 = true) :
    runThrum sg w extra (aluBody (predAlu w.d reqs f)) s = .next (moveOn x s (x.update s (givesPred x w.d.toNat ok b))) := by
  obtain ⟨rfl, -⟩ := ctx?_word hi.ctx
  have hthread : (predAlu x.w.d reqs f).thread x = givesPred x x.w.d.toNat ok b :=
    funext₂ fun i th => predAlu_thread (hr i th) (hb i th)
  rw [runThrum_aluBody hi fun p hp => fault_of_lane_ok (predAlu_lane_ok ((hr ..).trans (hok p hp))), hthread]

theorem truth_eq (w : TWord) (a b c : Bool) : truth w a b c = w.md.getLsbD (4 * a.toNat + 2 * b.toNat + c.toNat) := by
  cases a <;> cases b <;> cases c <;> rfl

/-- Settles O3: both instructions write a predicate and nothing else. -/
theorem predicateResults : Obligations.PredicateResults := by
  refine ⟨fun w s x hi hok => ?_, fun w s x hi => ?_⟩
  · obtain ⟨rfl, -⟩ := ctx?_word hi.ctx
    refine runThrum_predAlu hi (reqAB_eq_ints x) (fun i th => ?_) hok
    refine Prod.ext ?_ rfl
    have hcc : mdF x.w 2 3 = x.w.md.toNat / 4 % 8 := by simp [mdF, fieldN_eq]
    rw [← lane_int, ← lane_int, ← hcc]
    rfl
  · obtain ⟨rfl, -⟩ := ctx?_word hi.ctx
    exact runThrum_predAlu hi (fun _ _ => rfl) (fun i th => Prod.ext (truth_eq ..) rfl) fun _ _ => rfl

/-! ### Bitwise results and counts (R83, R84) -/

/-- Settles O5: `lop3` looks its three bits up in the same truth table, and the others are the model's own functions of the sources. -/
theorem logicAndMoveResults : Obligations.LogicAndMoveResults := by
  refine ⟨computes_untagged (fun _ _ => rfl) (fun _ _ _ => rfl) fun _ _ _ => rfl,
    computes_untagged (fun _ _ => rfl) (fun _ _ _ => rfl) fun _ _ _ => rfl,
    computes_untagged (fun _ _ => rfl) (fun _ _ _ => rfl) fun _ _ _ => rfl,
    computes_untagged (fun _ _ => rfl) (fun _ _ _ => rfl) fun _ _ _ => rfl,
    computes_untagged (fun _ _ => rfl) (fun _ _ _ => rfl) fun x i th => ?_,
    computes_checkedAlu (fun _ _ => rfl) (fun x i th => ?_) (fun x i th => ?_) fun _ _ _ => rfl⟩
  · rw [bits32_eq_ofBits]
    simp only [truth_eq]
    rfl
  · rw [tagField]; rfl
  · rw [movTag, tagField]; rfl

theorem upTo_eq_range (n : Nat) : upTo n = List.range n := by
  induction n with
  | zero => rfl
  | succ n ih => rw [List.range_succ, ← ih, upTo, spanN_succ, Nat.zero_add]; rfl

/-- The first number below `n` that satisfies `p`, or `n`. -/
theorem find?_range_getD (n : Nat) (p : Nat → Bool) : ((List.range n).find? p).getD n = (List.range n).findIdx p := by
  by_cases h : ∃ k ∈ List.range n, p k = true
  · have hlt : (List.range n).findIdx p < (List.range n).length := List.findIdx_lt_length.2 h
    have hget := List.find?_eq_some_iff_getElem.2 ⟨List.findIdx_getElem (w := hlt), _, hlt, rfl, fun j hj => by
      simpa using List.not_of_lt_findIdx hj⟩
    rw [hget, Option.getD_some, List.getElem_range]
  · have hno : ∀ k ∈ List.range n, p k = false := fun k hk => by
      simpa using fun hp => h ⟨k, hk, hp⟩
    rw [List.find?_eq_none.2 fun k hk => by simp [hno k hk], List.findIdx_eq_length_of_false hno, Option.getD_none,
      List.length_range]

theorem popcount_eq {n : Nat} (x : BitVec n) : popcount x = (List.range n).countP (x.getLsbD ·) := by
  rw [popcount, upTo_eq_range, List.countP_eq_length_filter]

theorem leadZeros_eq {n : Nat} (x : BitVec n) : leadZeros x = (List.range n).findIdx (fun i => x.getLsbD (n - 1 - i)) := by
  rw [leadZeros, upTo_eq_range, find?_range_getD]
theorem trailZeros_eq {n : Nat} (x : BitVec n) : trailZeros x = (List.range n).findIdx (x.getLsbD ·) := by
  rw [trailZeros, upTo_eq_range, find?_range_getD]

/-- Settles O8: filtering and counting agree, as do the first index and the first number found. -/
theorem bitCountResults : Obligations.BitCountResults := by
  refine ⟨computes_untagged (fun _ _ => rfl) (fun _ _ _ => rfl) fun x i th => ?_,
    computes_untagged (fun _ _ => rfl) (fun _ _ _ => rfl) fun x i th => ?_,
    computes_untagged (fun _ _ => rfl) (fun _ _ _ => rfl) fun x i th => ?_,
    computes_untagged (fun _ _ => rfl) (fun _ _ _ => rfl) fun x i th => ?_⟩
  · exact congrArg (fun n => [BitVec.ofNat 32 n]) (popcount_eq _)
  · exact congrArg (fun n => [BitVec.ofNat 32 n]) (leadZeros_eq _)
  · exact congrArg (fun n => [BitVec.ofNat 32 n]) (trailZeros_eq _)
  · rw [bits32_eq_ofBits]; rfl

end Sys2Proof.Laws
end

section
/-! SUPPORT. Floating-point, tag, byte and cross-lane instructions: where they complete, and results (R55, R89, R94, R97, R254). -/

namespace Sys2Proof.Laws

open Sys2Proof.Machine Sys2Proof.Spec

/-! ### Instructions of the frame complete -/

/-- An instruction of the frame completes as its definition says where no thread raises a cause. -/
theorem runs_aluBody {i : TWord → Instr} {sg : TWord → Sig} {extra : TWord → List Nat} {d : TWord → State → AluDef}
    (he : ∀ w s, exec (i w) s = runThrum (sg w) w (extra w) (aluBody (d w s)) s) : Runs i sg extra d := fun w s x hi hc => by
  rw [he, runThrum_aluBody hi (causes_eq_none.1 hc)]

theorem fQP_eq (w : TWord) : fQP w = w.md.toNat / 32 % 8 := by simp [fQP, mdF, fieldN_eq]

/-- The same of an instruction that also writes P[QP]. -/
theorem runs_aluBody_qp {i : TWord → Instr} {sg : TWord → Sig} {d : TWord → State → AluDef}
    (he : ∀ w s, exec (i w) s = runThrum (sg w) w (extraKeys [fQP w]) (aluBody (d w s)) s) :
    Runs i sg (fun w => extraKeys [w.md.toNat / 32 % 8]) d := runs_aluBody fun w s => by rw [he, fQP_eq]

/-- Settles O10: every one of them runs its definition in the frame. -/
theorem floatingPointAndCrossLaneComplete : Obligations.FloatingPointAndCrossLaneComplete := by
  refine ⟨?fadd, ?fsub, ?fmul, ?ffma, ?fmin, ?fmax, ?fcmp, ?cvt, ?cvtnPack, ?cvtnUnpack, ?frcp, ?frsqrt, ?fsqrt, ?fexp2, ?flog2, ?fsin,
    ?fcos, ?hadd2, ?hsub2, ?hmul2, ?hfma2, ?hmin2, ?hmax2, ?dp2bf, ?dadd, ?dsub, ?dmul, ?dfma, ?dmin, ?dmax, ?dcmp, ?dcvt, ?shfl,
    ?push, ?vote, ?matchOp, ?xred, ?xscan⟩
  case shfl | push | vote | matchOp => exact runs_aluBody_qp fun _ _ => rfl
  all_goals exact runs_aluBody fun _ _ => rfl

/-! ### NaN operands of FP32 (R55, R75, R89) -/

/-- A code of FP32 that denotes a NaN. -/
def IsNaN32 (c : Nat) : Prop := c / 2 ^ 23 % 2 ^ 8 = 255 ∧ c % 2 ^ 23 ≠ 0

theorem val_f32 (c : Nat) :
    f32F.val c =
      let fr := c % 2 ^ 31 % 2 ^ 23
      if c % 2 ^ 31 / 2 ^ 23 = 255 then (if fr = 0 then .inf (c.testBit 31) else .nan (c.testBit 31) (fr * 2 ^ 29))
      else if c % 2 ^ 31 / 2 ^ 23 = 0 then .fin (c.testBit 31) fr (1 - 127 - 23) false
      else .fin (c.testBit 31) (2 ^ 23 + fr) ((c % 2 ^ 31 / 2 ^ 23 : Nat) - 127 - 23) false := by
  simp only [FltFmt.val, f32F, true_and, zero_ne_one, false_and, if_false, Bool.true_and]
  rfl

theorem val_of_nan {c : Nat} (h : IsNaN32 c) : f32F.val c = .nan (c.testBit 31) (c % 2 ^ 23 * 2 ^ 29) := by
  obtain ⟨he, hf⟩ := h
  have hexp : c % 2 ^ 31 / 2 ^ 23 = 255 := by omega
  have hfrac : c % 2 ^ 31 % 2 ^ 23 = c % 2 ^ 23 := by omega
  rw [val_f32, if_pos hexp, hfrac, if_neg hf]

theorem isNaN_val_of_not {c : Nat} (h : ¬ IsNaN32 c) : (f32F.val c).isNaN = false := by
  rw [val_f32]
  dsimp only
  split
  · split
    · rfl
    · exact absurd ⟨by omega, by omega⟩ h
  · split <;> rfl

/-- Without modifiers a source is prepared only by flushing, which leaves a NaN alone. -/
theorem prepare_of_nan {c : Nat} {flush : Bool} (hc : c < 2 ^ 32) (h : IsNaN32 c) : prepare f32F flush false false c = c := by
  obtain ⟨he, hf⟩ := h
  have hbig : ¬ c % 2 ^ 32 % 2 ^ 31 < 2 ^ 23 := by omega
  simp only [prepare, f32F]
  simp only [Bool.false_eq_true, if_false]
  rw [show 2 * 2 ^ (8 + 23) = 2 ^ 32 from rfl, show 2 ^ (8 + 23) = 2 ^ 31 from rfl, decide_eq_false hbig, Bool.and_false,
    if_neg Bool.false_ne_true, Nat.mod_eq_of_lt hc]

/-- Flushing makes no NaN. -/
theorem prepare_not_nan {c : Nat} {flush : Bool} (hc : c < 2 ^ 32) (h : ¬ IsNaN32 c) :
    ¬ IsNaN32 (prepare f32F flush false false c) := by
  simp only [prepare, f32F]
  simp only [Bool.false_eq_true, if_false]
  rw [show 2 * 2 ^ (8 + 23) = 2 ^ 32 from rfl, show 2 ^ (8 + 23) = 2 ^ 31 from rfl, Nat.mod_eq_of_lt hc]
  split
  · unfold IsNaN32; omega
  · exact h

/-- A NaN that goes back to FP32 keeps sign and fraction and is quiet (R55). -/
theorem nanCode_of_nan {c : Nat} (hc : c < 2 ^ 32) (h : IsNaN32 c) :
    f32F.nanCode (c.testBit 31) (c % 2 ^ 23 * 2 ^ 29 ||| quietBit) = c ||| 2 ^ 22 := by
  obtain ⟨he, hf⟩ := h
  have hpay : (c % 2 ^ 23 * 2 ^ 29 ||| 2 ^ 51) / 2 ^ 29 % 2 ^ 23 ||| 2 ^ 22 = (c ||| 2 ^ 22) % 2 ^ 23 := by
    rw [Nat.or_div_two_pow, Nat.mul_div_cancel _ (by decide), Nat.or_mod_two_pow, Nat.or_mod_two_pow, Nat.mod_mod, Nat.or_assoc]
    rfl
  have htop : (c ||| 2 ^ 22) / 2 ^ 23 = c / 2 ^ 23 := by rw [Nat.or_div_two_pow]; exact Nat.or_zero _
  have hsign : f32F.signBit (c.testBit 31) = c / 2 ^ 31 * 2 ^ 31 := by
    have hbit : c.testBit 31 = decide (c / 2 ^ 31 = 1) := by
      rw [Nat.testBit_eq_decide_div_mod_eq, Nat.mod_eq_of_lt (by omega)]
    rw [hbit, FltFmt.signBit]
    simp only [f32F, Bool.true_and, decide_eq_true_eq]
    split <;> omega
  have hcode : f32F.nanCode (c.testBit 31) (c % 2 ^ 23 * 2 ^ 29 ||| quietBit) =
      f32F.signBit (c.testBit 31) + 255 * 2 ^ 23 + ((c % 2 ^ 23 * 2 ^ 29 ||| 2 ^ 51) / 2 ^ 29 % 2 ^ 23 ||| 2 ^ 22) := rfl
  rw [hcode, hpay, hsign]
  omega

theorem firstNaN_cons_nan {s : Bool} {p : Nat} {xs : List Ex} : firstNaN (.nan s p :: xs) = some (.nan s (p ||| quietBit)) := rfl
theorem firstNaN_cons {x : Ex} {xs : List Ex} (h : x.isNaN = false) : firstNaN (x :: xs) = firstNaN xs := by
  simp [firstNaN, h]

/-- The operands of an operation, in the order in which a NaN among them is taken. -/
def operands (op : FpOp) (a b d : Nat) : List Ex :=
  match op with
  | .fma => [f32F.val a, f32F.val b, f32F.val d]
  | _ => [f32F.val a, f32F.val b]

/-- Where the first NaN among the operands is `c`, the result is `c`, quieted. -/
theorem fpArith_of_firstNaN {t : Nat} {flush : Bool} {op : FpOp} {k : RCtx} {r : RSt} {a b d c : Nat} (hc : c < 2 ^ 32)
    (h : IsNaN32 c) (hf : firstNaN (operands op a b d) = firstNaN [f32F.val c]) :
    (fpArith f32F t flush op false k r a b d).1 = c ||| 2 ^ 22 := by
  rw [val_of_nan h, firstNaN_cons_nan] at hf
  rw [← nanCode_of_nan hc h]
  delta fpArith
  cases op <;> (unfold operands at hf; simp only [hf, Bool.false_eq_true, if_false])

theorem firstNaN_of_left {op : FpOp} {a b d : Nat} (h : IsNaN32 a) : firstNaN (operands op a b d) = firstNaN [f32F.val a] := by
  cases op <;> simp only [operands, val_of_nan h, firstNaN_cons_nan]
theorem firstNaN_of_right {op : FpOp} {a b d : Nat} (hop : op ≠ .fma) (ha : ¬ IsNaN32 a) :
    firstNaN (operands op a b d) = firstNaN [f32F.val b] := by
  cases op <;> first
    | exact absurd rfl hop
    | exact firstNaN_cons (isNaN_val_of_not ha)

/-- The result of an FP32 operation whose operands pass and whose first NaN is the source value `v`. -/
theorem f32Arith_nan {op : FpOp} {l : Lane} {v : W32} (hm : l.x.w.md = 0#8) (hr : reqF3 l = true)
    (hn : IsNaN32 v.toNat)
    (hf : firstNaN (operands op (l.f32 0 l.x.w.a) (l.f32 1 l.x.w.b) (l.f32 2 l.x.w.c)) = firstNaN [f32F.val v.toNat]) :
    ∃ o, (f32Arith op l.x.w).eval l = .ok o ∧ o.vals = [v ||| 0x00400000#32] ∧ o.tag = 3 := by
  have hreq : (match op with | .fma => reqF3 | _ => reqF) l = true := by
    have hab : reqF l = true := (Bool.and_eq_true _ _ ▸ hr).1
    cases op <;> assumption
  refine ⟨_, if_pos hreq, ?_, rfl⟩
  have hsat : fSatNum l.x.w = false := by rw [fSatNum, mdB, hm]; rfl
  simp only [roundOut, hsat, fpArith_of_firstNaN v.isLt hn hf]
  exact congrArg (fun x => [x]) (BitVec.eq_of_toNat_eq (by simp))

/-- Settles O11: the first NaN among the prepared operands is returned with its quiet bit set. -/
theorem fpNanPropagates : Obligations.FpNanPropagates := by
  intro l hm ha hb hc
  have hr : reqF3 l = true := by
    simp only [reqF3, reqF, Bool.and_eq_true]
    exact ⟨⟨ha, hb⟩, hc⟩
  have hprep (k : Nat) (f : Fld) : l.f32 k f = prepare f32F l.ftz false false (l.src f).toNat := by
    simp [Lane.f32, absBit, negBit, mdB, hm]
  have hleft (h : IsNaN32 l.a.toNat) (op : FpOp) : ∃ o, (f32Arith op l.x.w).eval l = .ok o ∧ o.vals = [l.a ||| 0x00400000#32] ∧ o.tag = 3 := by
    refine f32Arith_nan hm hr h ?_
    rw [hprep 0, prepare_of_nan (l.src l.x.w.a).isLt h]
    exact firstNaN_of_left h
  have hright (h : ¬ IsNaN32 l.a.toNat) (h' : IsNaN32 l.b.toNat) {op : FpOp} (hop : op ≠ .fma) :
      ∃ o, (f32Arith op l.x.w).eval l = .ok o ∧ o.vals = [l.b ||| 0x00400000#32] ∧ o.tag = 3 := by
    refine f32Arith_nan hm hr h' ?_
    rw [hprep 0, hprep 1, prepare_of_nan (l.src l.x.w.b).isLt h']
    exact firstNaN_of_right hop (prepare_not_nan (l.src l.x.w.a).isLt h)
  exact ⟨fun h => ⟨hleft h .add, hleft h .sub, hleft h .mul, hleft h .fma⟩,
    fun h h' => ⟨hright h h' nofun, hright h h' nofun, hright h h' nofun⟩⟩

/-! ### Tags and byte products (R94, R97) -/

/-- A byte of a word as a number, with or without its sign. -/
def byteElt (signed : Bool) (v : W32) (k : Nat) : Int :=
  let u : Int := v.toNat / 2 ^ (8 * k) % 256
  if signed = true ∧ 128 ≤ u then u - 256 else u

theorem intOf_byte (signed : Bool) (v : W32) (k : Nat) : intOf signed (v.extractLsb' (8 * k) 8) = byteElt signed v k := by
  have hn : (v.extractLsb' (8 * k) 8).toNat = v.toNat / 2 ^ (8 * k) % 256 := by
    simp [Nat.shiftRight_eq_div_pow]
  have hu : (v.toNat / 2 ^ (8 * k) % 256 : Int) = ((v.toNat / 2 ^ (8 * k) % 256 : Nat) : Int) := by norm_cast
  unfold byteElt
  rw [hu, ← hn]
  generalize v.extractLsb' (8 * k) 8 = b
  cases signed
  · simp [intOf]
  · simp only [intOf, if_true, true_and, BitVec.toInt_eq_toNat_cond]
    have := b.isLt
    split_ifs <;> omega

/-- Settles O12: `settag` checks the tag it names, `gettag` reads one, and the bytes of `dp4a` are the statement's. -/
theorem tagAndByteResults : Obligations.TagAndByteResults := by
  refine ⟨computes_checkedAlu (bad := fun w l => emptyTag l (mdF w 0 6)) (tg := fun w _ => mdF w 0 6) (fun _ _ => rfl)
      (fun x i th => ?_) (fun x _ _ => tagField x.w) fun _ _ _ => rfl,
    computes_untagged (fun _ _ => rfl) (fun _ _ _ => rfl) fun _ _ _ => rfl,
    computes_plainAlu (fun _ _ => rfl) one_ne_zero (fun _ _ _ => rfl) (fun _ _ _ => rfl) (fun _ _ _ => rfl) fun x i th => ?_⟩
  · rw [tagField]; rfl
  · simp only [satS_eq, intOf_byte]
    rfl

/-! ### `shfl` (R254) -/

/-- The participant at the lane of a thread that executes alone there. -/
theorem partAt_of_only {x : Ctx} {q : Nat × Thread} (hq : q ∈ x.active) (ho : ∀ r ∈ x.active, laneOf r.1 = laneOf q.1 → r = q) :
    x.partAt (laneOf q.1) = some ⟨x, q.1, q.2⟩ := by
  rw [Ctx.partAt, Ctx.parts, List.find?_map]
  cases hf : x.active.find? ((fun l : Lane => l.lane == laneOf q.1) ∘ fun p => ⟨x, p.1, p.2⟩) with
  | none => simpa [Lane.lane] using List.find?_eq_none.1 hf q hq
  | some r =>
    have hl : laneOf r.1 = laneOf q.1 := by simpa [Lane.lane] using List.find?_some hf
    rw [ho r (List.mem_of_find?_eq_some hf) hl]
    rfl

/-- Settles O13: with one segment of 32 lanes the source lane is B modulo 32. -/
theorem shuffleReadsTheNamedLane : Obligations.ShuffleReadsTheNamedLane := by
  intro x p q _ hq ho hmode hwid htag hlane
  have hfrom : shflFrom (mdF x.w 0 2) (laneOf p.1) (wid2 x.w) (val x p.1 p.2 x.w.b).toNat = some (laneOf q.1) := by
    have hm : mdF x.w 0 2 = 0 := by simp [mdF, fieldN_eq, hmode]
    have hw : wid2 x.w = 32 := by simp [wid2, segWidth, mdF, fieldN_eq, hwid]
    have hbase : laneOf p.1 / 32 * 32 = 0 := by rw [laneOf]; omega
    rw [hm, hw, ← hlane]
    simp [shflFrom, segBase, hbase]
  have hreq : (⟨x, p.1, p.2⟩ : Lane).req x.w.b 1 tINT = true := htag
  rw [← fQP_eq]
  show (if _ then _ else _) = _
  rw [if_pos hreq]
  show (match (shflFrom (mdF x.w 0 2) (laneOf p.1) (wid2 x.w) (val x p.1 p.2 x.w.b).toNat).bind x.partAt with
    | some k => _
    | none => _) = _
  rw [hfrom, Option.bind_some, partAt_of_only hq ho]
  rfl

end Sys2Proof.Laws
end

section
/-! SUPPORT. Control instructions complete: boundaries, waits, ends of threads, branches and returns (R24, R25, R240, R261 to R270,
R391). -/

namespace Sys2Proof.Laws

open Sys2Proof.Machine Sys2Proof.Spec

/-! ### From a body's answer to the state after the instruction -/

section
variable {sg : Sig} {w : TWord} {extra : List Nat} {body : Ctx → State → Res} {s t : State} {x : Ctx}

theorem runThrum_ok (hi : Issues sg w extra s x) (hb : body x s = .ok t) : runThrum sg w extra body s = .next (moveOn x s t) := by
  rw [runThrum_eq hi.on hi.ctx hi.legal hi.free, hb, finish_ok]; rfl
theorem runThrum_jump (hi : Issues sg w extra s x) (hb : body x s = .jump t) :
    runThrum sg w extra body s = .next (depart x s t) := by
  rw [runThrum_eq hi.on hi.ctx hi.legal hi.free, hb, finish_jump]; rfl
theorem runThrum_trap {e : TrapInfo} (hi : Issues sg w extra s x) (hb : body x s = .trap e) :
    runThrum sg w extra body s = x.trapped s e := by
  rw [runThrum_eq hi.on hi.ctx hi.legal hi.free, hb, finish_trap]

end

/-- The region that a boundary begins, in the statements' words. -/
theorem boundary_region {x : Ctx} {s s1 : State} {start k} (h : s.commit x.gid = .ok s1) :
    x.boundary s start k = k (region x s1 start) := boundary_eq h

theorem regionBody_eq {x : Ctx} {s s1 : State} (h : s.commit x.gid = .ok s1) : regionBody x s = .ok (region x s1 x.next) :=
  boundary_region h

theorem isEmpty_active {x : Ctx} (h : x.active ≠ []) : x.active.isEmpty = false := by simpa using h
theorem isEmpty_executing {x : Ctx} (h : x.active ≠ []) : (x.active.map Prod.fst).isEmpty = false := by simpa using h

/-- Settles O14: each body is a boundary, or nothing. -/
theorem nopAndRegionComplete : Obligations.NopAndRegionComplete := by
  refine ⟨fun w s x hi => runThrum_ok hi rfl, fun w s s1 x hi h => runThrum_ok hi (regionBody_eq h),
    fun w s s1 x hi h hd => runThrum_ok hi ?_⟩
  rw [bkptBody, hd]
  exact regionBody_eq h

/-! ### Waiting and ending (R265 to R269, R296) -/

theorem yieldBody_eq {x : Ctx} {s s1 : State} (h : s.commit x.gid = .ok s1) (ha : x.active ≠ []) :
    yieldBody x s = .ok (((region x s1 x.next).park x.gid .ready).modGroup x.gid
      (fun g => { g with stamp := s.now, sub := 0, yielded := true })) := by
  rw [yieldBody, boundary_region h]
  simp only [isEmpty_active ha]
  rfl

theorem sleepBody_eq {x : Ctx} {s s1 : State} (h : s.commit x.gid = .ok s1) (ht : sleepTime x ≠ 0) :
    sleepBody x s = .ok ((x.raiseFlags (region x s1 x.next)).park x.gid
      (.sleep (s.now + BitVec.ofNat 64 (sleepTime x)) x.waitFlags)) := by
  rw [sleepBody, if_neg ht, boundary_region h]

theorem exitBody_eq {x : Ctx} {s s1 u : State} (h : s.commit x.gid = .ok s1)
    (hu : ((region x s1 x.next).endThreads x.wid (x.active.map Prod.fst)).taskSettle x.wid = some u) :
    exitBody x s = .jump ((u.modGroup x.gid (fun g => { g with pc := x.next })).loseThreads x.gid (x.active.map Prod.fst)) := by
  rw [exitBody, boundary_region h]
  simp only [hu]

theorem tdoneBody_eq {x : Ctx} {s s1 u : State} (h : s.commit x.gid = .ok s1) (ha : x.active ≠ [])
    (hu : (x.updateActive (region x s1 x.next) (fun _ th => { th with st := .tdone, rpc := x.next })).taskSettle x.wid = some u) :
    tdoneBody x s = .jump ((u.modGroup x.gid (fun g => { g with pc := x.next })).loseThreads x.gid (x.active.map Prod.fst)) := by
  rw [tdoneBody, boundary_region h]
  simp only [isEmpty_executing ha, hu]
  rfl

/-- Settles O15: after the boundary each body goes on as it says. -/
theorem yieldSleepExitTdoneComplete : Obligations.YieldSleepExitTdoneComplete :=
  ⟨fun _ _ _ _ hi h ha => runThrum_ok hi (yieldBody_eq h ha), fun _ _ _ _ hi h ht => runThrum_ok hi (sleepBody_eq h ht),
    fun _ _ _ _ _ hi h hu => runThrum_jump hi (exitBody_eq h hu),
    fun _ _ _ _ _ hi h ha hu => runThrum_jump hi (tdoneBody_eq h ha hu)⟩

/-- Settles O16: whether the quadrant has a bin decides which of its two ends `reform` reaches. -/
theorem reformCompletes : Obligations.ReformCompletes := by
  intro w s s1 x hi h ha
  refine ⟨fun key hk => runThrum_jump hi ?_, fun hk => runThrum_jump hi ?_⟩
  all_goals
    rw [reformBody, boundary_region h]
    simp only [isEmpty_executing ha, hk]
    rfl

/-! ### Branches (R24, R25, R240, R261) -/

/-- A thread that does not wait on the scoreboard has no write of its guard to come. -/
theorem guardOpen_of_not_blocked {x : Ctx} {extra : List Nat} (h : x.blocked extra = false) : x.guardOpen = false := by
  simp only [Ctx.blocked, Bool.or_eq_false_iff, List.any_eq_false, Ctx.guardOpen, Bool.not_eq_true] at h ⊢
  intro p hp
  cases hg : p.2.guardOpen x.w
  · rfl
  · have hw := h.1 p hp
    simp [Thread.mustWait, Thread.waitsOn, hg] at hw

/-- No cause of R37 item 2: the target is well formed, and its slot may be entered if a thread branches. -/
theorem relPre_eq_none {x : Ctx} {s : State} {extra : List Nat} (hf : x.blocked extra = false)
    (hp : pcBad (relTarget x.g.pc x.w.ext) = false)
    (ht : x.active ≠ [] → (x.tgtCheck s (relTarget x.g.pc x.w.ext)).1 = .enter) : relPre x s = none := by
  unfold relPre
  split
  · rfl
  · simp only [hp, guardOpen_of_not_blocked hf]
    cases ha : x.active with
    | nil => rfl
    | cons p ps =>
      have he := ht (by simp [ha])
      generalize x.tgtCheck s (relTarget x.g.pc x.w.ext) = r at he
      obtain ⟨r, u⟩ := r
      obtain rfl : r = .enter := he
      rfl

section
variable {sg : Sig} {w : TWord} {extra : List Nat} {body : Ctx → State → Res} {s t : State} {x : Ctx}

theorem runThrumWith_jump {pre} (hi : Issues sg w extra s x) (hp : pre x s = none) (hb : body x s = .jump t) :
    runThrumWith sg w extra pre body s = .next (depart x s t) := by
  rw [runThrumWith_eq hi.on hi.ctx hp hi.legal hi.free, hb, finish_jump]; rfl
theorem runThrumWith_ok {pre} (hi : Issues sg w extra s x) (hp : pre x s = none) (hb : body x s = .ok t) :
    runThrumWith sg w extra pre body s = .next (moveOn x s t) := by
  rw [runThrumWith_eq hi.on hi.ctx hp hi.legal hi.free, hb, finish_ok]; rfl

end

/-- The part of a group that stays when only some threads branch. -/
def stayPart (x : Ctx) : Part := ⟨(x.threads.filter (fun p => !p.2.guard x.w)).map Prod.fst, x.next, false⟩
/-- The part that branches. -/
def tookPart (x : Ctx) (t : W64) : Part := ⟨x.active.map Prod.fst, t, true⟩

theorem stays_of_all {x : Ctx} (h : ∀ p ∈ x.threads, p.2.guard x.w = true) : x.stays = [] := by
  have hno : x.threads.filter (fun p => !p.2.guard x.w) = [] := List.filter_eq_nil_iff.2 fun p hp => by simp [h p hp]
  simp [Ctx.stays, hno]
theorem stays_of_some {x : Ctx} (h : ¬ ∀ p ∈ x.threads, p.2.guard x.w = true) : x.stays = [stayPart x] := by
  push Not at h
  obtain ⟨p, hp, hg⟩ := h
  have hin : x.threads.filter (fun p => !p.2.guard x.w) ≠ [] :=
    List.ne_nil_of_mem (List.mem_filter.2 ⟨hp, by simpa using hg⟩)
  have hne : ((x.threads.filter (fun p => !p.2.guard x.w)).map Prod.fst).isEmpty = false := by simpa using hin
  rw [Ctx.stays, hne]
  rfl

theorem relBranch_of_none {stayFirst : Bool} {wr} {x : Ctx} {s : State} (h : x.active = []) : relBranch stayFirst wr x s = .ok s := by
  simp [relBranch, h]
theorem relBranch_eq {stayFirst : Bool} {wr} {x : Ctx} {s : State} (h : x.active ≠ []) :
    relBranch stayFirst wr x s =
      x.splitTo (wr x (x.tgtCheck s (relTarget x.g.pc x.w.ext)).2)
        (if stayFirst then x.stays ++ [tookPart x (relTarget x.g.pc x.w.ext)]
          else tookPart x (relTarget x.g.pc x.w.ext) :: x.stays) := by
  simp only [relBranch, isEmpty_executing h]
  rfl

/-- A branch of the whole group. -/
theorem relBranch_all {stayFirst : Bool} {wr} {x : Ctx} {s : State} (h : x.active ≠ [])
    (ha : ∀ p ∈ x.threads, p.2.guard x.w = true) :
    relBranch stayFirst wr x s =
      .jump ((wr x (x.tgtCheck s (relTarget x.g.pc x.w.ext)).2).modGroup x.gid
        (tookPart x (relTarget x.g.pc x.w.ext)).record) := by
  rw [relBranch_eq h, stays_of_all ha, List.nil_append, ite_self]
  rfl

/-- A branch of some threads only: the part that keeps the record goes on from the boundary, the other is added. -/
theorem splitTo_two {x : Ctx} {s s1 : State} {p q : Part} (h : s.commit x.gid = .ok s1) :
    x.splitTo s [p, q] = .jump (((region x s1 p.pc).modGroup x.gid p.record).addPart x.g q) := by
  rw [Ctx.splitTo, boundary_region h]
  · rfl
  · exact nofun

/-! ### Branches through a register (R262, R263) -/

theorem dedup'_of_all_eq {α : Type} [DecidableEq α] {a : α} {l : List α} (hne : l ≠ []) (h : ∀ b ∈ l, b = a) : dedup' l = [a] := by
  induction l with
  | nil => exact absurd rfl hne
  | cons b l ih =>
    obtain rfl : b = a := h b List.mem_cons_self
    have htail : dedup' l = [] ∨ dedup' l = [b] := by
      cases l with
      | nil => exact .inl rfl
      | cons c l => exact .inr (ih nofun fun d hd => h d (List.mem_cons_of_mem _ hd))
    rcases htail with ht | ht <;> simp [dedup', ht]

theorem active_of_all {x : Ctx} (h : ∀ p ∈ x.threads, p.2.guard x.w = true) : x.active = x.threads :=
  List.filter_eq_self.2 h

/-- Every thread of the group executes and names one well-formed target whose slot may be entered. -/
structure AllName (x : Ctx) (s : State) (t : W64) : Prop where
  some_thread : x.threads ≠ []
  executes : ∀ p ∈ x.threads, p.2.guard x.w = true
  names : ∀ p ∈ x.threads, srcPair x.w p.2 false x.w.a = t
  tags : ∀ p ∈ x.threads, tagOk p.2 x.w.a 2 tINT = true
  wellFormed : pcBad t = false
  enters : (x.tgtCheck s t).1 = .enter

namespace AllName
variable {x : Ctx} {s : State} {t : W64} (h : AllName x s t)
include h

theorem active : x.active = x.threads := active_of_all h.executes
theorem active_ne_nil : x.active ≠ [] := h.active ▸ h.some_thread
theorem no_cause : x.causes (fun p => if tagOk p.2 x.w.a 2 tINT then none else some .format) = none :=
  causes_eq_none.2 fun p hp => if_pos (h.tags p (h.active ▸ hp))
theorem pairTargets_eq : pairTargets x = [t] := by
  refine dedup'_of_all_eq (by simpa using h.active_ne_nil) fun b hb => ?_
  obtain ⟨p, hp, rfl⟩ := List.mem_map.1 hb
  exact h.names p (h.active ▸ hp)
theorem naming_eq : x.naming [t] = x.active.map Prod.fst := by
  refine congrArg (List.map Prod.fst) (List.filter_eq_self.2 fun p hp => ?_)
  simp [h.names p (h.active ▸ hp)]
theorem checkTargets_eq : x.checkTargets s [t] = ([(t, .enter)], (x.tgtCheck s t).2) := by
  simp [Ctx.checkTargets, h.wellFormed, h.enters]

/-- The group goes to the target as one. -/
theorem pairBranch_eq (wr : Ctx → State → State) :
    pairBranch wr x s = .jump ((wr x (x.tgtCheck s t).2).modGroup x.gid (tookPart x t).record) := by
  simp only [pairBranch, h.no_cause, h.pairTargets_eq, h.checkTargets_eq, List.map_cons, List.map_nil, h.naming_eq,
    stays_of_all h.executes]
  rfl

end AllName

/-- Settles O17: a whole group leaves as one part, a divided one as two, of which `bra` and `call` keep the record in different
parts. -/
theorem branchesComplete : Obligations.BranchesComplete := by
  refine ⟨⟨?braAll, ?braSome, ?callAll, ?callSome, ?noThread⟩, ?register⟩
  case braAll =>
    rintro w s x hi ⟨hp, ha, ht⟩ hall
    exact runThrumWith_jump hi (relPre_eq_none hi.free hp fun _ => ht) (relBranch_all ha hall)
  case braSome =>
    rintro w s s1 x hi ⟨hp, ha, ht⟩ hsome h
    refine runThrumWith_jump hi (relPre_eq_none hi.free hp fun _ => ht) ?_
    rw [relBranch_eq ha, stays_of_some hsome]
    exact splitTo_two h
  case callAll =>
    rintro w s x hi ⟨hp, ha, ht⟩ hall
    obtain ⟨rfl, -⟩ := ctx?_word hi.ctx
    exact runThrumWith_jump hi (relPre_eq_none hi.free hp fun _ => ht) (relBranch_all ha hall)
  case callSome =>
    rintro w s s1 x hi ⟨hp, ha, ht⟩ hsome h
    obtain ⟨rfl, -⟩ := ctx?_word hi.ctx
    refine runThrumWith_jump hi (relPre_eq_none hi.free hp fun _ => ht) ?_
    rw [relBranch_eq ha, stays_of_some hsome]
    exact splitTo_two h
  case noThread =>
    intro w s x ha
    exact ⟨fun hi hp => runThrumWith_ok hi (relPre_eq_none hi.free hp fun h => absurd ha h) (relBranch_of_none ha),
      fun hi hp => runThrumWith_ok hi (relPre_eq_none hi.free hp fun h => absurd ha h) (relBranch_of_none ha)⟩
  case register =>
    intro one all w s x t hne hone
    obtain ⟨hall, hp, ht⟩ := hone
    have h : AllName x s t :=
      ⟨hne, fun p hp => (hall p hp).1, fun p hp => (hall p hp).2.1, fun p hp => (hall p hp).2.2, hp, ht⟩
    refine ⟨fun hi => runThrum_jump hi (h.pairBranch_eq _), fun hi => runThrum_jump hi (h.pairBranch_eq _), fun hi => ?_⟩
    obtain ⟨rfl, -⟩ := ctx?_word hi.ctx
    exact runThrum_jump hi (h.pairBranch_eq _)

/-! ### Return from the prologue (R391) -/

/-- Settles O21: with one return point the whole group keeps the record, and no part is added. -/
theorem tretReturns : Obligations.TretReturns := by
  intro w s s1 x pc hi hne hall hpc h
  obtain ⟨rfl, -⟩ := ctx?_word hi.ctx
  have hguard : ∀ p ∈ x.threads, p.2.guard x.w = true := fun p hp => (hall p hp).1
  have hret : ∀ p ∈ x.threads, x.returnPc p.2 = pc := fun p hp => (hall p hp).2
  have hgood : x.threads.filter (fun p => pcBad (x.returnPc p.2)) = [] :=
    List.filter_eq_nil_iff.2 fun p hp => by simp [hret p hp, hpc]
  have hone : dedup' (x.threads.map fun p => x.returnPc p.2) = [pc] :=
    dedup'_of_all_eq (by simpa using hne) fun b hb => by
      obtain ⟨p, hp, rfl⟩ := List.mem_map.1 hb
      exact hret p hp
  have hat : x.threads.filter (fun p => x.returnPc p.2 == pc) = x.threads :=
    List.filter_eq_self.2 fun p hp => by simp [hret p hp]
  refine runThrum_jump hi ?_
  simp only [tretBody, active_of_all hguard, hgood, hone, boundary_region h, stays_of_all hguard, hat]
  rfl

end Sys2Proof.Laws
end

section
/-! SUPPORT. What walks, device writes, fault records and commits leave alone: cores, groups, workgroups and Bobbin cores (R165, R309,
R371). -/

namespace Sys2Proof.Laws

open Sys2Proof.Machine Sys2Proof.Spec

/-- The parts of the state that execute: no walk, device write or fault record changes one of them. -/
def actors (s : State) : Tab Core × Tab Group × Tab Wg × Tab Bob × W64 × Cur := (s.cores, s.groups, s.wgs, s.bobs, s.now, s.cur)

theorem actors_eq {s t : State} (h : actors t = actors s) :
    t.cores = s.cores ∧ t.groups = s.groups ∧ t.wgs = s.wgs ∧ t.bobs = s.bobs ∧ t.now = s.now ∧ t.cur = s.cur := by
  simpa [actors] using h

/-- A fold keeps what each of its steps keeps. -/
theorem foldl_keeps {α β σ : Type} (π : σ → β) {f : σ → α → σ} (h : ∀ s a, π (f s a) = π s) (l : List α) (s : σ) :
    π (l.foldl f s) = π s := by
  induction l generalizing s with
  | nil => rfl
  | cons a l ih => exact (ih (f s a)).trans (h s a)

/-! ### Lines come to their slices (R340) -/

theorem actors_burst (s : State) (fn l : Nat) (wr : Bool) : actors (s.burst fn l wr) = actors s := by
  unfold State.burst
  dsimp only
  split
  · split <;> rfl
  · rfl
theorem actors_fetchIn (s : State) (fn l : Nat) : actors (s.fetchIn fn l) = actors s := by
  unfold State.fetchIn
  split
  · exact actors_burst ..
  · rfl
@[simp] theorem actors_touch (s : State) (fn l mt : Nat) : actors (s.touch fn l mt) = actors s := by
  unfold State.touch
  split
  · rfl
  · exact actors_fetchIn s fn l
@[simp] theorem actors_sawPath (s : State) (fn : Nat) (path : List Nat) : actors (s.sawPath fn path) = actors s :=
  foldl_keeps actors (fun t l => actors_touch t fn l 0) path s
@[simp] theorem actors_walked (s : State) (fn a : Nat) : actors (s.walked fn a) = actors s :=
  foldl_keeps actors (fun t (_ : TableRead) => actors_sawPath t fn _) _ s

/-! ### Device writes and fault records (R371) -/

@[simp] theorem actors_devWrite (s : State) (fn pa : Nat) (bs : List Byte) : actors (s.devWrite fn pa bs) = actors s := rfl
theorem actors_frontWrite (s : State) (fn : Nat) (t : Acced) (bs : List Byte) : actors (s.frontWrite fn t bs) = actors s :=
  actors_sawPath s fn t.path
@[simp] theorem actors_frontWrites (s : State) (fn : Nat) (ps : List (Acced × List Byte)) :
    actors (s.frontWrites fn ps) = actors s :=
  foldl_keeps actors (fun t _ => actors_frontWrite t fn _ _) ps s

theorem actors_putRecord {s t : State} {fn : Nat} {bs : List Byte} (h : s.putRecord fn bs = some t) : actors t = actors s := by
  unfold State.putRecord at h
  dsimp only at h
  split at h
  · cases h; rfl
  · split at h <;> cases h
    · exact actors_frontWrites ..
    · exact actors_walked ..

@[simp] theorem actors_faultRecord (s : State) (fn : Nat) (bs : List Byte) : actors (s.faultRecord fn bs) = actors s := by
  unfold State.faultRecord
  dsimp only
  split
  · rfl
  · cases h : s.putRecord fn bs with
    | none => rfl
    | some t => exact actors_putRecord h

@[simp] theorem actors_launchRecord (s : State) (l : Nat) (f : FaultInfo) : actors (s.launchRecord l f) = actors s := by
  unfold State.launchRecord
  split
  · exact actors_faultRecord ..
  · rfl
@[simp] theorem actors_taskFault (s : State) (l : Nat) (f : FaultInfo) : actors (s.taskFault l f) = actors s :=
  actors_launchRecord s l f

/-! ### Walks and translations (R165, R308) -/

theorem actors_trimDir (s : State) (d k : Nat) : actors (s.trimDir d k) = actors s := by
  unfold State.trimDir; split <;> rfl
theorem actors_filtRoom (s : State) (f : Nat) : actors (s.filtRoom f) = actors s := by
  unfold State.filtRoom
  dsimp only
  split
  · rfl
  · exact actors_trimDir ..
theorem actors_evictRegion (s : State) (d : Nat) : actors (s.evictRegion d) = actors s := by
  unfold State.evictRegion
  exact foldl_keeps (f := fun u l => List.foldl (fun v k => v.backInvalidate k l) u (tgetD s.dirs d [])) actors
    (fun t l => foldl_keeps (f := fun v k => v.backInvalidate k l) actors (fun _ _ => rfl) _ t) _ s
theorem actors_dirRoom (s : State) (d : Nat) : actors (s.dirRoom d) = actors s := by
  unfold State.dirRoom
  dsimp only
  split
  · rfl
  · exact actors_evictRegion ..
theorem actors_enrol (agent : Nat) (s : State) (l : Nat) : actors (State.enrol agent s l) = actors s :=
  (actors_dirRoom ..).trans (actors_filtRoom ..)
theorem actors_cacheEnt (s : State) (t : TlbEnt) : actors (s.cacheEnt t) = actors s := by
  unfold State.cacheEnt; split <;> rfl

theorem actors_noteRead (agent fn a : Nat) (s : State) (r : TableRead) : actors (State.noteRead agent fn a s r) = actors s := by
  have hread : actors ((r.path.drop (r.path.length - 1)).foldl (fun t l => (t.touch fn l 0).enrol agent l) s) = actors s :=
    foldl_keeps actors (fun t l => (actors_enrol ..).trans (actors_touch ..)) _ s
  unfold State.noteRead
  dsimp only
  split
  · split
    · split
      · exact hread
      · exact (actors_cacheEnt ..).trans ((foldl_keeps actors (actors_enrol _) _ _).trans hread)
    · exact hread
  · exact hread

@[simp] theorem actors_lookup (s : State) (agent fn : Nat) (ex : Bool) (a : Nat) : actors (s.lookup agent fn ex a).2 = actors s := by
  have hreads : ∀ reads : List TableRead, actors (reads.foldl (State.noteRead agent fn a) s) = actors s :=
    fun reads => foldl_keeps actors (actors_noteRead agent fn a) reads s
  unfold State.lookup
  split
  · rfl
  · split
    · rfl
    · dsimp only
      split
      · dsimp only
        split
        · exact hreads _
        · exact (actors_cacheEnt ..).trans ((foldl_keeps actors (actors_enrol _) _ _).trans (hreads _))
      · exact hreads _

theorem actors_exportAccess (s : State) (port fn dev off : Nat) (need : Need) :
    actors (s.exportAccess port fn dev off need).2 = actors s := by
  have h := actors_lookup s (agExport port) fn true off
  unfold State.exportAccess
  dsimp only
  split
  · rfl
  · split
    · simp_all
    · simp_all
    · split <;> simp_all

@[simp] theorem actors_access (s : State) (agent fn : Nat) (ranges) (a n : Nat) (need : Need) :
    actors (s.access agent fn ranges a n need).2 = actors s := by
  have h := actors_lookup s agent fn false a
  unfold State.access
  dsimp only
  split
  · rfl
  · split
    · split
      · exact actors_exportAccess ..
      · rfl
    · split
      · simp_all
      · rename_i s1 hs
        have h1 : actors s1 = actors s := by rw [hs] at h; exact h
        split
        · exact h1
        · split
          all_goals
            split <;> exact h1

/-! ### Commits (R332, R334) -/

theorem actors_storeTarget (s : State) (g : Group) (w : Wg) (b : BufStore) : actors (s.storeTarget g w b).2 = actors s := by
  unfold State.storeTarget
  split
  · rfl
  · exact actors_access ..

theorem actors_commitGo (s : State) (g : Group) (w : Wg) (wid : Nat) (bs : List BufStore) (acc : List PWrite) :
    actors (s.commitGo g w wid bs acc).2 = actors s := by
  induction bs generalizing s acc with
  | nil => rfl
  | cons b bs ih =>
    have h := actors_storeTarget s g w b
    simp only [State.commitGo]
    split
    · exact (ih ..).trans (by simp_all)
    · simp_all

/-- The state that an attempt to commit leaves. -/
def commitState : CRes → State
  | .ok t | .fault t | .wait t => t

/-- A commit changes the record of its group, no other part that executes. -/
theorem commit_keeps (s : State) (gid : Nat) :
    let t := commitState (s.commit gid)
    t.cores = s.cores ∧ t.wgs = s.wgs ∧ t.bobs = s.bobs ∧ t.now = s.now ∧ t.cur = s.cur := by
  unfold State.commit
  split
  · exact ⟨rfl, rfl, rfl, rfl, rfl⟩
  · split
    · exact ⟨rfl, rfl, rfl, rfl, rfl⟩
    · split
      · exact ⟨rfl, rfl, rfl, rfl, rfl⟩
      · rename_i g _ _ _ w _
        have hgo := actors_commitGo s g w g.wg g.buf []
        split <;> rename_i s1 hs
        all_goals
          rw [hs] at hgo
          obtain ⟨hcores, -, hwgs, hbobs, hnow, hcur⟩ := actors_eq hgo
        · exact ⟨hcores, hwgs, hbobs, hnow, hcur⟩
        · exact ⟨hcores, hwgs, hbobs, hnow, hcur⟩
        · obtain ⟨hcores', -, hwgs', hbobs', hnow', hcur'⟩ := actors_eq (actors_taskFault
            (s1.setGroup gid { g with buf := [], wait := .trapped }) w.launch
            { cls := _, sub := _, pc := _, addr := _, core := some g.core, wg := BitVec.ofNat 32 w.g, tid := _ })
          exact ⟨hcores'.trans hcores, hwgs'.trans hwgs, hbobs'.trans hbobs, hnow'.trans hnow, hcur'.trans hcur⟩

/-! ### Traps (R366, Table 14.2) -/

@[simp] theorem actors_prologue (s : State) (gid : Nat) (t : TrapInfo) (pc : W64) : actors (s.prologue gid t pc) = actors s := by
  unfold State.prologue
  split
  · rfl
  · split
    · rfl
    · dsimp only
      split <;> exact actors_launchRecord ..

end Sys2Proof.Laws
end

section
/-! SUPPORT. Precise traps and the holds before issue: the state after them (R27, R28, R37, R74, R365 to R368). -/

namespace Sys2Proof.Laws

open Sys2Proof.Machine Sys2Proof.Spec

/-! ### The state after a trap whose region holds no stores -/

section
variable {s : State} {x : Ctx} {sg : Sig} {w : TWord}

theorem ctx?_lookups (h : s.ctx? sg w = some x) : s.group? x.gid = some x.g ∧ s.wg? x.g.wg = some x.wg ∧ x.wid = x.g.wg := by
  obtain ⟨-, hg, hid, hw, -⟩ := ctx?_group h
  exact ⟨hg, hid ▸ hw, hid⟩

/-- The trap registers of the group's threads are written, the group enters the prologue and counter 8 advances. -/
theorem enterTrap_eq {e : TrapInfo} {pc : W64} (h : s.ctx? sg w = some x) :
    s.enterTrap x.gid e pc =
      ((s.modWg x.wid (fun v => x.g.tids.foldl (fun v i => v.modThread i (trapThread e pc i)) v)).setGroup x.gid { x.g with
        priv := true, pc := Config.prologuePc, rstart := pc, wait := .trapped, stall := none, begun := none, signed := [],
        lastIssue := s.cycles }).count x.g.core x.wg.fn 8 1 := by
  obtain ⟨hg, hw, hid⟩ := ctx?_lookups h
  simp only [State.enterTrap, hg, hw, hid]

theorem trapped_eq (e : TrapInfo) (h : s.ctx? sg w = some x) (hb : nothingBuffered x) :
    x.trapped s e = .next ((s.enterTrap x.gid e x.g.pc).prologue x.gid e x.g.pc) := by
  obtain ⟨hg, -, -⟩ := ctx?_lookups h
  simp only [Ctx.trapped, State.takeTrap, hg, commit_of_nothing hg hb]

end

/-! ### Threads that an update of a workgroup reaches -/

theorem thread_modThread (v : Wg) (i k : Nat) (f : Thread → Thread) :
    (v.modThread i f).thread k = if i = k then f (v.thread i) else v.thread k := tgetD_tset ..

/-- Threads updated one after the other, by an update that may be made twice. -/
theorem thread_foldl_modThread {f : Nat → Thread → Thread} (hf : ∀ i th, f i (f i th) = f i th) (ids : List Nat) (v : Wg) (k : Nat) :
    (ids.foldl (fun v i => v.modThread i (f i)) v).thread k = if k ∈ ids then f k (v.thread k) else v.thread k := by
  induction ids generalizing v with
  | nil => simp
  | cons i ids ih =>
    rw [List.foldl_cons, ih, thread_modThread]
    by_cases hi : i = k
    · subst hi; simp [hf]
    · simp [hi, Ne.symm hi]

theorem trapThread_idem (e : TrapInfo) (pc : W64) (i : Nat) (th : Thread) :
    trapThread e pc i (trapThread e pc i th) = trapThread e pc i th := rfl

/-- A thread depends on the workgroups alone. -/
theorem thread_congr {s t : State} (h : t.wgs = s.wgs) (r : ThRef) : t.thread r = s.thread r := by
  simp only [State.thread, State.wg?, h]

section
variable {s : State} {x : Ctx} {sg : Sig} {w : TWord}

/-- After the trap the group is privileged at the prologue. -/
theorem group_after_trap {e : TrapInfo} {pc : W64} (h : s.ctx? sg w = some x) :
    ∃ g, ((s.enterTrap x.gid e pc).prologue x.gid e pc).group? x.gid = some g ∧ g.priv = true ∧ g.pc = Config.prologuePc ∧
      g.tids = x.g.tids := by
  obtain ⟨-, hgroups, -⟩ := actors_eq (actors_prologue (s.enterTrap x.gid e pc) x.gid e pc)
  have hset := congrArg (tget? · x.gid) (hgroups.trans (congrArg State.groups (enterTrap_eq (e := e) (pc := pc) h)))
  exact ⟨_, hset.trans (tget?_tset_self ..), rfl, rfl, rfl⟩

/-- After the trap every live thread of the group has its trap registers written. -/
theorem thread_after_trap {e : TrapInfo} {pc : W64} (h : s.ctx? sg w = some x) {tid : Nat} (ht : tid ∈ x.g.tids) :
    ((s.enterTrap x.gid e pc).prologue x.gid e pc).thread ⟨x.wid, tid⟩ = trapThread e pc tid (s.thread ⟨x.wid, tid⟩) := by
  obtain ⟨-, -, hwgs, -⟩ := actors_eq (actors_prologue (s.enterTrap x.gid e pc) x.gid e pc)
  have hw : s.wg? x.wid = some x.wg := (ctx?_group h).2.2.2.1
  have hw' : tget? s.wgs x.wid = some x.wg := hw
  rw [thread_congr hwgs, enterTrap_eq h]
  simp only [State.thread, State.wg?, State.count_wgs, State.setGroup_wgs, State.modWg, tget?_tmod_self, hw', Option.map_some,
    thread_foldl_modThread (trapThread_idem e pc), if_pos ht]

end

/-! ### `trap` (R270) -/

theorem trapThread_eq (e : TrapInfo) (pc : W64) (i : Nat) : trapThread e pc i = trappedThread e.cls e.sub pc (e.owner? i) := by
  funext th
  unfold trapThread trappedThread
  cases e.owner? i <;> rfl

/-- A cause that the listed threads raise, none at an address. -/
theorem owner?_of_listed (cls sub : Nat) (ids : List Nat) (tid : Nat) :
    ({ cls := cls, sub := sub, own := some (ids.map fun i => (i, 0)) } : TrapInfo).owner? tid =
      if tid ∈ ids then some 0 else none := by
  simp only [TrapInfo.owner?]
  induction ids with
  | nil => rfl
  | cons i ids ih =>
    by_cases hi : i = tid
    · simp [hi]
    · simp only [List.map_cons, List.find?_cons, beq_false_of_ne hi, ih, List.mem_cons, Ne.symm hi, false_or]

/-- Settles O18: what `enterTrap` and the prologue do, written out for the threads that execute. -/
theorem softwareTrapEntersThePrologue : Obligations.SoftwareTrapEntersThePrologue := by
  intro w s x hi ha hb
  obtain ⟨rfl, -⟩ := ctx?_word hi.ctx
  let e : TrapInfo := { cls := 0x09, sub := x.w.md.toNat, own := some (x.active.map (fun p => (p.1, 0))) }
  have hbody : trapBody x s = .trap e := by
    simp only [trapBody, softTrap, isEmpty_active ha]
    rfl
  have hown (i : Nat) : e.owner? i = if x.active.any (fun p => p.1 == i) then some 0 else none := by
    have hlist : e.own = some ((x.active.map Prod.fst).map fun i => (i, 0)) := by simp [e]
    simp only [e] at hlist ⊢
    rw [hlist, owner?_of_listed]
    exact if_congr (by simp) rfl rfl
  show runThrum _ _ _ _ _ = _
  rw [runThrum_trap hi hbody, trapped_eq e hi.ctx hb, enterTrap_eq hi.ctx]
  simp only [trapThread_eq, hown]
  rfl

/-! ### Illegal encodings (R37 items 3 and 4, R42) -/

theorem runThrum_encTrap {sg : Sig} {w : TWord} {extra body} {s : State} {x : Ctx} {e : TrapInfo} (on : s.boot.off = false)
    (hx : s.ctx? sg w = some x) (he : encTrap sg w (x.enc s) = some e) : runThrum sg w extra body s = x.trapped s e := by
  simp only [runThrum, runThrumWith, on, hx, he, Bool.false_eq_true, if_false, finish_trap]

/-- Every Thrum instruction but the relative branches issues through `runThrum`, under its signature. -/
theorem exec_eq_runThrum {i : Instr} {sg : Sig} {w : TWord} (hs : sigOf i = some (sg, w)) (hrel : ∀ v, i ≠ .bra v ∧ i ≠ .call v)
    (s : State) : ∃ extra body, exec i s = runThrum sg w extra body s := by
  cases i
  case bra v => exact absurd rfl (hrel v).1
  case call v => exact absurd rfl (hrel v).2
  all_goals
    cases hs <;> exact ⟨_, _, by rfl⟩

/-- An illegal encoding traps, whatever the instruction, but for the relative branches. -/
theorem exec_encTrap {i : Instr} {sg : Sig} {w : TWord} {s : State} {x : Ctx} {e : TrapInfo} (hs : sigOf i = some (sg, w))
    (hrel : ∀ v, i ≠ .bra v ∧ i ≠ .call v) (on : s.boot.off = false) (hx : s.ctx? sg w = some x)
    (he : encTrap sg w (x.enc s) = some e) : exec i s = x.trapped s e := by
  obtain ⟨extra, body, hrun⟩ := exec_eq_runThrum hs hrel s
  rw [hrun, runThrum_encTrap on hx he]

theorem encTrap_of_illegal {sg : Sig} {w : TWord} {e : EncCtx} (h : sg.illegalInstr w e = true ∨ sg.illegalOperand w e = true) :
    encTrap sg w e = some { cls := if sg.illegalInstr w e then 0x03 else 0x04 } := by
  unfold encTrap
  cases hi : sg.illegalInstr w e
  · have ho : sg.illegalOperand w e = true := h.resolve_left (by simp [hi])
    simp [ho, clsOperand]
  · simp [clsInstr]

theorem illegalInstr_of_priv {g : Sig} {w : TWord} {e : EncCtx} (hg : g.priv = true) (he : e.priv = false) :
    g.illegalInstr w e = true := by simp [Sig.illegalInstr, hg, he]
theorem illegalInstr_of_badI {g : Sig} {w : TWord} {e : EncCtx} (h : g.badI e = true) : g.illegalInstr w e = true := by
  simp [Sig.illegalInstr, h]

theorem sysPriv_of_trap {w : TWord} (h : w.a.toNat = 0x20 ∨ w.a.toNat = 0x21 ∨ w.a.toNat = 0x22) : sysPriv w = true := by
  unfold sysPriv
  rcases h with h | h | h <;> rw [h] <;> rfl

/-- Table 14.11: the registers that `sysw` does not write. -/
theorem not_writable {n : Nat}
    (h : n ≤ 0x05 ∨ 0x08 ≤ n ∧ n ≤ 0x0F ∨ 0x18 ≤ n ∧ n ≤ 0x1B ∨ n = 0x20 ∨ n = 0x22) :
    (match sysReg? n with | some r => r.write | none => false) = false := by
  rcases h with h | ⟨h, h'⟩ | ⟨h, h'⟩ | rfl | rfl
  · interval_cases n <;> rfl
  · interval_cases n <;> rfl
  · interval_cases n <;> rfl
  · rfl
  · rfl

/-- Settles O19: the encoding is judged before the body, and the trap's registers are those of a group-wide cause. -/
theorem illegalEncodingsAndPrivilege : Obligations.IllegalEncodingsAndPrivilege := by
  refine ⟨fun i sg w s x cls hs hrel on hx hb hcls hill => ?_, fun w e => ⟨fun hp => ?_, fun hp h => ?_, fun hp h => ?_, fun h => ?_⟩⟩
  · have hexec := exec_encTrap hs hrel on hx (encTrap_of_illegal hill)
    rw [← hcls, trapped_eq _ hx hb] at hexec
    refine ⟨_, hexec, group_after_trap hx, fun tid ht => ?_⟩
    rw [thread_after_trap hx ht, trapThread_eq]
    simp only [trappedThread]
    exact ⟨trivial, rfl, rfl, trivial⟩
  · refine ⟨?_, ?_, ?_, ?_, ?_, ?_⟩
    all_goals exact illegalInstr_of_priv (by rfl) hp
  · exact illegalInstr_of_badI (by simp [sigSysr, sysPriv_of_trap h, hp])
  · exact illegalInstr_of_badI (by simp [sigSysw, sysPriv_of_trap h, hp])
  · have ha : (sigSysw w).a.badOperand false w.a e.nregs = true := by
      show (!(match sysReg? w.a.toNat with | some r => r.write | none => false)) = true
      rw [not_writable h]
      rfl
    simp [Sig.illegalOperand, ha]

/-! ### Tags outside INT (R37 item 5, R74) -/

theorem pickTrap_of_format {fs : List (Nat × LaneFault)} (hne : fs ≠ []) (h : ∀ f ∈ fs, f.2 = .format) :
    pickTrap fs = some { cls := 0x05, own := some ((fs.map Prod.fst).map fun i => (i, 0)) } := by
  obtain ⟨f, rest, rfl⟩ := List.exists_cons_of_ne_nil hne
  have hbest : ∀ l : List (Nat × LaneFault), (∀ g ∈ l, g.2 = .format) →
      l.foldl (fun b y => if y.2.rank < b.rank then y.2 else b) LaneFault.format = .format := by
    intro l hl
    induction l with
    | nil => rfl
    | cons g l ih =>
      rw [List.foldl_cons, hl g List.mem_cons_self, ite_self]
      exact ih fun k hk => hl k (List.mem_cons_of_mem _ hk)
  have hall : (f :: rest).filter (fun y => y.2.rank == LaneFault.format.rank) = f :: rest :=
    List.filter_eq_self.2 fun y hy => by simp [h y hy]
  have hown : (f :: rest).map (fun y => (y.1, y.2.addr)) = ((f :: rest).map Prod.fst).map fun i => (i, 0) := by
    rw [List.map_map]
    exact List.map_congr_left fun y hy => by simp [h y hy, LaneFault.addr]
  rw [pickTrap, h f List.mem_cons_self, hbest _ h, hall, hown]
  rfl

/-- An instruction whose only cause is a source whose tag is outside INT. -/
structure TagChecked (x : Ctx) (d : AluDef) (fs : TWord → List Fld) : Prop where
  passes : ∀ i th, ints fs x i th = true → d.fault x (i, th) = none
  fails : ∀ i th, ints fs x i th = false → d.fault x (i, th) = some .format

theorem fault_of_lane_error {d : AluDef} {x : Ctx} {p : Nat × Thread} {e : LaneFault} (h : d.lane ⟨x, p.1, p.2⟩ = .error e) :
    d.fault x p = some e := by simp only [AluDef.fault, h]

theorem TagChecked.plain {x : Ctx} {fs : TWord → List Fld} {n : Nat} {reqs : Lane → Bool} {tag : Lane → Nat} {f : Lane → List W32}
    (hr : ∀ i th, reqs ⟨x, i, th⟩ = ints fs x i th) (ht : ∀ l, badTag l.x.wg.fmt (tag l) = false) :
    TagChecked x (plainAlu n reqs tag f) fs where
  passes i th h := fault_of_lane_ok (lane_ok (plainAlu_eval_ok ((hr i th).trans h)) (.inr (.inr (ht _))))
  fails i th h := fault_of_lane_error (lane_error (plainAlu_eval_error ((hr i th).trans h)))

theorem TagChecked.pred {x : Ctx} {fs : TWord → List Fld} {reqs : Lane → Bool} {f : Lane → Bool × Sticky}
    (hr : ∀ i th, reqs ⟨x, i, th⟩ = ints fs x i th) : TagChecked x (predAlu x.w.d reqs f) fs where
  passes i th h := fault_of_lane_ok (predAlu_lane_ok ((hr i th).trans h))
  fails i th h := fault_of_lane_error (predAlu_lane_error ((hr i th).trans h))

theorem badTag_intTag (fmt : Tab W32) (w : TWord) : badTag fmt (intTag w) = false := by
  unfold intTag; split <;> rfl

/-- The threads that raise the cause. -/
def raising (x : Ctx) (fs : TWord → List Fld) : List Nat :=
  (x.active.filter fun p => !ints fs x p.1 p.2).map Prod.fst

theorem mem_raising {x : Ctx} {fs : TWord → List Fld} {tid : Nat} :
    tid ∈ raising x fs ↔ ∃ p, (p ∈ x.active ∧ ints fs x p.1 p.2 = false) ∧ p.1 = tid := by
  simp [raising]

theorem TagChecked.causes_eq {x : Ctx} {d : AluDef} {fs : TWord → List Fld} (hd : TagChecked x d fs)
    (h : ∃ p, p ∈ x.active ∧ ints fs x p.1 p.2 = false) :
    x.causes (d.fault x) = some { cls := 0x05, own := some ((raising x fs).map fun i => (i, 0)) } := by
  have hmap : x.active.filterMap (fun p => (d.fault x p).map fun f => (p.1, f)) =
      (x.active.filter fun p => !ints fs x p.1 p.2).map fun p => (p.1, LaneFault.format) := by
    rw [← List.filterMap_eq_map, ← List.filterMap_eq_filter, List.filterMap_filterMap]
    refine List.filterMap_congr fun p _ => ?_
    cases hp : ints fs x p.1 p.2
    · simp [hd.fails p.1 p.2 hp, Option.guard, hp]
    · simp [hd.passes p.1 p.2 hp, Option.guard, hp]
  have hne : (x.active.filter fun p => !ints fs x p.1 p.2).map (fun p => (p.1, LaneFault.format)) ≠ [] := by
    obtain ⟨p, hp, hf⟩ := h
    exact List.ne_nil_of_mem (List.mem_map_of_mem (List.mem_filter.2 ⟨hp, by simp [hf]⟩))
  have hfmt : ∀ f ∈ (x.active.filter fun p => !ints fs x p.1 p.2).map (fun p => (p.1, LaneFault.format)), f.2 = .format := by
    intro f hf
    obtain ⟨p, -, rfl⟩ := List.mem_map.1 hf
    rfl
  rw [Ctx.causes, hmap, pickTrap_of_format hne hfmt, raising]
  simp only [List.map_map]
  rfl

/-- The state after the trap, in the words of the statement. -/
theorem TagChecked.traps {sg : Sig} {w : TWord} {s : State} {x : Ctx} {d : AluDef} {fs : TWord → List Fld}
    (hd : TagChecked x d fs) (hi : Issues sg w [] s x) (hb : nothingBuffered x)
    (h : ∃ p, p ∈ x.active ∧ ints fs x p.1 p.2 = false) :
    ∃ t, runThrum sg w [] (aluBody d) s = .next t ∧
      (∃ g, t.group? x.gid = some g ∧ g.priv = true ∧ g.pc = Config.prologuePc ∧ g.tids = x.g.tids) ∧
      ∀ tid ∈ x.g.tids,
        let a := s.thread ⟨x.wid, tid⟩
        let b := t.thread ⟨x.wid, tid⟩
        b.regs = a.regs ∧ b.preds = a.preds ∧ b.flags = a.flags ∧ b.fpstat = a.fpstat ∧ b.srseed = a.srseed ∧ b.tpc = x.g.pc ∧
        ((∃ p, (p ∈ x.active ∧ ints fs x p.1 p.2 = false) ∧ p.1 = tid) → b.tcause = BitVec.ofNat 32 (0x05 + 2 ^ 16)) ∧
        ((∀ p, p ∈ x.active ∧ ints fs x p.1 p.2 = false → p.1 ≠ tid) → b.tcause = 0x05#32) := by
  have hbody : aluBody d x s = .trap { cls := 0x05, own := some ((raising x fs).map fun i => (i, 0)) } := by
    rw [aluBody, hd.causes_eq h]
  refine ⟨_, (runThrum_trap hi hbody).trans (trapped_eq _ hi.ctx hb), group_after_trap hi.ctx, fun tid ht => ?_⟩
  rw [thread_after_trap hi.ctx ht, trapThread_eq, owner?_of_listed]
  refine ⟨rfl, rfl, rfl, rfl, rfl, rfl, fun hr => ?_, fun hr => ?_⟩
  · rw [if_pos (mem_raising.2 hr)]
    rfl
  · rw [if_neg fun hm => ?_]
    · rfl
    · obtain ⟨p, hp, he⟩ := mem_raising.1 hm
      exact hr p hp he

/-- Settles O20: each of these instructions has no cause but its sources' tags. -/
theorem tagFaultsTrap : Obligations.TagFaultsTrap := by
  intro i sg fs hmem w s x hi hb raises hsome
  obtain ⟨rfl, -⟩ := ctx?_word hi.ctx
  simp only [List.mem_cons, List.not_mem_nil, or_false, Prod.mk.injEq] at hmem
  rcases hmem with ⟨rfl, rfl, rfl⟩ | ⟨rfl, rfl, rfl⟩ | ⟨rfl, rfl, rfl⟩ | ⟨rfl, rfl, rfl⟩ | ⟨rfl, rfl, rfl⟩ | ⟨rfl, rfl, rfl⟩ |
    ⟨rfl, rfl, rfl⟩ | ⟨rfl, rfl, rfl⟩ | ⟨rfl, rfl, rfl⟩ | ⟨rfl, rfl, rfl⟩ | ⟨rfl, rfl, rfl⟩
  · exact (TagChecked.plain (reqAB_eq_ints x) fun _ => badTag_intTag ..).traps hi hb hsome
  · exact (TagChecked.plain (reqAB_eq_ints x) fun _ => badTag_intTag ..).traps hi hb hsome
  · exact (TagChecked.plain (reqAB_eq_ints x) fun _ => badTag_intTag ..).traps hi hb hsome
  · exact (TagChecked.plain (reqAB_eq_ints x) fun _ => badTag_intTag ..).traps hi hb hsome
  · exact (TagChecked.plain (reqAB_eq_ints x) fun _ => badTag_intTag ..).traps hi hb hsome
  · exact (TagChecked.plain (reqABC_eq_ints x) fun _ => badTag_intTag ..).traps hi hb hsome
  · exact (TagChecked.plain (reqAB_eq_ints x) fun _ => badTag_intTag ..).traps hi hb hsome
  · exact (TagChecked.plain (reqAB_eq_ints x) fun _ => badTag_intTag ..).traps hi hb hsome
  · exact (TagChecked.plain (reqA_eq_ints x) fun _ => rfl).traps hi hb hsome
  · exact (TagChecked.plain (reqA_eq_ints x) fun _ => badTag_intTag ..).traps hi hb hsome
  · exact (TagChecked.pred (reqAB_eq_ints x)).traps hi hb hsome

/-! ### The scoreboard (R27, R28) -/

theorem runThrum_blocked {sg : Sig} {w : TWord} {extra body} {s : State} {x : Ctx} (on : s.boot.off = false)
    (hx : s.ctx? sg w = some x) (he : encTrap sg w (x.enc s) = none) (hb : x.blocked extra = true) :
    runThrum sg w extra body s = .next (s.stalls x.gid (.keys (x.awaited extra))) := by
  simp only [runThrum, runThrumWith, on, hx, he, hb, Bool.false_eq_true, if_false, if_true, finish_stall]

/-- Settles O22: an instruction that is held answers the note that its group waits. -/
theorem scoreboardHoldsIssue : Obligations.ScoreboardHoldsIssue := by
  intro i sg extra hmem w s x on hx he hb
  have hrun : ∃ body, exec (i w) s = runThrum (sg w) w (extra w) body s := by
    simp only [List.mem_cons, List.not_mem_nil, or_false, Prod.mk.injEq] at hmem
    rcases hmem with ⟨rfl, rfl, rfl⟩ | ⟨rfl, rfl, rfl⟩ | ⟨rfl, rfl, rfl⟩ | ⟨rfl, rfl, rfl⟩ | ⟨rfl, rfl, rfl⟩ | ⟨rfl, rfl, rfl⟩ |
      ⟨rfl, rfl, rfl⟩ | ⟨rfl, rfl, rfl⟩
    all_goals exact ⟨_, by rfl⟩
  obtain ⟨body, hrun⟩ := hrun
  exact hrun.trans (runThrum_blocked on hx he hb)

end Sys2Proof.Laws
end

section
/-! SUPPORT. Loads, stores, atomics, hints and fences complete where their accesses go out (R171 to R183, R266, R297, R321). -/

namespace Sys2Proof.Laws

open Sys2Proof.Machine Sys2Proof.Spec

/-! ### Operand forms of the statements -/

theorem mdF_sz (w : TWord) : mdF w 0 3 = w.md.toNat % 8 := by simp [mdF, fieldN_eq]
theorem mdF_ord (w : TWord) : mdF w 3 3 = w.md.toNat / 8 % 8 := by simp [mdF, fieldN_eq]
theorem mdF_low4 (w : TWord) : mdF w 0 4 = w.md.toNat % 16 := by simp [mdF, fieldN_eq]
theorem mdF_low2 (w : TWord) : mdF w 0 2 = w.md.toNat % 4 := by simp [mdF, fieldN_eq]
theorem mdF_atomOrd (w : TWord) : mdF w 4 3 = w.md.toNat / 16 % 8 := by simp [mdF, fieldN_eq]

theorem szBytes_eq : ∀ n, szBytes n = accessSize n
  | 0 | 1 | 2 | 3 | 4 | 5 | 6 => rfl
  | n + 7 => by simp [szBytes, accessSize]

theorem not_weak (o : Ord) : (!o.weak) = decide (o ≠ .plain ∧ o ≠ .relaxed) := by cases o <;> rfl
theorem weak_not_strong {o : Ord} (h : o = .plain ∨ o = .relaxed) : ¬ (!o.weak) = true := by
  rcases h with rfl | rfl <;> exact Bool.false_ne_true
theorem strong_of_not_weak {o : Ord} (h : ¬ (o = .plain ∨ o = .relaxed)) : (!o.weak) = true :=
  (not_weak o).trans (decide_eq_true (not_or.1 h))

/-- A body whose threads raise no cause goes on. -/
theorem of_no_cause {o : Option TrapInfo} {r : Res} : o = none →
    (match o with
      | some t => Res.trap t
      | none => r) = r := by
  rintro rfl
  rfl

/-- The same where a thread's access might not fit. -/
theorem of_none {o : Option (Nat × Thread)} {f : Nat × Thread → Res} {r : Res} : o = none →
    (match o with
      | some p => f p
      | none => r) = r := by
  rintro rfl
  rfl

/-! ### Accesses that go out -/

theorem accesses_eq {x : Ctx} {s t : State} {m n need strong at_ rs} {go : List Ready → State → Res}
    (h : goesOut x s m n need strong rs t) : x.accesses s m n need strong at_ go = go rs t := by
  obtain ⟨hdev, hreach⟩ := h
  have hd : (anyDev rs && !at_) = false := by simp [hdev]
  cases strong
  · obtain ⟨u, hr, ht⟩ := hreach
    cases hio : anyIO rs
    · rw [hio] at ht
      rw [accesses_weak hr hd hio, show t = u from ht]
    · rw [hio] at ht
      obtain ⟨s1, hc, rfl⟩ := ht
      exact accesses_io hr hd hio hc
  · obtain ⟨s1, hc, hr⟩ := hreach
    exact accesses_strong hc hr hd

theorem rmw_eq {x : Ctx} {s t : State} {m n rs} {go : List Ready → State → Res} (h : goesOut x s m n needRW true rs t)
    (hio : anyIO rs = false) : x.rmw s m n go = go rs t := by
  have hno : rs.find? (fun r => r.acc.mt == 3) = none := by
    simpa [anyIO, List.any_eq_false] using hio
  rw [Ctx.rmw, accesses_eq h, hno]

/-! ### Loads (R175, R266) -/

theorem loadBody_eq {scr : Bool} {x : Ctx} {s t : State} {rs : List Ready} :
    let n := accessSize (x.w.md.toNat % 8)
    let m : Mode := { scr := scr, wide := !scr && x.w.md.getLsbD 6 }
    let ord := ordOf (x.w.md.toNat / 8 % 8)
    x.causes (x.accCause m n (fun _ => !badTag x.wg.fmt x.w.c.toNat)) = none →
    goesOut x s m n needR (decide (ord ≠ .plain ∧ ord ≠ .relaxed)) rs t →
    loadBody scr x s = .ok (x.zeroOthers (regsOf n) (fun _ => x.w.c.toNat)
      (rs.foldl (x.startLoad n ord (decide (x.w.md.toNat % 8 = 5 ∨ x.w.md.toNat % 8 = 6)) x.w.c.toNat none)
        (lowLines (x.w.md.getLsbD 7) t rs))) := by
  intro n m ord hc hg
  have hsext (k : Nat) : (k == 5 || k == 6) = decide (k = 5 ∨ k = 6) := by
    rw [Bool.decide_or]
    rfl
  simp only [loadBody, mdF_sz, mdF_ord, szBytes_eq, not_weak, hsext]
  exact (of_no_cause hc).trans (accesses_eq hg)

/-- Settles O23: the accesses go out, and each becomes a pending load. -/
theorem loadsComplete : Obligations.LoadsComplete := by
  refine ⟨fun w s t x rs scr hi hc hg => ?_, fun w s t x rs hi hc hne hg => ?_⟩
  · cases scr
    all_goals
      obtain ⟨rfl, -⟩ := ctx?_word hi.ctx
      exact runThrum_ok hi (loadBody_eq hc hg)
  · obtain ⟨rfl, -⟩ := ctx?_word hi.ctx
    refine runThrum_ok hi ?_
    have hne' : rs.isEmpty = false := by simpa using hne
    unfold pollBody
    refine (of_no_cause hc).trans ((accesses_eq hg).trans ?_)
    simp only [hne', mdF_low4]
    rfl

/-! ### Stores (R176, R333) -/

section
variable {scr : Bool} {x : Ctx} {s : State}

/-- A plain or relaxed store to ordinary memory, or inside the scratchpad allocation, enters the buffer. -/
theorem storeBody_buffers :
    let n := accessSize (x.w.md.toNat % 8)
    let m : Mode := { scr := scr, wide := !scr && x.w.md.getLsbD 6 }
    let ord := ordOf (x.w.md.toNat / 8 % 8)
    x.causes (x.accCause m n (fun _ => true)) = none → (ord = .plain ∨ ord = .relaxed) → x.walkWaits m s = false →
    x.storesIO s m = false → (scr = true → ∀ p ∈ x.active, x.addr m p + n ≤ x.wg.ssize) →
    storeBody scr x s =
      if x.overfull m then
        x.boundary s x.g.pc (fun t => .ok (x.active.foldl (x.bufferOne scr (ord == .relaxed) n m) t))
      else .ok (x.active.foldl (x.bufferOne scr (ord == .relaxed) n m) s) := by
  intro n m ord hc hw hwalk hio hin
  have hfit : (if scr then x.active.find? (fun p => decide (x.wg.ssize < x.addr m p + n)) else none) = none := by
    split
    · exact List.find?_eq_none.2 fun p hp => by simpa using hin ‹_› p hp
    · rfl
  simp only [storeBody, mdF_sz, mdF_ord, szBytes_eq]
  refine (of_no_cause hc).trans ((if_neg (weak_not_strong hw)).trans ?_)
  refine (if_neg (Bool.not_eq_true _ ▸ hwalk)).trans ((if_neg (Bool.not_eq_true _ ▸ hio)).trans ?_)
  exact of_none hfit

/-- An ordered store, or one to I/O memory, goes out. -/
theorem storeBody_goesOut {rs : List Ready} {t : State} :
    let n := accessSize (x.w.md.toNat % 8)
    let m : Mode := { scr := scr, wide := !scr && x.w.md.getLsbD 6 }
    let ord := ordOf (x.w.md.toNat / 8 % 8)
    let y := if ord = .plain ∨ ord = .relaxed then x.flagless else x
    x.causes (x.accCause m n (fun _ => true)) = none →
    (ord ≠ .plain ∧ ord ≠ .relaxed) ∨ (x.walkWaits m s = false ∧ x.storesIO s m = true) →
    goesOut x s m n needW true rs t →
    storeBody scr x s = .ok (rs.foldl (y.startWrite n ord (fun r => .store (x.datum n (r.tid, r.th))))
      (lowLines (x.w.md.getLsbD 7) t rs)) := by
  intro n m ord y hc hout hg
  have hsend (z : Ctx) : x.accesses s m n needW true false (fun rs t =>
      .ok (rs.foldl (z.startWrite n ord (fun r => .store (x.datum n (r.tid, r.th)))) (lowLines (x.w.md.getLsbD 7) t rs))) =
      .ok (rs.foldl (z.startWrite n ord (fun r => .store (x.datum n (r.tid, r.th)))) (lowLines (x.w.md.getLsbD 7) t rs)) :=
    accesses_eq hg
  simp only [storeBody, mdF_sz, mdF_ord, szBytes_eq]
  refine (of_no_cause hc).trans ?_
  by_cases hw : ord = .plain ∨ ord = .relaxed
  · obtain ⟨hwalk, hio⟩ := hout.resolve_left fun h => hw.elim h.1 h.2
    rw [show y = x.flagless from if_pos hw]
    exact (if_neg (weak_not_strong hw)).trans ((if_neg (Bool.not_eq_true _ ▸ hwalk)).trans ((if_pos hio).trans (hsend x.flagless)))
  · rw [show y = x from if_neg hw]
    exact (if_pos (strong_of_not_weak hw)).trans (hsend x)

end

/-- Settles O24: the two ways of a store, by its order and by where it goes. -/
theorem storesComplete : Obligations.StoresComplete := by
  intro w s x scr n m ord i put hi hc
  have hrun (t : State) (hb : storeBody scr x s = .ok t) : exec i s = .next (moveOn x s t) := by
    cases scr <;> exact runThrum_ok hi hb
  have hw : x.w = w := by
    cases scr <;> exact (ctx?_word hi.ctx).1
  subst hw
  refine ⟨fun hweak hwalk hio hin => ⟨fun hroom => hrun _ ?_, fun s1 hfull h => hrun _ ?_⟩, fun rs t hout hg => hrun _ ?_⟩
  · exact (storeBody_buffers hc hweak hwalk hio hin).trans (if_neg (by simp [m] at hroom ⊢; exact hroom))
  · exact (storeBody_buffers hc hweak hwalk hio hin).trans ((if_pos hfull).trans (boundary_region h))
  · exact storeBody_goesOut hc hout hg

/-! ### Atomics (R178 to R181, R297) -/

theorem opcBytes_eq (opc : Nat) : opcBytes opc = atomWidth opc := by
  unfold opcBytes atomWidth
  split_ifs <;> omega
theorem atomRegs_eq (opc : Nat) : atomRegs opc = atomWidth opc / 4 := by
  unfold atomRegs atomWidth
  split_ifs <;> omega
theorem atomTag_eq (own : Nat) : ∀ opc, atomTag opc own = atomResultTag opc own
  | 0 | 1 | 2 | 3 | 4 | 5 | 6 | 7 | 8 | 9 | 10 | 11 | 12 | 13 => rfl
  | n + 14 => by simp [atomTag, atomResultTag]

theorem atomBody_eq {scr noReturn : Bool} {x : Ctx} {s t : State} {rs : List Ready} :
    let opc := x.w.md.toNat % 16
    let m : Mode := { scr := scr, wide := !scr && x.w.md.getLsbD 7 }
    let own (p : Nat × Thread) : Nat := srcTag x.w p.2 (laneOf p.1) x.w.c
    x.causes (x.accCause m (atomWidth opc) (fun p => tagOk p.2 x.w.c (atomWidth opc / 4) (atomReq opc) &&
      (x.w.d == 1023#10 || !badTag x.wg.fmt (atomResultTag opc (own p))))) = none →
    goesOut x s m (atomWidth opc) needRW true rs t → anyIO rs = false →
    atomBody scr noReturn x s = .ok (x.zeroOthers (atomWidth opc / 4) (fun p => atomResultTag opc (own p))
      (rs.foldl (x.startWrite (atomWidth opc) (atomOrd (x.w.md.toNat / 16 % 8)) (fun r =>
        .rmw opc (x.atomVal (r.tid, r.th) opc) (destOf x.w.d) (atomResultTag opc (own (r.tid, r.th))) noReturn)) t)) := by
  intro opc m own hc hg hio
  simp only [atomBody, mdF_low4, mdF_atomOrd, opcBytes_eq, atomRegs_eq, atomTag_eq]
  exact (of_no_cause hc).trans (rmw_eq hg hio)

theorem casBody_eq {scr : Bool} {x : Ctx} {s t : State} {rs : List Ready} :
    let wide := x.w.md.getLsbD 0
    let n := if wide then 8 else 4
    let m : Mode := { scr := scr, wide := !scr && x.w.md.getLsbD 7 }
    let own (p : Nat × Thread) : Nat := srcTag x.w p.2 (laneOf p.1) x.w.c
    x.causes (x.accCause m n (fun p => x.w.d == 1023#10 || !badTag x.wg.fmt (own p))) = none →
    goesOut x s m n needRW true rs t → anyIO rs = false →
    casBody scr x s = .ok (x.zeroOthers (n / 4) own
      (rs.foldl (x.startWrite n (atomOrd (x.w.md.toNat / 16 % 8)) (fun r =>
        let v := casParts wide x (r.tid, r.th)
        .cas wide v.1 v.2 (destOf x.w.d) (own (r.tid, r.th)))) t)) := by
  intro wide n m own hc hg hio
  have hregs : (if mdB x.w 0 = true then 2 else 1) = (if mdB x.w 0 = true then 8 else 4) / 4 := by split <;> rfl
  simp only [casBody, mdF_atomOrd, hregs]
  exact (of_no_cause hc).trans (rmw_eq hg hio)

theorem sigdecBody_eq {x : Ctx} {s t : State} {rs : List Ready} :
    let y : Ctx := { x with w := { x.w with b := 1022#10 } }
    let m : Mode := { scr := false, wide := true }
    y.causes (y.accCause m 8 (fun p => tagOk p.2 x.w.b 1 (fun t => decide (t ≤ 2)))) = none →
    goesOut y s m 8 needRW true rs t → anyIO rs = false →
    sigdecBody x s = .ok (rs.foldl (y.startWrite 8 .release (fun r =>
      .sigdec (x.src (r.tid, r.th) x.w.b) (destOf x.w.d))) t) := by
  intro y m hc hg hio
  unfold sigdecBody
  exact (of_no_cause hc).trans (rmw_eq hg hio)

/-- Settles O25: each atomic is a read-modify-write of its target, none of them on an I/O page. -/
theorem atomicsComplete : Obligations.AtomicsComplete := by
  refine ⟨fun w s t x rs i sg scr noReturn hmem hi hc hg hio => ?_,
    fun w s t x rs scr hi hc hg hio => ?_, fun w s t x rs hi hc hg hio => ?_⟩
  · obtain ⟨rfl, -⟩ := ctx?_word hi.ctx
    simp only [List.mem_cons, List.not_mem_nil, or_false, Prod.mk.injEq] at hmem
    rcases hmem with ⟨rfl, rfl, rfl, rfl⟩ | ⟨rfl, rfl, rfl, rfl⟩ | ⟨rfl, rfl, rfl, rfl⟩
    all_goals exact runThrum_ok hi (atomBody_eq hc hg hio)
  · cases scr
    all_goals
      obtain ⟨rfl, -⟩ := ctx?_word hi.ctx
      exact runThrum_ok hi (casBody_eq hc hg hio)
  · obtain ⟨rfl, -⟩ := ctx?_word hi.ctx
    exact runThrum_ok hi (sigdecBody_eq hc hg hio)

/-! ### Hints and fences (R177, R182, R321) -/

theorem hintBody_eq {x : Ctx} {s : State} (one : Ctx → State → Nat × Thread → State)
    (ht : ∀ p ∈ x.active, addrTagsOk x.w p.2 (x.w.md.getLsbD 6) = true)
    (hw : x.walkWaits { scr := false, wide := x.w.md.getLsbD 6 } s = false) :
    hintBody one x s = .ok (x.active.foldl (one x) s) := by
  have hc : x.causes (fun p => if addrTagsOk x.w p.2 (mdB x.w 6) then none else some .format) = none :=
    causes_eq_none.2 fun p hp => if_pos (ht p hp)
  have hw' : x.walkWaits { scr := false, wide := mdB x.w 6 } s = false := hw
  simp only [hintBody, hc, hw']
  rfl

/-- A wait for earlier accesses that are done is two boundaries. -/
theorem waitDone_region {x : Ctx} {s s1 : State} {done k} (h : s.commit x.gid = .ok s1)
    (hd : ∀ p ∈ x.active, done (region x s1 x.g.pc) (x.ref p.1) = true) :
    x.waitDone s done k = k (region x (region x s1 x.g.pc) x.next) := waitDone_eq h hd

/-- Settles O26: the hints fold over their threads, and the fences wait or mark. -/
theorem hintsAndFencesComplete : Obligations.HintsAndFencesComplete := by
  refine ⟨fun w s x ht hw => ⟨fun hi => ?_, fun hi => ?_⟩, fun w s s1 x hi h => ⟨fun hm hd => ?_, fun hm => ?_, fun hm hd => ?_⟩,
    fun w s s1 x hi h hd => runThrum_ok hi (waitDone_region h hd)⟩
  all_goals
    obtain ⟨rfl, -⟩ := ctx?_word hi.ctx
    refine runThrum_ok hi ?_
  · exact hintBody_eq Ctx.prefetch ht hw
  · exact hintBody_eq Ctx.evict ht hw
  · simp only [fenceBody, mdF_low2, hm]
    exact waitDone_region h hd
  · simp only [fenceBody, mdF_low2, hm]
    exact boundary_region h
  · rcases hm with hm | hm
    all_goals
      simp only [fenceBody, mdF_low2, hm]
      exact waitDone_region h hd

end Sys2Proof.Laws
end

section
/-! SUPPORT. Copies and picot instructions complete (R184, R185, R201 to R204). -/

namespace Sys2Proof.Laws

open Sys2Proof.Machine Sys2Proof.Spec

/-! ### Copies (R184) -/

/-- Where every thread's copy can be made and the engine has room, the copies follow the region. -/
theorem copyBody_eq {plan : Ctx → Nat × Thread → State → PlanRes} {x : Ctx} {s s1 : State} {ps : List (Nat × CopyPlan)} {tensor : Bool}
    (hp : x.active.map (fun p => (p.1, plan x p s)) = ps.map (fun q => (q.1, PlanRes.ok q.2)))
    (hroom : (s.copies.filter (fun p => p.2.core == x.g.core)).length + x.active.length ≤ 256) (h : s.commit x.gid = .ok s1) :
    copyBody plan x s tensor = .ok (x.zeroOthers 1 (fun _ => 2)
      (ps.foldl x.startCopy (if tensor then x.sawRecords (region x s1 x.next) else region x s1 x.next))) := by
  have hfits : x.copyRoom s = true := decide_eq_true hroom
  have hnone : ∀ {β : Type} {f : Nat × PlanRes → Option β}, (∀ i q, f (i, .ok q) = none) →
      (ps.map fun q => (q.1, PlanRes.ok q.2)).filterMap f = [] := fun hf =>
    List.filterMap_eq_nil_iff.2 fun q hq => by
      obtain ⟨p, -, rfl⟩ := List.mem_map.1 hq
      exact hf p.1 p.2
  have hno : ∀ {β : Type} {f : Nat × PlanRes → Option β}, (∀ i q, f (i, .ok q) = none) →
      (ps.map fun q => (q.1, PlanRes.ok q.2)).findSome? f = none := fun hf =>
    List.findSome?_eq_none_iff.2 fun q hq => by
      obtain ⟨p, -, rfl⟩ := List.mem_map.1 hq
      exact hf p.1 p.2
  have hwait : (ps.map fun q => (q.1, PlanRes.ok q.2)).any (fun q => q.2 == .wait) = false := by
    simp only [List.any_map, List.any_eq_false]
    exact fun q _ => by simp
  have hplans : ∀ {f : Nat × PlanRes → Option (Nat × CopyPlan)}, (∀ i c, f (i, .ok c) = some (i, c)) →
      (ps.map fun q => (q.1, PlanRes.ok q.2)).filterMap f = ps := fun hf => by
    rw [List.filterMap_map]
    exact (List.filterMap_congr fun q _ => hf q.1 q.2).trans List.filterMap_some
  unfold copyBody
  simp only [hp]
  rw [hnone fun _ _ => rfl, hnone fun _ _ => rfl, hno fun _ _ => rfl, hwait, hplans fun _ _ => rfl, hfits, Bool.not_true, Bool.and_false]
  simp only [pickTrap_nil, Bool.false_eq_true, if_false]
  exact boundary_region h

/-- Settles O27: each of the seven is `copyBody` with its own plan. -/
theorem copiesComplete : Obligations.CopiesComplete := by
  intro i sg plan tensor hmem w s s1 x ps hi hp hroom h
  simp only [List.mem_cons, List.not_mem_nil, or_false, Prod.mk.injEq] at hmem
  rcases hmem with ⟨rfl, rfl, rfl, rfl⟩ | ⟨rfl, rfl, rfl, rfl⟩ | ⟨rfl, rfl, rfl, rfl⟩ | ⟨rfl, rfl, rfl, rfl⟩ |
    ⟨rfl, rfl, rfl, rfl⟩ | ⟨rfl, rfl, rfl, rfl⟩ | ⟨rfl, rfl, rfl, rfl⟩
  · exact runThrum_ok (body := copyBody planAcp) hi (copyBody_eq hp hroom h)
  · exact runThrum_ok (body := fun x t => copyBody (planTensor .tcp) x t true) hi (copyBody_eq hp hroom h)
  · exact runThrum_ok (body := fun x t => copyBody (planTensor .tmc) x t true) hi (copyBody_eq hp hroom h)
  · exact runThrum_ok (body := fun x t => copyBody (planTensor .tsf) x t true) hi (copyBody_eq hp hroom h)
  · exact runThrum_ok (body := fun x t => copyBody (planTensor .tst) x t true) hi (copyBody_eq hp hroom h)
  · exact runThrum_ok (body := fun x t => copyBody (planTensor .trst) x t true) hi (copyBody_eq hp hroom h)
  · exact runThrum_ok (body := copyBody planRcp) hi (copyBody_eq hp hroom h)

/-! ### Picots (R201 to R204) -/

/-- A picot instruction whose operands pass goes on. -/
theorem picotBody_eq {fs : List Fld} {more : Ctx → Nat × Thread → Option LaneFault} {go : Ctx → State → Res} {x : Ctx} {s : State}
    (h : picotsOk x fs) (hm : ∀ p ∈ x.active, more x p = none) : picotBody fs more go x s = go x s := by
  have hc : x.causes (x.picotCause fs (more x)) = none := causes_eq_none.2 fun p hp => by
    obtain ⟨htags, halign, -⟩ := h p hp
    have ht : fs.all (fun f => tagOk p.2 f 1 tINT) = true := List.all_eq_true.2 htags
    have ha : ¬ x.picot p % 16 ≠ 0 := not_not.2 halign
    simp only [Ctx.picotCause, ht, if_neg ha, hm p hp]
    rfl
  have hin : x.picotOut = none := List.find?_eq_none.2 fun p hp => by
    obtain ⟨-, -, hfit⟩ := h p hp
    have : x.picot p + 16 ≤ x.wg.ssize := hfit
    simpa using this
  simp only [picotBody, hc, hin]

/-- Settles O28: `pinit`, `parr` and `parrb` follow the region, `ptest` and `pwait` the updates of their threads. -/
theorem picotsComplete : Obligations.PicotsComplete := by
  refine ⟨fun w s s1 x hi hok h hrec => ?_, fun w s s1 x hi hok h => ?_, fun w s s1 x hi hok h => ?_,
    fun w s s1 x hok h hd => ⟨fun hi => ?_, fun hi hl => ?_, fun hi hl => ?_⟩⟩
  all_goals obtain ⟨rfl, -⟩ := ctx?_word hi.ctx
  · refine runThrum_ok hi ((picotBody_eq hok fun p hp => ?_).trans (boundary_region h))
    obtain ⟨hb, hc, hne⟩ := hrec p hp
    refine if_neg ?_
    rintro (hb' | hc' | ⟨hb0, hc0⟩)
    · exact absurd hb' (Nat.not_lt.2 hb)
    · exact absurd hc (Nat.not_lt.2 hc')
    · exact hne.elim (absurd hb0) (absurd hc0)
  · exact runThrum_ok hi ((picotBody_eq hok fun _ _ => rfl).trans (boundary_region h))
  · exact runThrum_ok hi ((picotBody_eq hok fun _ _ => rfl).trans (boundary_region h))
  · exact runThrum_ok hi ((picotBody_eq hok fun _ _ => rfl).trans (waitDone_region h hd))
  · refine runThrum_ok hi ((picotBody_eq hok fun _ _ => rfl).trans ((waitDone_region h hd).trans (if_pos ?_)))
    exact List.isEmpty_iff.2 hl
  · refine runThrum_ok hi ((picotBody_eq hok fun _ _ => rfl).trans ((waitDone_region h hd).trans (if_neg ?_)))
    exact fun he => hl (List.isEmpty_iff.1 he)

end Sys2Proof.Laws
end

section
/-! SUPPORT. Convergence registers count, signatures and the operations of the units complete (R107 to R123, R227 to R232). -/

namespace Sys2Proof.Laws

open Sys2Proof.Machine Sys2Proof.Spec

/-! ### Counting signatures (R108, R123) -/

/-- A signature that agrees with the buffered one, with more still to come, is only counted. -/
theorem countOne_below {ahead w epi flag} {r : Conv} {tid : Nat} {b : SigBuf} (hbuf : r.buf = none ∨ r.buf = some b)
    (hp : 1 < r.pend) :
    countOne ahead w epi flag { conv := r } tid b =
      { conv := { r with buf := some b, pend := r.pend - 1, signers := r.signers ++ [(tid, flag)] } } := by
  rcases hbuf with h | h <;> simp [countOne, h, hp]

/-- Agreeing signatures, fewer than are still to come, leave a register that has counted them. -/
theorem foldl_countOne_below {ahead w epi flag} {sign : Nat × Thread → SigBuf} {b : SigBuf} {ps : List (Nat × Thread)} {r : Conv}
    (hsign : ∀ p ∈ ps, sign p = b) (hbuf : r.buf = none ∨ r.buf = some b) (hne : ps ≠ []) (hlen : ps.length < r.pend) :
    ps.foldl (fun c p => countOne ahead w epi flag c p.1 (sign p)) { conv := r } =
      { conv := { r with buf := some b, pend := r.pend - ps.length, signers := r.signers ++ ps.map (fun p => (p.1, flag)) } } := by
  induction ps generalizing r with
  | nil => exact absurd rfl hne
  | cons p ps ih =>
    rw [List.length_cons] at hlen
    rw [List.foldl_cons, hsign p List.mem_cons_self, countOne_below hbuf (by omega)]
    cases ps with
    | nil => rfl
    | cons q qs =>
      rw [ih (fun p hp => hsign p (List.mem_cons_of_mem _ hp)) (.inr rfl) nofun (show _ < r.pend - 1 by omega)]
      simp only [List.map_cons, List.append_assoc, List.cons_append, List.nil_append, List.length_cons, Nat.sub_sub,
        Nat.add_comm 1]

/-- Settles O29: no thread raises a cause of `cinit`; the count is an induction over the signatures. -/
theorem convergenceRegistersCount : Obligations.ConvergenceRegistersCount := by
  refine ⟨fun w s x hi hbuf hall => ?_, fun op x s t b hsign => ?_⟩
  · obtain ⟨rfl, -⟩ := ctx?_word hi.ctx
    refine runThrum_ok hi (of_no_cause (causes_eq_none.2 fun p hp => ?_))
    obtain ⟨htag, hlo, hhi, hthr⟩ := hall p hp
    have htag' : tagOk p.2 x.w.a 1 tINT = true := (Bool.and_true _).symm.trans htag
    have hcount : ¬ ((x.src p x.w.a).toNat = 0 ∨ 2048 < (x.src p x.w.a).toNat ∨ x.wg.nthr < (x.src p x.w.a).toNat) := by
      change 1 ≤ (x.src p x.w.a).toNat at hlo
      change (x.src p x.w.a).toNat ≤ 2048 at hhi
      change (x.src p x.w.a).toNat ≤ x.wg.nthr at hthr
      omega
    simp only [cinitCause, htag', hbuf, if_neg hcount]
    rfl
  · intro r hbuf hne hlen
    exact foldl_countOne_below hsign hbuf hne hlen

/-! ### Signatures (R107 to R115, R248) -/

section
variable {op : Nat} {x : Ctx} {s s1 : State}

/-- Without an executing thread a signature is a region boundary. -/
theorem signBody_of_none (ha : x.active = []) (h : s.commit x.gid = .ok s1) : signBody op x s = .ok (region x s1 x.next) := by
  have hc : x.causes (x.sigCause op) = none := causes_eq_none.2 fun p hp => absurd hp (ha ▸ List.not_mem_nil)
  have hno : (if x.g.signed.isEmpty then x.causes (x.sigCause op) else none) = none := by rw [hc, ite_self]
  unfold signBody
  refine (of_no_cause hno).trans ?_
  rw [ha]
  exact regionBody_eq h

/-- The signers whose scratchpad writes an operation with an epilogue record waits for (R112). -/
def signersOf (x : Ctx) (c : Count) : List Nat :=
  c.ops.flatMap (fun q => q.2.2.2.map Prod.fst) ++ (if c.fail.isSome then c.conv.signers.map Prod.fst else []) ++ x.g.tids

/-- The state once the operations are queued, the count stored and the flags raised. -/
def signed (op : Nat) (x : Ctx) (s t : State) : State :=
  let c := counts op x s t
  let queued := c.ops.foldl x.putOp
    (if op = 0x2C6 ∧ x.w.c ≠ fZero then t.passSigners x.wid (signersOf x (counts op x s s)) t.nextId else t)
  (x.update (queued.modWg x.wid (fun v => { v with conv := tset v.conv x.w.d.toNat c.conv })) (fun i th =>
    if x.active.any (fun p => p.1 == i) then th.flagUp x.flag else th)).modGroup x.gid
      (fun g => { g with rstart := x.next, signed := [] })

/-- A count whose operations pass their checks at issue goes on. -/
theorem of_no_failure {o : Option (Nat × LaneFault)} {f : Nat → LaneFault → Res} {r : Res} : o = none →
    (match o with
      | some (i, e) => f i e
      | none => r) = r := by
  rintro rfl
  rfl

/-- Where all threads may sign at once, each full count queues its operation. -/
theorem signBody_eq (hc : x.causes (x.sigCause op) = none) (ha : x.active ≠ []) (h : s.commit x.gid = .ok s1)
    (hs : x.g.signed = []) (hsg : s.signing x.g.core x.wg.fn x.gid = false) (hh : s.haltAsked x.wid = false)
    (hm : (counts op x s s).mism = []) (hroom : (counts op x s s).ops.length ≤ (s.core x.g.core).arrayFree x.wg.fn)
    (hf : (counts op x s (region x s1 x.g.pc)).fail = none)
    (hp : op = 0x2C6 → x.w.c ≠ fZero → (region x s1 x.g.pc).signerPending x.wid (signersOf x (counts op x s s))
        (region x s1 x.g.pc).nextId = false ∧
      ∀ q ∈ (counts op x s (region x s1 x.g.pc)).ops,
        (region x s1 x.g.pc).scrIsPois x.g.core (x.wg.sbase + q.1.vc.toNat) 16 = false) :
    signBody op x s = .ok (signed op x s (region x s1 x.g.pc)) := by
  have hno : (if x.g.signed.isEmpty then x.causes (x.sigCause op) else none) = none := by rw [hc, ite_self]
  have htodo : x.active.filter (fun p => !x.g.signed.contains p.1) = x.active :=
    List.filter_eq_self.2 fun p _ => by simp [hs]
  have hnow : signNow (fun ps => (List.foldl (fun c p => countOne (fun ops => aheadOf (s.core x.g.core) x.wg.fn x.wid x.wg
      ((s.core x.g.core).opq ++ ops.map (x.arrOp 0))) x.wg (x.epiAt s) x.flag c p.1 (x.signature op p))
      { conv := x.wg.creg x.w.d.toNat } ps).ops.length) ((s.core x.g.core).arrayFree x.wg.fn) x.active = x.active := if_pos hroom
  have hpend : ¬ (op = 0x2C6 ∧ x.w.c ≠ fZero ∧ (region x s1 x.g.pc).signerPending x.wid (signersOf x (counts op x s s))
      (region x s1 x.g.pc).nextId = true) := fun ⟨h1, h2, h3⟩ => by rw [(hp h1 h2).1] at h3; exact Bool.false_ne_true h3
  have hpois : (counts op x s (region x s1 x.g.pc)).ops.any (fun q => op == 0x2C6 && x.w.c != fZero &&
      (region x s1 x.g.pc).scrIsPois x.g.core (x.wg.sbase + q.1.vc.toNat) 16) = false := by
    refine List.any_eq_false.2 fun q hq hq' => ?_
    simp only [Bool.and_eq_true, beq_iff_eq, bne_iff_ne] at hq'
    obtain ⟨⟨h1, h2⟩, h3⟩ := hq'
    rw [(hp h1 h2).2 q hq] at h3
    exact Bool.false_ne_true h3
  unfold signBody
  refine (of_no_cause hno).trans ?_
  simp only [isEmpty_active ha, hsg, hh, Bool.or_self, Bool.false_eq_true, if_false, htodo, hnow]
  have hmism : pickTrap ((counts op x s s).mism.map fun i => (i, LaneFault.conv 2)) = none := by rw [hm]; rfl
  refine (of_no_cause hmism).trans ?_
  rw [boundary_region h]
  refine (if_neg hpend).trans ?_
  refine (of_no_failure hf).trans ?_
  refine (if_neg (Bool.not_eq_true _ ▸ hpois)).trans (if_pos ?_)
  simp

end

/-- Settles O30: each of the nine is `signBody` with its own operation. -/
theorem signaturesComplete : Obligations.SignaturesComplete := by
  intro i sg op hmem
  simp only [List.mem_cons, List.not_mem_nil, or_false, Prod.mk.injEq] at hmem
  have hexec : ∀ w s, exec (i w) s = runThrum (sg w) w [] (signBody op) s := by
    rcases hmem with ⟨rfl, rfl, rfl⟩ | ⟨rfl, rfl, rfl⟩ | ⟨rfl, rfl, rfl⟩ | ⟨rfl, rfl, rfl⟩ | ⟨rfl, rfl, rfl⟩ | ⟨rfl, rfl, rfl⟩ |
      ⟨rfl, rfl, rfl⟩ | ⟨rfl, rfl, rfl⟩ | ⟨rfl, rfl, rfl⟩
    all_goals exact fun _ _ => rfl
  refine ⟨fun w s s1 x hi ha _ h => ?_, fun w s s1 x hi hc ha h => ?_⟩
  · exact (hexec w s).trans (runThrum_ok hi (signBody_of_none ha h))
  · intro t c c0 signers hs hsg hh hm hroom hf hp
    obtain ⟨rfl, -⟩ := ctx?_word hi.ctx
    exact (hexec x.w s).trans (runThrum_ok hi (signBody_eq hc ha h hs hsg hh hm hroom hf hp))

/-! ### Threads that all answer (R37, R227 to R232) -/

/-- Where every thread's check answers, a body goes on with the values. -/
theorem settle_of_answered {α : Type} {x : Ctx} {s : State} {vs : List (Nat × α)} {go : List (Nat × α) → Res} :
    x.settle s (vs.map fun q => (q.1, Answer.ok q.2)) go = go vs := by
  have hwait : (vs.map fun q => (q.1, Answer.ok q.2)).any (fun q => q.2.waits) = false := by
    simp only [List.any_map, List.any_eq_false]
    exact fun _ _ => Bool.false_ne_true
  have hrank : (vs.map fun q => (q.1, Answer.ok q.2)).filterMap (fun q => q.2.rank?) = [] :=
    List.filterMap_eq_nil_iff.2 fun q hq => by
      obtain ⟨p, -, rfl⟩ := List.mem_map.1 hq
      rfl
  have hvals : ∀ {f : Nat × Answer α → Option (Nat × α)}, (∀ i a, f (i, .ok a) = some (i, a)) →
      (vs.map fun q => (q.1, Answer.ok q.2)).filterMap f = vs := fun hf => by
    rw [List.filterMap_map]
    exact (List.filterMap_congr fun q _ => hf q.1 q.2).trans List.filterMap_some
  simp only [Ctx.settle, hwait, hrank, Bool.false_eq_true, if_false, List.min?_nil]
  rw [hvals fun _ _ => rfl]

/-- The same for the answers of the executing threads. -/
theorem settle_answers {α : Type} {x : Ctx} {s t : State} {f : State → Nat × Thread → Answer α} {vs : List (Nat × α)}
    {go : List (Nat × α) → Res} (h : answered x (f t) vs) : x.settle s (x.answers t f) go = go vs := by
  rw [Ctx.answers, show x.active.map (fun p => (p.1, f t p)) = _ from h, settle_of_answered]

/-- A unit's operations whose records pass are handed over. -/
theorem unitBody_eq {one : Ctx → State → Nat × Thread → Answer UnitOut} {x : Ctx} {s s1 : State} {os : List (Nat × UnitOut)}
    (h : s.commit x.gid = .ok s1)
    (hp : (region x s1 x.g.pc).signerPending x.wid (x.active.map Prod.fst) (region x s1 x.g.pc).nextId = false)
    (ho : answered x (one x (region x s1 x.g.pc)) os) :
    unitBody one x s = .ok (region x (os.foldl x.startUnit ((region x s1 x.g.pc).passSigners x.wid (os.map Prod.fst)
      (region x s1 x.g.pc).nextId)) x.next) := by
  rw [unitBody, boundary_region h, hp, settle_answers ho]
  rfl

/-- Settles O31: `rast` is `unitBody`, `trav` the same with free values set aside. -/
theorem unitsComplete : Obligations.UnitsComplete := by
  refine ⟨fun w s s1 x os hi h hp ho => runThrum_ok hi (unitBody_eq h hp ho), fun w s s1 x os hi h hp ho => runThrum_ok hi ?_⟩
  rw [travBody, unitBody_eq h hp ho]

end Sys2Proof.Laws
end

section
/-! SUPPORT. `launch`, `role`, `bmsg` and the system registers (R292 to R298, R364, R387 to R390). -/

namespace Sys2Proof.Laws

open Sys2Proof.Machine Sys2Proof.Spec

/-! ### Launches, roles and messages (R292 to R298, R364) -/

/-- A plain instruction whose executing threads pass its checks gives the values of a statement, where checks, tag and values agree
in this context. -/
theorem aluBody_plainAlu {n : Nat} {reqs : Lane → Bool} {tg : Lane → Nat} {f : Lane → List W32} {x : Ctx} {s : State}
    {ok : Nat → Thread → Bool} {tag : Nat → Thread → Nat} {v : Nat → Thread → List W32} (hn : n ≠ 0)
    (hl : ∀ i th, (v i th).length = n) (hr : ∀ i th, reqs ⟨x, i, th⟩ = ok i th) (ht : ∀ i th, tg ⟨x, i, th⟩ = tag i th)
    (hv : ∀ i th, f ⟨x, i, th⟩ = v i th) (hok : ∀ p ∈ x.active, ok p.1 p.2 = true)
    (hb : ∀ i th, badTag x.wg.fmt (tag i th) = false) :
    aluBody (plainAlu n reqs tg f) x s = .ok (x.update s (gives x ok tag v)) := by
  have hthread : (plainAlu n reqs tg f).thread x = gives x ok tag v := by
    funext i th
    rw [plainAlu_thread hn (by rw [hv, hl])]
    simp only [hr, ht, hv]
  rw [aluBody_eq (causes_eq_none.2 fun p hp => ?_), hthread]
  refine fault_of_lane_ok (lane_ok (plainAlu_eval_ok ((hr ..).trans (hok p hp))) (.inr (.inr ?_)))
  exact (congrArg _ (ht ..)).trans (hb ..)

/-- Settles O33: `launch` waits for its threads between two checks, `role` writes after a boundary, `bmsg` waits for its threads. -/
theorem launchRoleAndMessagesComplete : Obligations.LaunchRoleAndMessagesComplete := by
  refine ⟨fun w s s1 x us qs hi hu h hq => runThrum_ok hi ?_, fun w s s1 x hi h => runThrum_ok hi ?_,
    fun w s s1 x hi h hall hroom => runThrum_ok hi ?_⟩
  · rw [launchBody, settle_answers hu, waitDone_region h.1 h.2]
    exact settle_answers hq
  · rw [roleBody, boundary_region h]
    exact aluBody_plainAlu one_ne_zero (fun _ _ => rfl) (fun _ _ => rfl) (fun _ _ => rfl) (fun _ _ => rfl) (fun _ _ => rfl)
      fun _ _ => rfl
  · obtain ⟨rfl, -⟩ := ctx?_word hi.ctx
    have hgood : x.active.takeWhile (fun p => decide ((x.src p x.w.b).toNat < Config.numClusters)) = x.active :=
      List.takeWhile_eq_self_iff.2 fun p hp => decide_eq_true (hall p hp).2
    have htag : x.causes (fun p => if tagOk p.2 x.w.b 1 tINT then none else some .format) = none :=
      causes_eq_none.2 fun p hp => if_pos ((Bool.and_true _).symm.trans (hall p hp).1)
    have hfits : ¬ Config.msgQueue < s.msgsOf x.g.core + x.active.length := Nat.not_lt.2 hroom
    unfold bmsgBody
    refine (of_no_cause htag).trans ?_
    simp only [hgood, if_neg hfits]
    rw [waitDone_region h.1 h.2, List.drop_length]
    rfl

end Sys2Proof.Laws
end

section
/-! SUPPORT. System registers, format and overflow tables, migrations (R101 to R103, R314 to R319, R387 to R390). -/

namespace Sys2Proof.Laws

open Sys2Proof.Machine Sys2Proof.Spec

/-! ### Reading system registers and counters (R387, R389, R390) -/

/-- The registers of 64 bits (Table 14.11). -/
theorem sysWide_eq (w : TWord) : sysWide w = decide (w.a.toNat ∈ [0x02, 0x03, 0x0B, 0x13, 0x18, 0x1A, 0x21, 0x22]) := by
  have hany : sysWide w = (sysReg? w.a.toNat).any SysReg.wide := by
    unfold sysWide
    cases sysReg? w.a.toNat <;> rfl
  rw [hany, sysReg?]
  generalize w.a.toNat = n
  simp only [apply_ite (Option.any SysReg.wide), Option.any_some, Option.any_none, List.mem_cons, List.not_mem_nil, or_false]
  split_ifs
  all_goals
    simp only [eq_comm (a := true), eq_comm (a := false), decide_eq_true_iff, decide_eq_false_iff_not]
    omega

section
variable {x : Ctx} {s : State} {n i : Nat} {th : Thread}

theorem sysValue_eq (h1 : n ≠ 0x01) (h5 : n ≠ 0x05) : x.sysValue s n i th = sysRegister x s i th n := by
  unfold Ctx.sysValue
  split
  case h_2 => exact absurd rfl h1
  case h_6 => exact absurd rfl h5
  case h_28 =>
    unfold sysRegister
    split
    case h_28 => rfl
    all_goals contradiction
  all_goals rfl

theorem truncate_zeroExtend_ofNat (v : Nat) :
    (((BitVec.ofNat 32 v).zeroExtend 64 : W64).truncate 32 : W32) = (BitVec.ofNat 64 v).truncate 32 := by
  apply BitVec.eq_of_toNat_eq
  simp

/-- The low word: `sys.core` and `sys.tenant` are 32 bits wide in the model, and equal there. -/
theorem lo32_sysValue : lo32 (x.sysValue s n i th) = (sysRegister x s i th n).truncate 32 := by
  by_cases h1 : n = 0x01
  · subst h1
    exact truncate_zeroExtend_ofNat _
  by_cases h5 : n = 0x05
  · subst h5
    exact truncate_zeroExtend_ofNat _
  rw [sysValue_eq h1 h5]
  rfl

end

/-- What `sysr` writes. -/
theorem sysr_vals {x : Ctx} {s : State} {w : TWord} {i : Nat} {th : Thread} :
    (if sysWide w then pairOf (x.sysValue s w.a.toNat i th) else [lo32 (x.sysValue s w.a.toNat i th)]) =
      let v := sysRegister x s i th w.a.toNat
      if w.a.toNat ∈ [0x02, 0x03, 0x0B, 0x13, 0x18, 0x1A, 0x21, 0x22] then [v.truncate 32, v.extractLsb' 32 32]
      else [v.truncate 32] := by
  rw [sysWide_eq, pairOf, lo32_sysValue]
  by_cases hw : w.a.toNat ∈ [0x02, 0x03, 0x0B, 0x13, 0x18, 0x1A, 0x21, 0x22]
  · have h1 : w.a.toNat ≠ 0x01 := by rintro h; simp [h] at hw
    have h5 : w.a.toNat ≠ 0x05 := by rintro h; simp [h] at hw
    simp only [hw, decide_true, if_true, sysValue_eq h1 h5]
    rfl
  · simp only [hw, decide_false, if_false]
    rfl

/-- Settles O34: both are plain instructions of the register-to-register frame. -/
theorem sysrAndCtrrResults : Obligations.SysrAndCtrrResults := by
  refine ⟨fun w s x hi hq => runThrum_ok hi ?_, fun w s x hi hok => ?_⟩
  · have hquiet : ¬ (w.a = 0x11#10 ∧ x.active.any (fun p => !s.threadQuiet (x.ref p.1)) = true) := by
      rintro ⟨ha, hany⟩
      obtain ⟨p, hp, hn⟩ := List.any_eq_true.1 hany
      simp [hq ha p hp] at hn
    rw [sysrBody, if_neg hquiet]
    refine aluBody_plainAlu (by split <;> decide) (fun i th => ?_) (fun _ _ => rfl) (fun _ _ => rfl) (fun _ _ => sysr_vals)
      (fun _ _ => rfl) fun _ _ => rfl
    simp only [sysWide_eq, decide_eq_true_eq]
    split <;> rfl
  · obtain ⟨rfl, -⟩ := ctx?_word hi.ctx
    have hcounter : ∀ n, x.counter s n = if 10 ≤ n then 0#64 else tgetD (s.core x.g.core).ctr (16 * x.wg.fn + n) 0#64 := fun n => by
      simp only [Ctx.counter, ← Nat.not_lt, ite_not]
    refine runThrum_ok (body := fun y t => aluBody (ctrrDef t x.w) y t) hi ?_
    exact aluBody_plainAlu (ok := ints (fun w => [w.a]) x) (tag := tagU32 x) two_ne_zero (fun _ _ => rfl)
      (fun _ _ => (Bool.and_true _).symm) (fun _ _ => rfl) (fun _ _ => congrArg pairOf (hcounter _)) hok fun _ _ => rfl

/-! ### The executing thread of the highest home lane -/

/-- The choice of the highest lane, from a thread of a lower lane or none. -/
theorem foldl_highest {h : Nat × Thread} {l : List (Nat × Thread)} {b : Option (Nat × Thread)}
    (hl : ∀ q ∈ l, q ≠ h → laneOf q.1 < laneOf h.1) (hb : b = some h ∨ h ∈ l ∧ ∀ q ∈ b, laneOf q.1 < laneOf h.1) :
    l.foldl (fun b p => match b with
      | some q => if laneOf q.1 < laneOf p.1 then some p else b
      | none => some p) b = some h := by
  induction l generalizing b with
  | nil => exact hb.elim id fun hn => absurd hn.1 List.not_mem_nil
  | cons p l ih =>
    refine ih (fun q hq => hl q (List.mem_cons_of_mem _ hq)) ?_
    have hp : p ≠ h → laneOf p.1 < laneOf h.1 := hl p List.mem_cons_self
    rcases hb with rfl | ⟨hm, hlow⟩
    · left
      have : ¬ laneOf h.1 < laneOf p.1 := fun hlt => by
        by_cases he : p = h
        · simp [he] at hlt
        · exact absurd (hp he) (Nat.not_lt.2 hlt.le)
      simp [this]
    · by_cases he : p = h
      · left
        subst he
        cases b with
        | none => rfl
        | some q => exact if_pos (hlow q rfl)
      · right
        refine ⟨(List.mem_cons.1 hm).resolve_left (Ne.symm he), fun q hq => ?_⟩
        cases b with
        | none =>
          obtain rfl : p = q := Option.some.inj hq
          exact hp he
        | some r =>
          by_cases hlt : laneOf r.1 < laneOf p.1
          · simp only [hlt, if_true, Option.mem_some_iff] at hq
            exact hq ▸ hp he
          · simp only [hlt, if_false, Option.mem_some_iff] at hq
            exact hlow q (congrArg some hq)

theorem highest_eq {x : Ctx} {h : Nat × Thread} (hh : highest x h) : x.highest = some h :=
  foldl_highest hh.2 (.inr ⟨hh.1, nofun⟩)

/-! ### Writing system registers (R388) -/

theorem syswBody_eq {w : TWord} {x : Ctx} {s : State} {h : Nat × Thread} (hh : highest x h)
    (ht : ∀ p ∈ x.active, tagOk p.2 w.b (if sysWide w then 2 else 1) tINT = true) :
    syswBody w x s = .ok ((x.updateActive s (fun i th => sysThread w.a.toNat (x.sysB (i, th)) th)).modWg x.wid
      (sysWg w.a.toNat (x.sysB h))) := by
  unfold syswBody
  refine (of_no_cause (causes_eq_none.2 fun p hp => if_pos (ht p hp))).trans ?_
  simp only [highest_eq hh]

/-- A register of a thread is none of the workgroup. -/
theorem sysWg_of_thread {n : Nat} (h : n < 0x14 ∨ n = 0x21) (v : W64) (u : Wg) : sysWg n v u = u := by
  unfold sysWg
  split
  case h_4 => rfl
  all_goals omega

theorem sysThread_of_wg {n : Nat} (h : 0x14 ≤ n) (h' : n ≤ 0x16) (v : W64) (th : Thread) : sysThread n v th = th := by
  unfold sysThread
  split
  case h_6 => rfl
  all_goals omega

theorem storeFpctl_lo32 (old : W32) (v : W64) : storeFpctl old (lo32 v) =
    ((v.truncate 32 : W32) &&& 0x18#32) |||
      (if v.toNat % 8 = 0 ∨ v.toNat % 8 = 7 then old &&& 7#32 else v.truncate 32 &&& 7#32) := by
  have hmod : fieldN (lo32 v).toNat 0 3 = v.toNat % 8 := by
    simp [fieldN_eq, lo32]
  simp only [storeFpctl, hmod]
  rfl

/-- Settles O35: the two updates of `syswBody`, register by register. -/
theorem syswWrites : Obligations.SyswWrites := by
  intro w s x h hi hh ht v
  have hw : w = x.w := (ctx?_word hi.ctx).1.symm
  have hv : ∀ p, x.sysB p = v p := fun p => by simp only [v, hw]; rfl
  refine ⟨_, _, runThrum_ok hi (syswBody_eq hh ht), fun ha i th => ?_, fun ha i th => ?_, fun ha i th => ?_, fun ha i th => ?_,
    fun ha i th => ?_, fun ha u => ?_, fun ha u => ?_, fun ha u => ?_, fun ha u => sysWg_of_thread ha _ u,
    fun hlo hhi i th => sysThread_of_wg hlo hhi _ th⟩
  all_goals rw [hv, ha]
  · exact congrArg (fun c => { th with fpctl := c }) (storeFpctl_lo32 th.fpctl (v (i, th)))
  · rfl
  · rfl
  · rfl
  · rfl
  · change { u with rfage := max 16 (min (lo32 (v h)).toNat 1024) } = _
    rw [lo32, BitVec.truncate, BitVec.toNat_setWidth]
  · rfl
  · rfl

/-! ### Tables and migrations (R101 to R103, R314 to R319) -/

theorem ldfmtBody_eq {x : Ctx} {s : State} {h : Nat × Thread} (hh : highest x h) (hs : s.signingPart x.wid = false)
    (hd : ∀ p ∈ x.active, descValid (val x p.1 p.2 x.w.a) = true) :
    ldfmtBody x s = .ok (s.modWg x.wid (fun v => { v with fmt := tset v.fmt (x.w.md.toNat % 64) (val x h.1 h.2 x.w.a) })) := by
  unfold ldfmtBody
  refine (if_neg (Bool.not_eq_true _ ▸ hs)).trans ((of_no_cause (causes_eq_none.2 fun p hp => if_pos (hd p hp))).trans ?_)
  simp only [highest_eq hh, tagField]
  rfl

theorem ldfmtClrBody_eq {x : Ctx} {s : State} (ha : x.active ≠ []) (hs : s.signingPart x.wid = false) :
    ldfmtClrBody x s = .ok (s.modWg x.wid (fun v => { v with fmt := terase v.fmt (x.w.md.toNat % 64) })) := by
  simp only [ldfmtClrBody, isEmpty_active ha, hs, Bool.false_eq_true, if_false, tagField]

theorem ldovfBody_eq {x : Ctx} {s : State} {h : Nat × Thread} (hh : highest x h) (hs : s.signingPart x.wid = false)
    (ho : ∀ p ∈ x.active, ovfBad (x.ovfOf p) = false) : ldovfBody x s = .ok (s.modWg x.wid (fun v => { v with ovf := x.ovfOf h })) := by
  unfold ldovfBody
  refine (if_neg (Bool.not_eq_true _ ▸ hs)).trans
    ((of_no_cause (causes_eq_none.2 fun p hp => if_neg (Bool.not_eq_true _ ▸ ho p hp))).trans ?_)
  simp only [highest_eq hh]

theorem migBody_eq {m : Bool} {x : Ctx} {s s1 : State}
    (ht : ∀ p ∈ x.active, ∀ f ∈ [x.w.a, x.w.b, x.w.c], tagOk p.2 f 2 tINT = true) (hm : ∀ q ∈ s.migs, q.2.core ≠ x.g.core)
    (h : s.commit x.gid = .ok s1) :
    migBody m x s = .ok (x.active.foldl (x.queueMig m) (region x s1 x.next)).startMigs := by
  have hc : x.causes (fun p => if tagOk p.2 x.w.a 2 tINT && tagOk p.2 x.w.b 2 tINT && tagOk p.2 x.w.c 2 tINT then none
      else some .format) = none := causes_eq_none.2 fun p hp => if_pos (by
    simp [ht p hp x.w.a (by simp), ht p hp x.w.b (by simp), ht p hp x.w.c (by simp)])
  have hfree : ¬ s.migs.any (fun p => p.2.core == x.g.core) = true := fun hany => by
    obtain ⟨q, hq, he⟩ := List.any_eq_true.1 hany
    exact hm q hq (by simpa using he)
  unfold migBody
  exact (of_no_cause hc).trans ((if_neg hfree).trans (boundary_region h))

/-- Settles O36: the tables are the highest lane's, the migrations follow the region. -/
theorem formatTablesAndMigrationsComplete : Obligations.FormatTablesAndMigrationsComplete := by
  refine ⟨fun w s x h hi hh hs hd => ?_, fun w s x hi ha hs => ?_, fun w s x h hi hh hs ho => ?_, fun w s s1 x m hi ht hm h => ?_⟩
  · obtain ⟨rfl, -⟩ := ctx?_word hi.ctx
    exact runThrum_ok hi (ldfmtBody_eq hh hs hd)
  · obtain ⟨rfl, -⟩ := ctx?_word hi.ctx
    exact runThrum_ok hi (ldfmtClrBody_eq ha hs)
  · exact runThrum_ok hi (ldovfBody_eq hh hs ho)
  · cases m
    all_goals
      obtain ⟨rfl, -⟩ := ctx?_word hi.ctx
      exact runThrum_ok hi (migBody_eq ht hm h)

end Sys2Proof.Laws
end

section
/-! SUPPORT. The instructions of a Bobbin core: arithmetic, control, memory, CSRs (R345, R346). -/

namespace Sys2Proof.Laws

open Sys2Proof.Machine Sys2Proof.Spec

/-! ### From a body's answer to the state after the instruction -/

section
variable {k len : Nat} {r : Invoc} {s t : State} {body : Nat → Bob → Invoc → State → BRes}

theorem runBobbin_eq (hi : Invokes k r s) : runBobbin len body s = match body k (s.bob k) r s with
    | .ok t => .next (retired k ((s.bob k).pc + BitVec.ofNat 32 len) t)
    | .jump npc t => .next (retired k npc t)
    | .stall x t => .next (t.modBob k (fun b => { b with run := b.run.map (fun i => { i with heldReq := x }) }))
    | .abort c t => .next (t.abortInvocation k c)
    | .fin => .next ((s.modBob k (fun b => { b with instret := b.instret + 1#64 })).endInvocation k)
    | .refuse e => .refused e := by
  have hgo : ¬ (s.bobPending k || r.ends.isSome) = true := by simp [hi.settled, hi.goes]
  simp only [runBobbin, hi.on, Bool.false_eq_true, if_false, hi.turn, hi.running, if_neg hgo]
  cases body k (s.bob k) r s <;> rfl

theorem runBobbin_ok (hi : Invokes k r s) (hb : body k (s.bob k) r s = .ok t) :
    runBobbin len body s = .next (retired k ((s.bob k).pc + BitVec.ofNat 32 len) t) := by rw [runBobbin_eq hi, hb]
theorem runBobbin_jump {pc : W32} (hi : Invokes k r s) (hb : body k (s.bob k) r s = .jump pc t) :
    runBobbin len body s = .next (retired k pc t) := by rw [runBobbin_eq hi, hb]
theorem runBobbin_abort {c : Nat} (hi : Invokes k r s) (hb : body k (s.bob k) r s = .abort c t) :
    runBobbin len body s = .next (t.abortInvocation k c) := by rw [runBobbin_eq hi, hb]
theorem runBobbin_fin (hi : Invokes k r s) (hb : body k (s.bob k) r s = .fin) :
    runBobbin len body s = .next ((s.modBob k (fun b => { b with instret := b.instret + 1#64 })).endInvocation k) := by
  rw [runBobbin_eq hi, hb]
theorem runBobbin_status {rd : BitVec 5} {v : W32} (hi : Invokes k r s) (hb : body k (s.bob k) r s = .status k rd v t) :
    runBobbin 4 body s = .next (gives32 k rd v s t) := runBobbin_ok hi hb

variable {i j : RvInstr}

/-- The same for a RISC-V instruction, which stands for `j` of `len` bytes. -/
theorem exec_rv_ok (hi : Invokes k r s) (hx : rvExpand i = (j, len)) (hb : rvBody len j k (s.bob k) r s = .ok t) :
    exec (.bobbinBase i) s = .next (retired k ((s.bob k).pc + BitVec.ofNat 32 len) t) := by
  change runBobbin (rvExpand i).2 (rvBody (rvExpand i).2 (rvExpand i).1) s = _
  rw [hx]
  exact runBobbin_ok hi hb
theorem exec_rv_jump {pc : W32} (hi : Invokes k r s) (hx : rvExpand i = (j, len))
    (hb : rvBody len j k (s.bob k) r s = .jump pc t) : exec (.bobbinBase i) s = .next (retired k pc t) := by
  change runBobbin (rvExpand i).2 (rvBody (rvExpand i).2 (rvExpand i).1) s = _
  rw [hx]
  exact runBobbin_jump hi hb
theorem exec_rv_abort {c : Nat} (hi : Invokes k r s) (hx : rvExpand i = (j, len))
    (hb : rvBody len j k (s.bob k) r s = .abort c t) : exec (.bobbinBase i) s = .next (t.abortInvocation k c) := by
  change runBobbin (rvExpand i).2 (rvBody (rvExpand i).2 (rvExpand i).1) s = _
  rw [hx]
  exact runBobbin_abort hi hb
theorem exec_rv_status {rd : BitVec 5} {v : W32} (hi : Invokes k r s) (hx : rvExpand i = (j, 4))
    (hb : rvBody 4 j k (s.bob k) r s = .status k rd v t) : exec (.bobbinBase i) s = .next (gives32 k rd v s t) :=
  exec_rv_ok hi hx hb

end

/-! ### Words and integers -/

theorem word_toNat (a : W32) : word (a.toNat : Int) = a := by rw [word, BitVec.ofInt_natCast, BitVec.ofNat_toNat, BitVec.setWidth_eq]
theorem word_toInt (a : W32) : word a.toInt = a := BitVec.ofInt_toInt
theorem word_add (a b : Int) : word (a + b) = word a + word b := BitVec.ofInt_add a b
theorem word_mul (a b : Int) : word (a * b) = word a * word b := BitVec.ofInt_mul a b
theorem word_natCast (n : Nat) : word (n : Int) = BitVec.ofNat 32 n := BitVec.ofInt_natCast 32 n
theorem word_ite (c : Prop) [Decidable c] (a b : Int) : word (if c then a else b) = if c then word a else word b := apply_ite word c a b

theorem shiftLeft_eq_word (a : W32) (n : Nat) : a <<< n = word (a.toNat * (2 ^ n : Nat)) := by
  rw [← Nat.cast_mul, word_natCast]
  apply BitVec.eq_of_toNat_eq
  rw [BitVec.toNat_shiftLeft, Nat.shiftLeft_eq, BitVec.toNat_ofNat]
/-- A quotient of words needs no truncation. -/
theorem word_div (a : W32) (n : Nat) {c : W32} (hc : c.toNat = a.toNat / n) : c = word ((a.toNat : Int) / n) := by
  rw [← Int.natCast_div, ← hc, word_toNat]
theorem ushiftRight_eq_word (a : W32) (n : Nat) : a >>> n = word ((a.toNat : Int) / (2 ^ n : Nat)) :=
  word_div a _ (by rw [BitVec.toNat_ushiftRight, Nat.shiftRight_eq_div_pow])
theorem umod_eq_word (a b : W32) : a % b = word ((a.toNat : Int) % b.toNat) := by
  rw [← Int.natCast_mod, ← BitVec.toNat_umod, word_toNat]
theorem sub_eq_word (a b : W32) : a - b = word (a.toInt - b.toInt) := by
  have hneg : word (-b.toInt) = -b := BitVec.ofInt_neg.trans (congrArg Neg.neg (word_toInt b))
  rw [Int.sub_eq_add_neg, word_add, word_toInt, hneg, BitVec.sub_eq_add_neg]

/-- The model's operations on words are those of the statements on integers. -/
theorem rvAlu_eq (op : RvAlu) (a b : W32) : rvAlu op a b = word (rv op a b) := by
  cases op
  case add => exact (congrArg₂ (· + ·) (word_toInt a) (word_toInt b)).symm.trans (word_add ..).symm
  case sub => exact sub_eq_word a b
  case sll => exact shiftLeft_eq_word a _
  case slt => simp only [rvAlu, rv, BitVec.slt_eq_decide, decide_eq_true_eq, word_ite]; rfl
  case sltu => simp only [rvAlu, rv, BitVec.ult_eq_decide, decide_eq_true_eq, word_ite]; rfl
  case xor => exact (word_toNat _).symm
  case srl => exact ushiftRight_eq_word a _
  case sra => exact (sshiftRight_eq_word a _).trans (by rw [← Nat.cast_ofNat (n := 2), ← Nat.cast_pow]; rfl)
  case or => exact (word_toNat _).symm
  case and => exact (word_toNat _).symm
  case mul => exact (congrArg₂ (· * ·) (word_toInt a) (word_toInt b)).symm.trans (word_mul ..).symm
  case mulh => rfl
  case mulhsu => rfl
  case mulhu => exact (word_natCast (a.toNat * b.toNat / 2 ^ 32)).symm
  case div => simp only [rvAlu, rv, word_ite]; rfl
  case divu => simp only [rvAlu, rv, word_ite, ← word_div a _ (BitVec.toNat_udiv (x := a) (y := b))]; rfl
  case rem => simp only [rvAlu, rv, word_ite, word_toInt]; rfl
  case remu => simp only [rvAlu, rv, word_ite, word_toNat, umod_eq_word]

/-! ### Displacements and targets -/

theorem append_zeros (x : BitVec 20) : x ++ 0#12 = word (x.toNat * 2 ^ 12 : Nat) := by
  rw [word_natCast]
  apply BitVec.eq_of_toNat_eq
  have hlt := x.isLt
  rw [BitVec.toNat_append, BitVec.toNat_ofNat, BitVec.toNat_ofNat, Nat.zero_mod, Nat.or_zero, Nat.shiftLeft_eq,
    Nat.mod_eq_of_lt (by omega)]
theorem dispOf_eq {n : Nat} (imm : BitVec n) (hn : n ≠ 0) : dispOf imm = word (2 * imm.toInt) := by
  simp [dispOf, BitVec.signExtend, BitVec.toInt_append, hn, word]
theorem add_word (a : W32) (v : Int) : a + word v = word (a.toNat + v) := by rw [word_add, word_toNat]
theorem add_signExtend {n : Nat} (a : W32) (imm : BitVec n) : a + imm.signExtend 32 = word (a.toNat + imm.toInt) :=
  add_word a imm.toInt

/-- A target with bit 0 cleared. -/
theorem clear_bit0 (v : Int) : word v &&& ~~~ 1#32 = word (v / 2 * 2) := by
  have hshift : word v &&& ~~~ 1#32 = word v >>> 1 <<< 1 := 
    (BitVec.shiftLeft_ushiftRight (x := word v) (n := 1)).symm
  rw [hshift]
  apply BitVec.eq_of_toNat_eq
  rw [BitVec.toNat_shiftLeft, BitVec.toNat_ushiftRight, word, BitVec.toNat_ofInt, word, BitVec.toNat_ofInt, Nat.shiftRight_eq_div_pow,
    Nat.shiftLeft_eq]
  omega

theorem rvCond_eq (c : RvCond) (a b : W32) : rvCond c a b = true ↔ match c with
    | .eq => a = b | .ne => a ≠ b | .lt => a.toInt < b.toInt | .ge => b.toInt ≤ a.toInt | .ltu => a.toNat < b.toNat
    | .geu => b.toNat ≤ a.toNat := by
  cases c <;> simp [rvCond, BitVec.slt_eq_decide, BitVec.ult_eq_decide]

/-- Settles O37: each body writes rd, jumps, or only retires. -/
theorem bobbinArithmeticAndControl : Obligations.BobbinArithmeticAndControl := by
  refine ⟨fun k r s hi => ⟨fun op rd rs1 rs2 => ?_, fun op rd rs1 imm => ?_, fun rd imm => ?_, fun rd imm => ?_,
    fun fm p q rs1 rd => exec_rv_ok hi rfl rfl⟩, fun k r s hi => ⟨fun rd imm => ?_, fun rd rs1 imm => ?_, fun c rs1 rs2 imm => ?_⟩⟩
  · exact exec_rv_status hi rfl (congrArg (BRes.status k rd · s) (rvAlu_eq ..))
  · exact exec_rv_status hi rfl (congrArg (BRes.status k rd · s) (rvAlu_eq ..))
  · exact exec_rv_status hi rfl (congrArg (BRes.status k rd · s) (append_zeros imm))
  · refine exec_rv_status hi rfl (congrArg (BRes.status k rd · s) ?_)
    exact (congrArg _ (append_zeros imm)).trans (add_word ..)
  · refine exec_rv_jump hi rfl (congrArg (BRes.jump · _) ?_)
    exact (congrArg _ (dispOf_eq imm (by decide))).trans (add_word ..)
  · refine exec_rv_jump hi rfl (congrArg (BRes.jump · _) ?_)
    exact (congrArg (· &&& ~~~ 1#32) (add_signExtend ..)).trans (clear_bit0 _)
  · intro a b taken
    refine ⟨fun ht => exec_rv_jump hi rfl ?_, fun ht => exec_rv_ok hi rfl ?_⟩
    · refine (if_pos ((rvCond_eq ..).2 ht)).trans (congrArg (BRes.jump · s) ?_)
      exact (congrArg _ (dispOf_eq imm (by decide))).trans (add_word ..)
    · exact if_neg fun h => ht ((rvCond_eq ..).1 h)

end Sys2Proof.Laws
end

section
/-! SUPPORT. Memory accesses, CSRs, compressed forms and the line instructions of a Bobbin core (R345, R346, R354 to R359). -/

namespace Sys2Proof.Laws

open Sys2Proof.Machine Sys2Proof.Spec

/-! ### The handler address space (R346) -/

section
variable {h : HandRegs} {a n : Nat}

theorem bobRegion_window (hw : a + n ≤ 65536 * h.hsize.toNat) : bobRegion h a n = some .window := if_pos hw
theorem bobRegion_scratch (hw : ¬ a + n ≤ 65536 * h.hsize.toNat) (hlo : 0xFFFFE000 ≤ a) (hhi : a + n ≤ 0xFFFFF000) :
    bobRegion h a n = some .scratch := (if_neg hw).trans (if_pos ⟨hlo, hhi⟩)
theorem bobRegion_buffers (hw : ¬ a + n ≤ 65536 * h.hsize.toNat) (hlo : 0xFFFFFE00 ≤ a) (hhi : a + n ≤ 2 ^ 32) :
    bobRegion h a n = some .buffers :=
  (if_neg hw).trans ((if_neg (by omega)).trans (if_pos ⟨hlo, hhi⟩))

end

/-! ### Values of loads and stores -/

theorem leVal_eq_little (bs : List Byte) : leVal bs = little bs := by
  induction bs with
  | nil => rfl
  | cons b bs ih => exact congrArg (b.toNat + 256 * ·) ih

theorem rvLoadBytes_eq (w : RvLoad) : rvLoadBytes w = rvLen w := by cases w <;> rfl
theorem rvSext_eq (w : RvLoad) : rvSext w = decide (w = .lb ∨ w = .lh) := by cases w <;> rfl
theorem rvStoreBytes_eq (w : RvStore) : rvStoreBytes w = rvSLen w := by cases w <;> rfl

theorem rvLoadVal_eq (w : RvLoad) (bs : List Byte) : rvLoadVal w bs = loaded w (little bs) := by
  have hz (v : Nat) : BitVec.ofNat 32 v = word v := (word_natCast v).symm
  cases w
  all_goals
    simp only [rvLoadVal, loadValue, leVal_eq_little, rvSext, Bool.false_eq_true, if_true, if_false, hz, word_toNat]
    rfl

theorem leBytes_eq (n v : Nat) : leBytes n v = (List.range n).map (fun i => BitVec.ofNat 8 (v / 2 ^ (8 * i))) := by
  induction n generalizing v with
  | zero => rfl
  | succ n ih =>
    rw [leBytes, ih, List.range_succ_eq_map, List.map_cons, List.map_map, Nat.mul_zero, Nat.pow_zero, Nat.div_one]
    refine congrArg _ (List.map_congr_left fun i _ => ?_)
    rw [Function.comp_apply, Nat.div_div_eq_div_mul, Nat.mul_succ, Nat.add_comm, Nat.pow_add]

/-! ### Loads and stores (R346, R362) -/

section
variable {k a : Nat} {b : Bob} {r : Invoc} {s s1 : State} {t : Acced} {rd : BitVec 5}

section
variable {w : RvLoad} (ha : a % rvLoadBytes w = 0)
include ha

theorem rvLoad_scratch (hr : bobRegion (s.fnb r.ev.fn).hand a (rvLoadBytes w) = some .scratch) :
    rvLoad w rd a k b r s = .status k rd (rvLoadVal w (cread b.scratch (a - 0xFFFFE000) (rvLoadBytes w))) s := by
  simp only [rvLoad, hr, ha, ne_eq, not_true_eq_false, if_false]
theorem rvLoad_buffers (hr : bobRegion (s.fnb r.ev.fn).hand a (rvLoadBytes w) = some .buffers) :
    rvLoad w rd a k b r s = .status k rd (rvLoadVal w (b.bufRead (a - 0xFFFFFE00) (rvLoadBytes w))) s := by
  simp only [rvLoad, hr, ha, ne_eq, not_true_eq_false, if_false]

section
variable (hr : bobRegion (s.fnb r.ev.fn).hand a (rvLoadBytes w) = some .window)
  (hacc : s.bobAccess k r.ev.fn ((s.fnb r.ev.fn).hand.hbase.toNat + a) (rvLoadBytes w) needR = (.ok t, s1))
  (hdev : t.isDev = false) (hheld : s.bobHeld k r.ev.fn = false)
include hr hacc hdev hheld

theorem rvLoad_parked (hp : (s1.line (t.tgt.base / 64)).parks = true) :
    rvLoad w rd a k b r s = .ok (s1.bobQueues k r.ev.fn ((s.fnb r.ev.fn).hand.hbase.toNat + a) (rvLoadBytes w) t (rvSext w)
      (.reg k rd.toNat)) := by
  simp only [rvLoad, hr, ha, ne_eq, not_true_eq_false, if_false, hacc, hdev, hheld, hp, Bool.false_eq_true, if_true]
theorem rvLoad_window (hp : (s1.line (t.tgt.base / 64)).parks = false) (hw : s1.homeWaits (t.tgt.base / 64) none = false)
    (hpois : s1.tgtPois t.tgt (rvLoadBytes w) = false) :
    rvLoad w rd a k b r s = .status k rd (rvLoadVal w (s1.tgtRead t.tgt (rvLoadBytes w)))
      (s1.touch r.ev.fn (t.tgt.base / 64) t.mt) := by
  simp only [rvLoad, hr, ha, ne_eq, not_true_eq_false, if_false, hacc, hdev, hheld, hp, hw, hpois, Bool.false_eq_true]

end
end

section
variable {w : RvStore} {v : W32} (ha : a % rvStoreBytes w = 0)
include ha

theorem rvStore_scratch (hr : bobRegion (s.fnb r.ev.fn).hand a (rvStoreBytes w) = some .scratch) :
    rvStore w v a k r s = .ok (s.modBob k (fun b => { b with
      scratch := cwrite b.scratch (a - 0xFFFFE000) (leBytes (rvStoreBytes w) v.toNat) })) := by
  simp only [rvStore, hr, ha, ne_eq, not_true_eq_false, if_false]
theorem rvStore_buffers (hr : bobRegion (s.fnb r.ev.fn).hand a (rvStoreBytes w) = some .buffers) :
    rvStore w v a k r s = .ok (s.modBob k (fun b => b.bufWrite (a - 0xFFFFFE00) (leBytes (rvStoreBytes w) v.toNat))) := by
  simp only [rvStore, hr, ha, ne_eq, not_true_eq_false, if_false]
theorem rvStore_window (hr : bobRegion (s.fnb r.ev.fn).hand a (rvStoreBytes w) = some .window)
    (hacc : s.bobAccess k r.ev.fn ((s.fnb r.ev.fn).hand.hbase.toNat + a) (rvStoreBytes w) needW = (.ok t, s1))
    (hdev : t.isDev = false) (hheld : s.bobHeld k r.ev.fn = false) :
    rvStore w v a k r s = .ok (sends (bobAcc s1.nextId k r.ev.fn ((s.fnb r.ev.fn).hand.hbase.toNat + a) (rvStoreBytes w) t
      (tgetD s.incs (agBob k) 0)) (.store (leBytes (rvStoreBytes w) v.toNat)) s1) := by
  simp only [rvStore, hr, ha, ne_eq, not_true_eq_false, if_false, hacc, hdev, hheld, Bool.false_eq_true]
  rfl

end
end

/-- Settles O38: the region of the address decides where the access goes. -/
theorem bobbinMemoryAccesses : Obligations.BobbinMemoryAccesses := by
  intro k r s hi at_ h win
  refine ⟨fun w rd rs1 imm => ?_, fun w rs2 rs1 imm => ?_⟩
  · have hload : rvBody 4 (.load w rd rs1 imm) k (s.bob k) r s = rvLoad w rd (at_ rs1 imm) k (s.bob k) r s :=
      congrArg (fun v : W32 => rvLoad w rd v.toNat k (s.bob k) r s) (add_signExtend ..)
    simp only [← rvLoadBytes_eq, ← rvSext_eq, ← rvLoadVal_eq]
    intro ha
    refine ⟨fun hw hlo hhi => ?_, fun hw hlo hhi => ?_, fun t s1 hw hacc hdev hheld hp => ?_,
      fun t s1 hw hacc hdev hheld hp hwait hpois => ?_⟩
    · exact exec_rv_status hi rfl (hload.trans (rvLoad_scratch ha (bobRegion_scratch hw hlo hhi)))
    · exact exec_rv_status hi rfl (hload.trans (rvLoad_buffers ha (bobRegion_buffers hw hlo hhi)))
    · exact exec_rv_ok hi rfl (hload.trans (rvLoad_parked ha (bobRegion_window hw) hacc hdev hheld hp))
    · exact exec_rv_status hi rfl (hload.trans (rvLoad_window ha (bobRegion_window hw) hacc hdev hheld hp hwait hpois))
  · have hstore : rvBody 4 (.store w rs2 rs1 imm) k (s.bob k) r s =
        rvStore w (getReg (s.bob k) rs2) (at_ rs1 imm) k r s :=
      congrArg (fun v : W32 => rvStore w (getReg (s.bob k) rs2) v.toNat k r s) (add_signExtend ..)
    simp only [← rvStoreBytes_eq, ← leBytes_eq]
    intro ha
    refine ⟨fun hw hlo hhi => ?_, fun hw hlo hhi => ?_, fun t s1 hw hacc hdev hheld => ?_⟩
    · exact exec_rv_ok hi rfl (hstore.trans (rvStore_scratch ha (bobRegion_scratch hw hlo hhi)))
    · exact exec_rv_ok hi rfl (hstore.trans (rvStore_buffers ha (bobRegion_buffers hw hlo hhi)))
    · exact exec_rv_ok hi rfl (hstore.trans (rvStore_window ha (bobRegion_window hw) hacc hdev hheld))

/-! ### CSRs, illegal encodings, compressed forms (R345, Table 13.1) -/

/-- The CSRs of Table 13.1 are all that can be read. -/
theorem bobCsr_unknown {num : BitVec 12} {b : Bob} {r : Invoc} {now : W64} {c : Nat}
    (h : num ∉ [0xC00#12, 0xC80#12, 0xC01#12, 0xC81#12, 0xC02#12, 0xC82#12, 0xCC0#12, 0xCC1#12]) : bobCsr num b r now c = none := by
  have hne (n : Nat) (hn : BitVec.ofNat 12 n ∈ [0xC00#12, 0xC80#12, 0xC01#12, 0xC81#12, 0xC02#12, 0xC82#12, 0xCC0#12, 0xCC1#12]) :
      num.toNat ≠ n := fun he => h (by rw [← he, BitVec.ofNat_toNat, BitVec.setWidth_eq] at hn; exact hn)
  unfold bobCsr
  split
  case h_9 => rfl
  all_goals exact absurd ‹_› (hne _ (by decide))

theorem modBob_modBob (s : State) (k : Nat) (f g : Bob → Bob) : (s.modBob k f).modBob k g = s.modBob k (fun b => g (f b)) := by
  simp only [State.modBob, State.setBob, State.bob, tgetD_tset_self, tset_tset]

/-- A jump that writes x0 changes no register. -/
theorem retired_discarded (k : Nat) (pc v : W32) (s : State) :
    retired k pc (s.modBob k (fun b => b.setReg 0#5 v)) = retired k pc s := by
  simp only [retired, modBob_modBob]
  rfl

theorem signExtend_twice (imm : BitVec 6) : (imm.signExtend 12).signExtend 32 = imm.signExtend 32 := by
  rw [BitVec.signExtend, BitVec.toInt_signExtend_of_le (by decide), BitVec.signExtend]

theorem compressed_disp (pc : W32) (imm : BitVec 11) : pc + dispOf (imm.signExtend 20) = word (pc.toNat + 2 * imm.toInt) := by
  rw [dispOf_eq _ (by decide), BitVec.toInt_signExtend_of_le (by decide), add_word]

/-- Settles O39: the CSR access decides whether the body writes rd or aborts; a compressed form runs the body of its expansion. -/
theorem bobbinCsrsIllegalAndCompressed : Obligations.BobbinCsrsIllegalAndCompressed := by
  refine ⟨fun k r s hi => ⟨fun op imm rd hop => ?_, fun op imm rd src num h => exec_rv_abort hi rfl ?_, exec_rv_abort hi rfl rfl,
    exec_rv_abort hi rfl rfl, fun v => exec_rv_abort hi rfl rfl, fun v => exec_rv_abort hi rfl rfl, exec_rv_abort hi rfl rfl⟩,
    fun k r s hi => ⟨fun rd rs2 => exec_rv_ok hi rfl rfl, fun rd rs2 => exec_rv_ok hi rfl ?mv, fun rd imm => exec_rv_ok hi rfl ?addi,
    fun rd imm => exec_rv_ok hi rfl ?li, fun imm => ?j, fun imm => exec_rv_jump hi rfl ?jal⟩⟩
  case mv => exact congrArg (BRes.status k rd · s) (BitVec.zero_add _)
  case addi => exact congrArg (fun v => BRes.status k rd ((s.bob k).reg rd + v) s) (signExtend_twice imm)
  case li => exact congrArg (BRes.status k rd · s) ((BitVec.zero_add _).trans (signExtend_twice imm))
  case j =>
    have hpc : rvBody 2 (.jal 0#5 (imm.signExtend 20)) k (s.bob k) r s = .jump (word ((s.bob k).pc.toNat + 2 * imm.toInt))
        (s.modBob k (fun b => b.setReg 0#5 ((s.bob k).pc + 2#32))) := congrArg (BRes.jump · _) (compressed_disp ..)
    exact (exec_rv_jump (i := .compressed (.j imm)) hi rfl hpc).trans (congrArg _ (retired_discarded ..))
  case jal => exact congrArg (BRes.jump · _) (compressed_disp ..)
  · rcases hop with rfl | rfl
    all_goals
      exact ⟨exec_rv_status hi rfl rfl, exec_rv_status hi rfl rfl, exec_rv_status hi rfl rfl, exec_rv_status hi rfl rfl,
        exec_rv_status hi rfl rfl, exec_rv_status hi rfl rfl, exec_rv_status hi rfl rfl, exec_rv_status hi rfl rfl⟩
  · simp only [rvBody]
    cases hc : bobCsr num (s.bob k) r s.now s.cycles with
    | none => rfl
    | some v =>
      have hwrites : op = .rw ∨ src ≠ 0#5 :=
        h.imp_right fun h => h.resolve_right fun hn => nomatch (bobCsr_unknown hn).symm.trans hc
      cases op
      case rw => rfl
      all_goals exact if_pos (bne_iff_ne.2 (hwrites.resolve_left nofun))

end Sys2Proof.Laws
end

section
/-! SUPPORT. The line and message instructions of a Bobbin core, and the lease word (R354 to R359, Table 13.7). -/

namespace Sys2Proof.Laws

open Sys2Proof.Machine Sys2Proof.Spec

/-! ### Lines without poison (R355) -/

theorem cread_append (m : List Host.Cell) (a n j : Nat) : cread m a (n + j) = cread m a n ++ cread m (a + n) j := by
  induction n generalizing a with
  | zero => rw [Nat.zero_add, cread, List.nil_append, Nat.add_zero]
  | succ n ih => rw [Nat.succ_add, cread, cread, ih, List.cons_append, Nat.add_assoc, Nat.add_comm 1]

/-- A part of bytes that hold no poison holds none. -/
theorem isPois_part {s : State} {a n b j : Nat} (h : s.isPois a n = false) (hlo : a ≤ b) (hhi : b + j ≤ a + n) : s.isPois b j = false := by
  by_cases hj : j = 0
  · simp [State.isPois, poisRead, hj]
  have hn : n ≠ 0 := by omega
  simp only [State.isPois, poisRead, ne_eq, hn, not_false_eq_true, decide_true, Bool.true_and, List.any_eq_false,
    decide_eq_true_eq, hj] at h ⊢
  exact fun k hk hc => h k hk (by omega)

theorem cleanLine_eq {s : State} {l : Nat} (h : s.isPois (64 * l) 64 = false) : s.cleanLine l = s.read (64 * l) 64 := by
  have hunit : ∀ k, k < 4 → (if s.isPois (64 * l + 16 * k) 16 then zeroBytes 16 else s.read (64 * l + 16 * k) 16) =
      s.read (64 * l + 16 * k) 16 := fun k hk => by
    rw [isPois_part h (by omega) (by omega)]
    rfl
  have hupTo : upTo 4 = [0, 1, 2, 3] := rfl
  have hread : s.read (64 * l) 64 = s.read (64 * l) 16 ++ (s.read (64 * l + 16) 16 ++
      (s.read (64 * l + 16 + 16) 16 ++ s.read (64 * l + 16 + 16 + 16) 16)) :=
    (cread_append s.mem (64 * l) 16 48).trans (congrArg _ ((cread_append s.mem (64 * l + 16) 16 32).trans
      (congrArg _ (cread_append s.mem (64 * l + 16 + 16) 16 16))))
  rw [hread, State.cleanLine, hupTo]
  simp only [List.flatMap_cons, List.flatMap_nil, List.append_nil]
  rw [hunit 0 (by decide), hunit 1 (by decide), hunit 2 (by decide), hunit 3 (by decide)]
  rfl

/-! ### The line instructions (R354 to R358) -/

section
variable {k va : Nat} {r : Invoc} {s s1 : State} {t : Acced} {rs2 rs1 rd : BitVec 5} {bi : BitVec 3} {lvl : BitVec 1}

/-- The line that the sources name, for an access of need `n`. -/
def lineOf (k : Nat) (r : Invoc) (s : State) (rs1 rs2 : BitVec 5) (n : Need) : LineRes :=
  s.bobLine k r.ev.fn ((s.bob k).reg rs1) ((s.bob k).reg rs2) n

theorem lnrdBody_range (h : lineOf k r s rs1 rs2 needR = .range) : lnrdBody bi rs2 rs1 rd k (s.bob k) r s = .status k rd stRange s := by
  rw [lineOf] at h
  simp only [lnrdBody, h]
theorem lnpfBody_range (h : lineOf k r s rs1 rs2 needR = .range) : lnpfBody lvl rs2 rs1 rd k (s.bob k) r s = .status k rd stRange s := by
  rw [lineOf] at h
  simp only [lnpfBody, h]
theorem lsqBody_range (h : lineOf k r s rs1 rs2 needR = .range) : lsqBody rs2 rs1 rd k (s.bob k) r s = .status k rd (~~~ 0#32) s := by
  rw [lineOf] at h
  simp only [lsqBody, h]
theorem lnwrBody_range (h : lineOf k r s rs1 rs2 needRW = .range) : lnwrBody bi rs2 rs1 rd k (s.bob k) r s = .status k rd stRange s := by
  rw [lineOf] at h
  simp only [lnwrBody, h]

theorem lnrdBody_fault (h : lineOf k r s rs1 rs2 needR = .fault s1) : lnrdBody bi rs2 rs1 rd k (s.bob k) r s = .status k rd stFault s1 := by
  rw [lineOf] at h
  simp only [lnrdBody, h]
theorem lnpfBody_fault (h : lineOf k r s rs1 rs2 needR = .fault s1) : lnpfBody lvl rs2 rs1 rd k (s.bob k) r s = .status k rd stFault s1 := by
  rw [lineOf] at h
  simp only [lnpfBody, h]
theorem lsqBody_fault (h : lineOf k r s rs1 rs2 needR = .fault s1) : lsqBody rs2 rs1 rd k (s.bob k) r s = .status k rd (~~~ 0#32) s1 := by
  rw [lineOf] at h
  simp only [lsqBody, h]
theorem lnwrBody_fault (h : lineOf k r s rs1 rs2 needRW = .fault s1) : lnwrBody bi rs2 rs1 rd k (s.bob k) r s = .status k rd stFault s1 := by
  rw [lineOf] at h
  simp only [lnwrBody, h]

section
variable (h : lineOf k r s rs1 rs2 needR = .ok t va s1) (hheld : s.bobHeld k r.ev.fn = false)
include h hheld

theorem lnrdBody_parked (hdev : t.isDev = false) (hp : (s1.line (t.tgt.base / 64)).parks = true) :
    lnrdBody bi rs2 rs1 rd k (s.bob k) r s = .ok (s1.bobQueues k r.ev.fn va 64 t false (.buf k bi.toNat rd.toNat)) := by
  rw [lineOf] at h
  simp only [lnrdBody, h, hdev, hheld, hp, Bool.false_eq_true, if_false, if_true]
theorem lnrdBody_ok (hdev : t.isDev = false) (hp : (s1.line (t.tgt.base / 64)).parks = false)
    (hw : s1.homeWaits (t.tgt.base / 64) none = false) :
    lnrdBody bi rs2 rs1 rd k (s.bob k) r s =
      .status k rd (if s1.isPois (64 * (t.tgt.base / 64)) 64 then stPoison else stOk)
        ((s1.touch r.ev.fn (t.tgt.base / 64) t.mt).modBob k (fun b => b.setBuf bi.toNat { bytes := s1.cleanLine (t.tgt.base / 64) })) := by
  rw [lineOf] at h
  simp only [lnrdBody, h, hdev, hheld, hp, hw, Bool.false_eq_true, if_false]
theorem lnpfBody_ok : lnpfBody lvl rs2 rs1 rd k (s.bob k) r s = .status k rd stOk
    (if (s1.line (t.tgt.base / 64)).parks then s1 else if lvl = 0#1 then s1.touch r.ev.fn (t.tgt.base / 64) t.mt
      else s1.toMsc r.ev.fn (t.tgt.base / 64)) := by
  rw [lineOf] at h
  simp only [lnpfBody, h, hheld, Bool.false_eq_true, if_false]
theorem lsqBody_ok : lsqBody rs2 rs1 rd k (s.bob k) r s = .status k rd (s1.leaseWord (t.tgt.base / 64)) s1 := by
  rw [lineOf] at h
  simp only [lsqBody, h, hheld, Bool.false_eq_true, if_false]

end

section
variable (h : lineOf k r s rs1 rs2 needRW = .ok t va s1) (hdev : t.isDev = false)
include h hdev

theorem lnwrBody_nothing (hm : ((s.bob k).buf bi.toNat).mask = 0#64) :
    lnwrBody bi rs2 rs1 rd k (s.bob k) r s = .status k rd stOk s1 := by
  rw [lineOf] at h
  simp only [lnwrBody, h, hdev, hm, Bool.false_eq_true, if_false, if_true]
theorem lnwrBody_sends (hm : ((s.bob k).buf bi.toNat).mask ≠ 0#64) (hheld : s.bobHeld k r.ev.fn = false) :
    lnwrBody bi rs2 rs1 rd k (s.bob k) r s =
      .ok ((sends (bobAcc s1.nextId k r.ev.fn va 64 t (tgetD s.incs (agBob k) 0))
        (.line k rd.toNat ((s.bob k).buf bi.toNat).bytes ((s.bob k).buf bi.toNat).mask) s1).modBob k
          (fun y => y.setBuf bi.toNat { (s.bob k).buf bi.toNat with mask := 0#64 })) := by
  rw [lineOf] at h
  simp only [lnwrBody, h, hdev, hm, hheld, Bool.false_eq_true, if_false]
  rfl

end
end

/-! ### Messages (R359) -/

theorem mrepBody_noMsg {k : Nat} {r : Invoc} {s : State} {bi : BitVec 3} {rd : BitVec 5}
    (h : r.ev.msg = none ∨ r.ev.kind ≠ 3 ∨ r.ev.reply = false ∨ r.replied = true) :
    mrepBody bi rd k (s.bob k) r s = .status k rd stNoMsg s := by
  unfold mrepBody
  cases hm : r.ev.msg with
  | none => rfl
  | some m =>
    refine if_pos ?_
    simpa [hm, or_assoc] using h

/-- Settles O40: what the line address leads to decides where each body goes. -/
theorem lineAndMessageInstructionsComplete : Obligations.LineAndMessageInstructionsComplete := by
  refine ⟨fun k r s hi => ⟨fun b rs2 rs1 rd h => ⟨?_, fun lvl => ?_, ?_⟩, fun b rs2 rs1 rd s1 h => ⟨?_, fun lvl => ?_, ?_⟩,
    fun b rs2 rs1 rd => ⟨fun h => ?_, fun s1 h => ?_⟩, fun b rs2 rs1 rd t va s1 h hheld => ?_, fun b rs2 rs1 rd t va s1 h hdev => ?_⟩,
    fun k r s hi => ⟨fun b rd m hm hkind hreply hrep => ?_, fun b rd h => ?_, runBobbin_fin (len := 4) (body := fun _ _ _ _ => .fin) hi rfl⟩⟩
  · exact runBobbin_status hi (lnrdBody_range h)
  · exact runBobbin_status hi (lnpfBody_range h)
  · exact runBobbin_status hi (lsqBody_range h)
  · exact runBobbin_status hi (lnrdBody_fault h)
  · exact runBobbin_status hi (lnpfBody_fault h)
  · exact runBobbin_status hi (lsqBody_fault h)
  · exact runBobbin_status hi (lnwrBody_range h)
  · exact runBobbin_status hi (lnwrBody_fault h)
  · intro l put
    refine ⟨fun hdev hp => ?_, fun hdev hp hw hpois => ?_, fun hdev hp hw hpois => ?_, fun hp lvl => ?_, fun hp => ⟨?_, ?_⟩, ?_⟩
    · exact runBobbin_ok hi (lnrdBody_parked h hheld hdev hp)
    · refine runBobbin_status hi ((lnrdBody_ok h hheld hdev hp hw).trans ?_)
      rw [hpois, cleanLine_eq hpois]
      rfl
    · refine runBobbin_status hi ((lnrdBody_ok h hheld hdev hp hw).trans ?_)
      rw [hpois]
      rfl
    · exact runBobbin_status hi ((lnpfBody_ok h hheld).trans (congrArg _ (if_pos hp)))
    · exact runBobbin_status hi ((lnpfBody_ok h hheld).trans (congrArg _ (if_neg (Bool.not_eq_true _ ▸ hp))))
    · exact runBobbin_status hi ((lnpfBody_ok h hheld).trans (congrArg _ (if_neg (Bool.not_eq_true _ ▸ hp))))
    · exact runBobbin_status hi (lsqBody_ok h hheld)
  · exact ⟨fun hm => runBobbin_status hi (lnwrBody_nothing h hdev hm), fun hm hheld => runBobbin_ok hi (lnwrBody_sends h hdev hm hheld)⟩
  · refine runBobbin_status hi ?_
    simp only [mrepBody, hm, hkind, hreply, hrep]
    rfl
  · exact runBobbin_status hi (mrepBody_noMsg h)

/-! ### The lease word (Table 13.7) -/

/-- Four marks and nine bits of time in a word. -/
def leaseBits (p o w f : Bool) (left : Nat) : W32 :=
  BitVec.ofNat 32 (p.toNat * 2 ^ 31 + o.toNat * 2 ^ 30 + w.toNat * 2 ^ 29 + f.toNat * 2 ^ 28 + left)

theorem leaseWord_eq (s : State) (l : Nat) : s.leaseWord l = leaseBits (s.line l).present (s.line l).owner.isSome
    (!(s.waitingAt l).isEmpty || ((s.line l).block.isSome && !(s.line l).blocked)) (decide ((s.line l).far ≠ 0))
    (min (if s.now < (s.line l).expiry then ((s.line l).expiry - s.now).toNat else 0) 511) := by
  have hbit (b : Bool) (n : Nat) : (if b = true then n else 0) = b.toNat * n := by cases b <;> simp
  have hprop (c : Prop) [Decidable c] (n : Nat) : (if c then n else 0) = (decide c).toNat * n := by split <;> simp [*]
  simp only [State.leaseWord, leaseBits, hbit, hprop ((s.line l).far ≠ 0)]

section
variable (p o w f : Bool) {left : Nat} (h : left < 2 ^ 9)
include h

theorem leaseBits_toNat : (leaseBits p o w f left).toNat =
    p.toNat * 2 ^ 31 + o.toNat * 2 ^ 30 + w.toNat * 2 ^ 29 + f.toNat * 2 ^ 28 + left := by
  have := p.toNat_lt; have := o.toNat_lt; have := w.toNat_lt; have := f.toNat_lt
  rw [leaseBits, BitVec.toNat_ofNat]
  omega

theorem leaseBits_fields : (leaseBits p o w f left).getLsbD 31 = p ∧ (leaseBits p o w f left).getLsbD 30 = o ∧
    (leaseBits p o w f left).getLsbD 29 = w ∧ (leaseBits p o w f left).getLsbD 28 = f ∧
    (leaseBits p o w f left).toNat / 2 ^ 9 % 2 ^ 19 = 0 ∧ (leaseBits p o w f left).toNat % 2 ^ 9 = left := by
  have hp := p.toNat_lt; have ho := o.toNat_lt; have hw := w.toNat_lt; have hf := f.toNat_lt
  have hbit (b : Bool) {n : Nat} (hn : n % 2 = b.toNat) : decide (n % 2 = 1) = b := by cases b <;> simp [hn]
  simp only [BitVec.getLsbD, Nat.testBit_eq_decide_div_mod_eq, leaseBits_toNat p o w f h]
  exact ⟨hbit p (by omega), hbit o (by omega), hbit w (by omega), hbit f (by omega), by omega, by omega⟩

end

/-- Settles O41: the fields are disjoint, so that their sum has each of them in its place. -/
theorem leaseWordFields : Obligations.LeaseWordFields := by
  intro s l hleft
  have hle : (if s.now < (s.line l).expiry then ((s.line l).expiry - s.now).toNat else 0) ≤ 256 := by
    split
    · exact hleft ‹_›
    · exact Nat.zero_le _
  rw [leaseWord_eq, Nat.min_eq_left (hle.trans (by decide))]
  exact leaseBits_fields _ _ _ _ (lt_of_le_of_lt hle (by decide))

end Sys2Proof.Laws
end

section
/-! SUPPORT. Events of the device happen where their condition holds: boot, queues, launches (R272 to R301, R392 to R403). -/

namespace Sys2Proof.Laws

open Sys2Proof.Machine Sys2Proof.Spec

section
variable {name : String} {s t : State}

/-- An event whose condition holds leaves what its effect gives. -/
theorem event {can eff} (on : up s) (hc : can s = true) (he : eff s = t) : runEvent name can eff s = .next t :=
  (runEvent_eq on hc).trans (congrArg _ he)
/-- An event whose effect may fail happens where it does not. -/
theorem event_partial {p : State → Option State} (on : up s) (h : p s = some t) :
    runEvent name (fun t => (p t).isSome) (fun t => (p t).getD t) s = .next t := event on (by rw [h]; rfl) (by rw [h]; rfl)
/-- The same under a further condition. -/
theorem event_partial_if {c : State → Bool} {p : State → Option State} (on : up s) (hc : c s = true) (h : p s = some t) :
    runEvent name (fun t => c t && (p t).isSome) (fun t => (p t).getD t) s = .next t := event on (by rw [hc, h]; rfl) (by rw [h]; rfl)

end

/-! ### Boot, registers, queues (R19, R207, R272 to R275, R283, R392 to R403) -/

theorem mayServeFully_of {b : Boot} (hs : b.service = 1) (he : ∀ k < 16, k ∈ b.ended) (hh : b.hbmTrained = true)
    (ht : ∀ u ∈ testedUnits, u ∈ b.tested) : b.mayServeFully = true := by
  have hall : (upTo 16).all b.ended.contains = true :=
    List.all_eq_true.2 fun k hk => List.contains_iff_mem.2 (he k (mem_upTo.1 hk))
  have htest : testedUnits.all b.tested.contains = true :=
    List.all_eq_true.2 fun u hu => List.contains_iff_mem.2 (ht u hu)
  simp only [Boot.mayServeFully, hs, hall, hh, htest]
  rfl

/-- Settles O42: each condition is the event's own. -/
theorem bootAndQueueEventsComplete : Obligations.BootAndQueueEventsComplete := by
  unfold Obligations.BootAndQueueEventsComplete exec
  refine ⟨fun s on => ⟨event on rfl rfl, fun img hr hsv => event on ?img rfl, fun hsv hv => event on (by simp [hsv, hv]) rfl,
      fun hsv he hh ht => event on (mayServeFully_of hsv he hh ht) rfl, fun b h => event on h rfl,
      fun h => event on (decide_eq_true h) rfl, fun fn nonce hf hn hv => event on (by simp [hf, hn, hv]) rfl,
      fun line bad hm hb => event on ?scrub rfl, fun u hu => ⟨event on hu rfl, event on hu rfl⟩,
      fun place fails hp hf => event on ?link rfl⟩,
    fun s t on => ⟨fun view fn off wide val h => event on h rfl, fun fn q val hf hq hs => event on (by simp [hf, hq, hs]) rfl,
      fun fn q h => ⟨fun he => event_partial_if on h he, event on h rfl, event on h rfl, event on h rfl⟩,
      fun fn q hc h => event_partial_if on hc h, fun fn q he hs h => event_partial_if on (by simp [he, hs]) h,
      fun l x hx hp h => event_partial_if on ?lease h, fun fn q hc h => event_partial_if on hc h,
      fun fn q bin core n hd hf => event on ?draw rfl⟩⟩
  case img => rcases hsv with h | h <;> simp [hr, h]
  case scrub => cases bad <;> simp [hm]; exact hb rfl
  case link => rcases hp with rfl | rfl <;> simp [hf]
  case lease => simp [hx, hp]
  case draw => simp [hd, hf]

/-! ### Launches (R280 to R293, R299, R300) -/

/-- Settles O43: each condition is the event's own. -/
theorem launchEventsComplete : Obligations.LaunchEventsComplete := by
  unfold Obligations.LaunchEventsComplete exec
  intro s t l x on hx
  refine ⟨fun leaf => ⟨fun hm hn => ?_, fun hm hr => ?_, fun h => event on h rfl, fun hp hl hd hc => event_partial_if on ?_ hc,
      fun hp hl => event on ?_ rfl, fun hne => event on ?_ rfl⟩,
    fun h => event on h rfl, fun h => event on h rfl, fun core wg task hc h => event_partial_if on hc h,
    fun hc h => event_partial_if on hc h, fun id hc h => event_partial_if on hc h, fun h => event on (decide_eq_true h) rfl,
    fun h => event on (decide_eq_true h) rfl⟩
  · have hno : ¬ (x.phase = .ready ∧ s.neverFits x = true) := fun ⟨hp, hf⟩ =>
      hn.elim (fun h => h hp) fun h => Bool.false_ne_true (h.symm.trans hf)
    have hnone : s.refuseNow l x = none := if_neg hno
    exact event on (by simpa [hm, hx, hnone, imp_iff_not_or] using hno) (by simp [hx, hnone])
  · exact event on (by simp [hm, hx, hr]) (by simp [hx, hr])
  · simp [hx, hp, hl, hd]
  · simp [hx, hp, hl]
  · simpa using hne

/-! ### Contexts, scheduling, tenancy (R240 to R247, R266, R267, R330 to R342, R368 to R384) -/

/-- Settles O44: each condition is the event's own. -/
theorem contextAndSchedulingEventsComplete : Obligations.ContextAndSchedulingEventsComplete := by
  unfold Obligations.ContextAndSchedulingEventsComplete exec
  refine ⟨fun s t on => ⟨fun i q hq hm => event on (by simp [hq, hm]) rfl, fun core wg h => event on h rfl,
      fun fn idx core h => event_partial on h, fun fn hf => ⟨fun hc => event on ?freeze rfl, event on hf rfl,
        fun h => event_partial_if on hf h, fun h => ⟨event on hf (if_pos h), event on hf (if_pos h)⟩,
        fun h => ⟨event on hf (if_neg (Bool.not_eq_true _ ▸ h)), event on hf (if_neg (Bool.not_eq_true _ ▸ h))⟩,
        fun v h => event on hf (if_pos ?resident), fun v h => event on hf (if_neg ?absent)⟩,
      fun l => ⟨fun h => event on h rfl, fun h => event on h rfl⟩⟩,
    fun s core quad on => ⟨fun hne => ⟨fun hfull => event on ?promotion rfl, fun hfull hd => event on ?rotation rfl⟩,
      fun bin h => event on h rfl, fun gid w h => event on (by rw [h]; rfl) (by simp only [h]),
      fun gid g hg hcore hheld => ⟨fun n fs hw hn => event on ?sleep rfl, fun n k e fs hw => event on ?poll rfl,
        fun n k e fs hw hn => event on ?timeout rfl⟩,
      fun h => event on h rfl, fun h => event on (by rw [h]; rfl) rfl,
      fun hidle => ⟨fun h => event on (by simp [h, hidle]) rfl, fun h => event on (by rw [h, hidle]; rfl) rfl⟩,
      fun wg h => event on h rfl, fun h => event on (decide_eq_true h) rfl,
      fun fn hf hc => event on (decide_eq_true ⟨hf, hc⟩) rfl⟩⟩
  case freeze =>
    simpa [hf, List.any_eq_false, imp_iff_not_or] using hc
  case resident => simpa [List.any_eq_true] using h
  case absent => simpa [List.any_eq_true] using h
  case promotion => simp [hfull, hne]
  case rotation => simp [hfull, hne, hd]
  case sleep => simp [State.waits, hg, hcore, hw, hn, hheld]
  case poll => simp [State.waits, hg, hcore, hw, hheld]
  case timeout => simp [State.waits, hg, hcore, hw, hn, hheld]

/-! ### Memory, translation and the engines (R139 to R191, R229, R232, R316, R322, R385) -/

/-- Settles O45: each condition is the event's own. -/
theorem memoryAndEngineEventsComplete : Obligations.MemoryAndEngineEventsComplete := by
  unfold Obligations.MemoryAndEngineEventsComplete exec
  refine ⟨fun s t on => ⟨fun id => ⟨fun h => event on h rfl, fun h => event on h rfl⟩,
      fun line => ⟨fun h => event on h rfl, fun h => event on ?owned rfl, fun c h => event on (by rw [h]; rfl) (by simp only [h]),
        fun h => event on (decide_eq_true h) rfl, fun core => ⟨fun h => event on h rfl, fun h => event on h rfl⟩,
        fun a => ⟨fun h => event on h rfl, fun h => event on h rfl, fun hm hlt ht => event on (by rw [List.contains_iff_mem.2 hm, decide_eq_true hlt, decide_eq_true ht]; rfl) rfl⟩⟩,
      fun a fn va h => event on h rfl,
      fun dev fn rq hd hp hr h => event on (by simp [hd, hp, hr, h]) (by rw [h]; rfl),
      fun id line hm hb => event on (by rw [hm, hb]; rfl) rfl, fun id h => event on h rfl⟩,
    fun s t on => ⟨fun id c hc hch hw hdev => ?check, fun id k h => event_partial on h,
      fun id b hb hj => event on (by simp [hb, hj]) rfl, fun id h => event_partial on h,
      fun core a h => event on (by simpa using h) rfl, fun core mis o ho hm => event on (by simp [ho, hm]) rfl,
      fun core id h => event on h rfl, fun id r hr hs => event on (by simp [hr, hs]) (by simp only [hr])⟩⟩
  case owned =>
    cases ho : (s.line line).owner with
    | none => exact absurd ho h
    | some c => rfl
  case check =>
    simp only [execCopyCheck, hc, if_neg hdev]
    exact event on (by simp [hc, hch, hw]) rfl

/-! ### The shading cache and the Bobbin cores (R207, R213 to R225, R348 to R364, R385) -/

/-- Settles O46: each condition is the event's own. -/
theorem shadingAndHandlerEventsComplete : Obligations.ShadingAndHandlerEventsComplete := by
  unfold Obligations.ShadingAndHandlerEventsComplete exec
  exact fun s t on => ⟨fun id q hq h => event on (by simp [hq, h]) (by simp only [hq]),
    fun c => ⟨fun h => event_partial on h, fun h => event_partial on h, fun i h => event on h rfl⟩,
    fun c hc h => event on (by simp [hc, h]) rfl, fun v => event on rfl rfl,
    fun fn hf => ⟨event on (decide_eq_true hf) rfl, event on (decide_eq_true hf) rfl⟩,
    fun id m h => event on (by rw [h]; rfl) (by simp only [h]),
    fun line => ⟨fun h => event on h rfl, fun h => event on h rfl⟩,
    fun id m hm => ⟨fun h => event on (by simp [hm, h]) (by simp only [hm]),
      fun bs h => event on (by simp [hm, h]) (by simp only [hm, h])⟩,
    fun k => ⟨fun h => event on h rfl, fun h => event on h rfl, fun h => event on h rfl⟩⟩

end Sys2Proof.Laws
end

section
/-! SUPPORT. What a step runs: the turn's action, and the fetch of a group's or a Bobbin core's instruction (R21, R22, R27, R345). -/

namespace Sys2Proof.Laws

open Sys2Proof.Machine Sys2Proof.Spec

/-! ### The step -/

theorem step_of_idle {s : State} (on : s.boot.off = false) (h : s.agenda = []) : step s = .next (s.tick 1 2) := by
  simp only [step, on, h, Bool.false_eq_true, if_false]
theorem step_of_turn {s : State} {t : Turn} {ts : List Turn} (on : s.boot.off = false) (h : s.agenda = t :: ts) :
    step s = act t.act (turn s t ts) := by
  simp only [step, on, h, Bool.false_eq_true, if_false]
  rfl

/-! ### The fetch of a group (R21, R22, R27) -/

section
variable {s s1 : State} {gid pa : Nat} {g : Group} {v : Wg} {bs : List Byte} {i : Instr}

theorem fetchSlot_ok (hd : decodeSlot (g.code.drop (4 + 12 * pcSlot g.pc)) = .ok i) :
    s.fetchSlot gid g = .run i { s with cur := .group gid } := by
  simp only [State.fetchSlot, hd]
theorem fetchSlot_error {e : DecodeErr} (hd : decodeSlot (g.code.drop (4 + 12 * pcSlot g.pc)) = .error e) :
    s.fetchSlot gid g = .pass (({ s with cur := .group gid } : State).fetchTrap gid { cls := clsInstr }) := by
  simp only [State.fetchSlot, hd]

/-- A line without fault is not fetched again. -/
theorem refetched_of_parity (hp : lineParityOk bs = true) : s.refetched g v pa bs = (bs, s) := if_pos hp
theorem refetched_bytes (hp : lineParityOk bs = false) : (s.refetched g v pa bs).1 = s.read pa 64 := by
  simp only [State.refetched, hp, Bool.false_eq_true, if_false]
theorem errorRecord_corrected_lrefetch (place : Nat) (fn : Option Nat) (unit : W32) (wstart : W64) :
    (s.errorRecord place .corrected fn unit pa wstart).err.lrefetch = s.err.lrefetch := by
  unfold State.errorRecord
  dsimp only
  split <;> rfl
theorem refetched_lrefetch (hp : lineParityOk bs = false) : (s.refetched g v pa bs).2.err.lrefetch = s.err.lrefetch + 1#64 := by
  simp only [State.refetched, hp, Bool.false_eq_true, if_false]
  exact errorRecord_corrected_lrefetch ..

theorem enterLine_bad (h : badLine bs = true) :
    s.enterLine gid g v bs = .pass (s.fetchTrap gid { cls := clsLine, addr := (pcLine g.pc).toNat }) := if_pos h
theorem enterLine_good (hb : badLineWord (BitVec.ofNat 32 (recVal bs 0 4)) = false) (hp : lineParityOk bs = true)
    (hf : ∀ tid ∈ g.tids, ∀ f ∈ waitFlags (BitVec.ofNat 32 (recVal bs 0 4)), (v.thread tid).flagWaits f = false) :
    s.enterLine gid g v bs =
      (s.setGroup gid { g with begun := some (pcLine g.pc), line := BitVec.ofNat 32 (recVal bs 0 4), code := bs }).fetchSlot gid
        { g with begun := some (pcLine g.pc), line := BitVec.ofNat 32 (recVal bs 0 4), code := bs } := by
  have hgood : badLine bs = false := by rw [badLine, hb, hp]; rfl
  have hopen : g.tids.any (fun i => (waitFlags (BitVec.ofNat 32 (recVal bs 0 4))).any (fun f => (v.thread i).flagWaits f)) = false := by
    simp only [List.any_eq_false]
    exact fun tid ht => Bool.not_eq_true _ ▸ List.any_eq_false.2 fun f hm => Bool.not_eq_true _ ▸ hf tid ht f hm
  exact (if_neg (Bool.not_eq_true _ ▸ hgood)).trans (if_neg (Bool.not_eq_true _ ▸ hopen))

section
variable (hg : s.group? gid = some g) (hv : s.wg? g.wg = some v) (hm : s.mayIssue gid g = true)
include hg hv hm

theorem fetchGroup_begun (hb : g.begun = some (pcLine g.pc)) : s.fetchGroup gid = s.fetchSlot gid g := by
  simp only [State.fetchGroup, hg, hv, hm, hb, Bool.not_true, Bool.false_eq_true, if_false, if_true]
theorem fetchGroup_begins (hb : g.begun ≠ some (pcLine g.pc)) (hl : s.codeLine g v (pcLine g.pc).toNat = (.ok (pa, bs), s1)) :
    s.fetchGroup gid = (s1.refetched g v pa bs).2.enterLine gid g v (s1.refetched g v pa bs).1 := by
  simp only [State.fetchGroup, hg, hv, hm, hb, hl, Bool.not_true, Bool.false_eq_true, if_false]

end
end

/-! ### The fetch of a Bobbin core (R345, R346) -/

section
variable {s s1 s2 : State} {k : Nat} {r : Invoc} {lo hi : List Byte} {i : Instr}

/-- The state in which an invocation fetches: it has begun. -/
def begun (s : State) (k : Nat) : State := s.modInvoc k (fun i => { i with started := true })

section
variable (hr : (s.bob k).run = some r) (hl : r.left ≠ 0) (hp : s.bobPending k = false) (he : r.ends = none)
  (hlo : (begun s k).bobCode k r.ev.fn (s.bob k).pc.toNat 2 = (.ok lo, s1))
include hr hl hp he hlo

theorem fetchBobbin_short (h4 : leVal lo % 4 ≠ 3) (hd : decodeBobbin lo = .ok (i, 2)) :
    s.fetchBobbin k = .run i { s1 with cur := .bobbin k } := by
  rw [begun] at hlo
  simp only [State.fetchBobbin, hr, hl, hp, he, hlo, h4, hd, Option.isSome_none, Bool.false_eq_true, or_self, if_false]
theorem fetchBobbin_long (h4 : leVal lo % 4 = 3) (hhi : s1.bobCode k r.ev.fn ((s.bob k).pc.toNat + 2) 2 = (.ok hi, s2))
    (hd : decodeBobbin (lo ++ hi) = .ok (i, 4)) : s.fetchBobbin k = .run i { s2 with cur := .bobbin k } := by
  rw [begun] at hlo
  simp only [State.fetchBobbin, hr, hl, hp, he, hlo, h4, hhi, hd, Option.isSome_none, Bool.false_eq_true, or_self, if_false, if_true]

end
end

/-- Settles O50: the action of the turn, case by case, and what its fetch answers. -/
theorem stepRunsTheTurn : Obligations.StepRunsTheTurn := by
  intro s on
  refine ⟨step_of_idle on, fun t ts hs => ?_⟩
  intro u
  have hstep : step s = act t.act u := step_of_turn on hs
  refine ⟨fun i ha => ?_, fun pa bs ha => ?_, fun d ha => ?_, fun gid g v ha hg hv hm => ⟨fun i hb hd => ?_,
    fun pa bs u1 i hb hl hd hw hp hf => ?_⟩, fun k r lo u1 i ha hr hl hp he hlo => ⟨fun h4 hd => ?_, fun hi u2 h4 hhi hd => ?_⟩⟩
  all_goals rw [hstep, ha]
  · rfl
  · rfl
  · rfl
  · exact congrArg runFetched ((fetchGroup_begun hg hv hm hb).trans (fetchSlot_ok hd))
  · have hfetch := fetchGroup_begins hg hv hm hb hl
    rw [refetched_of_parity hp] at hfetch
    exact congrArg runFetched (hfetch.trans ((enterLine_good hw hp hf).trans (fetchSlot_ok hd)))
  · exact congrArg runFetched (fetchBobbin_short hr hl hp he hlo h4 hd)
  · exact congrArg runFetched (fetchBobbin_long hr hl hp he hlo h4 hhi hd)

/-- Settles O51: the fetch answers a trap, and nothing runs. -/
theorem badLinesAndWordsTrap : Obligations.BadLinesAndWordsTrap := by
  intro s t ts gid g v e u on hs ha hg hv hm
  have hstep : step s = runFetched (u.fetchGroup gid) := by
    rw [step_of_turn on hs, ha]
    rfl
  refine ⟨fun pa bs u1 hb hl => ⟨fun hw hp => ?_, fun hp hp' => ⟨?_, refetched_lrefetch hp⟩⟩, fun hb hd => ?_⟩
  · have hbad : badLine bs = true := by rw [badLine, hw, Bool.true_or]
    rw [hstep, fetchGroup_begins hg hv hm hb hl, refetched_of_parity hp, enterLine_bad hbad]
    rfl
  · have hbad : badLine (u1.read pa 64) = true := by rw [badLine, hp', Bool.not_false, Bool.or_true]
    rw [hstep, fetchGroup_begins hg hv hm hb hl, refetched_bytes hp, enterLine_bad hbad]
    rfl
  · rw [hstep, fetchGroup_begun hg hv hm hb, fetchSlot_error hd]
    rfl

end Sys2Proof.Laws
end

section
/-! SUPPORT. What a Bobbin instruction leaves alone (R345 to R364). -/

namespace Sys2Proof.Laws

open Sys2Proof.Machine Sys2Proof.Spec

/-! ### Parts that no handler changes, and the registers of every Bobbin core -/

/-- Groups, workgroups, cores, the time, and the registers of the Bobbin cores. -/
def bobView (s : State) : Tab Group × Tab Wg × Tab Core × W64 × (Nat → Tab W32) :=
  (s.groups, s.wgs, s.cores, s.now, fun k => (s.bob k).regs)

theorem bobView_of_actors {s t : State} (h : actors t = actors s) : bobView t = bobView s := by
  obtain ⟨hcores, hgroups, hwgs, hbobs, hnow, -⟩ := actors_eq h
  simp only [bobView, State.bob, hcores, hgroups, hwgs, hbobs, hnow]

theorem bob_modBob (s : State) (k j : Nat) (f : Bob → Bob) : (s.modBob k f).bob j = if k = j then f (s.bob k) else s.bob j :=
  tgetD_tset ..

/-- An update that leaves the registers of its core. -/
theorem bobView_modBob (s : State) (k : Nat) {f : Bob → Bob} (hf : ∀ b, (f b).regs = b.regs) : bobView (s.modBob k f) = bobView s := by
  have hregs (j : Nat) : ((s.modBob k f).bob j).regs = (s.bob j).regs := by
    rw [bob_modBob]
    split
    · subst_vars
      exact hf _
    · rfl
  have hfun : (fun j => ((s.modBob k f).bob j).regs) = fun j => (s.bob j).regs := funext hregs
  rw [bobView, hfun]
  rfl

@[simp] theorem bobView_modHand (s : State) (f : Nat) (g : HandRegs → HandRegs) : bobView (s.modHand f g) = bobView s := rfl
@[simp] theorem bobView_modLine (s : State) (l : Nat) (g : Line → Line) : bobView (s.modLine l g) = bobView s := rfl
@[simp] theorem bobView_unhold (s : State) (ids : List Nat) : bobView (s.unhold ids) = bobView s :=
  foldl_keeps bobView (by exact fun _ _ => rfl) ids s
@[simp] theorem bobView_leaveSram (s : State) (l : Nat) : bobView (s.leaveSram l) = bobView s := by
  unfold State.leaveSram; split <;> rfl
@[simp] theorem bobView_defaultAction (s : State) (ev : BEvent) : bobView (s.defaultAction ev) = bobView s := by
  unfold State.defaultAction
  split
  · exact bobView_unhold ..
  · exact (bobView_modLine ..).trans (bobView_unhold ..)
  · refine (bobView_modLine ..).trans ?_
    split
    · rfl
    · exact bobView_leaveSram ..
  · split
    · split <;> rfl
    · rfl

/-! ### The end of an invocation (R348, R359, R361) -/

@[simp] theorem bobView_discardQueue (s : State) (k f : Nat) : bobView (s.discardQueue k f) = bobView s :=
  (foldl_keeps bobView bobView_defaultAction _ _).trans (bobView_modBob s k (by exact fun _ => rfl))
@[simp] theorem bobView_discardAll (s : State) (f : Nat) : bobView (s.discardAll f) = bobView s :=
  foldl_keeps bobView (fun t k => bobView_discardQueue t k f) _ s
@[simp] theorem bobView_endInvocation (s : State) (k : Nat) : bobView (s.endInvocation k) = bobView s := by
  unfold State.endInvocation
  split
  · exact (bobView_defaultAction ..).trans (bobView_modBob s k (by exact fun _ => rfl))
  · rfl
@[simp] theorem bobView_abortInvocation (s : State) (k c : Nat) : bobView (s.abortInvocation k c) = bobView s := by
  unfold State.abortInvocation
  split
  · rfl
  · dsimp only
    split
    · simp only [bobView_endInvocation, bobView_discardAll, bobView_modHand]
    · simp only [bobView_endInvocation, bobView_modHand]

/-! ### Accesses of a handler -/

@[simp] theorem bobView_touch (s : State) (fn l mt : Nat) : bobView (s.touch fn l mt) = bobView s := bobView_of_actors (actors_touch ..)
@[simp] theorem bobView_toMsc (s : State) (fn l : Nat) : bobView (s.toMsc fn l) = bobView s :=
  (bobView_modLine ..).trans (bobView_of_actors (actors_fetchIn ..))
@[simp] theorem bobView_bobQueues (s : State) (k f va n : Nat) (t : Acced) (sext : Bool) (d : BobDst) :
    bobView (s.bobQueues k f va n t sext d) = bobView s := rfl
theorem bobView_bobAccess {s s1 : State} {k f a n : Nat} {need : Need} {e : Except AccErr Acced}
    (h : s.bobAccess k f a n need = (e, s1)) : bobView s1 = bobView s := by
  refine bobView_of_actors ?_
  have hs : s1 = (s.bobAccess k f a n need).2 := by rw [h]
  rw [hs, State.bobAccess]
  split
  · rfl
  · exact actors_access ..

/-- The state in which a translated line is found. -/
def lineState : LineRes → State → State
  | .range, s => s
  | .fault s1, _ => s1
  | .wait s1, _ => s1
  | .ok _ _ s1, _ => s1

theorem bobView_bobLine (s : State) (k f : Nat) (lo hi : W32) (need : Need) :
    bobView (lineState (s.bobLine k f lo hi need) s) = bobView s := by
  unfold State.bobLine
  split
  · rfl
  · split
    · rfl
    · split
      all_goals exact bobView_bobAccess ‹_›

/-! ### From a body's answer to the frame -/

/-- The parts of the frame, with register `rd` of core `k` free. -/
structure BobKeeps (k : Nat) (rd : Option (BitVec 5)) (s t : State) : Prop where
  regs : ∀ j n, j ≠ k ∨ rd ≠ some n → (t.bob j).reg n = (s.bob j).reg n
  wgs : t.wgs = s.wgs
  groups : t.groups = s.groups
  cores : t.cores = s.cores
  now : t.now = s.now

namespace BobKeeps
variable {k : Nat} {rd : Option (BitVec 5)} {s t u : State}

theorem of_view (h : bobView t = bobView s) : BobKeeps k rd s t := by
  simp only [bobView, Prod.mk.injEq] at h
  obtain ⟨hgroups, hwgs, hcores, hnow, hregs⟩ := h
  exact ⟨fun j n _ => by rw [Bob.reg, Bob.reg, congrFun hregs j], hwgs, hgroups, hcores, hnow⟩
theorem trans (h : BobKeeps k rd s t) (h' : BobKeeps k rd t u) : BobKeeps k rd s u :=
  ⟨fun j n hj => (h'.regs j n hj).trans (h.regs j n hj), h'.wgs.trans h.wgs, h'.groups.trans h.groups, h'.cores.trans h.cores,
    h'.now.trans h.now⟩
/-- A write of `rd`. -/
theorem setReg (s : State) (k : Nat) (rd : BitVec 5) (v : W32) : BobKeeps k (some rd) s (s.modBob k (fun b => b.setReg rd v)) := by
  refine ⟨fun j n hj => ?_, rfl, rfl, rfl, rfl⟩
  rw [bob_modBob]
  split
  · subst_vars
    have hn : rd ≠ n := fun he => hj.elim (fun h => h rfl) fun h => h (congrArg some he)
    have hne : rd.toNat ≠ n.toNat := fun he => hn (BitVec.eq_of_toNat_eq he)
    unfold Bob.setReg
    split
    · rfl
    · simp only [Bob.reg, tgetD_tset_ne _ _ _ hne]
  · rfl

end BobKeeps

/-- What a body answers keeps the frame. -/
def BRes.frames (k : Nat) (rd : Option (BitVec 5)) (s : State) : BRes → Prop
  | .ok t | .jump _ t | .stall _ t | .abort _ t => BobKeeps k rd s t
  | .fin | .refuse _ => True

theorem frames_status {k : Nat} {s t : State} (rd : BitVec 5) (v : W32) (h : bobView t = bobView s) :
    BRes.frames k (some rd) s (.status k rd v t) := (BobKeeps.of_view h).trans (BobKeeps.setReg ..)

theorem frames_ite {k : Nat} {rd : Option (BitVec 5)} {s : State} {c : Prop} [Decidable c] {x y : BRes} (hx : BRes.frames k rd s x)
    (hy : BRes.frames k rd s y) : BRes.frames k rd s (if c then x else y) := by
  split
  · exact hx
  · exact hy

theorem bobView_retired (k : Nat) (pc : W32) (s : State) : bobView (retired k pc s) = bobView s :=
  (bobView_modBob _ k (by exact fun _ => rfl)).trans (bobView_modBob s k (by exact fun _ => rfl))

/-- The frame of an instruction, in the statements' words, from that of its body. -/
theorem runBobbin_frame {len : Nat} {body : Nat → Bob → Invoc → State → BRes} {rd : Option (BitVec 5)} {s t : State}
    (hb : ∀ k r, BRes.frames k rd s (body k (s.bob k) r s)) (h : runBobbin len body s = .next t) :
    (∀ (k : Nat) (n : BitVec 5), s.cur ≠ .bobbin k ∨ rd ≠ some n → (t.bob k).reg n = (s.bob k).reg n) ∧
      t.wgs = s.wgs ∧ t.groups = s.groups ∧ t.cores = s.cores ∧ t.now = s.now := by
  obtain ⟨on, k, r, hk, hr, hcase⟩ := runBobbin_cases h
  have hkeeps : BobKeeps k rd s t := by
    rcases hcase with ⟨-, rfl⟩ | ⟨hp, he, -⟩
    · exact .of_view rfl
    rw [runBobbin_eq ⟨on, hk, hr, hp, he⟩] at h
    have hres := hb k r
    generalize body k (s.bob k) r s = res at h hres
    cases res with
    | ok u =>
      cases h
      exact .trans hres (.of_view (bobView_retired ..))
    | jump pc u =>
      cases h
      exact .trans hres (.of_view (bobView_retired ..))
    | stall x u =>
      cases h
      exact .trans hres (.of_view (bobView_modBob u k (by exact fun _ => rfl)))
    | abort c u =>
      cases h
      exact .trans hres (.of_view (bobView_abortInvocation ..))
    | fin =>
      cases h
      exact .of_view ((bobView_endInvocation ..).trans (bobView_modBob s k (by exact fun _ => rfl)))
    | refuse e => cases h
  refine ⟨fun j n hj => hkeeps.regs j n (hj.imp_left fun hc he => hc (he ▸ hk)), hkeeps.wgs, hkeeps.groups, hkeeps.cores, hkeeps.now⟩

/-! ### The bodies -/

section
variable {k : Nat} {b : Bob} {r : Invoc} {s : State}

theorem rvLoad_frames (w : RvLoad) (rd : BitVec 5) (a : Nat) : BRes.frames k (some rd) s (rvLoad w rd a k b r s) := by
  unfold rvLoad
  dsimp only
  split
  · exact .of_view rfl
  · split
    · exact .of_view rfl
    · split
      · exact frames_status rd _ rfl
      · exact frames_status rd _ rfl
      · split
        · exact .of_view (bobView_bobAccess ‹_›)
        · exact .of_view (bobView_bobAccess ‹_›)
        · have hacc := bobView_bobAccess ‹_›
          repeat' split
          · trivial
          · exact .of_view hacc
          · exact .of_view ((bobView_bobQueues ..).trans hacc)
          · exact .of_view hacc
          · exact .of_view hacc
          · exact frames_status rd _ ((bobView_touch ..).trans hacc)

theorem bufWrite_regs (b : Bob) (o : Nat) (bs : List Byte) : (b.bufWrite o bs).regs = b.regs :=
  foldl_keeps Bob.regs (by exact fun _ _ => rfl) _ b

theorem rvStore_frames (w : RvStore) (v : W32) (a : Nat) : BRes.frames k none s (rvStore w v a k r s) := by
  unfold rvStore
  dsimp only
  split
  · exact .of_view rfl
  · split
    · exact .of_view rfl
    · split
      · exact .of_view (bobView_modBob s k (by exact fun _ => rfl))
      · exact .of_view (bobView_modBob s k (by exact fun b => bufWrite_regs b _ _))
      · split
        · exact .of_view (bobView_bobAccess ‹_›)
        · exact .of_view (bobView_bobAccess ‹_›)
        · have hacc := bobView_bobAccess ‹_›
          repeat' split
          · trivial
          · exact .of_view hacc
          · exact .of_view hacc

/-- The destination of a RISC-V instruction. -/
def rvDest : RvInstr → Option (BitVec 5)
  | .lui rd _ | .auipc rd _ | .jal rd _ | .jalr rd _ _ | .load _ rd _ _ | .opImm _ rd _ _ | .op _ rd _ _ | .csr _ _ rd _ _ => some rd
  | _ => none

theorem rvBody_frames (len : Nat) (i : RvInstr) : BRes.frames k (rvDest i) s (rvBody len i k b r s) := by
  cases i with
  | lui rd imm => exact frames_status rd _ rfl
  | auipc rd imm => exact frames_status rd _ rfl
  | jal rd imm => exact BobKeeps.setReg ..
  | jalr rd rs1 imm => exact BobKeeps.setReg ..
  | branch c rs1 rs2 imm =>
    unfold rvBody
    dsimp only
    split <;> exact .of_view rfl
  | load w rd rs1 imm => exact rvLoad_frames w rd _
  | store w rs2 rs1 imm => exact rvStore_frames w _ _
  | opImm op rd rs1 imm => exact frames_status rd _ rfl
  | op op rd rs1 rs2 => exact frames_status rd _ rfl
  | csr op imm rd src num =>
    unfold rvBody
    dsimp only
    split
    · exact frames_ite (.of_view rfl) (frames_status rd _ rfl)
    · exact .of_view rfl
  | fence | ecall | ebreak | compressed | illegal | illegalC => exact .of_view rfl

section
variable {bi : BitVec 3} {lvl : BitVec 1} {rs2 rs1 rd : BitVec 5}

theorem lnrdBody_frames : BRes.frames k (some rd) s (lnrdBody bi rs2 rs1 rd k b r s) := by
  have hline := bobView_bobLine s k r.ev.fn (b.reg rs1) (b.reg rs2) needR
  unfold lnrdBody
  split
  all_goals
    rename_i h
    rw [h] at hline
  · exact frames_status rd _ rfl
  · exact frames_status rd _ hline
  · exact .of_view hline
  · dsimp only
    repeat' split
    · trivial
    · exact .of_view hline
    · exact .of_view hline
    · exact .of_view hline
    all_goals exact frames_status rd _ ((bobView_modBob _ k (by exact fun _ => rfl)).trans ((bobView_touch ..).trans hline))

theorem lnwrBody_frames : BRes.frames k (some rd) s (lnwrBody bi rs2 rs1 rd k b r s) := by
  have hline := bobView_bobLine s k r.ev.fn (b.reg rs1) (b.reg rs2) needRW
  unfold lnwrBody
  split
  all_goals
    rename_i h
    rw [h] at hline
  · exact frames_status rd _ rfl
  · exact frames_status rd _ hline
  · exact .of_view hline
  · dsimp only
    repeat' split
    · trivial
    · exact frames_status rd _ hline
    · exact .of_view hline
    · exact .of_view ((bobView_modBob _ k (by exact fun _ => rfl)).trans hline)

theorem lnpfBody_frames : BRes.frames k (some rd) s (lnpfBody lvl rs2 rs1 rd k b r s) := by
  have hline := bobView_bobLine s k r.ev.fn (b.reg rs1) (b.reg rs2) needR
  unfold lnpfBody
  split
  all_goals
    rename_i h
    rw [h] at hline
  · exact frames_status rd _ rfl
  · exact frames_status rd _ hline
  · exact .of_view hline
  · dsimp only
    repeat' split
    · exact .of_view hline
    · exact frames_status rd _ hline
    · exact frames_status rd _ ((bobView_touch ..).trans hline)
    · exact frames_status rd _ ((bobView_toMsc ..).trans hline)

theorem lsqBody_frames : BRes.frames k (some rd) s (lsqBody rs2 rs1 rd k b r s) := by
  have hline := bobView_bobLine s k r.ev.fn (b.reg rs1) (b.reg rs2) needR
  unfold lsqBody
  split
  all_goals
    rename_i h
    rw [h] at hline
  · exact frames_status rd _ rfl
  · exact frames_status rd _ hline
  · exact .of_view hline
  · split
    · exact .of_view hline
    · exact frames_status rd _ hline

theorem mrepBody_frames : BRes.frames k (some rd) s (mrepBody bi rd k b r s) := by
  unfold mrepBody
  split
  · split
    · exact frames_status rd _ rfl
    · exact frames_status rd _ (bobView_modBob _ k (by exact fun _ => rfl))
  · exact frames_status rd _ rfl

end
end

/-- Settles O57: the frame of each body is that of its instruction. -/
theorem bobbinFrame : Obligations.BobbinFrame := by
  unfold Obligations.BobbinFrame
  intro rdOf frame
  have hrd (i : RvInstr) : rdOf i = rvDest (rvExpand i).1 := rfl
  refine ⟨fun i s t h => ?_, fun b lvl rs2 rs1 rd => ⟨fun s t h => ?_, fun s t h => ?_, fun s t h => ?_, fun s t h => ?_,
    fun s t h => ?_, fun s t h => ?_⟩⟩
  · rw [hrd]
    exact runBobbin_frame (fun k r => rvBody_frames ..) h
  · exact runBobbin_frame (fun k r => lnrdBody_frames) h
  · exact runBobbin_frame (fun k r => lnwrBody_frames) h
  · exact runBobbin_frame (fun k r => lnpfBody_frames) h
  · exact runBobbin_frame (fun k r => lsqBody_frames) h
  · exact runBobbin_frame (fun k r => mrepBody_frames) h
  · exact runBobbin_frame (len := 4) (body := fun _ _ _ _ => .fin) (fun k r => trivial) h

end Sys2Proof.Laws
end

section
/-! SUPPORT. The step of a picot (R161 to R164). -/

namespace Sys2Proof.Laws

open Sys2Proof.Machine Sys2Proof.Spec

/-! ### The bytes of a picot (Table 6.7) -/

theorem cread_cwrite_self (m : List Host.Cell) (a : Nat) (bs : List Byte) : cread (cwrite m a bs) a bs.length = bs := by
  induction bs generalizing m a with
  | nil => rfl
  | cons b bs ih =>
    rw [List.length_cons, cread, cwrite, ih, cget_cwrite_out _ (.inl (Nat.lt_succ_self a)), cget_cput, if_pos rfl]

/-- The fields of a picot keep within their bits. -/
structure Picot.Fits (p : Picot) : Prop where
  arr : p.arr < 4096
  arrld : p.arrld < 4096
  rsv0 : p.rsv0 < 2 ^ 18
  rsv2 : p.rsv2 < 2 ^ 20

theorem fits_picotOf (bs : List Byte) : Picot.Fits (picotOf bs) :=
  ⟨Nat.mod_lt _ (by decide), Nat.mod_lt _ (by decide), Nat.mod_lt _ (by decide), Nat.mod_lt _ (by decide)⟩

theorem length_bytes (p : Picot) : p.bytes.length = 16 := by simp only [Picot.bytes, List.length_append, length_leBytes]

/-- The word at one of four places. -/
theorem recVal_words (a b c d : Nat) :
    let bs := leBytes 4 a ++ leBytes 4 b ++ leBytes 4 c ++ leBytes 4 d
    recVal bs 0 4 = a % 2 ^ 32 ∧ recVal bs 4 4 = b % 2 ^ 32 ∧ recVal bs 8 4 = c % 2 ^ 32 ∧ recVal bs 12 4 = d % 2 ^ 32 := by
  have hdrop (n v : Nat) (hn : 4 ≤ n) : (leBytes 4 v).drop n = [] := List.drop_eq_nil_of_le (by rw [length_leBytes]; exact hn)
  simp [recVal, List.drop_append, length_leBytes, leVal_leBytes, List.take_of_length_le, hdrop]

theorem picotOf_bytes {p : Picot} (h : Picot.Fits p) : picotOf p.bytes = p := by
  obtain ⟨ph, ovr, arr, byt, arrld, bytld, rsv0, rsv2⟩ := p
  obtain ⟨harr, harrld, hrsv0, hrsv2⟩ := h
  obtain ⟨h0, h1, h2, h3⟩ := recVal_words ((if ph then 2 ^ 31 else 0) + (if ovr then 2 ^ 30 else 0) + rsv0 * 2 ^ 12 + arr) byt.toNat
    (rsv2 * 2 ^ 12 + arrld) bytld.toNat
  simp only at harr harrld hrsv0 hrsv2
  simp only [picotOf, Picot.bytes, h0, h1, h2, h3, bitN, fieldN, Nat.shiftRight_eq_div_pow, Picot.mk.injEq]
  have hword (v : W32) : BitVec.ofNat 32 (v.toNat % 2 ^ 32) = v := by rw [Nat.mod_eq_of_lt v.isLt, BitVec.ofNat_toNat, BitVec.setWidth_eq]
  refine ⟨?_, ?_, ?_, hword byt, ?_, hword bytld, ?_, ?_⟩
  all_goals
    cases ph <;> cases ovr <;> simp <;> omega

theorem fits_step {p : Picot} (h : Picot.Fits p) (a b : Nat) (x : W32) : Picot.Fits (p.step a b x) := by
  obtain ⟨harr, harrld, hrsv0, hrsv2⟩ := h
  unfold Picot.step
  dsimp only
  split
  · exact ⟨Nat.lt_of_le_of_lt (Nat.sub_le ..) harrld, harrld, hrsv0, hrsv2⟩
  · exact ⟨Nat.lt_of_le_of_lt (Nat.sub_le ..) harr, harrld, hrsv0, hrsv2⟩

/-! ### What the end of a step leaves -/

section
variable (s : State)

@[simp] theorem cores_passQueries (a : Acc) : (s.passQueries a).cores = s.cores := by
  unfold State.passQueries
  split <;> rfl
@[simp] theorem cores_deliver (a : Acc) (d : Option Nat) (v tag : Nat) : (s.deliver a d v tag).cores = s.cores := by
  unfold State.deliver
  split <;> rfl
@[simp] theorem cores_release (a : Acc) (d : Option Nat) (n : Nat) : (s.release a d n).cores = s.cores := by
  unfold State.release
  split <;> rfl
@[simp] theorem cores_settleFences (r : ThRef) : (s.settleFences r).cores = s.cores := by
  refine foldl_keeps State.cores (fun t p => ?_) ..
  split <;> rfl
@[simp] theorem cores_finishPicots (ps : List PPicot) (ph : Bool) : (s.finishPicots ps ph).cores = s.cores := by
  refine foldl_keeps State.cores (fun t p => ?_) ..
  dsimp only
  repeat' split
  all_goals simp only [cores_settleFences, cores_release, cores_deliver, State.modWg_cores]
@[simp] theorem cores_wakePwait (core addr : Nat) (ph : Bool) : (s.wakePwait core addr ph).cores = s.cores := by
  refine foldl_keeps State.cores (fun t p => ?_) ..
  dsimp only
  repeat' split
  all_goals rfl
@[simp] theorem cores_stepAgain (core addr : Nat) : (s.stepAgain core addr).cores = s.cores := rfl

end

theorem core_modCore (s : State) (c : Nat) (f : Core → Core) : (s.modCore c f).core c = f (s.core c) := tgetD_tset_self ..
theorem core_congr {s t : State} (h : t.cores = s.cores) (c : Nat) : t.core c = s.core c := by simp only [State.core, h]
theorem picotAt_congr {s t : State} (h : t.cores = s.cores) (core addr : Nat) : t.picotAt core addr = s.picotAt core addr := by
  rw [State.picotAt, State.scrRead, core_congr h]
  rfl
theorem picotAt_scrPut {p : Picot} (h : Picot.Fits p) (s : State) (core addr : Nat) (bad : Bool) :
    (s.scrPut core addr p.bytes bad).picotAt core addr = p := by
  rw [State.picotAt, State.scrRead, State.scrPut, core_modCore, ← length_bytes p, cread_cwrite_self, picotOf_bytes h]

/-! ### Batches without a `pinit` -/

/-- No update of the batch is a `pinit`. -/
abbrev NoInit (ps : List PPicot) : Prop := ∀ p ∈ ps, ∀ a b, p.act ≠ .init a b

theorem chosenInit_none {ps : List PPicot} (h : NoInit ps) (k : Nat) : chosenInit ps k = none := by
  have hnil : ps.filterMap (fun p => match p.act with | .init a b => some (picotInit a b) | _ => none) = [] := by
    refine List.filterMap_eq_nil_iff.mpr fun p hp => ?_
    split
    · exact absurd ‹_› (h p hp _ _)
    · rfl
  exact if_pos (congrArg List.isEmpty hnil)

theorem batchLives_iff {gen : Nat} {ps : List PPicot} :
    batchLives gen ps = true ↔ ∃ q ∈ ps, ∀ m u g, q.act = .bytes m u (some g) → g = gen := by
  rw [batchLives, List.any_eq_true]
  refine exists_congr fun q => and_congr_right fun _ => ?_
  obtain ⟨acc, act⟩ := q
  cases act with
  | init a b => simp
  | arrive x d => simp
  | bytes m u g => cases g <;> simp

/-- The three sums of a batch, apart. -/
theorem foldl_sums {f : Nat × Nat × W32 → PPicot → Nat × Nat × W32} {isArr : PPicot → Bool} {fb : Nat → PPicot → Nat} {fx : W32 → PPicot → W32}
    (h : ∀ a b x p, f (a, b, x) p = (a + (if isArr p then 1 else 0), fb b p, fx x p)) (ps : List PPicot) (a b : Nat) (x : W32) :
    ps.foldl f (a, b, x) = (a + (ps.filter isArr).length, ps.foldl fb b, ps.foldl fx x) := by
  induction ps generalizing a b x with
  | nil => rfl
  | cons p ps ih =>
    rw [List.foldl_cons, h, ih, List.filter_cons]
    split
    · rw [List.length_cons, Nat.add_assoc, Nat.add_comm 1]
      rfl
    · rfl

/-! ### The step -/

section
variable {s : State} {core addr : Nat}

theorem cores_passed (s : State) (ps : List PPicot) (n : Nat) :
    ((ps.foldl (fun t p => t.passQueries p.acc) s).choose n).2.cores = s.cores := by
  rw [State.choose]
  exact foldl_keeps State.cores (f := fun t p => t.passQueries p.acc) (fun t p => cores_passQueries t p.acc) ps s

theorem picotAt_picotStep_dead (h : batchLives ((s.core core).genAt addr) (s.picotBatch core addr) = false) :
    (s.picotStep core addr).picotAt core addr = s.picotAt core addr := by
  simp only [State.picotStep, h, Bool.false_eq_true, if_false]
  exact picotAt_congr ((cores_finishPicots ..).trans (cores_passed ..)) core addr

variable (hi : NoInit (s.picotBatch core addr)) (h : batchLives ((s.core core).genAt addr) (s.picotBatch core addr) = true)
include hi h

theorem picotAt_picotStep_live : (s.picotStep core addr).picotAt core addr =
    (s.picotAt core addr).step (batchSum ((s.core core).genAt addr) (s.picotBatch core addr)).1
      (batchSum ((s.core core).genAt addr) (s.picotBatch core addr)).2.1 (batchSum ((s.core core).genAt addr) (s.picotBatch core addr)).2.2 := by
  simp only [State.picotStep, h, chosenInit_none hi, Option.getD_none, if_true]
  split
  all_goals
    refine (picotAt_congr ((cores_wakePwait ..).trans (cores_finishPicots ..)) core addr).trans ?_
    exact picotAt_scrPut (fits_step (fits_picotOf _) _ _ _) ..

theorem again_picotStep {p1 : Picot} (hstep : (s.picotStep core addr).picotAt core addr = p1) (hph : p1.ph ≠ (s.picotAt core addr).ph)
    (hagain : p1.again = true) :
    ∃ q ∈ (s.picotStep core addr).picots, q.2.acc.tgt = .scr core addr ∧ q.2.act = .bytes 0 none (some ((s.core core).genAt addr)) := by
  rw [picotAt_picotStep_live hi h] at hstep
  subst hstep
  simp only [State.picotStep, h, chosenInit_none hi, Option.getD_none, if_true, hph, hagain, ne_eq, not_false_eq_true, and_self]
  refine ⟨_, tget?_mem (tget?_tset_self ..), rfl, ?_⟩
  simp only [core_congr ((cores_wakePwait ..).trans (cores_finishPicots ..)), State.scrPut, core_modCore,
    core_congr (cores_passed s _ _)]
  rfl

end

theorem step_flips {p : Picot} {a b : Nat} {x : W32} (harr : p.arr = min a p.arr) (hbyt : p.byt + x - BitVec.ofNat 32 b = 0#32) :
    p.step a b x = { p with ph := !p.ph, arr := p.arrld - min (a - min a p.arr) p.arrld, byt := p.bytld,
                            ovr := p.ovr || decide (min (a - min a p.arr) p.arrld < a - min a p.arr) } :=
  if_pos ⟨by dsimp only; omega, hbyt⟩

/-- Settles O60: the sums of a batch, taken apart, and the step of each case. -/
theorem picotStepsByItsRule : Obligations.PicotStepsByItsRule := by
  unfold Obligations.PicotStepsByItsRule
  intro s core addr on hne hi ps p arrivals gen live bytes added n byt left m
  have hsum : batchSum gen ps = (arrivals, bytes, added) := by
    refine Eq.trans ?_ (congrArg (·, bytes, added) (Nat.zero_add arrivals))
    refine foldl_sums (fun a b x q => ?_) ps 0 0 0#32
    obtain ⟨acc, act⟩ := q
    cases act with
    | init u v => rfl
    | arrive u d => rfl
    | bytes k w g =>
      dsimp only
      split <;> rfl
  refine ⟨s.picotStep core addr, ?_, fun hdead => ?_, fun hlive => ?_⟩
  · unfold exec
    exact event on (by simpa using hne) rfl
  · refine picotAt_picotStep_dead (Bool.eq_false_iff.mpr fun hlives => ?_)
    obtain ⟨q, hq, hg⟩ := batchLives_iff.mp hlives
    exact hdead q hq hg
  · have hlives : batchLives gen ps = true := batchLives_iff.mpr hlive
    have hstep := picotAt_picotStep_live hi hlives
    rw [hsum] at hstep
    have hn : n ≤ p.arr := Nat.min_le_right ..
    have harr : p.arr = n ↔ p.arr - n = 0 := by omega
    refine ⟨hstep.trans ?_, fun ha hb hld hbld => again_picotStep hi hlives (hstep.trans (step_flips ha hb)) ?_ ?_⟩
    · exact ite_congr (propext (and_congr_left' harr.symm)) (fun _ => rfl) fun _ => rfl
    · exact Bool.not_ne_self _
    · rw [Picot.again, Bool.and_eq_true, beq_iff_eq, beq_iff_eq]
      exact ⟨Nat.sub_eq_zero_of_le hld.le, hbld⟩

end Sys2Proof.Laws
end

section
/-! SUPPORT. A performed write whose bytes no pending write of the state before stores: the state has two pending writes of one number. -/

namespace Sys2Proof.Laws

open Sys2Proof.Machine Sys2Proof.Spec

/-- A write of four bytes at the start of line 4. -/
def line4Acc (id : Nat) : Acc :=
  { id := id, th := none, core := 0, fn := 1, launch := 1, pc := 0#64, va := 0x100, tgt := .glob 0x100 0, n := 4, ord := .plain }

/-- A launch of function 1, whose fault log lies at 0x200000; tables at 0x10000 map the first GiB one to one. -/
def logging : State :=
  { State.reset with
    mem := cwrite (cwrite (cwrite [] 0x10000 (leBytes 8 0x11001)) 0x11000 (leBytes 8 0x12001)) 0x12000 (leBytes 8 0x1F),
    fns := [(1, { trans := { troot := 0x10000#64 }, fault := { flogbase := 0x200000#64 } })],
    launches := [(1, { fn := 1, queue := 0, qidx := 0#32, kind := .rect, packet := [], lrec := [], ranges := [] })] }

/-- Write 10 comes from a dead agent: with its end line 4 goes on. Two writes have number 3, the number that the state gives next; the
later of them waits at line 4. The earlier is a read-modify-write of poisoned bytes: it faults as it performs, and the fault's
record, a new write of number 3 at the function's log, is then what the line takes for its waiting write. -/
def twoOfOneNumber : State :=
  { logging with
    lines := [4, 0x400, 0x440, 0x480, 0x8000].map (fun l => (l, { present := true })), pois := [0x10], nextId := 3,
    writes := [(10, { acc := { line4Acc 10 with path := [1], inc := 1 }, kind := .store [1#8] }),
      (3, { acc := line4Acc 3, kind := .rmw 0 1#64 none 2 false }), (11, { acc := line4Acc 11, kind := .store [1#8] }),
      (3, { acc := { line4Acc 3 with arrived := some 1 }, kind := .store [1#8] })] }

theorem exec_twoOfOneNumber : exec (.writePerform 10) twoOfOneNumber = .next (twoOfOneNumber.writePerforms 10) := by
  unfold exec
  exact event (show twoOfOneNumber.boot.off = false by decide +kernel) (by decide +kernel) rfl

/-- The first byte of the log is the record's. -/
theorem log_twoOfOneNumber : byte (twoOfOneNumber.writePerforms 10) 0x200000 ≠ byte twoOfOneNumber 0x200000 := by decide +kernel

/-- Every pending write of the state lies at the start of line 4. -/
theorem tgt_twoOfOneNumber : ∀ p ∈ twoOfOneNumber.writes, p.2.acc.tgt = .glob 0x100 0 ∧ storedLen p.2.acc.n p.2.kind ≤ 4 := by
  decide +kernel

/-- Refutes O58: with two pending writes of one number, the fault record that a performing write makes may take that number, and it
performs in the same event at its own place, the function's fault log, which no pending write of the state before names. -/
theorem not_writesChangeOnlyTheirBytes : ¬ Obligations.WritesChangeOnlyTheirBytes := by
  unfold Obligations.WritesChangeOnlyTheirBytes
  intro h
  obtain ⟨hmem, -⟩ := h 10 twoOfOneNumber _ exec_twoOfOneNumber
  refine log_twoOfOneNumber (hmem _ fun p hp pa mt htgt => ?_)
  obtain ⟨hat, hlen⟩ := tgt_twoOfOneNumber p hp
  obtain ⟨rfl, rfl⟩ := Target.glob.inj (htgt.symm.trans hat)
  exact .inr (by omega)

end Sys2Proof.Laws
end

section
/-! SUPPORT. A store, an atomic and a load at a scratchpad bank, and at the home of a line where nothing waits (R139, R175, R179). -/

namespace Sys2Proof.Laws

open Sys2Proof.Machine Sys2Proof.Spec

/-! ### What the end of an access leaves -/

/-- Memory, the cores with their scratchpads, the pending writes, and the registers of threads. -/
def homeView (s : State) : List Host.Cell × Tab Core × Tab PWrite × (ThRef → Tab Reg) :=
  (s.mem, s.cores, s.writes, fun r => (s.thread r).regs)

section
variable (s : State)

theorem thread_state_modThread (r q : ThRef) (f : Thread → Thread) :
    (s.modThread r f).thread q = if r = q ∧ (s.wg? r.wg).isSome then f (s.thread r) else s.thread q := by
  obtain ⟨rw, ri⟩ := r
  obtain ⟨qw, qi⟩ := q
  simp only [State.thread, State.modThread, State.wg?, State.modWg, tget?_tmod, ThRef.mk.injEq]
  by_cases hw : rw = qw
  · subst hw
    cases tget? s.wgs rw with
    | none => simp
    | some v => simp [thread_modThread]
  · simp [hw]

/-- An update of a thread that leaves its registers. -/
theorem homeView_modThread (r : ThRef) {f : Thread → Thread} (hf : ∀ th, (f th).regs = th.regs) : homeView (s.modThread r f) = homeView s := by
  have hregs (q : ThRef) : ((s.modThread r f).thread q).regs = (s.thread q).regs := by
    rw [thread_state_modThread]
    split
    · rename_i h
      rw [hf, h.1]
    · rfl
  have hfun : (fun q => ((s.modThread r f).thread q).regs) = fun q => (s.thread q).regs := funext hregs
  rw [homeView, hfun]
  rfl

theorem regs_flagDown (th : Thread) (f : Option Nat) : (th.flagDown f).regs = th.regs := by cases f <;> rfl
theorem regs_pendDecs (th : Thread) (k n : Nat) : (th.pendDecs k n).regs = th.regs := foldl_keeps Thread.regs (by exact fun _ _ => rfl) _ _

@[simp] theorem homeView_settleFences (r : ThRef) : homeView (s.settleFences r) = homeView s := by
  refine foldl_keeps homeView (fun t p => ?_) ..
  split
  · exact homeView_modThread { t with fences := _ } r fun th => regs_flagDown th _
  · rfl
@[simp] theorem homeView_release (a : Acc) (d : Option Nat) (n : Nat) : homeView (s.release a d n) = homeView s := by
  unfold State.release
  split
  · rfl
  · refine homeView_modThread s _ fun th => ?_
    rw [regs_flagDown]
    cases d with
    | none => rfl
    | some d => exact regs_pendDecs ..
/-- An access without a destination. -/
@[simp] theorem homeView_deliver_none (a : Acc) (v tag : Nat) : homeView (s.deliver a none v tag) = homeView s := by
  unfold State.deliver
  split
  · rfl
  · exact homeView_modThread s _ fun th => regs_flagDown ..
theorem writes_burst (fn l : Nat) (wr : Bool) : (s.burst fn l wr).writes = s.writes := by
  unfold State.burst
  dsimp only
  split
  · split <;> rfl
  · rfl
theorem homeView_leaveSram (l : Nat) : homeView (s.leaveSram l) = homeView s := by
  unfold State.leaveSram
  split <;> rfl
@[simp] theorem homeView_fetchIn (fn l : Nat) : homeView (s.fetchIn fn l) = homeView s := by
  obtain ⟨hcores, -, hwgs, -, -, -⟩ := actors_eq (actors_fetchIn s fn l)
  have hwrites : (s.fetchIn fn l).writes = s.writes := by
    unfold State.fetchIn
    split
    · exact writes_burst ..
    · rfl
  simp only [homeView, State.fetchIn_mem, hcores, hwrites, thread_congr hwgs]
@[simp] theorem homeView_wakeWatchers (l : Nat) : homeView (s.wakeWatchers l) = homeView s := by
  unfold State.wakeWatchers
  refine foldl_keeps homeView (fun t g => ?_) _ (s.modLine l (fun x => { x with watch := [] }))
  repeat' split
  all_goals rfl
@[simp] theorem homeView_lineWritten (w : PWrite) : homeView (s.lineWritten w) = homeView s := by
  unfold State.lineWritten
  split
  · rename_i pa mt _
    have hin : homeView (if mt = 3 ∨ w.acc.n = 64 then s else s.fetchIn w.acc.fn (pa / 64)) = homeView s := by
      split
      · rfl
      · exact homeView_fetchIn ..
    dsimp only
    split
    · exact (homeView_leaveSram ..).trans hin
    · exact hin
  · rfl
@[simp] theorem homeView_writeReplied (u : State) (w : PWrite) : homeView (s.writeReplied u w) = homeView s := by
  unfold State.writeReplied
  dsimp only
  repeat' split
  all_goals rfl
@[simp] theorem homeView_passQueries (a : Acc) : homeView (s.passQueries a) = homeView s := by
  unfold State.passQueries
  split <;> rfl
@[simp] theorem homeView_actOf (l : Nat) (k : Activity) (n : Nat) : homeView (s.actOf l k n) = homeView s := by
  unfold State.actOf
  split <;> rfl

end

/-- The state in which a write's bytes change. -/
def leaving (s : State) (w : PWrite) : State := ({ s with writes := terase s.writes w.acc.id } : State).actOf w.acc.launch .access 1

theorem homeView_performWrite {s : State} {w : PWrite} (hpod : ∀ d o, w.acc.tgt ≠ .pod d o) :
    homeView (s.performWrite w) = homeView ((leaving s w).writeData w) := by
  have hdone : homeView ((((leaving s w).writeData w).lineWritten w).writeReplied (leaving s w) w) = homeView ((leaving s w).writeData w) := by
    rw [homeView_writeReplied, homeView_lineWritten]
  unfold State.performWrite
  dsimp only
  split
  · refine (homeView_settleFences ..).trans ?_
    split
    · exact absurd ‹_› (hpod _ _)
    · exact hdone
  · split
    · exact absurd ‹_› (hpod _ _)
    · exact hdone

/-! ### What the data of a write become -/

theorem cores_of_view {s t : State} (h : homeView t = homeView s) : t.cores = s.cores := by
  simp only [homeView, Prod.mk.injEq] at h
  exact h.2.1
/-- The same bytes everywhere but at a place of a scratchpad. -/
theorem scrByte_scrPut {s t u : State} {c o : Nat} {bs : List Byte} {bad : Bool} (h : t.cores = (u.scrPut c o bs bad).cores)
    (hu : u.cores = s.cores) (a : Nat) :
    scrByte t c a = if o ≤ a ∧ a < o + bs.length then bs.getD (a - o) 0#8 else scrByte s c a := by
  rw [scrByte, core_congr h, State.scrPut, core_modCore, cget_cwrite, scrByte, core_congr hu]

theorem mem_of_view {s t : State} (h : homeView t = homeView s) : t.mem = s.mem := congrArg Prod.fst h

theorem homeView_leaving (s : State) (w : PWrite) : homeView (leaving s w) = homeView { s with writes := terase s.writes w.acc.id } :=
  homeView_actOf ..

theorem atomNew_eq {opc : Nat} (old c : W64) (h : opc ≤ 13) (h9 : opc ≠ 9) : atomNew opc old c = atomic opc old c := by
  have hcases : opc = 0 ∨ opc = 1 ∨ opc = 2 ∨ opc = 3 ∨ opc = 4 ∨ opc = 5 ∨ opc = 6 ∨ opc = 7 ∨ opc = 8 ∨ opc = 10 ∨ opc = 11 ∨
    opc = 12 ∨ opc = 13 := by omega
  rcases hcases with rfl | rfl | rfl | rfl | rfl | rfl | rfl | rfl | rfl | rfl | rfl | rfl | rfl
  all_goals simp only [atomNew, atomic, lo32, BitVec.slt_iff_toInt_lt, BitVec.ult_iff_lt, BitVec.lt_def]

theorem wgs_passQueries (s : State) (a : Acc) : (s.passQueries a).wgs = s.wgs := by
  unfold State.passQueries
  split <;> rfl
theorem wgs_leaving (s : State) (w : PWrite) : (leaving s w).wgs = s.wgs := by
  unfold leaving State.actOf
  split <;> rfl

/-- D of a delivered access of four bytes. -/
theorem reg_deliver {s : State} {a : Acc} {r : ThRef} (hth : a.th = some r) (hn : a.n = 4) (hwg : (s.wg? r.wg).isSome) (d v tag : Nat) :
    ((s.deliver a (some d) v tag).thread r).reg d = ⟨word v, BitVec.ofNat 6 tag⟩ := by
  have hwords : wordsOf 4 v = [word v] := by
    rw [word_natCast]
    simp [wordsOf, regsOf, upTo, spanN]
  simp only [State.deliver, hth, thread_state_modThread, hwg, and_self, if_true, hn, hwords]
  rw [Thread.reg, regs_flagDown, regs_pendDecs]
  exact tgetD_tset_self ..

/-! ### Accesses of a scratchpad bank (R179, R181) -/

section
variable {s : State} {id c o : Nat} {w : PWrite} (on : s.boot.off = false) (hw : tget? s.writes id = some w) (htgt : w.acc.tgt = .scr c o)
  (hstale : s.staleAcc w.acc = false) (hmay : s.maySend w = true)
include on hw htgt hstale hmay

theorem writePerform_bank : exec (.writePerform id) s = .next ((s.passQueries w.acc).performWrite w) := by
  have hagain : w.acc.again = false := by
    simp only [State.maySend, Bool.and_eq_true, Bool.not_eq_true'] at hmay
    exact hmay.1.1.1.1
  unfold exec
  refine event on ?_ ?_
  · simp only [State.mayPerform, hw, htgt, hmay]
    cases w.acc.arrived <;> simp
  · simp only [State.writePerforms, hw, hstale, hagain, htgt, State.arrive, Bool.false_eq_true, if_false]
    cases w.acc.arrived <;> rfl

end

section
variable {s : State} {c o : Nat} {w : PWrite} (htgt : w.acc.tgt = .scr c o)
include htgt

theorem homeView_performWrite_bank : homeView (s.performWrite w) = homeView ((leaving s w).writeData w) :=
  homeView_performWrite (by simp [htgt])

variable (hpois : s.scrIsPois c o w.acc.n = false)
include hpois

theorem modifies_bank (d : Option Nat) (go : State) : s.modifies w.acc d go = go := by
  simp only [State.modifies, htgt, State.tgtPois, hpois, Bool.false_eq_true, if_false]

end

/-- The place of a bank holds the bytes `bs`, every other as before. -/
def BankHolds (s t : State) (c o : Nat) (bs : List Byte) : Prop :=
  ∀ a, scrByte t c a = if o ≤ a ∧ a < o + bs.length then bs.getD (a - o) 0#8 else scrByte s c a

section
variable {s u : State} {c o : Nat} {w : PWrite} (hu : u.cores = s.cores) (htgt : w.acc.tgt = .scr c o)
include hu htgt

theorem tgtRead_bank (n : Nat) : u.tgtRead w.acc.tgt n = s.scrRead c o n := by
  rw [htgt, State.tgtRead, State.scrRead, core_congr hu, State.scrRead]

theorem bank_store {bs : List Byte} (hk : w.kind = .store bs) : BankHolds s (u.writeData w) c o bs := by
  intro a
  simp only [State.writeData, hk, htgt, State.tgtWrite]
  exact scrByte_scrPut (cores_deliver ..) hu a

variable (hpois : s.scrIsPois c o w.acc.n = false)
include hpois

theorem modifies_eq (d : Option Nat) (go : State) : u.modifies w.acc d go = go := by
  have hp : u.tgtPois w.acc.tgt w.acc.n = false := by
    rw [htgt, State.tgtPois, State.scrIsPois, core_congr hu]
    exact hpois
  rw [State.modifies, hp]
  rfl

theorem writeData_rmw {opc : Nat} {v : W64} {d : Option Nat} {tag : Nat} {nr : Bool} (hk : w.kind = .rmw opc v d tag nr) :
    u.writeData w = (u.scrPut c o (leBytes w.acc.n (atomNew opc (BitVec.ofNat 64 (little (s.scrRead c o w.acc.n))) v).toNat) false).deliver
      w.acc d (little (s.scrRead c o w.acc.n)) tag := by
  simp only [State.writeData, hk, modifies_eq hu htgt hpois, tgtRead_bank hu htgt, leVal_eq_little]
  rw [htgt]
  rfl

theorem bank_rmw {opc : Nat} {v : W64} {d : Option Nat} {tag : Nat} {nr : Bool} (hk : w.kind = .rmw opc v d tag nr) (hopc : opc ≤ 13)
    (h9 : opc ≠ 9) :
    BankHolds s (u.writeData w) c o (leBytes w.acc.n (atomic opc (BitVec.ofNat 64 (little (s.scrRead c o w.acc.n))) v).toNat) := by
  intro a
  rw [writeData_rmw hu htgt hpois hk, atomNew_eq _ _ hopc h9]
  exact scrByte_scrPut (cores_deliver ..) hu a

theorem bank_cas {wide : Bool} {cmp new : W64} {d : Option Nat} {tag : Nat} (hk : w.kind = .cas wide cmp new d tag) :
    BankHolds s (u.writeData w) c o (if little (s.scrRead c o w.acc.n) = cmp.toNat then leBytes w.acc.n new.toNat else []) := by
  intro a
  simp only [State.writeData, hk, modifies_eq hu htgt hpois, tgtRead_bank hu htgt, leVal_eq_little]
  rw [htgt]
  split
  · exact scrByte_scrPut (cores_deliver ..) hu a
  · rw [scrByte, core_congr (cores_deliver ..), core_congr hu, List.length_nil, if_neg (by omega)]
    rfl

end

section
variable {s : State} {c o : Nat} {w : PWrite}

theorem bank_of_data {bs : List Byte} (htgt : w.acc.tgt = .scr c o)
    (h : BankHolds s ((leaving (s.passQueries w.acc) w).writeData w) c o bs) :
    BankHolds s ((s.passQueries w.acc).performWrite w) c o bs := by
  intro a
  rw [scrByte, core_congr (cores_of_view (homeView_performWrite_bank htgt))]
  exact h a

theorem cores_leaving (s : State) (w : PWrite) : (leaving (s.passQueries w.acc) w).cores = s.cores :=
  (cores_of_view (homeView_actOf ..)).trans (cores_passQueries ..)

end

end Sys2Proof.Laws
end

section
/-! SUPPORT. A store that reaches the home of a line where nothing waits (R139, R143). -/

namespace Sys2Proof.Laws

open Sys2Proof.Machine Sys2Proof.Spec

/-! ### What waits at a line -/

/-- The place in a line's arrival order of a pending write, with its number. -/
def waitsAs (l : Nat) (p : Nat × PWrite) : Option (Nat × Nat) := (p.2.acc.placeAt l).map fun t => (t, p.1)

theorem waitingAt_eq (s : State) (l : Nat) :
    s.waitingAt l = (s.writes.filterMap (waitsAs l)).mergeSort (fun a b => decide (a.1 ≤ b.1)) := by
  rw [State.waitingAt]
  congr 2
  funext p
  rw [waitsAs, Acc.placeAt]
  cases p.2.acc.arrived with
  | none => rfl
  | some t =>
    cases p.2.acc.tgt with
    | glob pa mt =>
      dsimp only
      split <;> rfl
    | scr c o => rfl
    | pod d o => rfl

theorem waitingAt_eq_nil {s : State} {l : Nat} : s.waitingAt l = [] ↔ ∀ p ∈ s.writes, waitsAs l p = none := by
  rw [waitingAt_eq, ← List.filterMap_eq_nil_iff]
  refine ⟨fun h => ?_, fun h => by rw [h, List.mergeSort_nil]⟩
  exact (h ▸ (List.mergeSort_perm ..).symm).eq_nil

theorem filterMap_tset {α β : Type} {f : Nat × α → Option β} {m : Tab α} (hm : ∀ p ∈ m, f p = none) (k : Nat) (v : α) :
    (tset m k v).filterMap f = (f (k, v)).toList := by
  induction m with
  | nil => cases h : f (k, v) <;> simp [tset, h]
  | cons p m ih =>
    obtain ⟨j, x⟩ := p
    have hnil : m.filterMap f = [] := List.filterMap_eq_nil_iff.mpr fun q hq => hm q (List.mem_cons_of_mem _ hq)
    have hp := hm (j, x) List.mem_cons_self
    rw [tset]
    split
    · rw [List.filterMap_cons, List.filterMap_cons, hp, hnil]
      cases f (k, v) <;> rfl
    · split
      · rw [List.filterMap_cons, hnil]
        cases f (k, v) <;> rfl
      · rw [List.filterMap_cons, hp]
        exact ih fun q hq => hm q (List.mem_cons_of_mem _ hq)

theorem terase_tset {α : Type} {m : Tab α} {k : Nat} {v : α} {p : Nat × α} (h : p ∈ terase (tset m k v) k) : p ∈ m := by
  induction m with
  | nil => simp [tset, terase] at h
  | cons q m ih =>
    obtain ⟨j, x⟩ := q
    rw [tset] at h
    split at h
    · rw [terase, if_pos rfl] at h
      exact h
    · split at h
      · rw [terase, if_pos rfl] at h
        exact List.mem_cons_of_mem _ h
      · rename_i hlt hne
        rw [terase, if_neg (Ne.symm hne)] at h
        exact (List.mem_cons.mp h).elim (fun h => h ▸ List.mem_cons_self) fun h => List.mem_cons_of_mem _ (ih h)

theorem drainLine_of_nil {s : State} {l : Nat} (h : s.waitingAt l = []) (fuel : Nat) : s.drainLine l fuel = s := by
  cases fuel with
  | zero => rfl
  | succ n => simp only [State.drainLine, State.dropDead, State.nextWrite, h, List.foldl_nil, List.findSome?_nil]

/-! ### A write reaches its home -/

/-- The write with its place in the line's order. -/
def atHome (w : PWrite) (t : Nat) : PWrite := { w with acc := { w.acc with arrived := some t } }

/-- The state in which a write has taken its place at line `l`. -/
def reached (s : State) (w : PWrite) (l : Nat) : State :=
  ({ (s.passQueries w.acc) with
      nextId := s.nextId + 1, writes := tset s.writes w.acc.id (atHome w s.nextId) } : State).modLine l (fun x => x.meetWrite s.now)

section
variable {s : State} {w : PWrite} {pa mt : Nat} {bs : List Byte}

theorem passQueries_eq (s : State) (a : Acc) : ∃ q, s.passQueries a = { s with shqs := q } := by
  unfold State.passQueries
  split <;> exact ⟨_, rfl⟩

theorem arrive_eq (htgt : w.acc.tgt = .glob pa mt) (hk : w.kind = .store bs) :
    s.arrive w = (reached s w (pa / 64)).drainLine (pa / 64) ((reached s w (pa / 64)).writes.length + 1) := by
  obtain ⟨q, hq⟩ := passQueries_eq s w.acc
  have hret : w.kind.noReturn = false := by rw [hk]; rfl
  unfold State.arrive
  dsimp only
  split
  · rename_i pa' mt' h
    obtain ⟨rfl, -⟩ := Target.glob.inj (h.symm.trans htgt)
    simp only [hret, Bool.false_eq_true, if_false, State.newId, reached, hq]
    rfl
  · exact absurd htgt (‹∀ pa mt, w.acc.tgt = .glob pa mt → False› pa mt)

/-- Taking its place changes the writes, the next number, the passed queries and nothing that a line's record says. -/
theorem line_reached {l : Nat} (hexp : (s.line l).expiry ≤ s.now) (j : Nat) : (reached s w l).line j = s.line j := by
  have hmeet : (s.line l).meetWrite s.now = s.line l := if_neg (by bv_omega)
  obtain ⟨q, hq⟩ := passQueries_eq s w.acc
  simp only [reached, hq, State.line, State.modLine, State.setLine, tgetD_tset]
  split
  · subst_vars
    exact hmeet
  · rfl


theorem writes_reached (s : State) (w : PWrite) (l : Nat) : (reached s w l).writes = tset s.writes w.acc.id (atHome w s.nextId) := rfl

theorem homeView_reached (s : State) (w : PWrite) (l : Nat) :
    homeView (reached s w l) = homeView { s with writes := tset s.writes w.acc.id (atHome w s.nextId) } := by
  obtain ⟨q, hq⟩ := passQueries_eq s w.acc
  rw [reached, hq]
  rfl

section
variable (htgt : w.acc.tgt = .glob pa mt)

include htgt in
theorem waitingAt_reached (hnone : s.waitingAt (pa / 64) = []) : (reached s w (pa / 64)).waitingAt (pa / 64) = [(s.nextId, w.acc.id)] := by
  have hplace : waitsAs (pa / 64) (w.acc.id, atHome w s.nextId) = some (s.nextId, w.acc.id) := by
    simp only [waitsAs, atHome, Acc.placeAt, htgt, if_true, Option.map_some]
  rw [waitingAt_eq, writes_reached, filterMap_tset (waitingAt_eq_nil.mp hnone), hplace]
  exact List.mergeSort_singleton _

theorem staleAcc_reached (hstale : s.staleAcc w.acc = false) (t : Nat) (l : Nat) : (reached s w l).staleAcc (atHome w t).acc = false := by
  obtain ⟨q, hq⟩ := passQueries_eq s w.acc
  rw [reached, hq]
  exact hstale

section
variable {l : Nat} (hexp : (s.line l).expiry ≤ s.now)
include hexp

theorem unheld_reached (a : Acc) : (reached s w l).unheld a = s.unheld a := by
  simp only [State.unheld, line_reached hexp]

theorem readsAt_reached (j : Nat) : (reached s w l).readsAt j = s.readsAt j := by
  have hloads : (reached s w l).loadsAt j = s.loadsAt j := by
    obtain ⟨q, hq⟩ := passQueries_eq s w.acc
    rw [reached, hq]
    rfl
  have hcopies : (reached s w l).copyReadsAt j = s.copyReadsAt j := by
    obtain ⟨q, hq⟩ := passQueries_eq s w.acc
    rw [reached, hq]
    rfl
  have hstale (a : Acc) : (reached s w l).staleAcc a = s.staleAcc a := by
    obtain ⟨q, hq⟩ := passQueries_eq s w.acc
    rw [reached, hq]
    rfl
  simp only [State.readsAt, hloads, hcopies, unheld_reached hexp, hstale]

theorem lineLets_reached (t : Nat) : (reached s w l).lineLets l (atHome w t) = s.lineLets l w := by
  have howns (x : Line) (c : Option Nat) : (reached s w l).owns x c = s.owns x c := by
    obtain ⟨q, hq⟩ := passQueries_eq s w.acc
    rw [reached, hq]
    rfl
  simp only [State.lineLets, line_reached hexp, howns]
  rfl

theorem lineTakes_reached (htakes : s.lineTakes l w = true) (hreads : s.readsAt l = []) (hblock : (s.line l).block = none)
    (hinv : (s.line l).invFor = none) (t : Nat) : (reached s w l).lineTakes l (atHome w t) = true := by
  have hnow : (reached s w l).now = s.now := by
    obtain ⟨q, hq⟩ := passQueries_eq s w.acc
    rw [reached, hq]
    rfl
  simp only [State.lineTakes, hreads, hblock, hinv, Bool.and_eq_true] at htakes
  simp only [State.lineTakes, line_reached hexp, lineLets_reached hexp, readsAt_reached hexp, hnow, hreads, hblock, hinv, Bool.and_eq_true]
  obtain ⟨⟨⟨⟨⟨⟨⟨hlets, hle⟩, hfetch⟩, hblocked⟩, hawait⟩, -⟩, -⟩, -⟩ := htakes
  exact ⟨⟨⟨⟨⟨⟨⟨hlets, hle⟩, hfetch⟩, hblocked⟩, hawait⟩, by simp⟩, by simp⟩, by simp⟩

end
end

theorem dedup'_eq_nil {l : List Nat} : dedup' l = [] ↔ l = [] := by cases l <;> simp [dedup']

theorem sharers_reached {id l : Nat} (hw : tget? s.writes id = some w) (hsharers : s.sharers l = []) : (reached s w l).sharers l = [] := by
  simp only [State.sharers, dedup'_eq_nil, List.append_eq_nil_iff, List.map_eq_nil_iff, List.filter_eq_nil_iff] at hsharers ⊢
  obtain ⟨⟨hholders, hloads⟩, hwrites⟩ := hsharers
  obtain ⟨q, hq⟩ := passQueries_eq s w.acc
  refine ⟨⟨?_, ?_⟩, fun p hp => ?_⟩
  · rw [reached, hq]
    exact hholders
  · rw [reached, hq]
    exact hloads
  · rcases tset_subset (writes_reached s w l ▸ hp) with rfl | hold
    · exact hwrites (id, w) (tget?_mem hw)
    · exact hwrites p hold

/-! ### It performs there -/

theorem writeData_store {u : State} (htgt : w.acc.tgt = .glob pa mt) (hk : w.kind = .store bs) :
    homeView (u.writeData w) = homeView (u.put pa bs) := by
  simp only [State.writeData, hk, htgt, State.tgtWrite, homeView_deliver_none]
  exact homeView_wakeWatchers ..

theorem homeView_put {u v : State} (h : homeView u = homeView v) (pa : Nat) (bs : List Byte) : homeView (u.put pa bs) = homeView (v.put pa bs) := by
  simp only [homeView, Prod.mk.injEq] at h
  obtain ⟨hmem, hcores, hwrites, hregs⟩ := h
  exact Prod.ext (congrArg (cwrite · pa bs) hmem) (Prod.ext hcores (Prod.ext hwrites hregs))

/-- Memory and the pending writes after a store has performed at its home. -/
theorem performWrite_store (htgt : w.acc.tgt = .glob pa mt) (hk : w.kind = .store bs) :
    (s.performWrite w).mem = cwrite s.mem pa bs ∧ (s.performWrite w).writes = terase s.writes w.acc.id := by
  have hview : homeView (s.performWrite w) = homeView (({ s with writes := terase s.writes w.acc.id } : State).put pa bs) :=
    (homeView_performWrite (by simp [htgt])).trans ((writeData_store htgt hk).trans (homeView_put (homeView_leaving s w) pa bs))
  simp only [homeView, Prod.mk.injEq] at hview
  obtain ⟨hmem, -, hwrites, -⟩ := hview
  exact ⟨hmem, hwrites⟩

section
variable {id : Nat} (hw : tget? s.writes id = some w) (htgt : w.acc.tgt = .glob pa mt) (hk : w.kind = .store bs)
  (hstale : s.staleAcc w.acc = false) (hnone : s.waitingAt (pa / 64) = []) (hreads : s.readsAt (pa / 64) = [])
  (htakes : s.lineTakes (pa / 64) w = true) (hblock : (s.line (pa / 64)).block = none) (hinv : (s.line (pa / 64)).invFor = none)
  (hsharers : s.sharers (pa / 64) = [])
include hw htgt hk hstale hnone hreads htakes hblock hinv hsharers

theorem arrive_performs : s.arrive w = (reached s w (pa / 64)).performWrite (atHome w s.nextId) := by
  have hexp : (s.line (pa / 64)).expiry ≤ s.now := by
    simp only [State.lineTakes, Bool.and_eq_true, decide_eq_true_eq] at htakes
    exact htakes.1.1.1.1.1.1.2
  have hget : tget? (reached s w (pa / 64)).writes w.acc.id = some (atHome w s.nextId) := tget?_tset_self ..
  have hwait := waitingAt_reached htgt hnone
  have hdead : (reached s w (pa / 64)).dropDead (pa / 64) = reached s w (pa / 64) := by
    simp only [State.dropDead, hwait, List.foldl_cons, List.foldl_nil, hget, staleAcc_reached hstale, Bool.false_eq_true, if_false]
  have htakes' := lineTakes_reached hexp htakes hreads hblock hinv s.nextId
  have hlets : (reached s w (pa / 64)).lineLets (pa / 64) (atHome w s.nextId) = true := by
    simp only [State.lineTakes, Bool.and_eq_true] at htakes'
    exact htakes'.1.1.1.1.1.1.1
  have hnext : (reached s w (pa / 64)).nextWrite (pa / 64) = some (atHome w s.nextId) := by
    simp only [State.nextWrite, hwait, List.findSome?_cons, hget, Option.filter_some, hlets, if_true]
  have hfree : (reached s w (pa / 64)).mustInvalidate (pa / 64) (atHome w s.nextId) = false := by
    rw [State.mustInvalidate, sharers_reached hw hsharers]
    exact Bool.and_false _
  have hdone : ((reached s w (pa / 64)).performWrite (atHome w s.nextId)).waitingAt (pa / 64) = [] := by
    rw [waitingAt_eq_nil, (performWrite_store (w := atHome w s.nextId) htgt hk).2]
    exact fun p hp => waitingAt_eq_nil.mp hnone p (terase_tset hp)
  rw [arrive_eq htgt hk, State.drainLine]
  simp only [hdead, hnext, htakes', hfree, Bool.false_eq_true, if_true, if_false]
  exact drainLine_of_nil hdone _

theorem writePerform_home (on : s.boot.off = false) (harr : w.acc.arrived = none) (hmay : s.maySend w = true) :
    ∃ t, exec (.writePerform id) s = .next t ∧ t.mem = cwrite s.mem pa bs := by
  have hagain : w.acc.again = false := by
    simp only [State.maySend, Bool.and_eq_true, Bool.not_eq_true'] at hmay
    exact hmay.1.1.1.1
  refine ⟨s.arrive w, ?_, ?_⟩
  · unfold exec
    refine event on ?_ ?_
    · simp only [State.mayPerform, hw, harr, hmay, Bool.or_true]
    · simp only [State.writePerforms, hw, hstale, hagain, harr, Bool.false_eq_true, if_false]
  · rw [arrive_performs hw htgt hk hstale hnone hreads htakes hblock hinv hsharers,
      (performWrite_store (w := atHome w s.nextId) htgt hk).1, mem_of_view (homeView_reached ..)]

end
end

end Sys2Proof.Laws
end

section
/-! SUPPORT. A pending load returns (R144, R175). -/

namespace Sys2Proof.Laws

open Sys2Proof.Machine Sys2Proof.Spec

/-- The state in which a load's data return. -/
def returning (s : State) (p : PLoad) : State :=
  (({ s with loads := terase s.loads p.acc.id } : State).passQueries p.acc).actOf p.acc.launch .access 1

/-- A state with other loads, passed queries and activity counts, which no translation reads. -/
abbrev aside (s : State) (ls : Tab PLoad) (qs : Tab PShq) (as : Tab Nat) : State := { s with loads := ls, shqs := qs, acts := as }

theorem returning_eq (s : State) (p : PLoad) : ∃ ls qs as, returning s p = aside s ls qs as := by
  obtain ⟨q, hq⟩ := passQueries_eq { s with loads := terase s.loads p.acc.id } p.acc
  rw [returning, hq, State.actOf]
  split
  · exact ⟨_, _, _, rfl⟩
  · exact ⟨_, _, _, rfl⟩

section
variable (s : State) (ls : Tab PLoad) (qs : Tab PShq) (as : Tab Nat)

theorem walkGo_aside (ex bob : Bool) (a : Nat) (levels : List Level) (base : Nat) (path : List Nat) :
    walkGo (aside s ls qs as) ex bob a levels base path = walkGo s ex bob a levels base path := by
  induction levels generalizing base path with
  | nil => rfl
  | cons l levels ih =>
    rw [walkGo.eq_def, walkGo.eq_def s]
    cases levels with
    | nil => rfl
    | cons n levels =>
      simp only [ih]
      rfl

theorem agentWalk_aside (agent fn : Nat) (ex : Bool) (a : Nat) :
    ((aside s ls qs as).agentWalk agent fn ex a).1 = (s.agentWalk agent fn ex a).1 := by
  have hcached : (aside s ls qs as).cachedPtr agent fn a = s.cachedPtr agent fn a := rfl
  have hfrom (bob : Bool) (root : Nat) : walkFrom (aside s ls qs as) ex bob root a = walkFrom s ex bob root a := by
    simp only [walkFrom, walkGo_aside]
  simp only [State.agentWalk, hcached, walkGo_aside, hfrom]
  split <;> rfl

theorem lookup_aside (agent fn : Nat) (ex : Bool) (a : Nat) :
    ((aside s ls qs as).lookup agent fn ex a).1 = (s.lookup agent fn ex a).1 := by
  have hwalk := agentWalk_aside s ls qs as agent fn ex a
  have hstops : (aside s ls qs as).portStops agent fn = s.portStops agent fn := rfl
  simp only [State.lookup, hstops]
  split
  · rfl
  · split
    · rfl
    · rcases hs : s.agentWalk agent fn ex a with ⟨r, reads⟩
      rcases ht : (aside s ls qs as).agentWalk agent fn ex a with ⟨r', reads'⟩
      rw [hs, ht] at hwalk
      obtain rfl : r' = r := hwalk
      cases r' <;> rfl

theorem access_aside (agent fn : Nat) (ranges : Option (List Range)) (a n : Nat) (need : Need) :
    ((aside s ls qs as).access agent fn ranges a n need).1 = (s.access agent fn ranges a n need).1 := by
  have hexport (port dev off : Nat) : ((aside s ls qs as).exportAccess port fn dev off need).1 = (s.exportAccess port fn dev off need).1 := by
    have hlook := lookup_aside s ls qs as (agExport port) fn true off
    have hfn : (aside s ls qs as).fnb fn = s.fnb fn := rfl
    simp only [State.exportAccess, hfn]
    split
    · rfl
    · rcases hs : s.lookup (agExport port) fn true off with ⟨r, u⟩
      rcases ht : (aside s ls qs as).lookup (agExport port) fn true off with ⟨r', u'⟩
      rw [hs, ht] at hlook
      obtain rfl : r' = r := hlook
      cases r' with
      | error e => cases e <;> rfl
      | ok e =>
        dsimp only
        split <;> rfl
  have hlook := lookup_aside s ls qs as agent fn false a
  unfold State.access
  dsimp only
  split
  · rfl
  · split
    · split
      · exact hexport ..
      · rfl
    · rcases hs : s.lookup agent fn false a with ⟨r, u⟩
      rcases ht : (aside s ls qs as).lookup agent fn false a with ⟨r', u'⟩
      rw [hs, ht] at hlook
      obtain rfl : r' = r := hlook
      cases r' with
      | error e => rfl
      | ok e =>
        dsimp only
        split
        · rfl
        · split <;> split <;> rfl

theorem readNow_aside (a : Acc) : (aside s ls qs as).readNow a = s.readNow a := by
  have hstore (core fn b : Nat) : (aside s ls qs as).storePlace core fn b = s.storePlace core fn b := by
    rw [State.storePlace, access_aside, State.storePlace]
  have hplace (sb : Nat) (b : BufStore) : (aside s ls qs as).bufPlace a sb b = s.bufPlace a sb b := by
    simp only [State.bufPlace, hstore]
  simp only [State.readNow, State.underOwn, State.ownStores, State.bufferedOf, hplace]
  rfl

end

theorem readNow_returning (s : State) (p : PLoad) (a : Acc) : (returning s p).readNow a = s.readNow a := by
  obtain ⟨ls, qs, as, h⟩ := returning_eq s p
  rw [h, readNow_aside]

theorem tgtPois_returning (s : State) (p : PLoad) (t : Target) (n : Nat) : (returning s p).tgtPois t n = s.tgtPois t n := by
  obtain ⟨ls, qs, as, h⟩ := returning_eq s p
  rw [h]
  rfl

/-! ### What follows the data -/

section
variable (s : State)

theorem wgs_pollLoaded (gid l : Nat) : (s.pollLoaded gid l).wgs = s.wgs := by
  unfold State.pollLoaded
  split
  · split
    · dsimp only
      split <;> rfl
    · rfl
  · rfl
theorem wgs_loadPolled (p : PLoad) : (s.loadPolled p).wgs = s.wgs := by
  unfold State.loadPolled
  split
  · exact wgs_pollLoaded ..
  · exact wgs_pollLoaded ..
  · rfl
theorem wgs_of_actors {s t : State} (h : actors t = actors s) : t.wgs = s.wgs := (actors_eq h).2.2.1
theorem wgs_toMsc (fn l : Nat) : (s.toMsc fn l).wgs = s.wgs := wgs_of_actors (actors_fetchIn s fn l)
theorem wgs_loadSeen (a : Acc) (l1 hit : Bool) : (s.loadSeen a l1 hit).wgs = s.wgs := by
  unfold State.loadSeen
  split
  · rename_i pa mt _
    have ht : (if l1 = true then s else s.touch a.fn (pa / 64) mt).wgs = s.wgs := by
      split
      · rfl
      · exact wgs_of_actors (actors_touch ..)
    dsimp only
    split
    · exact ht
    · exact ht
  · rfl
theorem wgs_loadReplied (u : State) (a : Acc) : (s.loadReplied u a).wgs = s.wgs := by
  unfold State.loadReplied
  split <;> rfl

theorem regs_of_view {s t : State} (h : homeView t = homeView s) (r : ThRef) : (t.thread r).regs = (s.thread r).regs := by
  simp only [homeView, Prod.mk.injEq] at h
  exact congrFun h.2.2.2 r

/-- The registers of threads after a returned load are those that its data leave. -/
theorem regs_returnLoad (p : PLoad) (r : ThRef) : ((s.returnLoad p).thread r).regs = (((returning s p).loadData p).thread r).regs := by
  have hpolled := wgs_loadPolled ((returning s p).loadData p) p
  have hseen : ((if p.msc then (((returning s p).loadData p).loadPolled p).toMsc p.acc.fn (p.acc.tgt.base / 64)
      else if s.ownSupply p.acc then ((returning s p).loadData p).loadPolled p
      else (((returning s p).loadData p).loadPolled p).loadSeen p.acc (s.l1Answers p.acc) (s.l1Answers p.acc && !p.acc.missed)).loadReplied
        (returning s p) p.acc).wgs = ((returning s p).loadData p).wgs := by
    rw [wgs_loadReplied, ← hpolled]
    split
    · exact wgs_toMsc ..
    · split
      · rfl
      · exact wgs_loadSeen ..
  have hregs := congrArg Thread.regs (thread_congr hseen r)
  unfold State.returnLoad
  dsimp only
  split
  · exact (regs_of_view (homeView_settleFences ..) r).trans hregs
  · exact hregs

end

/-! ### The load -/

section
variable {s : State} {p : PLoad} {d : Nat}

theorem loadData_eq (hdst : p.dst = some d) (hn : p.acc.n = 4) (hbob : p.bob = none) (hsext : p.sext = false)
    (hpois : s.tgtPois p.acc.tgt 4 = false) (hpod : ∀ dev o, p.acc.tgt ≠ .pod dev o) :
    s.loadData p = s.deliver p.acc (some d) (little (s.readNow p.acc)) p.tag := by
  have hval : loadValue 4 p.sext (s.readNow p.acc) = little (s.readNow p.acc) := by
    rw [loadValue, hsext, leVal_eq_little]
    rfl
  simp only [State.loadData, hbob, hdst, hn, hval, hpois, Bool.and_false, Bool.false_eq_true, if_false]
  split
  · rfl
  · rfl

theorem loadReturn_reg {id : Nat} {r : ThRef} {u : Wg} (on : s.boot.off = false) (hp : tget? s.loads id = some p)
    (hstale : s.staleAcc p.acc = false) (hcan : s.canLoad p = true) (hth : p.acc.th = some r) (hwg : s.wg? r.wg = some u)
    (hdst : p.dst = some d) (hn : p.acc.n = 4) (harr : p.acc.arrived = none) (hbob : p.bob = none) (hsext : p.sext = false)
    (hpois : s.tgtPois p.acc.tgt 4 = false) (hpod : ∀ dev o, p.acc.tgt ≠ .pod dev o) :
    ∃ t, exec (.loadReturn id) s = .next t ∧ (t.thread r).reg d = ⟨word (little (s.readNow p.acc)), BitVec.ofNat 6 p.tag⟩ := by
  have hagain : p.acc.again = false := by
    simp only [State.canLoad, Bool.and_eq_true, Bool.not_eq_true'] at hcan
    exact hcan.1.1.1
  refine ⟨s.returnLoad p, ?_, ?_⟩
  · unfold exec
    refine event on ?_ ?_
    · simp only [State.mayReturn, hp, hcan, Bool.or_true, Bool.true_or]
    · simp only [State.loadReturns, hp, hstale, hagain, hcan, harr, Option.isSome_none, Bool.false_eq_true, if_true, if_false]
  · have hwg' : ((returning s p).wg? r.wg).isSome := by
      obtain ⟨ls, qs, as, h⟩ := returning_eq s p
      rw [h]
      exact Option.isSome_of_eq_some hwg
    rw [Thread.reg, regs_returnLoad, loadData_eq hdst hn hbob hsext ((tgtPois_returning ..).trans hpois) hpod, readNow_returning]
    exact reg_deliver hth hn hwg' ..

end

/-- Settles O59: a write of a bank performs at once; a store that reaches its home is alone there, and its line takes it; a load that may return
delivers what it reads. -/
theorem accessesPerformAtTheirHomes : Obligations.AccessesPerformAtTheirHomes := by
  unfold Obligations.AccessesPerformAtTheirHomes
  refine ⟨fun s id w c o on hw hid htgt hstale hmay hpois => ?_, fun s id w pa mt bs on hw hid htgt harr hk hstale hmay hnone hreads htakes
    hblock hinv hsharers => ?_, fun s id p r u d on hp hid hstale hcan hth hwg hdst hn harr hbob hsext hpois hpod => ?_⟩
  · have hexec := writePerform_bank on hw htgt hstale hmay
    have hu := cores_leaving s w
    refine ⟨fun bs hk => ⟨_, hexec, bank_of_data htgt (bank_store hu htgt hk)⟩,
      fun opc v d tag nr hk hopc h9 => ⟨_, hexec, bank_of_data htgt (bank_rmw hu htgt hpois hk hopc h9)⟩,
      fun wide cmp new d tag hk => ⟨_, hexec, bank_of_data htgt (bank_cas hu htgt hpois hk)⟩,
      fun opc v d tag nr r u hk hn hth hwg => ⟨_, hexec, ?_⟩⟩
    rw [Thread.reg, regs_of_view (homeView_performWrite_bank htgt), writeData_rmw hu htgt hpois hk]
    refine reg_deliver hth hn ?_ ..
    rw [State.wg?, State.scrPut_wgs, wgs_leaving, wgs_passQueries]
    exact Option.isSome_of_eq_some hwg
  · obtain ⟨t, ht, hmem⟩ := writePerform_home hw htgt hk hstale hnone hreads htakes hblock hinv hsharers on harr hmay
    exact ⟨t, ht, fun a => by rw [byte, hmem, cget_cwrite, byte]⟩
  · exact loadReturn_reg on hp hstale hcan hth hwg hdst hn harr hbob hsext hpois hpod

end Sys2Proof.Laws
end

section
/-! SUPPORT. What a register-to-register instruction leaves alone, whatever becomes of it (R36, R41, R77). -/

namespace Sys2Proof.Laws

open Sys2Proof.Machine Sys2Proof.Spec

/-! ### What a definition may write -/

/-- An effect's values, predicates, flags and generator state stay within `n` registers, the predicates `ps`, and, where the instruction
does not round, no flags and no new generator state. -/
def OutFits (n : Nat) (ps : List Nat) (rounds : Bool) : Except LaneFault LaneOut → Prop
  | .error _ => True
  | .ok o => o.vals.length ≤ n ∧ (∀ p ∈ o.preds, p.1 ∈ ps) ∧ (rounds = false → o.flags = 0#5 ∧ o.seed = none)

/-- A definition of the frame stays within them in every lane, and where it zeroes. -/
structure AluFits (d : AluDef) (n : Nat) (ps : List Nat) (rounds : Bool) : Prop where
  width : d.width ≤ n
  preds : ∀ p ∈ d.preds, p ∈ ps
  eval : ∀ l, OutFits n ps rounds (d.eval l)

/-! ### Threads -/

/-- What a thread keeps; `free`: no trap is taken. -/
structure ThreadKept (w : TWord) (n : Nat) (ps : List Nat) (rounds : Bool) (free : Prop) (a b : Thread) : Prop where
  reg : ∀ k, w.d = 1023#10 ∨ k < w.d.toNat ∨ w.d.toNat + n ≤ k → b.reg k = a.reg k
  pred : ∀ k, k ∉ ps → b.pred k = a.pred k
  same : (b.flags, b.pend, b.tokens, b.fpctl, b.abase, b.st, b.nregs) = (a.flags, a.pend, a.tokens, a.fpctl, a.abase, a.st, a.nregs)
  env : rounds = false → (b.fpstat, b.srseed) = (a.fpstat, a.srseed)
  trap : free → (b.tcause, b.tpc, b.taddr) = (a.tcause, a.tpc, a.taddr)

namespace ThreadKept
variable {w : TWord} {n : Nat} {ps : List Nat} {rounds : Bool} {free : Prop} {a b c : Thread}

theorem refl (a : Thread) : ThreadKept w n ps rounds free a a := ⟨fun _ _ => rfl, fun _ _ => rfl, rfl, fun _ => rfl, fun _ => rfl⟩
theorem trans (h : ThreadKept w n ps rounds free a b) (h' : ThreadKept w n ps rounds free b c) : ThreadKept w n ps rounds free a c :=
  ⟨fun k hk => (h'.reg k hk).trans (h.reg k hk), fun k hk => (h'.pred k hk).trans (h.pred k hk), h'.same.trans h.same,
    fun hr => (h'.env hr).trans (h.env hr), fun hf => (h'.trap hf).trans (h.trap hf)⟩

theorem setReg {k : Nat} (hd : w.d ≠ 1023#10) (hlo : w.d.toNat ≤ k) (hhi : k < w.d.toNat + n) (a : Thread) (v : W32) (tag : Nat) :
    ThreadKept w n ps rounds free a (a.setReg k v tag) := by
  refine ⟨fun j hj => tgetD_tset_ne _ _ _ fun he => ?_, fun _ _ => rfl, rfl, fun _ => rfl, fun _ => rfl⟩
  rcases hj with h | h | h
  · exact hd h
  · omega
  · omega

theorem setRegs {vs : List W32} (hd : w.d ≠ 1023#10) (a : Thread) (tag k : Nat) (hlo : w.d.toNat ≤ k)
    (hhi : k + vs.length ≤ w.d.toNat + n) : ThreadKept w n ps rounds free a (a.setRegs k vs tag) := by
  induction vs generalizing a k with
  | nil => exact refl a
  | cons v vs ih =>
    rw [List.length_cons] at hhi
    exact (setReg hd hlo (by omega) a v tag).trans (ih _ (k + 1) (by omega) (by omega))

theorem writeD {vs : List W32} (hlen : vs.length ≤ n) (a : Thread) (tag : Nat) : ThreadKept w n ps rounds free a (writeD w a vs tag) := by
  unfold Machine.writeD
  split
  · exact refl a
  · rename_i hd
    exact setRegs hd a tag _ le_rfl (by omega)

theorem setPred {i : Nat} (hi : i ∈ ps) (a : Thread) (v : Bool) : ThreadKept w n ps rounds free a (a.setPred i v) := by
  have hpred (k : Nat) (hk : k ∉ ps) : (a.setPred i v).pred k = a.pred k := by
    have hne : k ≠ i := fun he => hk (he ▸ hi)
    unfold Thread.pred
    split
    · rfl
    · by_cases h7 : k < 7
      · rw [preds_setPred h7, if_neg hne]
      · rw [BitVec.getLsbD_of_ge _ _ (by omega), BitVec.getLsbD_of_ge _ _ (by omega)]
  refine ⟨fun k _ => ?_, hpred, ?_, fun _ => ?_, fun _ => ?_⟩
  all_goals
    unfold Thread.setPred
    split <;> rfl

theorem setPreds {qs : List (Nat × Bool)} (hqs : ∀ q ∈ qs, q.1 ∈ ps) (a : Thread) :
    ThreadKept w n ps rounds free a (qs.foldl (fun t p => t.setPred p.1 p.2) a) := by
  induction qs generalizing a with
  | nil => exact refl a
  | cons q qs ih => exact (setPred (hqs q List.mem_cons_self) a q.2).trans (ih (fun r hr => hqs r (List.mem_cons_of_mem _ hr)) _)

theorem clearPreds {qs : List Nat} (hqs : ∀ q ∈ qs, q ∈ ps) (a : Thread) :
    ThreadKept w n ps rounds free a (qs.foldl (fun t p => t.setPred p false) a) := by
  induction qs generalizing a with
  | nil => exact refl a
  | cons q qs ih => exact (setPred (hqs q List.mem_cons_self) a false).trans (ih (fun r hr => hqs r (List.mem_cons_of_mem _ hr)) _)

theorem apply {o : LaneOut} (h : OutFits n ps rounds (.ok o)) (a : Thread) : ThreadKept w n ps rounds free a (o.apply w a) := by
  obtain ⟨hlen, hpreds, hround⟩ := h
  have hwritten := (writeD (free := free) (rounds := rounds) (ps := ps) (w := w) hlen a o.tag).trans (setPreds hpreds _)
  unfold LaneOut.apply
  dsimp only
  split
  · rename_i seed hseed
    refine hwritten.trans ⟨fun _ _ => rfl, fun _ _ => rfl, rfl, fun hr => ?_, fun _ => rfl⟩
    cases hseed.symm.trans (hround hr).2
  · refine hwritten.trans ⟨fun _ _ => rfl, fun _ _ => rfl, rfl, fun hr => ?_, fun _ => rfl⟩
    rw [(hround hr).1, sticky_zero]

theorem zero {d : AluDef} {l : Lane} (h : AluFits d n ps rounds) (hw : l.x.w = w) : ThreadKept w n ps rounds free l.th (d.zero l) := by
  unfold AluDef.zero
  split
  · refine ThreadKept.trans ?_ (clearPreds h.preds _)
    split
    · exact refl _
    · rw [hw]
      exact writeD (by rw [List.length_replicate]; exact h.width) ..
  · exact refl _

theorem thread {d : AluDef} {x : Ctx} (h : AluFits d n ps rounds) (hw : x.w = w) (i : Nat) (a : Thread) :
    ThreadKept w n ps rounds free a (d.thread x i a) := by
  have hlane : OutFits n ps rounds (d.lane ⟨x, i, a⟩) := by
    have heval := h.eval ⟨x, i, a⟩
    unfold AluDef.lane
    split
    · trivial
    · rename_i o ho
      split
      · trivial
      · exact ho ▸ heval
  unfold AluDef.thread
  dsimp only
  split
  · split
    · rename_i o ho
      rw [hw]
      exact apply (ho ▸ hlane) a
    · exact refl a
  · exact zero (l := ⟨x, i, a⟩) h hw

theorem trapThread (hfree : ¬ free) (e : TrapInfo) (pc : W64) (i : Nat) (a : Thread) :
    ThreadKept w n ps rounds free a (trapThread e pc i a) :=
  ⟨fun _ _ => rfl, fun _ _ => rfl, rfl, fun _ => rfl, fun hf => absurd hf hfree⟩

end ThreadKept

/-! ### States -/

/-- The registers of a workgroup that no such instruction writes. -/
abbrev wgKept (v : Wg) := (v.rows, v.conv, v.fmt, v.ovf, v.mstat, v.mseed)

/-- The planes and scratchpads of the cores. -/
def coreView (s : State) : (Nat → Nat → Plane × Plane) × (Nat → List Host.Cell) := (fun c => (s.core c).planes, fun c => (s.core c).scr)

theorem coreView_modCore (s : State) (k : Nat) {f : Core → Core} (hplanes : ∀ c, (f c).planes = c.planes) (hscr : ∀ c, (f c).scr = c.scr) :
    coreView (s.modCore k f) = coreView s := by
  have hcore (j : Nat) : (s.modCore k f).core j = if k = j then f (s.core k) else s.core j := tgetD_tset ..
  refine Prod.ext (funext fun j => ?_) (funext fun j => ?_)
  all_goals
    simp only [coreView, hcore]
    split
    · subst_vars
      simp only [hplanes, hscr]
    · rfl

theorem coreView_of_cores {s t : State} (h : t.cores = s.cores) : coreView t = coreView s := by
  simp only [coreView, core_congr h]

/-- What a state keeps; `free`: no trap is taken. -/
structure StateKept (w : TWord) (n : Nat) (ps : List Nat) (rounds : Bool) (free : Prop) (s t : State) : Prop where
  thread : ∀ r, ThreadKept w n ps rounds free (s.thread r) (t.thread r)
  wg : ∀ k, (t.wg? k).map wgKept = (s.wg? k).map wgKept
  core : coreView t = coreView s

namespace StateKept
variable {w : TWord} {n : Nat} {ps : List Nat} {rounds : Bool} {free : Prop} {s t u : State}

theorem of_wgs (h : t.wgs = s.wgs) (hc : coreView t = coreView s) : StateKept w n ps rounds free s t :=
  ⟨fun r => by rw [thread_congr h]; exact .refl _, fun k => by rw [State.wg?, h, State.wg?], hc⟩
theorem trans (h : StateKept w n ps rounds free s t) (h' : StateKept w n ps rounds free t u) : StateKept w n ps rounds free s u :=
  ⟨fun r => (h.thread r).trans (h'.thread r), fun k => (h'.wg k).trans (h.wg k), h'.core.trans h.core⟩

/-- An update of some threads of a workgroup, each of which keeps what a thread keeps. -/
theorem threads {f : Nat → Thread → Thread} (hf : ∀ i a, ThreadKept w n ps rounds free a (f i a)) (s : State) (k : Nat) (ids : List Nat) :
    StateKept w n ps rounds free s (s.modWg k (fun v => ids.foldl (fun v i => v.modThread i (f i)) v)) := by
  have hfold (v : Wg) (j : Nat) : ThreadKept w n ps rounds free (v.thread j) ((ids.foldl (fun v i => v.modThread i (f i)) v).thread j) := by
    induction ids generalizing v with
    | nil => exact .refl _
    | cons i ids ih =>
      refine ThreadKept.trans ?_ (ih (v.modThread i (f i)))
      rw [thread_modThread]
      split
      · subst_vars
        exact hf ..
      · exact .refl _
  have hwg (v : Wg) : wgKept (ids.foldl (fun v i => v.modThread i (f i)) v) = wgKept v := foldl_keeps wgKept (by exact fun _ _ => rfl) ids v
  refine ⟨fun r => ?_, fun j => ?_, rfl⟩
  · simp only [State.thread, State.wg?, State.modWg, tget?_tmod]
    by_cases hk : k = r.wg
    · cases hw : tget? s.wgs r.wg with
      | none => simp only [hk, if_true, Option.map_none]; exact .refl _
      | some v => simp only [hk, if_true, Option.map_some]; exact hfold ..
    · simp only [hk, if_false]
      exact .refl _
  · simp only [State.wg?, State.modWg, tget?_tmod]
    split
    · cases tget? s.wgs j with
      | none => rfl
      | some v => exact congrArg some (hwg v)
    · rfl

theorem count (s : State) (c f k m : Nat) : StateKept w n ps rounds free s (s.count c f k m) :=
  .of_wgs rfl (coreView_modCore s c (fun _ => rfl) fun _ => rfl)

theorem modGroup (s : State) (gid : Nat) (f : Group → Group) : StateKept w n ps rounds free s (s.modGroup gid f) := .of_wgs rfl rfl
theorem setGroup (s : State) (gid : Nat) (g : Group) : StateKept w n ps rounds free s (s.setGroup gid g) := .of_wgs rfl rfl
theorem act (s : State) (fn q : Nat) (k : Activity) (m : Nat) : StateKept w n ps rounds free s (s.act fn q k m) := .of_wgs rfl rfl
theorem issued (s : State) (c k m : Nat) :
    StateKept w n ps rounds free s (s.modCore c (fun x => { x with issues := tset x.issues k m })) :=
  .of_wgs rfl (coreView_modCore s c (by exact fun _ => rfl) (by exact fun _ => rfl))

theorem counted (s : State) (x : Ctx) : StateKept w n ps rounds free s (x.counted s) := by
  unfold Ctx.counted
  exact (count s ..).trans <| (count ..).trans <| (issued ..).trans <| (act ..).trans (modGroup ..)

theorem commit (s : State) (gid : Nat) : StateKept w n ps rounds free s (commitState (s.commit gid)) := by
  obtain ⟨hcores, hwgs, -⟩ := commit_keeps s gid
  exact .of_wgs hwgs (coreView_of_cores hcores)

variable (hfree : ¬ free)
include hfree

theorem enterTrap (s : State) (gid : Nat) (e : TrapInfo) (pc : W64) : StateKept w n ps rounds free s (s.enterTrap gid e pc) := by
  unfold State.enterTrap
  split
  · exact .of_wgs rfl rfl
  · rename_i g _
    have hthreads := threads (w := w) (n := n) (ps := ps) (rounds := rounds) (free := free)
      (fun i a => ThreadKept.trapThread hfree e pc i a) s g.wg g.tids
    dsimp only
    split
    · exact (hthreads.trans (setGroup ..)).trans (count ..)
    · exact hthreads.trans (setGroup ..)

theorem takeTrap (s : State) (gid : Nat) (e : TrapInfo) : StateKept w n ps rounds free s (commitState (s.takeTrap gid e)) := by
  have hcommit := commit (w := w) (n := n) (ps := ps) (rounds := rounds) (free := free) s gid
  unfold State.takeTrap
  split
  · exact .of_wgs rfl rfl
  · split
    · rename_i s1 hs
      rw [hs] at hcommit
      obtain ⟨hcores, -, hwgs, -⟩ := actors_eq (actors_prologue (s1.enterTrap gid e _) gid e _)
      exact (hcommit.trans (enterTrap hfree ..)).trans (.of_wgs hwgs (coreView_of_cores hcores))
    · exact hcommit

theorem trapped {x : Ctx} {e : TrapInfo} (h : x.trapped s e = .next t) : StateKept w n ps rounds free s t := by
  have htake := takeTrap (w := w) (n := n) (ps := ps) (rounds := rounds) hfree s x.gid e
  rcases trapped_cases h with ⟨u, hu, rfl⟩ | ⟨u, hu, rfl⟩ | ⟨u, hu, rfl⟩
  all_goals rw [hu] at htake
  · exact htake
  · exact htake
  · exact htake.trans (modGroup ..)

end StateKept

/-! ### The instructions of the frame -/

section
variable {sg : Sig} {w : TWord} {extra : List Nat} {d : AluDef} {n : Nat} {ps : List Nat} {rounds : Bool} {s t : State}

/-- The instruction takes no trap: its encoding is legal and no executing thread raises a cause. -/
def TrapFree (sg : Sig) (w : TWord) (d : AluDef) (s : State) : Prop :=
  ∀ x, s.ctx? sg w = some x → encTrap sg w (x.enc s) = none ∧ x.causes (d.fault x) = none

theorem runThrum_kept (hfit : AluFits d n ps rounds) (h : runThrum sg w extra (aluBody d) s = .next t) :
    StateKept w n ps rounds (TrapFree sg w d s) s t := by
  obtain ⟨-, x, hx, hcase⟩ := runThrum_cases h
  rcases hcase with ⟨e, he, htrap⟩ | ⟨-, -, rfl⟩ | ⟨-, -, hbody⟩
  · refine .trapped (fun hfree => ?_) htrap
    cases he.symm.trans (hfree x hx).1
  · exact .of_wgs rfl rfl
  · rcases aluBody_cases d x s with ⟨e, he, hres⟩ | ⟨-, hres⟩
    · rw [hres] at hbody
      refine .trapped (fun hfree => ?_) hbody
      cases he.symm.trans (hfree x hx).2
    · rw [hres] at hbody
      cases hbody
      have hupdate : StateKept w n ps rounds (TrapFree sg w d s) s (x.update s (d.thread x)) :=
        .threads (fun i a => .thread hfit (ctx?_word hx).1 i a) s x.wid x.g.tids
      exact (hupdate.trans (.counted ..)).trans (.modGroup ..)

end

end Sys2Proof.Laws
end

section
/-! SUPPORT. What each register-to-register definition may write (Table 4.1, R80 to R100, R251 to R259). -/

namespace Sys2Proof.Laws

open Sys2Proof.Machine Sys2Proof.Spec

/-! ### The families of definitions -/

section
variable {n : Nat} {ps : List Nat} {rounds : Bool} {reqs : Lane → Bool}

theorem outFits_error (e : LaneFault) : OutFits n ps rounds (.error e) := trivial
theorem outFits_if {c : Prop} [Decidable c] {a b : Except LaneFault LaneOut} (ha : OutFits n ps rounds a) (hb : OutFits n ps rounds b) :
    OutFits n ps rounds (if c then a else b) := by
  split
  · exact ha
  · exact hb
theorem outFits_vals {vs : List W32} (h : vs.length ≤ n) (tag : Nat) : OutFits n ps rounds (.ok { vals := vs, tag := tag }) :=
  ⟨h, fun _ hp => absurd hp List.not_mem_nil, fun _ => ⟨rfl, rfl⟩⟩
theorem outFits_flags {vs : List W32} (h : vs.length ≤ n) (tag : Nat) (k : Sticky) :
    OutFits n ps true (.ok { vals := vs, tag := tag, flags := k }) :=
  ⟨h, fun _ hp => absurd hp List.not_mem_nil, fun hr => nomatch hr⟩
theorem outFits_round {vs : List W32} (h : vs.length ≤ n) (tag : Nat) (r : RSt) : OutFits n ps true (.ok (roundOut vs tag r)) :=
  ⟨h, fun _ hp => absurd hp List.not_mem_nil, fun hr => nomatch hr⟩
/-- One value and one predicate. -/
theorem outFits_pred (v : W32) (tag q : Nat) (b : Bool) : OutFits 1 [q] rounds (.ok { vals := [v], tag := tag, preds := [(q, b)] }) :=
  ⟨le_rfl, fun _ hp => List.mem_singleton.mpr (congrArg Prod.fst (List.mem_singleton.mp hp)), fun _ => ⟨rfl, rfl⟩⟩

theorem plainAlu_fits {tag : Lane → Nat} {f : Lane → List W32} (hf : ∀ l, (f l).length ≤ n) : AluFits (plainAlu n reqs tag f) n [] rounds :=
  ⟨le_rfl, fun _ hp => absurd hp List.not_mem_nil, fun l => outFits_if (outFits_vals (hf l) _) (outFits_error _)⟩
theorem predAlu_fits {d : Fld} {f : Lane → Bool × Sticky} (hf : rounds = false → ∀ l, (f l).2 = 0#5) :
    AluFits (predAlu d reqs f) 0 [d.toNat] rounds :=
  ⟨le_rfl, fun _ hp => hp, fun l => outFits_if
    ⟨le_rfl, fun _ hp => List.mem_singleton.mpr (congrArg Prod.fst (List.mem_singleton.mp hp)), fun hr => ⟨hf hr l, rfl⟩⟩ (outFits_error _)⟩
theorem roundAlu_fits {tag : Nat} {f : Lane → List W32 × RSt} (hf : ∀ l, (f l).1.length ≤ n) : AluFits (roundAlu n reqs tag f) n [] true :=
  ⟨le_rfl, fun _ hp => absurd hp List.not_mem_nil, fun l => outFits_if (outFits_round (hf l) ..) (outFits_error _)⟩
theorem flagAlu_fits {tag : Nat} {f : Lane → List W32 × Sticky} (hf : ∀ l, (f l).1.length ≤ n) : AluFits (flagAlu n reqs tag f) n [] true :=
  ⟨le_rfl, fun _ hp => absurd hp List.not_mem_nil, fun l => outFits_if (outFits_flags (hf l) ..) (outFits_error _)⟩

/-- A definition with one result and no predicate. -/
theorem AluFits.of_eval {d : AluDef} (hwidth : d.width ≤ n) (hpreds : d.preds = []) (h : ∀ l, OutFits n [] rounds (d.eval l)) :
    AluFits d n [] rounds := ⟨hwidth, fun _ hp => hpreds ▸ hp, h⟩

end

/-! ### The definitions -/

section
variable (w : TWord)

theorem intDef_fits (reqs : Lane → Bool) (f : Lane → Int) : AluFits (intDef w reqs f) 1 [] false := plainAlu_fits fun _ => le_rfl
theorem logicDef_fits (f : Lane → W32) : AluFits (logicDef f) 1 [] false := plainAlu_fits fun _ => le_rfl
theorem countDef_fits (f : Lane → Nat) : AluFits (countDef f) 1 [] false := plainAlu_fits fun _ => le_rfl

theorem carryDef_fits (inv : Bool) : AluFits (carryDef w inv) 1 [fCO w] false :=
  ⟨le_rfl, fun _ hp => hp, fun _ => outFits_if (outFits_pred ..) (outFits_error _)⟩
theorem selDef_fits : AluFits (selDef w) 1 [] false :=
  .of_eval le_rfl rfl fun _ => outFits_if (outFits_error _) (outFits_vals le_rfl _)
theorem movDef_fits : AluFits (movDef w) 1 [] false :=
  .of_eval le_rfl rfl fun _ => outFits_if (outFits_error _) (outFits_vals le_rfl _)
theorem settagDef_fits : AluFits (settagDef w) 1 [] false :=
  .of_eval le_rfl rfl fun _ => outFits_if (outFits_error _) (outFits_vals le_rfl _)
theorem bfeDef_fits : AluFits (bfeDef w) 1 [] false := by
  refine plainAlu_fits fun l => ?_
  split <;> exact le_rfl
theorem bfiDef_fits : AluFits bfiDef 1 [] false := by
  refine plainAlu_fits fun l => ?_
  split <;> exact le_rfl
theorem r2pDef_fits : AluFits (r2pDef w) 0 (r2pMask w) false := by
  refine ⟨le_rfl, fun _ hp => hp, fun l => ⟨le_rfl, fun p hp => ?_, fun _ => ⟨rfl, rfl⟩⟩⟩
  obtain ⟨i, hi, rfl⟩ := List.mem_map.mp hp
  exact hi

theorem f32Arith_fits (op : FpOp) : AluFits (f32Arith op w) 1 [] true := roundAlu_fits fun _ => le_rfl
theorem f32MinMax_fits (big : Bool) : AluFits (f32MinMax big w) 1 [] true := flagAlu_fits fun _ => le_rfl
theorem fcmpDef_fits : AluFits (fcmpDef w) 0 [w.d.toNat] true := predAlu_fits fun h => nomatch h
theorem dcmpDef_fits : AluFits (dcmpDef w) 0 [w.d.toNat] true := predAlu_fits fun h => nomatch h
theorem specialDef_fits (op : SpecialOp) : AluFits (specialDef op w) 1 [] true := roundAlu_fits fun _ => le_rfl
theorem halfArith_fits (op : FpOp) : AluFits (halfArith op w) 1 [] true := roundAlu_fits fun _ => le_rfl
theorem halfMinMax_fits (big : Bool) : AluFits (halfMinMax big w) 1 [] true := flagAlu_fits fun _ => le_rfl
theorem f64Arith_fits (op : FpOp) : AluFits (f64Arith op w) 2 [] true := roundAlu_fits fun _ => le_rfl
theorem f64MinMax_fits (big : Bool) : AluFits (f64MinMax big w) 2 [] true := flagAlu_fits fun _ => le_rfl
theorem dp2bfDef_fits : AluFits (dp2bfDef w) 1 [] true := by
  refine roundAlu_fits fun l => ?_
  dsimp only
  split
  · exact le_rfl
  · split <;> exact le_rfl

theorem cvtDef_fits : AluFits (cvtDef w) 1 [] true :=
  .of_eval le_rfl rfl fun _ => outFits_if (outFits_error _) (outFits_if (outFits_round le_rfl ..)
    (outFits_if (outFits_round le_rfl ..) (outFits_round le_rfl ..)))

theorem length_roundEach (g : RSt → Nat → Nat × RSt) (r : RSt) (xs : List Nat) : (roundEach g r xs).1.length = xs.length := by
  induction xs generalizing r with
  | nil => rfl
  | cons x xs ih => exact congrArg (· + 1) (ih _)

theorem cvtnPackDef_fits : AluFits (cvtnPackDef w) 1 [] true := by
  refine .of_eval le_rfl rfl fun l => ?_
  unfold cvtnPackDef
  dsimp only
  split
  · exact outFits_error _
  · exact outFits_if (outFits_error _) (outFits_round le_rfl ..)
theorem cvtnUnpackDef_fits : AluFits (cvtnUnpackDef w) 4 [] true := by
  refine .of_eval le_rfl rfl fun l => ?_
  unfold cvtnUnpackDef
  dsimp only
  split
  · exact outFits_error _
  · exact outFits_if (outFits_error _) (outFits_round (by rw [List.length_map, length_roundEach]; exact le_rfl) ..)

theorem dcvtDef_fits : AluFits (dcvtDef w) (if mdF w 0 4 = 7 then 2 else 1) [] true := by
  refine .of_eval le_rfl rfl fun l => outFits_if (outFits_error _) ?_
  dsimp only
  split
  · exact outFits_round le_rfl ..
  · exact outFits_if (outFits_round le_rfl ..) (outFits_round le_rfl ..)

theorem shflDef_fits : AluFits (shflDef w) 1 [fQP w] false := by
  refine ⟨le_rfl, fun _ hp => hp, fun l => outFits_if ?_ (outFits_error _)⟩
  split <;> exact outFits_pred ..
theorem pushDef_fits : AluFits (pushDef w) 1 [fQP w] false := by
  refine ⟨le_rfl, fun _ hp => hp, fun l => outFits_if ?_ (outFits_error _)⟩
  split <;> exact outFits_pred ..
theorem voteDef_fits : AluFits (voteDef w) 1 [fQP w] false := ⟨le_rfl, fun _ hp => hp, fun _ => outFits_pred ..⟩
theorem matchDef_fits : AluFits (matchDef w) 1 [fQP w] false := ⟨le_rfl, fun _ hp => hp, fun _ => outFits_pred ..⟩
theorem xredDef_fits : AluFits (xredDef w) 1 [] true :=
  .of_eval le_rfl rfl fun _ => outFits_if (outFits_flags le_rfl ..) (outFits_error _)
theorem xscanDef_fits : AluFits (xscanDef w) 1 [] true :=
  .of_eval le_rfl rfl fun _ => outFits_if (outFits_flags le_rfl ..) (outFits_error _)

end

/-! ### The frame -/

theorem mdF_low (w : TWord) : mdF w 0 4 = w.md.toNat % 16 := rfl

/-- Settles O56: each definition stays within what its entry names, and with it the instruction, whatever becomes of it. -/
theorem aluFrame : Obligations.AluFrame := by
  unfold Obligations.AluFrame
  intro d1 d2 d4 d0 no pd qp frame
  have of_fits {i : TWord → Instr} {sg : TWord → Sig} {d : TWord → AluDef} {n : TWord → Nat} {ps : TWord → List Nat} {rounds : Bool}
      {extra : TWord → List Nat} (he : ∀ w s, exec (i w) s = runThrum (sg w) w (extra w) (aluBody (d w)) s)
      (hfit : ∀ w, AluFits (d w) (n w) (ps w) rounds) : frame i sg d n ps rounds := by
    intro w s t h
    obtain ⟨hthread, hwg, hcore⟩ := runThrum_kept (hfit w) ((he w s).symm.trans h)
    refine ⟨fun r => ?_, hwg, fun c fn => congrFun (congrFun (congrArg Prod.fst hcore) c) fn,
      fun c a => congrArg (cget · a) (congrFun (congrArg Prod.snd hcore) c)⟩
    obtain ⟨hreg, hpred, hsame, henv, htrap⟩ := hthread r
    simp only [Prod.mk.injEq] at hsame henv htrap
    obtain ⟨hflags, hpend, htokens, hfpctl, habase, hst, hnregs⟩ := hsame
    exact ⟨hreg, hpred, hflags, hpend, htokens, hfpctl, habase, hst, hnregs, henv, htrap⟩
  have hqp (w : TWord) : [fQP w] = qp w := congrArg (fun q => [q]) (fQP_eq w)
  have hdcvt (w : TWord) : (if mdF w 0 4 = 7 then 2 else 1) = if w.md.toNat % 16 = 7 then 2 else 1 := by rw [mdF_low]
  exact ⟨of_fits (fun _ _ => rfl) fun w => intDef_fits w .., of_fits (fun _ _ => rfl) fun w => intDef_fits w ..,
    of_fits (fun _ _ => rfl) fun w => intDef_fits w .., of_fits (fun _ _ => rfl) fun _ => plainAlu_fits fun _ => le_rfl,
    of_fits (fun _ _ => rfl) fun w => intDef_fits w .., of_fits (fun _ _ => rfl) fun _ => plainAlu_fits fun _ => le_rfl,
    of_fits (fun _ _ => rfl) fun _ => plainAlu_fits fun _ => le_rfl, of_fits (fun _ _ => rfl) fun w => hqp w ▸ carryDef_fits w _,
    of_fits (fun _ _ => rfl) fun w => hqp w ▸ carryDef_fits w _, of_fits (fun _ _ => rfl) fun _ => plainAlu_fits fun _ => le_rfl,
    of_fits (fun _ _ => rfl) fun _ => plainAlu_fits fun _ => le_rfl, of_fits (fun _ _ => rfl) fun _ => plainAlu_fits fun _ => le_rfl,
    of_fits (fun _ _ => rfl) fun w => intDef_fits w .., of_fits (fun _ _ => rfl) fun _ => predAlu_fits fun _ _ => rfl,
    of_fits (fun _ _ => rfl) fun w => selDef_fits w, of_fits (fun _ _ => rfl) fun _ => logicDef_fits _,
    of_fits (fun _ _ => rfl) fun _ => logicDef_fits _, of_fits (fun _ _ => rfl) fun _ => logicDef_fits _,
    of_fits (fun _ _ => rfl) fun _ => logicDef_fits _, of_fits (fun _ _ => rfl) fun _ => logicDef_fits _,
    of_fits (fun _ _ => rfl) fun _ => logicDef_fits _, of_fits (fun _ _ => rfl) fun _ => logicDef_fits _,
    of_fits (fun _ _ => rfl) fun _ => logicDef_fits _, of_fits (fun _ _ => rfl) fun w => bfeDef_fits w,
    of_fits (fun _ _ => rfl) fun _ => bfiDef_fits, of_fits (fun _ _ => rfl) fun _ => countDef_fits _,
    of_fits (fun _ _ => rfl) fun _ => countDef_fits _, of_fits (fun _ _ => rfl) fun _ => countDef_fits _,
    of_fits (fun _ _ => rfl) fun _ => logicDef_fits _, of_fits (fun _ _ => rfl) fun w => movDef_fits w,
    of_fits (fun _ _ => rfl) fun _ => predAlu_fits fun _ _ => rfl, of_fits (fun _ _ => rfl) fun _ => countDef_fits _,
    of_fits (fun _ _ => rfl) fun w => r2pDef_fits w, of_fits (fun _ _ => rfl) fun w => f32Arith_fits w _,
    of_fits (fun _ _ => rfl) fun w => f32Arith_fits w _, of_fits (fun _ _ => rfl) fun w => f32Arith_fits w _,
    of_fits (fun _ _ => rfl) fun w => f32Arith_fits w _, of_fits (fun _ _ => rfl) fun w => f32MinMax_fits w _,
    of_fits (fun _ _ => rfl) fun w => f32MinMax_fits w _, of_fits (fun _ _ => rfl) fun w => fcmpDef_fits w,
    of_fits (fun _ _ => rfl) fun w => cvtDef_fits w, of_fits (fun _ _ => rfl) fun w => cvtnPackDef_fits w,
    of_fits (fun _ _ => rfl) fun w => cvtnUnpackDef_fits w, of_fits (fun _ _ => rfl) fun w => settagDef_fits w,
    of_fits (fun _ _ => rfl) fun _ => countDef_fits _, of_fits (fun _ _ => rfl) fun _ => plainAlu_fits fun _ => le_rfl,
    of_fits (fun _ _ => rfl) fun w => specialDef_fits w _, of_fits (fun _ _ => rfl) fun w => specialDef_fits w _,
    of_fits (fun _ _ => rfl) fun w => specialDef_fits w _, of_fits (fun _ _ => rfl) fun w => specialDef_fits w _,
    of_fits (fun _ _ => rfl) fun w => specialDef_fits w _, of_fits (fun _ _ => rfl) fun w => specialDef_fits w _,
    of_fits (fun _ _ => rfl) fun w => specialDef_fits w _, of_fits (fun _ _ => rfl) fun w => halfArith_fits w _,
    of_fits (fun _ _ => rfl) fun w => halfArith_fits w _, of_fits (fun _ _ => rfl) fun w => halfArith_fits w _,
    of_fits (fun _ _ => rfl) fun w => halfArith_fits w _, of_fits (fun _ _ => rfl) fun w => halfMinMax_fits w _,
    of_fits (fun _ _ => rfl) fun w => halfMinMax_fits w _, of_fits (fun _ _ => rfl) fun w => dp2bfDef_fits w,
    of_fits (fun _ _ => rfl) fun w => f64Arith_fits w _, of_fits (fun _ _ => rfl) fun w => f64Arith_fits w _,
    of_fits (fun _ _ => rfl) fun w => f64Arith_fits w _, of_fits (fun _ _ => rfl) fun w => f64Arith_fits w _,
    of_fits (fun _ _ => rfl) fun w => f64MinMax_fits w _, of_fits (fun _ _ => rfl) fun w => f64MinMax_fits w _,
    of_fits (fun _ _ => rfl) fun w => dcmpDef_fits w, of_fits (fun _ _ => rfl) fun w => hdcvt w ▸ dcvtDef_fits w,
    of_fits (fun _ _ => rfl) fun w => hqp w ▸ shflDef_fits w, of_fits (fun _ _ => rfl) fun w => hqp w ▸ pushDef_fits w,
    of_fits (fun _ _ => rfl) fun w => hqp w ▸ voteDef_fits w, of_fits (fun _ _ => rfl) fun w => hqp w ▸ matchDef_fits w,
    of_fits (fun _ _ => rfl) fun w => xredDef_fits w, of_fits (fun _ _ => rfl) fun w => xscanDef_fits w⟩

end Sys2Proof.Laws
end

section
/-! SUPPORT. The shading instructions complete: queries, parks, fills, invalidations and ticks (R209, R213, R217 to R222). These are the
clauses of O32, which itself stays open: it gives the queries of a `shq` the number that stood before their materials were read, the
model the number after those reads. The two differ where the read of a material of another device is lost and the error record takes a
number (R183, R398), and whether one is lost is said by `Config.podByte`, whose value no proof sees. -/

namespace Sys2Proof.Laws

open Sys2Proof.Machine Sys2Proof.Spec

section
variable {x : Ctx} {s s1 u : State}

/-! ### Queries and parks: a boundary, then the threads' steps at the controllers (R213, R218) -/

/-- The check that `shq` makes of a thread is the resolution of its key where the pair's tags are in INT (R212). -/
theorem answered_keys {ks : List (Nat × Resolved)} (htag : ∀ p ∈ x.active, x.keyTags p = true) (hk : answered x (x.resolve s) ks) :
    answered x (fun p => if x.keyTags p then x.resolve s p else .trap rkTag clsFormat 0) ks :=
  (List.map_congr_left fun p hp => congrArg (Prod.mk p.1) (if_pos (htag p hp))).trans hk

/-- Once the materials of the absent keys are read, every thread's query goes to its controller, under a number taken after those
reads. -/
theorem shqBody_eq {ks : List (Nat × Resolved)} {ms : List (Nat × Resolved × Option (Nat × W64 × Nat))}
    (htag : ∀ p ∈ x.active, x.keyTags p = true) (hk : answered x (x.resolve s) ks) (h : s.commit x.gid = .ok s1) :
    let t := (x.sawKeys (region x s1 x.next) ks).probes ks
    t.1.map (fun q => (q.1, x.needMaterial t.2 q)) = ms.map (fun q => (q.1, Answer.ok q.2)) →
    let u := x.sawMaterials t.2 (ms.filterMap (fun q => q.2.2.map (fun m => (q.1, m.1))))
    shqBody x s = .ok (ms.foldl (x.sendQuery u.nextId) u) := by
  intro t hm u
  rw [shqBody, settle_answers (answered_keys htag hk), boundary_region h]
  change keepProbes t.2 (x.settle t.2 (t.1.map fun q => (q.1, x.needMaterial t.2 q)) _) = _
  rw [hm, settle_of_answered]
  rfl

/-- The threads that find room park, once their earlier accesses have performed (R226). -/
theorem shparkBody_eq {qs : List (Nat × ParkReq)} (hq : answered x (x.parkReq s) qs) (h : s.commit x.gid = .ok s1) :
    let t := x.parkAll (x.sawKeys (region x s1 x.next) (qs.map (fun q => (q.1, q.2.r)))) qs
    (∀ i ∈ t.1, (region x s1 x.next).allDone (x.ref i) = true) → (t.2.endThreads x.wid t.1).taskSettle x.wid = some u →
    shparkBody x s = .jump ((u.modGroup x.gid (fun g => { g with pc := x.next })).loseThreads x.gid t.1) := by
  intro t hdone hu
  rw [shparkBody, settle_answers hq, boundary_region h]
  refine (if_pos (List.all_eq_true.2 hdone)).trans ?_
  simp only [t, hu]

/-! ### Fills, invalidations and ticks: releases, made once the threads are quiet (R219, R221, R222, R226) -/

/-- Every thread's entry is filled or dropped, and its predicate says whether. -/
theorem shfillBody_eq {drop : Bool} {qs : List (Nat × FillReq)} (hq : answered x (x.fillReq s) qs) (h : settled x s s1)
    (hpass : drop = false → ∀ q ∈ qs, (after x s1).passedQuery q.2.r = false) :
    shfillBody drop x s = .ok (qs.foldl (fun u q =>
      (u.fillOne drop q.2).2.modThread (x.ref q.1) (fun th => th.setPred x.w.d.toNat (u.fillOne drop q.2).1))
        (x.sawKeys (after x s1) (qs.map (fun q => (q.1, q.2.r))))) := by
  obtain ⟨hcommit, hquiet⟩ := h
  have hnone : ¬ (!drop && qs.any fun q => (after x s1).passedQuery q.2.r) = true := by
    cases drop with
    | true => exact Bool.false_ne_true
    | false => simpa using hpass rfl
  rw [shfillBody, settle_answers hq, waitDone_region hcommit hquiet]
  exact if_neg hnone

/-- Where the controllers have room for all ranges still to be recorded, no thread is left waiting. -/
theorem shinvBody_eq {gs : List (Nat × InvRange)} (hg : answered x (x.invReq s) gs) (h : settled x s s1)
    (hrec : (after x s1).recordRanges (gs.filter fun q => !x.g.signed.contains q.1) =
      ((gs.filter fun q => !x.g.signed.contains q.1).length, u)) :
    shinvBody x s = .ok (u.modGroup x.gid (fun g => { g with signed := [] })) := by
  obtain ⟨hcommit, hquiet⟩ := h
  have hrec' : (region x (region x s1 x.g.pc) x.next).recordRanges (gs.filter fun q => !x.g.signed.contains q.1) = _ := hrec
  rw [shinvBody, settle_answers hg, waitDone_region hcommit hquiet]
  simp only [hrec', if_true]

/-- Every executing thread ticks and takes the frame that its tick began. -/
theorem shtickBody_eq (ht : (s.fnb x.wg.fn).shade.tick = true) (h : settled x s s1) :
    shtickBody x s = .ok (x.active.foldl (fun u p =>
      u.tickFrame.modThread (x.ref p.1) (fun th => if x.w.d = 1023#10 then th else th.setReg x.w.d.toNat u.tickFrame.shade.frame 2))
      (after x s1)) := by
  obtain ⟨hcommit, hquiet⟩ := h
  have hallowed : answered x (fun _ => if (s.fnb x.wg.fn).shade.tick then Answer.ok () else .fault rkAllow 0 clsPerm 0)
      (x.active.map fun p => (p.1, ())) := by
    rw [answered, List.map_map, if_pos ht]
    rfl
  rw [shtickBody, settle_answers hallowed, waitDone_region hcommit hquiet, List.foldl_map]
  by_cases hd : x.w.d = 1023#10
  · have hdest : destOf x.w.d = none := if_pos hd
    simp only [hdest, if_pos hd, after]
  · have hdest : destOf x.w.d = some x.w.d.toNat := if_neg hd
    simp only [hdest, if_neg hd, after]

/-! ### The instructions -/

variable {w : TWord}

/-- `shq` (R213), its queries numbered after the reads of the materials. -/
theorem shq_completes {ks : List (Nat × Resolved)} {ms : List (Nat × Resolved × Option (Nat × W64 × Nat))}
    (hi : Issues (sigShq w) w [] s x) (htag : ∀ p ∈ x.active, tagOk p.2 w.a 2 (fun t => decide (t ≤ 2)) = true)
    (hk : answered x (x.resolve s) ks) (h : s.commit x.gid = .ok s1) :
    let t := (x.sawKeys (region x s1 x.next) ks).probes ks
    t.1.map (fun q => (q.1, x.needMaterial t.2 q)) = ms.map (fun q => (q.1, Answer.ok q.2)) →
    let u := x.sawMaterials t.2 (ms.filterMap (fun q => q.2.2.map (fun m => (q.1, m.1))))
    exec (.shq w) s = .next (moveOn x s (ms.foldl (x.sendQuery u.nextId) u)) := by
  intro t hm u
  obtain ⟨rfl, -⟩ := ctx?_word hi.ctx
  exact runThrum_ok hi (shqBody_eq htag hk h hm)

/-- `shpark` (R218). -/
theorem shpark_completes {qs : List (Nat × ParkReq)} (hi : Issues (sigShpark w) w [] s x) (hq : answered x (x.parkReq s) qs)
    (h : s.commit x.gid = .ok s1) :
    let t := x.parkAll (x.sawKeys (region x s1 x.next) (qs.map (fun q => (q.1, q.2.r)))) qs
    (∀ i ∈ t.1, (region x s1 x.next).allDone (x.ref i) = true) → (t.2.endThreads x.wid t.1).taskSettle x.wid = some u →
    exec (.shpark w) s = .next (depart x s ((u.modGroup x.gid (fun g => { g with pc := x.next })).loseThreads x.gid t.1)) :=
  fun hdone hu => runThrum_jump hi (shparkBody_eq hq h hdone hu)

/-- `shfill` and `shfill.drop` (R219). -/
theorem shfill_completes {drop : Bool} {qs : List (Nat × FillReq)}
    (hi : Issues (if drop then sigShfillDrop w else sigShfill w) w [] s x) (hq : answered x (x.fillReq s) qs) (h : settled x s s1)
    (hpass : drop = false → ∀ q ∈ qs, (after x s1).passedQuery q.2.r = false) :
    exec (if drop then .shfillDrop w else .shfill w) s = .next (moveOn x s (qs.foldl (fun u q =>
      (u.fillOne drop q.2).2.modThread (x.ref q.1) (fun th => th.setPred w.d.toNat (u.fillOne drop q.2).1))
        (x.sawKeys (after x s1) (qs.map (fun q => (q.1, q.2.r)))))) := by
  obtain ⟨rfl, -⟩ := ctx?_word hi.ctx
  cases drop with
  | true => exact runThrum_ok hi (shfillBody_eq hq h hpass)
  | false => exact runThrum_ok hi (shfillBody_eq hq h hpass)

/-- `shinv` (R221). -/
theorem shinv_completes {gs : List (Nat × InvRange)} (hi : Issues (sigShinv w) w [] s x) (hg : answered x (x.invReq s) gs)
    (h : settled x s s1) (hrec : (after x s1).recordRanges (gs.filter fun q => !x.g.signed.contains q.1) =
      ((gs.filter fun q => !x.g.signed.contains q.1).length, u)) :
    exec (.shinv w) s = .next (moveOn x s (u.modGroup x.gid (fun g => { g with signed := [] }))) :=
  runThrum_ok hi (shinvBody_eq hg h hrec)

/-- `shtick` (R222). -/
theorem shtick_completes (hi : Issues (sigShtick w) w [] s x) (ht : (s.fnb x.wg.fn).shade.tick = true) (h : settled x s s1) :
    exec (.shtick w) s = .next (moveOn x s (x.active.foldl (fun u p =>
      u.tickFrame.modThread (x.ref p.1) (fun th => if w.d = 1023#10 then th else th.setReg w.d.toNat u.tickFrame.shade.frame 2))
      (after x s1))) := by
  obtain ⟨rfl, -⟩ := ctx?_word hi.ctx
  exact runThrum_ok hi (shtickBody_eq ht h)

end

end Sys2Proof.Laws
end
